-- ==== Sys2Proof/Word.lean ====
section
/-! DEFINITION. The word types of the Yaroni Y6 (00_scope R7, 02_encoding R39, 15_vector R281). Fields of an encoded
word, sign extension and byte order are in Decode.lean and Machine/Bits.lean. -/

namespace Sys2Proof

/-- A byte of memory. -/
abbrev Byte := BitVec 8

/-- A 32-bit word: an op word, a literal, a vector lane, an FP32 code. -/
abbrev Word32 := BitVec 32

/-- A scalar register or a doubleword of memory. -/
abbrev Word64 := BitVec 64

/-- A primary vector register: 64 lanes of 32 bits, lane i in bits [32i + 31 : 32i] (R281). -/
abbrev VecWord := BitVec 2048

/-- A pawn short vector: 32 lanes of 32 bits (R281). -/
abbrev ShortVec := BitVec 1024

/-- A 6-bit register field of an op word (R29, R39). -/
abbrev Field6 := BitVec 6

/-- A cause code: 64 × class + 8 × subcause + unit (26_traps R399). -/
abbrev Cause := BitVec 9

/-- What the host does through its aperture: it reads or writes up to 64 bytes, or exchanges 8 bytes, always or only where they hold the value that
it expects (31_platform R428, 22_translation R364). -/
inductive HostOp where
  | read (n : Nat)
  | write (n : Nat)
  | exchange
  | compareExchange (expect : Word64)
deriving DecidableEq, Repr

end Sys2Proof
end

