-- ==== Sys2Proof/Config.lean ====
section
/-! DEFINITION. What the manual leaves open (log 5): constants without a body, so that nothing can be proved of their
values. A constant that takes a Nat is applied to the counter `State.free`, which the step that reads it advances. -/

namespace Sys2Proof.Config

/-- Whether a microsecond of the 100 MHz reference clock passes in a tick: the reference clock has no fixed relation to the die
clocks (R74, R125). -/
opaque microsecondPasses : Nat → Bool

/-- A number that a rule leaves to the implementation: the victim of an eviction (R188), the entry a TLB gives up (R357). -/
opaque freeChoice : Nat → Nat

/-- The estimate, in microjoules, of a context's energy in an interval, from coefficients calibrated at test (R378): by the
counter and the context. -/
opaque energy : Nat → Nat → Nat

/-- The op word that TARG receives for a refused fetch, where there is no op word (R394). -/
opaque fetchArg : Nat → BitVec 64

/-- Element i of another package's contribution to a collective (R182): the other package is no part of the machine. -/
opaque peerData : Nat → Nat → Nat → BitVec 32

/-- The ECDSA P-256 signature, r then s, of the device's key over a digest, with the nonce of the counter (R381, R386): no rule
gives the private key. -/
opaque signature : Nat → BitVec 256 → BitVec 512

/-- The digest of the transcript that an SPDM signature covers: the messages are the transport's, and no rule lays them down
(R382). -/
opaque transcript : Nat → BitVec 256

/-- The lowest address, in units of 16 bytes, of the stack region that the runtime gives a pawn thread: by context, launch
number, logical core index and thread (R112). -/
opaque stackBase : Nat → Nat → Nat → Nat → BitVec 52

/-- The signature block of a firmware image holds a signature of its body by the key whose hash is fused (R380). -/
opaque imageSigned : List Byte → BitVec 256 → Bool

/-- The second-tier channel that holds a line, which no rule states (R232, R418). -/
opaque channelOf : Nat → Nat

/-- A word of a core record where no rule lays down what stands in it (R405): by the counter and the word's number. -/
opaque recordWord : Nat → Nat → BitVec 64

end Sys2Proof.Config
end

