-- ==== Sys2Proof/Syntax.lean ====
section
/-! DEFINITION. The instructions of the Yaroni Y6: one constructor for each row of the opcode table.

The first part holds the steps that the table lists for agents other than a thread (landings, engines, the host,
resets), with what each carries. The second holds the op words (02_encoding R40): `k` is the switch marker of R38 and
stands on the rows a pawn stream may hold; the other fields are the bits of the word, each as wide as its layout gives
it. The last part holds the rows of either sort that carry nothing. -/

namespace Sys2Proof

/-- One step of the machine: an op word with its fields, or a step of another agent (95_what_each_step_holds). -/
inductive Instr where
  -- steps of the other agents, with what they carry
  /-- R65: A thread that left the rotation at a switch point or fence rejoins once its writes have landed and accesses are performed. -/
  | pawnSwitchRejoin (t : Nat)
  /-- R68: A waiting pawn local-memory access is granted a bank port and performed. -/
  | pawnLmGrant (t : Nat)
  /-- R147: The barrel's fetch of four op words for a thread is granted. -/
  | pawnFetch (t : Nat)
  /-- R88: A pawn eqw held in the push buffer is pushed when the command side has room. -/
  | pawnPushRetry (t : Nat)
  /-- R391: The primary enters its handler at a bundle boundary, holding pending user writes. -/
  | trapEntry (c : BitVec 9)
  /-- R395: A trapped pawn enters supervisor mode at TVEC once its outstanding accesses are done. -/
  | pawnTrapEntry (t : Nat)
  /-- R114: The driver writes a queue's doorbell, advancing its tail or being refused. -/
  | doorbell (slot : Nat) (q : Nat) (value : BitVec 32)
  /-- R116: A kind-1 command launches a kernel, checking its header. -/
  | launch (j : Nat)
  /-- R118: The master places a waiting launch on free clusters once they fit. -/
  | launchPlacement (j : Nat)
  /-- R127: Once every core is complete, pawn caches are written back and EVENT and DONE advance. -/
  | launchCompletion (j : Nat)
  /-- R185: A kind-2 command runs an engine copy on the master's distributor channel. -/
  | queueCopy (j : Nat)
  /-- R185: A kind-3 command runs a collective on the collective engine. -/
  | queueCollective (j : Nat)
  /-- R125: A kind-4 command writes an entry into a host ring, staying running while it is full. -/
  | hostNotification (j : Nat)
  /-- R124: A kind-5 command completes when a watched word reaches a value. -/
  | eventWait (j : Nat)
  /-- R124: The distributor re-reads an event-wait word on a write to its line or after 1 µs. -/
  | eventWaitRecheck (j : Nat)
  /-- R123: A kind-6 node compares a word and chooses successor set A or B. -/
  | conditional (j : Nat)
  /-- R121: A kind-7 command runs a graph of up to 4,096 records. -/
  | runGraph (j : Nat)
  /-- R122: A node starts once its predecessor count is reached, as an acquire at system scope. -/
  | graphNodeStart (g : Nat) (n : Nat)
  /-- R122: A node completes, releasing and counting towards its successors. -/
  | graphNodeCompletion (j : Nat)
  /-- R125: The oldest unsignalled entry has waited TIME, so entries are signalled and the vector raised. -/
  | hostRingTimeExpiry (h : Nat)
  /-- R126: The host advances a ring's HEAD, freeing room; a write beyond TAIL is ignored. -/
  | hrptrWrite (h : Nat) (head : BitVec 32)
  /-- R136: Setting LOCK makes FEATACC read-only until reset and lets the first launch proceed. -/
  | featlockWrite (v : BitVec 32)
  /-- R175: Copy-engine command copying a contiguous range. -/
  | copy (ch : Nat)
  /-- R175: Copy-engine command copying strided rows. -/
  | copy2d (ch : Nat)
  /-- R176: Copy-engine command splitting scaled units into data and scales in local memory. -/
  | split (ch : Nat)
  /-- R175: Copy-engine command gathering rows by index list. -/
  | gather (ch : Nat)
  /-- R175: Copy-engine command scattering rows by index list. -/
  | scatter (ch : Nat)
  /-- R175: Copy-engine command filling a range with a pattern. -/
  | fill (ch : Nat)
  /-- R175: Copy-engine command setting a core's write pointer. -/
  | wpset (ch : Nat)
  /-- R181: A command completes, releasing locks and pins and setting the pointer. -/
  | engineCommandCompletion (ch : Nat)
  /-- R181: A completion record is pushed to the submitter's part once it has room. -/
  | completionRecordPush (ch : Nat)
  /-- R240: An incomplete reply makes the collective engine re-issue the command, or abandon it after 8. -/
  | collectiveIncompleteReply (mask : BitVec 512)
  /-- R188: A line fetched from its home returns and the waiting load reads the merged line. -/
  | pawnCacheFill (t : Nat)
  /-- R193: An atomic request is performed at the line's home slice and its reply returned. -/
  | homeAtomic (t : Nat)
  /-- R193: An atomic's old value returns and lands in the thread's register. -/
  | atomicReply (t : Nat)
  /-- R198: The home slice acknowledges a global monitor registration. -/
  | monitorRegisterAck (t : Nat) (n : Nat)
  /-- R199: A write or slice notice records a hit on an armed monitor, waking a monwait. -/
  | monitorHit (loc : Bool) (line : Nat)
  /-- R200: A monwait's timeout in die ticks expires. -/
  | monwaitTimeout (t : Nat)
  /-- R203: An mbput deposit arrives and fills or is refused by the target mailbox. -/
  | mailboxDeposit (t : Nat) (sender : Nat) (word : BitVec 64)
  /-- R189: The acknowledgement of an mbput, ringput or callat returns and its predicate lands. -/
  | ackLanding (t : Nat) (ok : Bool)
  /-- R208: The ring unit performs one arriving ringput or ringget on a descriptor. -/
  | ringOperation (t : Nat)
  /-- R132: A callat entry arrives and is appended to the target's task queue. -/
  | taskEntryArrival (entry : BitVec 21) (arg0 : BitVec 64) (arg1 : BitVec 64) (arg2 : BitVec 64) (issuer : Nat) (anywhere : Bool)
  /-- R135: An rqclm removes the oldest row entry and its reply lands. -/
  | rowClaimReply (t : Nat)
  /-- R358: A walker completes a walk, filling the TLB, faulting or parking. -/
  | translationWalk (w : Nat)
  /-- R360: The driver asks the device to walk again for a waiting access. -/
  | fqrespWalkAgain (cx : Nat) (id : BitVec 32)
  /-- R360: The driver delivers a fault: the pawn traps or the command fails with status 2. -/
  | fqrespDeliver (cx : Nat) (id : BitVec 32)
  /-- R361: The driver starts an invalidation of a page, size or whole context. -/
  | tlbinv (va : BitVec 64) (c : BitVec 32)
  /-- R361: Invalidation that also writes back and invalidates pawn-cache lines of the pages. -/
  | tlbinvFlush (va : BitVec 64) (c : BitVec 32)
  /-- R214: Every 256 ticks a die sends its tick count to each linked die. -/
  | tickExchange (l : Nat)
  /-- R215: A neighbour's tick count arrives and is stamped and checked against the drift bound. -/
  | tickStamp (l : Nat) (count : BitVec 64)
  /-- R223: A sent value arrives at a receive latch and fills it or is refused. -/
  | portDeposit (vec : Bool) (port : Nat) (value : BitVec 2048) (sender : Nat) (far : Bool)
  /-- R130: Each distributor sends a heartbeat to every other every 10 µs. -/
  | heartbeat (die : Nat)
  /-- R130: Three missed heartbeats fence a die and elect a new master if needed. -/
  | heartbeatLoss (die : Nat)
  /-- R336: The deterministic move order visits a slot and commits, squashes or passes its chunk. -/
  | moveOrderVisit (t : Nat)
  /-- R400: A pre-emption request halts every core of the launch at a bundle boundary. -/
  | preemptionRequest (c : BitVec 9)
  /-- R408: Firmware places and restores a saved launch and its cores resume together. -/
  | contextRestore (j : Nat)
  /-- R371: The driver makes a context resident in a slot. -/
  | ctxslotWrite (slot : Nat) (v : BitVec 64)
  /-- R372: The driver starts eviction of a slot's context. -/
  | ctxslotEvict (slot : Nat)
  /-- R372: After pre-emption and write-back, VALID and EVICT clear. -/
  | evictionCompletion (slot : Nat)
  /-- R397: The driver posts a supervisor interrupt word to a core. -/
  | sintrWrite (n : Nat) (word : BitVec 64)
  /-- R378: At each 1 ms boundary energy is reconciled and the accounting snapshot published. -/
  | accountingBoundary (emeas : Nat) (idle : Nat)
  /-- R378: The driver clears a context's accounting entry at the next boundary. -/
  | acctclr (cx : Nat)
  /-- R379: An MCTP type 0x7E request returns entries of the last snapshot. -/
  | accountingReadout (first : Nat) (count : Nat)
  /-- R382: SPDM request for the certificate chain. -/
  | getCertificate (off : Nat) (len : Nat)
  /-- R382: SPDM challenge signed with the identity key. -/
  | challenge (nonce : BitVec 256)
  /-- R383: SPDM request for measurement blocks, a quote for manifest indices. -/
  | getMeasurements (idx : Nat) (nonce : Option (BitVec 256))
  /-- R382: Any other SPDM request receives ERROR UnsupportedRequest. -/
  | unsupportedSpdmRequest (code : BitVec 8)
  /-- R386: Writing START takes a quote request for a manifest block. -/
  | quoteStart (v : BitVec 64)
  /-- R416: Each store reads every codeword once per SCRUBPER period. -/
  | patrolScrub (store : Nat) (addr : Nat) (uncorr : Bool)
  /-- R417: A targeted self-test reaches its verdict: soft error, repair or fence. -/
  | selfTestVerdict (store : Nat) (die : Nat) (unit : Nat) (verdict : Nat)
  /-- R418: A link that does not retrain within 100 µs fences the higher-numbered die. -/
  | linkRetrainTimeout (l : Nat)
  /-- R423: The driver requests a debug halt of a cluster. -/
  | dbgHaltreq (g : Nat)
  /-- R423: The driver resumes a halted cluster. -/
  | dbgResume (g : Nat)
  /-- R422: A bundle at a breakpoint address is presented and halts the cluster or traps. -/
  | breakpointHit (n : Nat)
  /-- R422: An access in a watched range halts the cluster or traps. -/
  | watchpointHit (n : Nat) (pawn : Bool) (t : Nat) (addr : Nat)
  /-- R423: A halt elsewhere with XOUT set reaches another cluster of the launch. -/
  | crossTriggerHalt (g : Nat)
  /-- R427: Starting a dump pre-empts the context, marks pages copy-on-write and resumes it. -/
  | dumpStart (v : BitVec 64)
  /-- R8: A write to a device or control register that has no row of its own, under its access kind. -/
  | registerWrite (off : Nat) (value : BitVec 64)
  /-- R428: The host reads or writes device physical memory through the BAR2 aperture, as the driver does for page tables, queue tables, records and migration swaps. -/
  | hostApertureAccess (op : HostOp) (pa : Nat) (data : BitVec 512)
  /-- R199: A write from a scale-up or scale-out peer arrives at device memory and is performed at its home slice, notifying monitors on the line. -/
  | fabricWrite (pa : Nat) (data : BitVec 64)
  /-- R238: The fabric manager changes the read-only plane mask, changing the live plane count P that maps collective chunks to planes. -/
  | planeMaskChange (mask : BitVec 18)
  /-- R431: The 50 V input crosses 46 V, so the power manager enters or leaves hold-up granting, and the input's return ends the undervoltage reset hold. -/
  | inputVoltageChange (mv : BitVec 16)
  -- op words
  /-- R33: The all-zero word, or the pawn no-operation with k set, does nothing; in a pawn stream it is resolved in the barrel front end. -/
  | nop (k : Bool)
  /-- R80: Unconditional branch to PC plus imm times the unit; on the primary the delay bundle issues first. -/
  | br (k : Bool) (i : BitVec 13)
  /-- R80: Branches when predicate bN is 1. -/
  | brT (k : Bool) (p : BitVec 4) (i : BitVec 13)
  /-- R80: Branches when predicate bN is 0. -/
  | brF (k : Bool) (p : BitVec 4) (i : BitVec 13)
  /-- R83: Sets up hardware loop level N over a body of bundles with count s[A], or skips the body when the count is zero. -/
  | loop (n : BitVec 1) (a : BitVec 6) (i : BitVec 13)
  /-- R81: PC-relative call that writes the link register. -/
  | call (k : Bool) (l : BitVec 5) (i : BitVec 13)
  /-- R81: Register-indirect call to register A plus imm times the unit, writing the link. -/
  | calli (k : Bool) (l : BitVec 5) (a : BitVec 6) (i : BitVec 13)
  /-- R81: Register jump without link; ret is jr with imm 0. -/
  | jr (k : Bool) (a : BitVec 6) (i : BitVec 13)
  /-- R86: Freezes the core until a watched local-memory doubleword equals s[B], then issues the bundle. -/
  | holdEq (a : BitVec 6) (b : BitVec 6)
  /-- R86: Waits until a watched local-memory doubleword differs from s[B]. -/
  | holdNe (a : BitVec 6) (b : BitVec 6)
  /-- R86: Waits until a watched local-memory doubleword is signed below s[B]. -/
  | holdLt (a : BitVec 6) (b : BitVec 6)
  /-- R86: Waits until a watched local-memory doubleword is signed at or above s[B]. -/
  | holdGe (a : BitVec 6) (b : BitVec 6)
  /-- R86: Waits until a watched local-memory doubleword is unsigned below s[B]. -/
  | holdLtu (a : BitVec 6) (b : BitVec 6)
  /-- R86: Waits until a watched local-memory doubleword is unsigned at or above s[B]. -/
  | holdGeu (a : BitVec 6) (b : BitVec 6)
  /-- R86: Waits until write pointer wp0 or wp1 equals s[B]. -/
  | holdEqWp (w : BitVec 1) (b : BitVec 6)
  /-- R86: Waits until a write pointer differs from s[B]. -/
  | holdNeWp (w : BitVec 1) (b : BitVec 6)
  /-- R86: Waits until a write pointer is signed below s[B]. -/
  | holdLtWp (w : BitVec 1) (b : BitVec 6)
  /-- R86: Waits until a write pointer is signed at or above s[B]. -/
  | holdGeWp (w : BitVec 1) (b : BitVec 6)
  /-- R86: Waits until a write pointer is unsigned below s[B]. -/
  | holdLtuWp (w : BitVec 1) (b : BitVec 6)
  /-- R86: Waits until a write pointer is unsigned at or above s[B], ordering later reads after the engine's writes below it. -/
  | holdGeuWp (w : BitVec 1) (b : BitVec 6)
  /-- R219: Freezes until phase 3 of beat s[A] on a settled die, then issues and makes the core phase-valid, or traps tempo-late. -/
  | tempo (a : BitVec 6)
  /-- R88: Pushes s[A] as the next word of the issuer's command on engine queue register eN, submitting the command at its last word. -/
  | eqw (k : Bool) (e : BitVec 6) (a : BitVec 6)
  /-- R88: Pops the oldest completion record of the issuer's part of eN into s[D]. -/
  | eqr (k : Bool) (d : BitVec 6) (e : BitVec 6)
  /-- R88: Returns the issuer's free command entries and waiting completion records of eN. -/
  | eqcnt (k : Bool) (d : BitVec 6) (e : BitVec 6)
  /-- R92: Traps to supervisor code with s[A] as argument after the bundle or op. -/
  | trap (k : Bool) (a : BitVec 6)
  /-- R92: Breakpoint: a debug halt when breaks are enabled, otherwise a trap. -/
  | brk (k : Bool)
  /-- R392: Returns from a trap to TPC in the saved mode, landing held writes at their original cycles. -/
  | sret (k : Bool)
  /-- R94: Ends the issuing thread. -/
  | exit (k : Bool)
  /-- R164: Release and acquire at core scope. -/
  | fenceCore (k : Bool)
  /-- R164: Release and acquire at cluster scope. -/
  | fenceClus (k : Bool)
  /-- R164: Release and acquire at die scope. -/
  | fenceDie (k : Bool)
  /-- R164: Release and acquire at package scope. -/
  | fencePkg (k : Bool)
  /-- R164: Release and acquire at system scope. -/
  | fenceSys (k : Bool)
  /-- R166: Fence at core scope that also orders later engine pushes after it. -/
  | xfenceCore (k : Bool)
  /-- R166: Cross-path fence at cluster scope. -/
  | xfenceClus (k : Bool)
  /-- R166: Cross-path fence at die scope. -/
  | xfenceDie (k : Bool)
  /-- R166: Cross-path fence at package scope. -/
  | xfencePkg (k : Bool)
  /-- R166: Cross-path fence at system scope. -/
  | xfenceSys (k : Bool)
  /-- R89: Reads a control register into register d. -/
  | csrr (k : Bool) (d : BitVec 6) (c : BitVec 12)
  /-- R89: Writes register a to a control register, effective from c + 2. -/
  | csrw (k : Bool) (a : BitVec 6) (c : BitVec 12)
  /-- R95: 64-bit wrapping add. -/
  | add (k : Bool) (d : BitVec 6) (a : BitVec 6) (b : BitVec 6)
  /-- R95: 64-bit wrapping subtract. -/
  | sub (k : Bool) (d : BitVec 6) (a : BitVec 6) (b : BitVec 6)
  /-- R95: Bitwise and. -/
  | and (k : Bool) (d : BitVec 6) (a : BitVec 6) (b : BitVec 6)
  /-- R95: Bitwise or. -/
  | or (k : Bool) (d : BitVec 6) (a : BitVec 6) (b : BitVec 6)
  /-- R95: Bitwise exclusive or. -/
  | xor (k : Bool) (d : BitVec 6) (a : BitVec 6) (b : BitVec 6)
  /-- R95: a AND NOT b. -/
  | andn (k : Bool) (d : BitVec 6) (a : BitVec 6) (b : BitVec 6)
  /-- R95: Signed minimum. -/
  | min (k : Bool) (d : BitVec 6) (a : BitVec 6) (b : BitVec 6)
  /-- R95: Signed maximum. -/
  | max (k : Bool) (d : BitVec 6) (a : BitVec 6) (b : BitVec 6)
  /-- R95: Unsigned minimum. -/
  | minu (k : Bool) (d : BitVec 6) (a : BitVec 6) (b : BitVec 6)
  /-- R95: Unsigned maximum. -/
  | maxu (k : Bool) (d : BitVec 6) (a : BitVec 6) (b : BitVec 6)
  /-- R95: 32-bit add, sign-extended. -/
  | addw (k : Bool) (d : BitVec 6) (a : BitVec 6) (b : BitVec 6)
  /-- R95: 32-bit subtract, sign-extended. -/
  | subw (k : Bool) (d : BitVec 6) (a : BitVec 6) (b : BitVec 6)
  /-- R95: Copies register a to d. -/
  | mov (k : Bool) (d : BitVec 6) (a : BitVec 6)
  /-- R96: Adds a sign-extended immediate. -/
  | addi (k : Bool) (d : BitVec 6) (a : BitVec 6) (i : BitVec 13)
  /-- R96: Ands with a sign-extended immediate. -/
  | andi (k : Bool) (d : BitVec 6) (a : BitVec 6) (i : BitVec 13)
  /-- R96: Ors with an immediate. -/
  | ori (k : Bool) (d : BitVec 6) (a : BitVec 6) (i : BitVec 13)
  /-- R96: Loads an immediate shifted left by 13, or a literal shifted by 32. -/
  | lui (k : Bool) (d : BitVec 6) (i : BitVec 13)
  /-- R97: Sets bD when s[A] equals s[B]. -/
  | cmpEq (k : Bool) (d : BitVec 6) (a : BitVec 6) (b : BitVec 6)
  /-- R97: Sets bD when s[A] differs from s[B]. -/
  | cmpNe (k : Bool) (d : BitVec 6) (a : BitVec 6) (b : BitVec 6)
  /-- R97: Signed less-than compare into a predicate. -/
  | cmpLt (k : Bool) (d : BitVec 6) (a : BitVec 6) (b : BitVec 6)
  /-- R97: Signed greater-or-equal compare into a predicate. -/
  | cmpGe (k : Bool) (d : BitVec 6) (a : BitVec 6) (b : BitVec 6)
  /-- R97: Unsigned less-than compare into a predicate. -/
  | cmpLtu (k : Bool) (d : BitVec 6) (a : BitVec 6) (b : BitVec 6)
  /-- R97: Unsigned greater-or-equal compare into a predicate. -/
  | cmpGeu (k : Bool) (d : BitVec 6) (a : BitVec 6) (b : BitVec 6)
  /-- R97: Predicate and. -/
  | pand (k : Bool) (d : BitVec 6) (a : BitVec 6) (b : BitVec 6)
  /-- R97: Predicate or. -/
  | por (k : Bool) (d : BitVec 6) (a : BitVec 6) (b : BitVec 6)
  /-- R97: Predicate exclusive or. -/
  | pxor (k : Bool) (d : BitVec 6) (a : BitVec 6) (b : BitVec 6)
  /-- R97: Predicate and-not. -/
  | pandn (k : Bool) (d : BitVec 6) (a : BitVec 6) (b : BitVec 6)
  /-- R97: Predicate not. -/
  | pnot (k : Bool) (d : BitVec 6) (a : BitVec 6)
  /-- R98: Sets a predicate when s[A] equals the immediate. -/
  | cmpiEq (k : Bool) (p : BitVec 4) (a : BitVec 6) (i : BitVec 13)
  /-- R98: Sets a predicate when s[A] differs from the immediate. -/
  | cmpiNe (k : Bool) (p : BitVec 4) (a : BitVec 6) (i : BitVec 13)
  /-- R98: Signed less-than against the immediate. -/
  | cmpiLt (k : Bool) (p : BitVec 4) (a : BitVec 6) (i : BitVec 13)
  /-- R98: Signed greater-or-equal against the immediate. -/
  | cmpiGe (k : Bool) (p : BitVec 4) (a : BitVec 6) (i : BitVec 13)
  /-- R99: Shift left by s[B][5:0]. -/
  | shl (k : Bool) (d : BitVec 6) (a : BitVec 6) (b : BitVec 6)
  /-- R99: Logical shift right. -/
  | shr (k : Bool) (d : BitVec 6) (a : BitVec 6) (b : BitVec 6)
  /-- R99: Arithmetic shift right. -/
  | sar (k : Bool) (d : BitVec 6) (a : BitVec 6) (b : BitVec 6)
  /-- R99: Rotate left. -/
  | rotl (k : Bool) (d : BitVec 6) (a : BitVec 6) (b : BitVec 6)
  /-- R99: Rotate right. -/
  | rotr (k : Bool) (d : BitVec 6) (a : BitVec 6) (b : BitVec 6)
  /-- R99: Counts leading zero bits. -/
  | clz (k : Bool) (d : BitVec 6) (a : BitVec 6)
  /-- R99: Counts trailing zero bits. -/
  | ctz (k : Bool) (d : BitVec 6) (a : BitVec 6)
  /-- R99: Counts set bits. -/
  | popc (k : Bool) (d : BitVec 6) (a : BitVec 6)
  /-- R99: Reverses the eight bytes. -/
  | bswap (k : Bool) (d : BitVec 6) (a : BitVec 6)
  /-- R99: Signed bit-field extract. -/
  | bfx (k : Bool) (d : BitVec 6) (a : BitVec 6) (b : BitVec 6)
  /-- R99: Unsigned bit-field extract. -/
  | bfxu (k : Bool) (d : BitVec 6) (a : BitVec 6) (b : BitVec 6)
  /-- R99: Bit-field insert into d. -/
  | bfi (k : Bool) (d : BitVec 6) (a : BitVec 6) (b : BitVec 6)
  /-- R100: Shift left by an immediate. -/
  | shli (k : Bool) (d : BitVec 6) (a : BitVec 6) (n : BitVec 6)
  /-- R100: Logical shift right by an immediate. -/
  | shri (k : Bool) (d : BitVec 6) (a : BitVec 6) (n : BitVec 6)
  /-- R100: Arithmetic shift right by an immediate. -/
  | sari (k : Bool) (d : BitVec 6) (a : BitVec 6) (n : BitVec 6)
  /-- R100: Rotate left by an immediate. -/
  | rotli (k : Bool) (d : BitVec 6) (a : BitVec 6) (n : BitVec 6)
  /-- R101: Low 64 bits of the product. -/
  | mul (k : Bool) (d : BitVec 6) (a : BitVec 6) (b : BitVec 6)
  /-- R101: High 64 bits of the signed product. -/
  | mulh (k : Bool) (d : BitVec 6) (a : BitVec 6) (b : BitVec 6)
  /-- R101: High 64 bits of the unsigned product. -/
  | mulhu (k : Bool) (d : BitVec 6) (a : BitVec 6) (b : BitVec 6)
  /-- R101: 32-bit product, sign-extended. -/
  | mulw (k : Bool) (d : BitVec 6) (a : BitVec 6) (b : BitVec 6)
  /-- R102: Signed quotient, with fixed edge cases and an optional divide trap. -/
  | div (k : Bool) (d : BitVec 6) (a : BitVec 6) (b : BitVec 6)
  /-- R102: Unsigned quotient. -/
  | divu (k : Bool) (d : BitVec 6) (a : BitVec 6) (b : BitVec 6)
  /-- R102: Signed remainder. -/
  | rem (k : Bool) (d : BitVec 6) (a : BitVec 6) (b : BitVec 6)
  /-- R102: Unsigned remainder. -/
  | remu (k : Bool) (d : BitVec 6) (a : BitVec 6) (b : BitVec 6)
  /-- R286: Scalar FP32 add with rounding mode. -/
  | fadd (k : Bool) (d : BitVec 6) (a : BitVec 6) (b : BitVec 6) (r : BitVec 3)
  /-- R286: Scalar FP32 subtract. -/
  | fsub (k : Bool) (d : BitVec 6) (a : BitVec 6) (b : BitVec 6) (r : BitVec 3)
  /-- R286: Scalar FP32 multiply. -/
  | fmul (k : Bool) (d : BitVec 6) (a : BitVec 6) (b : BitVec 6) (r : BitVec 3)
  /-- R286: Scalar FP32 divide. -/
  | fdiv (k : Bool) (d : BitVec 6) (a : BitVec 6) (b : BitVec 6) (r : BitVec 3)
  /-- R286: Scalar FP32 square root. -/
  | fsqrt (k : Bool) (d : BitVec 6) (a : BitVec 6) (r : BitVec 3)
  /-- R287: Scalar FP32 minimum. -/
  | fmin (k : Bool) (d : BitVec 6) (a : BitVec 6) (b : BitVec 6)
  /-- R287: Scalar FP32 maximum. -/
  | fmax (k : Bool) (d : BitVec 6) (a : BitVec 6) (b : BitVec 6)
  /-- R287: Scalar FP32 absolute value. -/
  | fabs (k : Bool) (d : BitVec 6) (a : BitVec 6)
  /-- R287: Scalar FP32 negation. -/
  | fneg (k : Bool) (d : BitVec 6) (a : BitVec 6)
  /-- R287: FP32 equality compare into a predicate. -/
  | fcmpEq (k : Bool) (d : BitVec 6) (a : BitVec 6) (b : BitVec 6)
  /-- R287: FP32 less-than compare into a predicate. -/
  | fcmpLt (k : Bool) (d : BitVec 6) (a : BitVec 6) (b : BitVec 6)
  /-- R287: FP32 less-or-equal compare into a predicate. -/
  | fcmpLe (k : Bool) (d : BitVec 6) (a : BitVec 6) (b : BitVec 6)
  /-- R287: Sets a predicate when either operand is a NaN. -/
  | fcmpUn (k : Bool) (d : BitVec 6) (a : BitVec 6) (b : BitVec 6)
  /-- R288: Signed 64-bit integer to FP32. -/
  | cvtFI (k : Bool) (d : BitVec 6) (a : BitVec 6) (r : BitVec 3)
  /-- R288: Unsigned 64-bit integer to FP32. -/
  | cvtFU (k : Bool) (d : BitVec 6) (a : BitVec 6) (r : BitVec 3)
  /-- R288: FP32 to signed 64-bit integer, saturating. -/
  | cvtIF (k : Bool) (d : BitVec 6) (a : BitVec 6) (r : BitVec 3)
  /-- R288: FP32 to unsigned 64-bit integer, saturating. -/
  | cvtUF (k : Bool) (d : BitVec 6) (a : BitVec 6) (r : BitVec 3)
  /-- R288: FP32 to BF16. -/
  | cvtBfF (k : Bool) (d : BitVec 6) (a : BitVec 6) (r : BitVec 3)
  /-- R288: FP32 to FP16. -/
  | cvtHF (k : Bool) (d : BitVec 6) (a : BitVec 6) (r : BitVec 3)
  /-- R288: BF16 to FP32, exactly. -/
  | cvtFBf (k : Bool) (d : BitVec 6) (a : BitVec 6)
  /-- R288: FP16 to FP32, exactly. -/
  | cvtFH (k : Bool) (d : BitVec 6) (a : BitVec 6)
  /-- R103: Writes index base ibD from s[A][5:0], effective from c + 2. -/
  | ibw (d : BitVec 6) (a : BitVec 6)
  /-- R103: Reads index base ibA into s[D]. -/
  | ibr (d : BitVec 6) (a : BitVec 6)
  /-- R103: Packs the predicates into a scalar register. -/
  | ppack (k : Bool) (d : BitVec 6)
  /-- R103: Unpacks a scalar register into the predicates. -/
  | punpk (k : Bool) (a : BitVec 6)
  /-- R103: Selects s[A] or s[B] by predicate bP. -/
  | sel (k : Bool) (d : BitVec 6) (a : BitVec 6) (b : BitVec 6) (p : BitVec 4)
  /-- R104: Loads constant-window word n of the issuing core. -/
  | cwld (k : Bool) (d : BitVec 6) (n : BitVec 8)
  /-- R148: Loads a sign-extended byte from local memory. -/
  | ldb (k : Bool) (d : BitVec 6) (a : BitVec 6) (o : BitVec 10)
  /-- R148: Loads a zero-extended byte. -/
  | ldbu (k : Bool) (d : BitVec 6) (a : BitVec 6) (o : BitVec 10)
  /-- R148: Loads a sign-extended halfword. -/
  | ldh (k : Bool) (d : BitVec 6) (a : BitVec 6) (o : BitVec 10)
  /-- R148: Loads a zero-extended halfword. -/
  | ldhu (k : Bool) (d : BitVec 6) (a : BitVec 6) (o : BitVec 10)
  /-- R148: Loads a sign-extended word. -/
  | ldw (k : Bool) (d : BitVec 6) (a : BitVec 6) (o : BitVec 10)
  /-- R148: Loads a zero-extended word. -/
  | ldwu (k : Bool) (d : BitVec 6) (a : BitVec 6) (o : BitVec 10)
  /-- R148: Loads a doubleword. -/
  | ld (k : Bool) (d : BitVec 6) (a : BitVec 6) (o : BitVec 10)
  /-- R148: Stores a byte to local memory. -/
  | stb (k : Bool) (d : BitVec 6) (a : BitVec 6) (o : BitVec 10)
  /-- R148: Stores a halfword. -/
  | sth (k : Bool) (d : BitVec 6) (a : BitVec 6) (o : BitVec 10)
  /-- R148: Stores a word. -/
  | stw (k : Bool) (d : BitVec 6) (a : BitVec 6) (o : BitVec 10)
  /-- R148: Stores a doubleword. -/
  | st (k : Bool) (d : BitVec 6) (a : BitVec 6) (o : BitVec 10)
  /-- R149: Loads 64 lanes of 32 bits from local memory. -/
  | vld (d : BitVec 6) (a : BitVec 6) (o : BitVec 10)
  /-- R149: Stores 64 lanes of 32 bits to local memory. -/
  | vst (d : BitVec 6) (a : BitVec 6) (o : BitVec 10)
  /-- R149: Loads halfwords zero-extended into lanes. -/
  | vldh (k : Bool) (d : BitVec 6) (a : BitVec 6) (o : BitVec 10)
  /-- R149: Stores the low halves of the lanes. -/
  | vsth (k : Bool) (d : BitVec 6) (a : BitVec 6) (o : BitVec 10)
  /-- R149: Loads bytes zero-extended into lanes. -/
  | vldb (k : Bool) (d : BitVec 6) (a : BitVec 6) (o : BitVec 10)
  /-- R150: Queues a background load of a 2,048-byte tile from local memory. -/
  | tld (t : BitVec 4) (a : BitVec 6)
  /-- R150: Queues a tile load that binds the tile to scale register zZ when it completes. -/
  | tldBind (t : BitVec 4) (a : BitVec 6) (z : BitVec 5)
  /-- R150: Queues a background store of a tile to local memory. -/
  | tst (t : BitVec 4) (a : BitVec 6)
  /-- R152: Gathers words from local memory by index vector. -/
  | vgathW (k : Bool) (d : BitVec 6) (a : BitVec 6) (b : BitVec 6)
  /-- R152: Gathers halfwords. -/
  | vgathH (k : Bool) (d : BitVec 6) (a : BitVec 6) (b : BitVec 6)
  /-- R152: Gathers bytes. -/
  | vgathB (k : Bool) (d : BitVec 6) (a : BitVec 6) (b : BitVec 6)
  /-- R152: Scatters words to local memory by index vector. -/
  | vscatW (k : Bool) (d : BitVec 6) (a : BitVec 6) (b : BitVec 6)
  /-- R152: Scatters halfwords. -/
  | vscatH (k : Bool) (d : BitVec 6) (a : BitVec 6) (b : BitVec 6)
  /-- R152: Scatters bytes. -/
  | vscatB (k : Bool) (d : BitVec 6) (a : BitVec 6) (b : BitVec 6)
  /-- R153: Atomic add in a local-memory read-modify-write window. -/
  | lmadd (k : Bool) (d : BitVec 6) (a : BitVec 6) (b : BitVec 6)
  /-- R153: Atomic exchange in local memory. -/
  | lmxchg (k : Bool) (d : BitVec 6) (a : BitVec 6) (b : BitVec 6)
  /-- R153: Atomic compare-and-swap in local memory. -/
  | lmcas (k : Bool) (d : BitVec 6) (a : BitVec 6) (b : BitVec 6)
  /-- R153: Atomic signed minimum in local memory. -/
  | lmmin (k : Bool) (d : BitVec 6) (a : BitVec 6) (b : BitVec 6)
  /-- R153: Atomic signed maximum in local memory. -/
  | lmmax (k : Bool) (d : BitVec 6) (a : BitVec 6) (b : BitVec 6)
  /-- R153: Atomic and in local memory. -/
  | lmand (k : Bool) (d : BitVec 6) (a : BitVec 6) (b : BitVec 6)
  /-- R153: Atomic or in local memory. -/
  | lmor (k : Bool) (d : BitVec 6) (a : BitVec 6) (b : BitVec 6)
  /-- R154: Stores a flag doubleword as a core-scope release. -/
  | flrel (k : Bool) (d : BitVec 6) (a : BitVec 6)
  /-- R154: Loads a flag doubleword as a core-scope acquire. -/
  | flacq (k : Bool) (d : BitVec 6) (a : BitVec 6)
  /-- R155: Loads a doubleword from a core of the issuer's cluster. -/
  | rld (k : Bool) (d : BitVec 6) (a : BitVec 6)
  /-- R155: Stores a doubleword to a core of the issuer's cluster. -/
  | rst (k : Bool) (d : BitVec 6) (a : BitVec 6)
  /-- R155: Loads a vector from a core of the cluster. -/
  | rvld (k : Bool) (d : BitVec 6) (a : BitVec 6)
  /-- R155: Stores a vector to a core of the cluster. -/
  | rvst (k : Bool) (d : BitVec 6) (a : BitVec 6)
  /-- R155: Appends s[A] to the die's row queue. -/
  | rqput (k : Bool) (a : BitVec 6)
  /-- R273: Loads groups of 64 scale entries from local memory into a scale register. -/
  | zld (f : BitVec 1) (z : BitVec 5) (a : BitVec 6) (n : BitVec 3) (g : BitVec 3)
  /-- R273: Stores groups of scale entries to local memory. -/
  | zst (z : BitVec 5) (a : BitVec 6) (n : BitVec 3) (g : BitVec 3)
  /-- R274: Binds a tile's tag to a scale register at a base. -/
  | zbind (t : BitVec 6) (z : BitVec 6) (g : BitVec 3)
  /-- R274: Unbinds a tile's tag. -/
  | zbindNone (t : BitVec 6)
  /-- R274: Binds a weight slot's tag to a scale register. -/
  | zbindw (w : BitVec 6) (z : BitVec 6) (g : BitVec 3)
  /-- R275: Reads a scale register's generation and format. -/
  | zgenZ (d : BitVec 6) (z : BitVec 6)
  /-- R275: Reads a tile's binding tag. -/
  | zgenT (d : BitVec 6) (t : BitVec 6)
  /-- R275: Reads a weight slot's binding tag. -/
  | zgenW (d : BitVec 6) (w : BitVec 6)
  /-- R276: Multiplies every scale entry by 2^k. -/
  | zmul (z : BitVec 5) (a : BitVec 6) (b : BitVec 6) (p : BitVec 1)
  /-- R276: Adds per-entry exponent deltas to scale entries. -/
  | zadde (z : BitVec 5) (a : BitVec 6) (b : BitVec 6) (p : BitVec 1)
  /-- R276: Entrywise maximum of two scale registers. -/
  | zmax (z : BitVec 5) (a : BitVec 6) (b : BitVec 6) (p : BitVec 1)
  /-- R276: Converts scale entries to another scale format. -/
  | zcvt (f : BitVec 1) (z : BitVec 5) (a : BitVec 6) (p : BitVec 1)
  /-- R276: Fills every scale entry with one code. -/
  | zfill (f : BitVec 1) (z : BitVec 5) (a : BitVec 6) (p : BitVec 1)
  /-- R276: Copies a scale register. -/
  | zmov (z : BitVec 5) (a : BitVec 6) (p : BitVec 1)
  /-- R278: Returns the greatest scale code of a range of groups and its index. -/
  | zamax (d : BitVec 6) (a : BitVec 6) (n : BitVec 3) (g : BitVec 3)
  /-- R289: Lanewise FP32 add. -/
  | vadd (k : Bool) (d : BitVec 6) (a : BitVec 6) (b : BitVec 6) (r : BitVec 3)
  /-- R289: Lanewise FP32 subtract. -/
  | vsub (k : Bool) (d : BitVec 6) (a : BitVec 6) (b : BitVec 6) (r : BitVec 3)
  /-- R289: Lanewise FP32 multiply. -/
  | vmul (k : Bool) (d : BitVec 6) (a : BitVec 6) (b : BitVec 6) (r : BitVec 3)
  /-- R289: Lanewise FP32 divide. -/
  | vdiv (k : Bool) (d : BitVec 6) (a : BitVec 6) (b : BitVec 6) (r : BitVec 3)
  /-- R289: Lanewise FP32 minimum. -/
  | vmin (k : Bool) (d : BitVec 6) (a : BitVec 6) (b : BitVec 6)
  /-- R289: Lanewise FP32 maximum. -/
  | vmax (k : Bool) (d : BitVec 6) (a : BitVec 6) (b : BitVec 6)
  /-- R289: Lanewise FP32 absolute value. -/
  | vabs (k : Bool) (d : BitVec 6) (a : BitVec 6)
  /-- R289: Lanewise FP32 negation. -/
  | vneg (k : Bool) (d : BitVec 6) (a : BitVec 6)
  /-- R289: Lanewise FP32 square root. -/
  | vsqrt (k : Bool) (d : BitVec 6) (a : BitVec 6) (r : BitVec 3)
  /-- R290: Fused a × b + d with one rounding. -/
  | vfma (k : Bool) (d : BitVec 6) (a : BitVec 6) (b : BitVec 6) (r : BitVec 3)
  /-- R290: Fused a × b − d. -/
  | vfms (k : Bool) (d : BitVec 6) (a : BitVec 6) (b : BitVec 6) (r : BitVec 3)
  /-- R290: Fused −(a × b) + d. -/
  | vfnma (k : Bool) (d : BitVec 6) (a : BitVec 6) (b : BitVec 6) (r : BitVec 3)
  /-- R291: Lanewise INT32 add. -/
  | viadd (k : Bool) (d : BitVec 6) (a : BitVec 6) (b : BitVec 6)
  /-- R291: Lanewise INT32 subtract. -/
  | visub (k : Bool) (d : BitVec 6) (a : BitVec 6) (b : BitVec 6)
  /-- R291: Lanewise INT32 multiply. -/
  | vimul (k : Bool) (d : BitVec 6) (a : BitVec 6) (b : BitVec 6)
  /-- R291: Lanewise and. -/
  | viand (k : Bool) (d : BitVec 6) (a : BitVec 6) (b : BitVec 6)
  /-- R291: Lanewise or. -/
  | vior (k : Bool) (d : BitVec 6) (a : BitVec 6) (b : BitVec 6)
  /-- R291: Lanewise exclusive or. -/
  | vixor (k : Bool) (d : BitVec 6) (a : BitVec 6) (b : BitVec 6)
  /-- R291: Lanewise shift left. -/
  | vishl (k : Bool) (d : BitVec 6) (a : BitVec 6) (b : BitVec 6)
  /-- R291: Lanewise logical shift right. -/
  | vishr (k : Bool) (d : BitVec 6) (a : BitVec 6) (b : BitVec 6)
  /-- R291: Lanewise arithmetic shift right. -/
  | visar (k : Bool) (d : BitVec 6) (a : BitVec 6) (b : BitVec 6)
  /-- R291: Lanewise signed minimum. -/
  | vimin (k : Bool) (d : BitVec 6) (a : BitVec 6) (b : BitVec 6)
  /-- R291: Lanewise signed maximum. -/
  | vimax (k : Bool) (d : BitVec 6) (a : BitVec 6) (b : BitVec 6)
  /-- R291: Lanewise unsigned minimum. -/
  | viminu (k : Bool) (d : BitVec 6) (a : BitVec 6) (b : BitVec 6)
  /-- R291: Lanewise unsigned maximum. -/
  | vimaxu (k : Bool) (d : BitVec 6) (a : BitVec 6) (b : BitVec 6)
  /-- R292: FP32 lanewise equality into a mask. -/
  | vcmpEq (k : Bool) (d : BitVec 6) (a : BitVec 6) (b : BitVec 6)
  /-- R292: FP32 lanewise less-than into a mask. -/
  | vcmpLt (k : Bool) (d : BitVec 6) (a : BitVec 6) (b : BitVec 6)
  /-- R292: FP32 lanewise less-or-equal into a mask. -/
  | vcmpLe (k : Bool) (d : BitVec 6) (a : BitVec 6) (b : BitVec 6)
  /-- R292: Lanewise unordered test into a mask. -/
  | vcmpUn (k : Bool) (d : BitVec 6) (a : BitVec 6) (b : BitVec 6)
  /-- R292: Integer lanewise equality into a mask. -/
  | vicmpEq (k : Bool) (d : BitVec 6) (a : BitVec 6) (b : BitVec 6)
  /-- R292: Signed integer lanewise less-than into a mask. -/
  | vicmpLt (k : Bool) (d : BitVec 6) (a : BitVec 6) (b : BitVec 6)
  /-- R292: Unsigned integer lanewise less-than into a mask. -/
  | vicmpLtu (k : Bool) (d : BitVec 6) (a : BitVec 6) (b : BitVec 6)
  /-- R293: Selects lanes of a or b by mask mP. -/
  | vsel (k : Bool) (d : BitVec 6) (a : BitVec 6) (b : BitVec 6) (p : BitVec 3)
  /-- R293: Mask and. -/
  | mand (k : Bool) (d : BitVec 6) (a : BitVec 6) (b : BitVec 6)
  /-- R293: Mask or. -/
  | mor (k : Bool) (d : BitVec 6) (a : BitVec 6) (b : BitVec 6)
  /-- R293: Mask exclusive or. -/
  | mxor (k : Bool) (d : BitVec 6) (a : BitVec 6) (b : BitVec 6)
  /-- R293: Mask not. -/
  | mnot (k : Bool) (d : BitVec 6) (a : BitVec 6)
  /-- R293: Counts set bits of a mask. -/
  | mpop (k : Bool) (d : BitVec 6) (a : BitVec 6)
  /-- R293: Moves a scalar register into a mask. -/
  | mmovToMask (k : Bool) (d : BitVec 6) (a : BitVec 6)
  /-- R293: Moves a mask into a scalar register. -/
  | mmovFromMask (k : Bool) (d : BitVec 6) (a : BitVec 6)
  /-- R297: Rounds FP32 lanes to a narrow format and packs them. -/
  | vpack (k : Bool) (d : BitVec 6) (a : BitVec 6) (f : BitVec 4)
  /-- R297: Widens packed narrow elements to FP32 lanes. -/
  | vunpack (k : Bool) (d : BitVec 6) (a : BitVec 6) (f : BitVec 4)
  /-- R298: Block-scaled quantisation with scales written to vB. -/
  | vquant (k : Bool) (d : BitVec 6) (a : BitVec 6) (b : BitVec 6) (f : BitVec 4)
  /-- R298: Block-scaled quantisation with stochastic rounding. -/
  | vquantRs (k : Bool) (d : BitVec 6) (a : BitVec 6) (b : BitVec 6) (f : BitVec 4)
  /-- R297: Packs to a narrow format with stochastic rounding. -/
  | vpackRs (k : Bool) (d : BitVec 6) (a : BitVec 6) (f : BitVec 4)
  /-- R294: Lanewise INT32 to FP32. -/
  | vcvtFI (k : Bool) (d : BitVec 6) (a : BitVec 6) (r : BitVec 3)
  /-- R294: Lanewise FP32 to INT32, saturating. -/
  | vcvtIF (k : Bool) (d : BitVec 6) (a : BitVec 6) (r : BitVec 3)
  /-- R294: Lanewise FP32 to BF16. -/
  | vcvtBfF (k : Bool) (d : BitVec 6) (a : BitVec 6) (r : BitVec 3)
  /-- R294: Lanewise FP32 to FP16. -/
  | vcvtHF (k : Bool) (d : BitVec 6) (a : BitVec 6) (r : BitVec 3)
  /-- R294: Lanewise BF16 to FP32. -/
  | vcvtFBf (k : Bool) (d : BitVec 6) (a : BitVec 6)
  /-- R294: Lanewise FP16 to FP32. -/
  | vcvtFH (k : Bool) (d : BitVec 6) (a : BitVec 6)
  /-- R295: Saturates lanes to INT8 and packs them. -/
  | vnarrowI8 (k : Bool) (d : BitVec 6) (a : BitVec 6)
  /-- R295: Saturates lanes to INT4 and packs them. -/
  | vnarrowI4 (k : Bool) (d : BitVec 6) (a : BitVec 6)
  /-- R295: Sign-extends packed INT8 elements into lanes. -/
  | vwidenI8 (k : Bool) (d : BitVec 6) (a : BitVec 6)
  /-- R295: Sign-extends packed INT4 elements into lanes. -/
  | vwidenI4 (k : Bool) (d : BitVec 6) (a : BitVec 6)
  /-- R300: Permutes lanes by an index vector. -/
  | vperm (k : Bool) (d : BitVec 6) (a : BitVec 6) (b : BitVec 6)
  /-- R300: Broadcasts one lane. -/
  | vbcl (k : Bool) (d : BitVec 6) (a : BitVec 6) (b : BitVec 6)
  /-- R300: Broadcasts a scalar to every lane. -/
  | vbcs (k : Bool) (d : BitVec 6) (a : BitVec 6)
  /-- R300: Rotates lanes. -/
  | vrot (k : Bool) (d : BitVec 6) (a : BitVec 6) (b : BitVec 6)
  /-- R300: Extracts one lane to a scalar register. -/
  | vext (k : Bool) (d : BitVec 6) (a : BitVec 6) (b : BitVec 6)
  /-- R300: Inserts a scalar into one lane. -/
  | vins (k : Bool) (d : BitVec 6) (a : BitVec 6) (b : BitVec 6)
  /-- R300: Packs the included lanes downward. -/
  | vcompress (k : Bool) (d : BitVec 6) (a : BitVec 6) (m : BitVec 6)
  /-- R300: Spreads low lanes to the included lanes. -/
  | vexpand (k : Bool) (d : BitVec 6) (a : BitVec 6) (m : BitVec 6)
  /-- R302: Inclusive FP32 add scan in lane order. -/
  | vscanAdd (k : Bool) (d : BitVec 6) (a : BitVec 6) (m : BitVec 6)
  /-- R302: Inclusive FP32 max scan. -/
  | vscanMax (k : Bool) (d : BitVec 6) (a : BitVec 6) (m : BitVec 6)
  /-- R302: Inclusive INT32 add scan. -/
  | vscanIadd (k : Bool) (d : BitVec 6) (a : BitVec 6) (m : BitVec 6)
  /-- R302: FP32 add reduction, broadcast. -/
  | vredAdd (k : Bool) (d : BitVec 6) (a : BitVec 6) (m : BitVec 6)
  /-- R302: FP32 max reduction, broadcast. -/
  | vredMax (k : Bool) (d : BitVec 6) (a : BitVec 6) (m : BitVec 6)
  /-- R302: FP32 min reduction, broadcast. -/
  | vredMin (k : Bool) (d : BitVec 6) (a : BitVec 6) (m : BitVec 6)
  /-- R302: INT32 add reduction, broadcast. -/
  | vredIadd (k : Bool) (d : BitVec 6) (a : BitVec 6) (m : BitVec 6)
  /-- R302: Broadcasts the first included lane of highest key. -/
  | vargmax (k : Bool) (d : BitVec 6) (a : BitVec 6) (m : BitVec 6)
  /-- R303: One bitonic compare-exchange stage over key-index pairs. -/
  | vcx (k : Bool) (d : BitVec 6) (a : BitVec 6) (b : BitVec 6)
  /-- R303: Bitonic stage with the direction inverted. -/
  | vcxD (k : Bool) (d : BitVec 6) (a : BitVec 6) (b : BitVec 6)
  /-- R303: Merge step keeping the lower pairs. -/
  | vmrg (k : Bool) (d : BitVec 6) (a : BitVec 6) (b : BitVec 6)
  /-- R303: Merge step keeping the higher pairs. -/
  | vmrgD (k : Bool) (d : BitVec 6) (a : BitVec 6) (b : BitVec 6)
  /-- R304: Lanewise keyed draw of 32 bits. -/
  | vdraw (k : Bool) (d : BitVec 6) (a : BitVec 6) (b : BitVec 6)
  /-- R304: Lanewise keyed draw as an FP32 in [0, 1). -/
  | vdrawF (k : Bool) (d : BitVec 6) (a : BitVec 6) (b : BitVec 6)
  /-- R305: Correctly rounded 2^x per lane. -/
  | vexp2 (k : Bool) (d : BitVec 6) (a : BitVec 6)
  /-- R305: Correctly rounded reciprocal per lane. -/
  | vrcp (k : Bool) (d : BitVec 6) (a : BitVec 6)
  /-- R305: Correctly rounded reciprocal square root per lane. -/
  | vrsqrt (k : Bool) (d : BitVec 6) (a : BitVec 6)
  /-- R305: Correctly rounded log2 per lane. -/
  | vlog2 (k : Bool) (d : BitVec 6) (a : BitVec 6)
  /-- R310: Queues a background load of a dense or sparse weight slot. -/
  | mldw (w : BitVec 5) (a : BitVec 6) (b : BitVec 6) (f : BitVec 4)
  /-- R310: Weight-slot load that binds the slot to a scale register at completion. -/
  | mldwS (w : BitVec 5) (a : BitVec 6) (b : BitVec 6) (f : BitVec 4)
  /-- R312: Adds one K step of tile times weight slot to an accumulator, wrapping or overflowing to infinity. -/
  | mma (y : BitVec 3) (d : BitVec 3) (t : BitVec 4) (w : BitVec 5) (f : BitVec 4)
  /-- R312: mma that also presents each finished row on the forwarding latch. -/
  | mmaFwd (y : BitVec 3) (d : BitVec 3) (t : BitVec 4) (w : BitVec 5) (f : BitVec 4)
  /-- R312: mma that saturates on overflow. -/
  | mmaSat (y : BitVec 3) (d : BitVec 3) (t : BitVec 4) (w : BitVec 5) (f : BitVec 4)
  /-- R312: Forwarding, saturating mma. -/
  | mmaFwdSat (y : BitVec 3) (d : BitVec 3) (t : BitVec 4) (w : BitVec 5) (f : BitVec 4)
  /-- R317: Reads half a row of an accumulator into a vector register. -/
  | mrd (d : BitVec 6) (a : BitVec 3) (h : BitVec 1) (r : BitVec 5)
  /-- R318: Clears an accumulator. -/
  | mclr (a : BitVec 3)
  /-- R191: Global load of a sign-extended byte through the pawn cache. -/
  | gldb (k : Bool) (d : BitVec 6) (a : BitVec 6) (o : BitVec 10)
  /-- R191: Global load of a zero-extended byte. -/
  | gldbu (k : Bool) (d : BitVec 6) (a : BitVec 6) (o : BitVec 10)
  /-- R191: Global load of a sign-extended halfword. -/
  | gldh (k : Bool) (d : BitVec 6) (a : BitVec 6) (o : BitVec 10)
  /-- R191: Global load of a zero-extended halfword. -/
  | gldhu (k : Bool) (d : BitVec 6) (a : BitVec 6) (o : BitVec 10)
  /-- R191: Global load of a sign-extended word. -/
  | gldw (k : Bool) (d : BitVec 6) (a : BitVec 6) (o : BitVec 10)
  /-- R191: Global load of a zero-extended word. -/
  | gldwu (k : Bool) (d : BitVec 6) (a : BitVec 6) (o : BitVec 10)
  /-- R191: Global load of a doubleword. -/
  | gld (k : Bool) (d : BitVec 6) (a : BitVec 6) (o : BitVec 10)
  /-- R191: Global store of a byte into the pawn cache. -/
  | gstb (k : Bool) (d : BitVec 6) (a : BitVec 6) (o : BitVec 10)
  /-- R191: Global store of a halfword. -/
  | gsth (k : Bool) (d : BitVec 6) (a : BitVec 6) (o : BitVec 10)
  /-- R191: Global store of a word. -/
  | gstw (k : Bool) (d : BitVec 6) (a : BitVec 6) (o : BitVec 10)
  /-- R191: Global store of a doubleword. -/
  | gst (k : Bool) (d : BitVec 6) (a : BitVec 6) (o : BitVec 10)
  /-- R192: Atomic add at the home slice, possibly combined in the network. -/
  | gaadd (k : Bool) (d : BitVec 6) (a : BitVec 6) (b : BitVec 6) (w : BitVec 1)
  /-- R192: Atomic swap at the home slice. -/
  | gaswap (k : Bool) (d : BitVec 6) (a : BitVec 6) (b : BitVec 6) (w : BitVec 1)
  /-- R192: Atomic compare-and-swap at the home slice. -/
  | gacas (k : Bool) (d : BitVec 6) (a : BitVec 6) (b : BitVec 6) (w : BitVec 1)
  /-- R192: Atomic signed minimum. -/
  | gamin (k : Bool) (d : BitVec 6) (a : BitVec 6) (b : BitVec 6) (w : BitVec 1)
  /-- R192: Atomic signed maximum. -/
  | gamax (k : Bool) (d : BitVec 6) (a : BitVec 6) (b : BitVec 6) (w : BitVec 1)
  /-- R192: Atomic unsigned minimum. -/
  | gaminu (k : Bool) (d : BitVec 6) (a : BitVec 6) (b : BitVec 6) (w : BitVec 1)
  /-- R192: Atomic unsigned maximum. -/
  | gamaxu (k : Bool) (d : BitVec 6) (a : BitVec 6) (b : BitVec 6) (w : BitVec 1)
  /-- R192: Atomic and. -/
  | gaand (k : Bool) (d : BitVec 6) (a : BitVec 6) (b : BitVec 6) (w : BitVec 1)
  /-- R192: Atomic or. -/
  | gaor (k : Bool) (d : BitVec 6) (a : BitVec 6) (b : BitVec 6) (w : BitVec 1)
  /-- R192: Atomic exclusive or. -/
  | gaxor (k : Bool) (d : BitVec 6) (a : BitVec 6) (b : BitVec 6) (w : BitVec 1)
  /-- R193: Atomic FP32 add, 32-bit form only. -/
  | gafadd (k : Bool) (d : BitVec 6) (a : BitVec 6) (b : BitVec 6)
  /-- R195: Global load that is an acquire at scope S. -/
  | ldacq (k : Bool) (d : BitVec 6) (a : BitVec 6) (w : BitVec 1) (s : BitVec 3)
  /-- R195: Global store that is a release at scope S. -/
  | strel (k : Bool) (d : BitVec 6) (a : BitVec 6) (w : BitVec 1) (s : BitVec 3)
  /-- R196: Sequentially consistent add, performed in key order. -/
  | scadd (k : Bool) (d : BitVec 6) (a : BitVec 6) (b : BitVec 6)
  /-- R196: Sequentially consistent swap. -/
  | scswap (k : Bool) (d : BitVec 6) (a : BitVec 6) (b : BitVec 6)
  /-- R196: Sequentially consistent compare-and-swap. -/
  | sccas (k : Bool) (d : BitVec 6) (a : BitVec 6) (b : BitVec 6)
  /-- R196: Sequentially consistent load. -/
  | scld (k : Bool) (d : BitVec 6) (a : BitVec 6)
  /-- R196: Sequentially consistent store. -/
  | scst (k : Bool) (d : BitVec 6) (a : BitVec 6)
  /-- R198: Arms monitor n on a global line. -/
  | monarm (k : Bool) (n : BitVec 2) (a : BitVec 6)
  /-- R198: Arms monitor n on a line of the core's local memory. -/
  | monarmLm (k : Bool) (n : BitVec 2) (a : BitVec 6)
  /-- R200: Waits for a monitor hit, mail, restore or timeout. -/
  | monwait (k : Bool) (d : BitVec 6) (b : BitVec 6)
  /-- R200: Disarms monitor n or all monitors. -/
  | monclr (k : Bool) (n : BitVec 3)
  /-- R202: Sends a deposit to a thread's mailbox. -/
  | mbput (k : Bool) (d : BitVec 6) (a : BitVec 6) (b : BitVec 6)
  /-- R203: Reads the thread's mailbox, waiting while it is empty. -/
  | mbget (k : Bool) (d : BitVec 6)
  /-- R206: Sends a message to a ring in a core's local memory. -/
  | ringput (k : Bool) (d : BitVec 6) (a : BitVec 6) (b : BitVec 6)
  /-- R207: Receives the oldest record of an own-core ring. -/
  | ringget (k : Bool) (d : BitVec 6) (a : BitVec 6) (b : BitVec 6)
  /-- R209: Appends a task entry to a core's task queue. -/
  | callat (k : Bool) (d : BitVec 6) (a : BitVec 6) (b : BitVec 6)
  /-- R210: Parks the thread until it takes a task entry. -/
  | twait (k : Bool)
  /-- R211: Removes the oldest entry of the die's row queue. -/
  | rqclm (k : Bool) (d : BitVec 6) (b : BitVec 6)
  -- op words and steps without fields
  /-- R219: Freezes until phase 3 of the next beat on a settled die, then issues and makes the core phase-valid. -/
  | tempoAny
  /-- R93: Empties and refills the primary's fetch window, issuing four implicit empty bundles. -/
  | ibar
  /-- R56: A result of an issued operation lands in its destination at the start of its landing cycle. -/
  | resultLanding
  /-- R67: The reply to an rld or rvld arrives, ending any remote freeze. -/
  | remoteLoadReply
  /-- R155: A remote store is performed when the target bank grants it. -/
  | remoteStorePerformed
  /-- R155: The acknowledgement of a primary's remote store returns. -/
  | remoteStoreAck
  /-- R150: The tile loader moves one 64-byte row when rank 3 grants its banks. -/
  | tileLoaderRow
  /-- R310: The weight loader moves one 64-byte granule when granted. -/
  | weightLoaderGranule
  /-- R74: A core's freeze reaches LIMIT and it requests pre-emption with the watchdog cause. -/
  | watchdogExpiry
  /-- R94: A core's part completes once its primary and pawns have exited and its work drained. -/
  | corePartComplete
  /-- R134: Every 1,024th cycle a core moves up to 4 ANYWHERE task entries to a lighter neighbour. -/
  | loadLevelling
  /-- R182: Collective all-reduce folded in rank order. -/
  | allReduce
  /-- R182: Collective reduce-scatter. -/
  | reduceScatter
  /-- R182: Collective all-gather. -/
  | allGather
  /-- R182: Collective broadcast from the root rank. -/
  | broadcast
  /-- R171: When every die closes a window, sequentially consistent ops are performed in key order. -/
  | scWindowClose
  /-- R361: Invalidation completes, clearing BUSY and releasing threads parked on the page. -/
  | tlbinvCompletion
  /-- R217: The tempo master raises a beat when BEATPERIOD ticks have passed. -/
  | beatRaise
  /-- R217: A die receives the beat, increments its beat register and restarts its phase. -/
  | beatArrival
  /-- R215: A die's phase passes the late bound without a beat and it enters excursion. -/
  | beatOverdue
  /-- R402: Once drained, the launch's state is written to its save region. -/
  | contextSave
  /-- R382: SPDM request for supported versions. -/
  | getVersion
  /-- R382: SPDM request for capabilities. -/
  | getCapabilities
  /-- R382: SPDM algorithm negotiation. -/
  | negotiateAlgorithms
  /-- R382: SPDM request for certificate digests. -/
  | getDigests
  /-- R387: The signing engine writes the quote signature and clears BUSY. -/
  | quoteSigned
  /-- R427: The dump engine streams the next page to the host buffer, clearing BUSY after the last. -/
  | dumpPageSend
  /-- R430: Power-on or PERST# at low input resets the whole device. -/
  | coldReset
  /-- R430: PERST#, hot reset or link down resets all but accounting and soft-error counts. -/
  | conventionalReset
  /-- R430: FLR terminates every context with status 7 and clears its slot. -/
  | functionLevelReset
  /-- R431: Input below 44 V for 1 ms machine-checks every running context and holds the device in reset. -/
  | inputUndervoltage
deriving DecidableEq, Repr

end Sys2Proof
end

