-- ==== Sys2Proof/Machine/State.lean ====
section
/-! DEFINITION. The state of the machine, as plain data: one core of the package whole (its primary, its pawns, its
engines and loaders), the local memory of every core, device and host memory, the die and the device registers, and the
work that other agents have in flight. Log entries 1 to 6 say what a reset value and the model's own fields rest on. -/

namespace Sys2Proof.Machine

/-- A memory: cells at strictly rising addresses, none holding 0; an unlisted address reads 0 (log 2). -/
abbrev Memory := List Host.Cell

/-- A value of up to 512 scale codes or 64 lanes, zero-extended. -/
abbrev Wide := BitVec 4096

/-- Why the machine stops: it never does. Every trap, termination and reset of the manual is a next state, so there is no
constructor and no step raises one. Safe. -/
inductive Fault where
deriving DecidableEq, Repr

/-- Why the model gives an instruction no meaning. -/
inductive Refusal where
  /-- Raised by an arm of exec whose instruction has no meaning in this model yet. Safe. -/
  | notModelled (mnemonic : String)
deriving DecidableEq, Repr

/-- The thread whose step is running (R14). -/
inductive Agent where
  | primary
  | pawn (t : Nat)
deriving DecidableEq, Repr

/-- The step in hand: the model's own bookkeeping (log 4). -/
structure Ctx where
  /-- The issuing thread; the primary stands for every agent that is no thread. -/
  agent : Agent := .primary
  /-- The slot of the bundle, 0 to 8 (R27). -/
  slot : Nat := 0
  /-- The literal of the op (R34). -/
  lit : Option Word32 := none
  /-- The index flag of the slot (R35). -/
  ix : Bool := false
  /-- The address of the bundle or op. -/
  pc : Word64 := 0
  /-- The op word. -/
  word : Word32 := 0
  /-- The checks of the whole bundle, or those of the op at its issue, have passed (R396). -/
  checked : Bool := false
  /-- The closing op of a deterministic chunk is performed at its visit (R336). -/
  commit : Bool := false
  /-- The physical address and the page class that translation gave a G-class op (R190, R354). -/
  pa : Nat := 0
  cls : Nat := 0
  /-- The virtual address, and the level of the entry that translated it (R361). -/
  va : Option Word64 := none
  level : Nat := 0
deriving DecidableEq, Repr

/-- What a trap records besides the thread's own position (R393, R394). -/
structure TrapRec where
  code : Cause
  addr : Word64
  arg : Word64
  /-- The slot field of TCAUSE; 15 for none and for pawns. -/
  slot : Nat
deriving DecidableEq, Repr

/-- Where a landing value goes. -/
inductive Dst where
  | s (r : Nat)
  | v (r : Nat)
  | b (r : Nat)
  | bAll
  | m (r : Nat)
  | ib (r : Nat)
  /-- A send on port q`p` under the route read at issue (R226). -/
  | sport (p : Nat) (route : Word64)
  /-- A send on port vq`p`. -/
  | vport (p : Nat) (route : Word64)
  /-- Entries `first` to `first + n - 1` of scale register `z` (R265, R272). -/
  | z (z first n : Nat) (fmt keep : Bool)
  /-- A value that no register receives: x0, mx0 and mx1 (R39, R149). -/
  | discard
deriving DecidableEq, Repr

/-- The function of a local-memory atomic (R153). -/
inductive LmOp where
  | add | xchg | cas | min | max | and | or
deriving DecidableEq, Repr

/-- One access to a core's banks (R139, R148 to R153). Addresses are keys of the local-memory space (R22). -/
inductive BankAccess where
  /-- Element i is the `size` bytes at the i-th address, extended to `width` bits, signed or not, at bit i × width. -/
  | read (addrs : List Nat) (size width : Nat) (signed : Bool) (d : Dst) (lat : Nat)
  /-- Element i is written at the i-th address, in order. -/
  | write (addrs : List Nat) (size : Nat) (vals : List Nat)
  /-- A read-modify-write window on a doubleword. -/
  | rmw (addr : Nat) (op : LmOp) (v c : Word64) (d : Dst) (lat : Nat)
deriving DecidableEq, Repr

/-- An effect that remains to take place (R390). -/
inductive Eff where
  | reg (d : Dst) (v : Wide)
  | bank (a : BankAccess)
  | csr (i : BitVec 12) (v : Word64)
  | flags (f : BitVec 6)
  | mx (row : Wide)
  /-- An accumulator lands: 0 of an mclr, 1 of an mma, 2 of one that forwards its rows (R407). -/
  | acc (a : Nat) (v : BitVec 131072) (kind : Nat := 0)
  | bindTile (t : Nat) (z : Option (Nat × Nat))
  | bindSlot (w z base : Nat)
  /-- A place kept for the reply of remote access `id` (R67). -/
  | remote (id : Nat) (d : Dst)
deriving DecidableEq, Repr

/-- An entry of the pending-write queue: an effect that takes place `count` cycles from now (R390). -/
structure PEntry where
  count : Nat
  /-- The number of the op among the thread's ops, in issue order. -/
  op : Nat
  /-- The unit code and address of the op, for a flag trap (R259). -/
  unit : Nat
  slot : Nat
  pc : Word64
  /-- The op issued in supervisor mode (R390, R398). -/
  sup : Bool
  eff : Eff
  /-- flacq: its bank access comes before the thread's later remote accesses (R154). -/
  acq : Bool := false
deriving DecidableEq, Repr

/-- A resource that an issued matrix op still uses (R313). -/
inductive Res where
  | acc (a : Nat)
  | tile (t : Nat)
  | wslot (w : Nat)
deriving DecidableEq, Repr

/-- The operations in flight in the primary's pipelines: they stand still together (R62, R391). -/
structure Flight where
  pend : List PEntry
  /-- Cycles for which each slot is still held (R59). -/
  held : Vector Nat 9
  uses : List (Nat × Res)
deriving DecidableEq, Repr

/-- The registers that every thread has for itself. -/
structure Thread where
  mode : BitVec 2
  slim : Word64
  vflags : BitVec 6
  seed : Vector Word64 4
  srctr : BitVec 56
  tvec : BitVec 21
  /-- TCAUSE[16:0]: SLOT, DELAY, PMODE, VALID, CODE (R393). -/
  tcause : BitVec 17
  tpc : BitVec 21
  ttgt : BitVec 21
  taddr : Word64
  targ : Word64
  tscr : Vector Word64 4
  /-- GRDREC[47:0] (R141). -/
  grdrec : BitVec 48
  /-- The touch was pending when the thread entered its handler: its report waits for the return (R396). -/
  grdHeld : Bool
  /-- The word and the slot of the op that GRDREC records, for the report (R394). -/
  grdWord : Word32
  grdSlot : Nat
  /-- Words pushed so far of the command for each of e0 to e3 (R173). -/
  asm : Vector (List Word64) 4
  /-- A flag trap that waits for the next boundary (R259). -/
  flagTrap : Option TrapRec
  /-- A machine check that waits for the next boundary (R396, R415). -/
  mcheck : Option TrapRec
  /-- The next bundle or op is the first after a debug resume (R423). -/
  exempt : Bool
deriving DecidableEq, Repr

/-- A deposit on its way to a receive latch of this core: it arrives when `count` ticks have passed (R223, R226). -/
structure Deposit where
  count : Nat
  vec : Bool
  port : Nat
  value : VecWord
  sender : Nat
  far : Bool
deriving DecidableEq, Repr

/-- A hardware loop level (R83 to R85). -/
structure LoopLevel where
  cnt : Word32
  start : BitVec 21
  stop : BitVec 21
  active : Bool
deriving DecidableEq, Repr

/-- The primary of the core. -/
structure Primary where
  th : Thread
  s : Vector Word64 60
  /-- v0 to v57; v56 and v57 are the forwarding latch mx0, mx1 (R316). -/
  v : Vector VecWord 58
  b : Vector Bool 16
  m : Vector Word64 8
  ib : Vector Field6 4
  pc : Word64
  /-- The target of a taken transfer whose delay bundle is at pc (R60). -/
  target : Option Word64
  /-- The transfer and the loop state that the bundle in hand has chosen; they stand when the bundle has issued (R60, R83). -/
  xfer : Option Word64
  loopSet : Option (Nat × LoopLevel)
  /-- The bundle at pc has been presented and waits for a cause of its own (R64, R396). -/
  presented : Bool
  /-- Bundles presented from the window since it was refilled, and the age of the refill (R146). -/
  winCount : Nat
  winBase : Nat
  /-- Local memory as it stood at the start of the ticks of the last cycles, the latest first (R146). -/
  past : List Memory
  fl : Flight
  /-- User operations held while a handler runs (R391). -/
  flUser : Option Flight
  /-- Implicit empty bundles still to issue (R93, R392). -/
  empties : Nat
  /-- An sret has issued, and user operations go on when the empty bundles are done (R392). -/
  resuming : Bool
  opCount : Nat
  loops : Vector LoopLevel 2
  /-- The target of a tempo whose bundle has been presented (R219), and whether it has been. -/
  tempoTgt : Option Word64
  /-- The trap of a trap or brk in the bundle just issued (R92), and a tempo-overrun (R230). -/
  trapPend : Option TrapRec
  overrun : Option TrapRec
  /-- A tempo-overrun that was pending when the primary entered its handler: it waits for the return (R396). -/
  overrunHeld : Option TrapRec
  /-- The supervisor interrupt word (R397). -/
  sintr : Word64
  q : Vector Word64 4
  qFresh : Vector Bool 4
  vq : Vector VecWord 4
  vqFresh : Vector Bool 4
  /-- QROUTE0 to 3, VQROUTE0 to 3 (R224). -/
  route : Vector Word64 8
  deposits : List Deposit
  phv : Bool
  phvwhy : BitVec 3
  exc : Bool
  tempoRec : BitVec 54
  /-- No bundle issues: the primary has exited, or no launch runs on the core (R94). -/
  exited : Bool
  /-- A brk, breakpoint or halt request holds the core (R423). -/
  halted : Bool
  /-- A debug event of the tick in hand halts the core from the next tick on (R64, R422). -/
  haltNext : Bool
  /-- Freeze cause bits of R63 in the tick in hand, and whether the cluster is frozen. -/
  frz : BitVec 10
  frzClus : Bool
  /-- FRZSTAT of the last frozen tick: the watchdog's record carries it (R73, R74). -/
  frzLast : BitVec 11
  /-- Tick of the bank-conflict freeze still to pass for the bundle at hand (R69). -/
  bankWait : Nat
  bankDone : Bool
deriving DecidableEq, Repr

/-- A pawn's local-memory access that waits for its banks, with the barrel cycles since issue (R61, R68). -/
structure Waiting where
  age : Nat
  op : Nat
  acc : BankAccess
  /-- flrel: after the thread's earlier remote and G-class accesses; flacq: before its later ones (R154). -/
  rel : Bool
  acq : Bool
  /-- Bank words that have been granted, with what a read found there in its tick: a bank serves one a tick (R68, R168). -/
  got : List (Nat × Nat) := []
  /-- A refusal in the tick in hand has been counted (R72). -/
  counted : Bool := false
deriving DecidableEq, Repr

/-- The kinds of G-class request (R191 to R211). -/
inductive GKind where
  /-- A load of `size` bytes, extended; `acq` is the scope of an acquire (R163). -/
  | load (size : Nat) (signed : Bool) (acq : Option Nat)
  /-- A store of `size` bytes; `rel` is the scope of a release (R163). -/
  | store (size : Nat) (rel : Option Nat) (v : Word64)
  /-- An atomic at the home slice: R192's function on `size` bytes. -/
  | atomic (fn size : Nat) (v c : Word64)
  /-- A sequentially consistent op: R196's function, with B and k of its key (R171). -/
  | sc (fn : Nat) (v c : Word64) (beat : Word64) (win : Nat)
  | monarm (n : Nat)
  /-- A deposit for thread `thread` of the core with logical index `core`. -/
  | mbput (core thread : Nat) (v : Word64)
  /-- A message of `len` bytes at key `src` for the descriptor at key `desc`. -/
  | ringput (desc src len : Nat)
  /-- A receive into `cap` bytes at key `dst`. -/
  | ringget (desc dst cap : Nat)
  | callat (core : Nat) (entry : BitVec 21) (any : Bool) (args : List Word64)
  | rqclm
  /-- An rld, rst, rvld or rvst of a pawn (R155). -/
  | remote (id : Nat)
  /-- An eqr that waits for a record (R88). -/
  | eqr (e : Nat)
deriving DecidableEq, Repr

/-- A G-class request or other access that has issued and whose reply has not returned (R189). -/
structure GReq where
  id : Nat
  kind : GKind
  /-- Destination registers: a scalar and a predicate. -/
  d : Dst
  p : Dst
  va : Word64
  pa : Nat
  /-- The class of its page (R354). -/
  cls : Nat
  /-- Performed: only the reply is on its way, with the values it lands. -/
  done : Option (Wide × Bool)
  /-- The number of its op among the thread's, and ticks since its issue. -/
  seq : Nat
  age : Nat
  /-- The mesh has taken it (R68, R72). -/
  sent : Bool := false
  /-- The address of its op. -/
  pc : Word64 := 0
  /-- The level of the entry that translated it (R361). -/
  level : Nat := 0
  /-- The L2 ways that a fill for it may use, as they stood when it began (R234). -/
  ways : Nat := 0
  /-- Its home had to read its memory (R23, R368). -/
  miss : Bool := false
  /-- Ticks in which a ring operation has asked for its banks in vain (R68, R208). -/
  waited : Nat := 0
deriving DecidableEq, Repr

/-- What a thread waits for after a translation miss or a block (R190). -/
structure Park where
  va : Word64
  /-- 0 read, 1 write, 2 atomic or sequentially consistent, 3 monitor (R359). -/
  acc : Nat
  /-- The walk has faulted: identifier and KIND of its record. -/
  fault : Option (Word32 × Nat)
  /-- The entry has WB or MIG set: the thread waits for a TLBINV (R367). -/
  blocked : Bool
  /-- Ticks for which its walk has been under way (R23). -/
  waited : Nat := 0
deriving DecidableEq, Repr

/-- Where a pawn thread stands (R65, R70, R94, R395). -/
inductive PStatus where
  /-- No such thread: no launch runs, or the number is not below NTHREADS. -/
  | absent
  | running
  /-- Out of the rotation until R65's condition holds. -/
  | switching
  /-- A trap of its own waits for R65's condition; TPC is the resume address. -/
  | trapping (r : TrapRec) (resume : Word64)
  | exiting
  | exited
  /-- Monitor wait: destination, the ticks left, or none without a timeout, and whether the op is switch-marked (R200). -/
  | monWait (d : Dst) (left : Option Nat) (marked : Bool)
  | mailWait (d : Dst) (marked : Bool)
  /-- A fence of the scope waits for the release actions (R165, R167). -/
  | fencing (scope : Nat)
  /-- Task wait since barrel cycle `since` (R133). -/
  | taskWait (since : Nat) (marked : Bool)
  | xlateWait (p : Park)
  /-- A completed wait: the thread rejoins in the next barrel cycle (R200, R203, R210). -/
  | waking
  /-- A brk or breakpoint halt (R92, R422). -/
  | halted
  /-- A deterministic-mode wait for the move order (R335). -/
  | moveWait
deriving DecidableEq, Repr

/-- One monitor of a thread (R197). -/
structure Monitor where
  armed : Bool
  hit : Bool
  isLocal : Bool
  /-- A line number: address / 64, in device physical or local-memory space. -/
  line : Nat
  /-- The home slice has acknowledged the line (R198). -/
  acked : Bool
deriving DecidableEq, Repr

/-- The registers of a pawn thread (R39). -/
structure PawnRegs where
  th : Thread
  x : Vector Word64 64
  y : Vector ShortVec 8
  b : Vector Bool 8
  m : Vector Word32 4
  pc : Word64
deriving DecidableEq, Repr

/-- The chunk that a deterministic-mode thread is running (R334 to R336). -/
structure Chunk where
  /-- The registers at the chunk's start. -/
  start : PawnRegs
  ops : Nat
  /-- Addresses of bytes that loads returned from committed state, and uncommitted bytes, by physical address. -/
  reads : List Nat
  writes : List Host.Cell
  /-- The virtual pages through which its global ops went, with the level of their entries (R361). -/
  pages : List (Nat × Nat)
  /-- The class of the page of each line that it writes (R354). -/
  classes : List (Nat × Nat)
  /-- The same of local memory, by key: uncommitted bytes, and bytes that were read from committed state (log 72). -/
  lmWrites : List Host.Cell
  lmReads : List Nat
  /-- A byte of the read set has been committed since, or an entry that it used has gone. -/
  stale : Bool
  /-- The chunk has ended, and its closing op, if it is a synchronising op, waits for the visit. -/
  ended : Bool
  closing : Option Ctx
  /-- The registers as the closing op read them at its issue (R61). -/
  src : PawnRegs
  /-- Rounds in which the visit passed a wait that closes the chunk (R337). -/
  passed : Nat
  /-- The pawn cache has no room for what the chunk writes: the thread is parked until the visit (R335). -/
  full : Bool
deriving DecidableEq, Repr

/-- One pawn thread. -/
structure Pawn extends PawnRegs where
  /-- Op words fetched from pc onward (R147). -/
  buf : List Word32
  status : PStatus
  pend : List PEntry
  waiting : List Waiting
  reqs : List GReq
  /-- Pushes that wait for room in a command side: the number of the push, the queue and the words (R88). -/
  pushes : List (Nat × Nat × List Word64)
  opCount : Nat
  mon : Vector Monitor 4
  restored : Bool
  mbox : Word64
  mboxFull : Bool
  msgSeq : BitVec 24
  detchk : Word64
  detsq : Word32
  chunk : Chunk
deriving DecidableEq, Repr

/-- A binding tag (R268). -/
structure Tag where
  bound : Bool
  z : Nat
  base : Nat
  gen : Word32
deriving DecidableEq, Repr

structure Tile where
  data : BitVec 16384
  tag : Tag
deriving DecidableEq, Repr

/-- A weight slot: values, record and tag (R308). -/
structure WSlot where
  vals : BitVec 65536
  loaded : Bool
  ty : BitVec 3
  fd : Word32
  sparse : Bool
  idx : BitVec 32768
  tag : Tag
deriving DecidableEq, Repr

/-- A scale register (R265). -/
structure ZReg where
  e : Wide
  fmt : Bool
  gen : Word32
deriving DecidableEq, Repr

/-- A tld or tst in the tile loader's queue (R150). -/
structure TileJob where
  tile : Nat
  addr : Nat
  store : Bool
  bind : Option Nat
  row : Nat
  /-- Ticks before the loader may start: those of cycles, and those of a freeze that waits for a loader (log 50). -/
  delay : Nat
  /-- The number of the op among the primary's: its stores and those before it come first (R151). -/
  op : Nat
deriving DecidableEq, Repr

/-- An mldw in the weight loader's queue (R310). -/
structure WJob where
  slot : Nat
  addr : Nat
  ty : BitVec 3
  fd : Word32
  sparse : Bool
  bind : Option Nat
  vgran : Nat
  igran : Nat
  row : Nat
  delay : Nat
  op : Nat
  vals : BitVec 65536
  idx : BitVec 32768
deriving DecidableEq, Repr

/-- A remote access of this core in flight (R155). -/
structure Remote where
  id : Nat
  agent : Agent
  /-- The number of the op among the issuer's, and ticks since its issue. -/
  op : Nat
  age : Nat
  /-- Key of the first byte. -/
  addr : Nat
  write : Bool
  bytes : Nat
  data : Wide
  /-- Performed at the target; only the reply or acknowledgement remains. -/
  performed : Bool
  /-- The reply has arrived. -/
  replied : Bool
  /-- A refusal of its banks in the tick in hand has been counted (R72). -/
  counted : Bool := false
deriving DecidableEq, Repr

/-- A value sent to another core of the launch (R226). -/
structure Sent where
  vec : Bool
  port : Nat
  dest : BitVec 10
  path : BitVec 2
  value : VecWord
  tick : Word64
deriving DecidableEq, Repr

/-- An entry of the task queue (R132). -/
structure Task where
  entry : BitVec 21
  args : List Word64
  issuer : Nat
  anywhere : Bool
  /-- The barrel cycle in which it arrived. -/
  cycle : Nat
deriving DecidableEq, Repr

/-- A line of the pawn cache, by physical line number (R188). -/
structure CacheLine where
  line : Nat
  data : BitVec 512
  valid : BitVec 64
  dirty : BitVec 64
  /-- The page class under which it was placed (R234, R375), and the virtual pages through which it was filled or stored to (R241). -/
  cls : Nat := 0
  pages : List Nat := []
deriving DecidableEq, Repr

/-- A translation the core's TLBs hold (R357). -/
structure TlbEntry where
  cx : Nat
  vpn : Nat
  level : Nat
  ppn : Nat
  attrs : BitVec 13
deriving DecidableEq, Repr

/-- A pointer entry that a walker caches: the context, the level of the entry, the address bits from that level's up, and the entry (R357). -/
structure PtrEntry where
  cx : Nat
  level : Nat
  vpn : Nat
  e : Nat
deriving DecidableEq, Repr

/-- A command in a command side or running on a channel (R172 to R181). -/
structure EngCmd where
  id : Nat
  /-- The number of the pushing op among its thread's (R169). -/
  after : Nat
  words : List Word64
  byPawn : Option Nat
  cx : Nat
  started : Bool
  /-- 8-byte words moved so far. -/
  pos : Nat
  /-- Bytes written to destinations. -/
  bytes : Nat
  /-- The index list of a gather or scatter; the fabric package numbers of a collective's group (R178, R182). -/
  idx : List Nat
  /-- Pages still to translate: virtual page base, and whether it is a destination. -/
  todo : List (Nat × Bool)
  /-- Pages of 64 KiB translated and pinned: virtual base, class and physical base. -/
  pages : List (Nat × Nat × Nat)
  /-- A walk has faulted: its page, KIND, and the identifier of its record, none while the fault queue has no room. -/
  fault : Option (Nat × Nat × Option Word32)
  /-- The status it completes with, once that is settled (R181). -/
  status : Option (BitVec 4)
  /-- Consecutive incomplete results (R240). -/
  tries : Nat
  /-- Words that have been read and are not written yet, the oldest first, each with the ticks that it is still on its way: from a home
(R23), or until its bank serves the write (R68). -/
  flight : List (Nat × Nat) := []
  /-- Ticks for which its walk, or the reads of a collective, have been under way (R23). -/
  waited : Nat := 0
  /-- The ticks that the reads of a collective take at least, as they began (R23). -/
  need : Nat := 0
  /-- A walk has failed, and none has succeeded since: the submitter waits, also while the device walks again (R178, R360). -/
  failed : Bool := false
  /-- A host-tier page has refused it: it completes at once, out of its turn (R178, R360). -/
  atOnce : Bool := false
deriving DecidableEq, Repr

/-- A locked range (R180). -/
structure Lock where
  cmd : Nat
  /-- Local memory (keys) or global memory (virtual addresses of context cx). -/
  lm : Bool
  cx : Nat
  lo : Nat
  hi : Nat
  refusesReads : Bool
  /-- Slides with write pointer n of the data destination's core; for the scale range of split also the key of the data
  destination and the data bytes of a unit (R180). -/
  slide : Option Nat
  scaleOf : Option (Nat × Nat)
  /-- Registered in the tick in hand: it refuses from the next one on (R169). -/
  fresh : Bool
deriving DecidableEq, Repr

/-- One engine queue register of the core: both parts of both sides (R172). -/
structure EngQueue where
  cmds : List EngCmd
  recsPrim : List Word64
  recsPawn : List Word64
  lostPrim : Bool
  lostPawn : Bool
  /-- Records of completed commands that found their part full, the oldest first, each with its part (R181). -/
  blocked : List (Bool × Word64)
deriving DecidableEq, Repr

/-- A word that an uncorrectable error may strike (R413). -/
inductive ErrLoc where
  /-- A bank word of local memory, and a codeword of device memory. -/
  | lm (word : Nat)
  | pm (codeword : Nat)
  /-- A register of the core: of the primary, of a pawn, or one that the core has for both; by file and number (R413, row 2). -/
  | reg (a : Agent) (file num : Nat)
  /-- An entry of the pending-write queue, by the number of its op. -/
  | entry (op : Nat)
  /-- A doubleword that a line of the pawn cache or one of L2 holds: its physical address / 8. -/
  | cache (word : Nat)
  | l2 (word : Nat)
  /-- An entry of the data TLB or of the cluster's TLB, by context and page. -/
  | tlb (cx vpn : Nat)
  /-- A command in an engine queue, and its entries of the range-lock table; a page of the pin table. -/
  | cmd (id : Nat)
  | lock (cmd : Nat)
  | pin (key : Nat)
  /-- A completion record that waits in an engine queue, and the device's copy of a command queue, by context and number. -/
  | record (e : Nat) (v : Word64)
  | queue (cx q : Nat)
deriving DecidableEq, Repr

/-- A location that a self-test is to examine (R417): whether its error could not be corrected, store, die, unit, core, and the address or the index
of the word. -/
structure ErrTest where
  uncorr : Bool
  store : Nat
  die : Nat
  unit : Nat
  core : Nat
  idx : Nat
deriving DecidableEq, Repr

/-- What other cores and dies do, in one tick, to what the modelled core shares with them (log 65). -/
inductive PeerAct where
  /-- An access of n bytes of local memory by a primary, an engine or a pawn of another core, of rank 2, 3 or 4, with the ticks that it
  has waited: it waits for its banks, and writes when it carries a value. `who` is the number of the core, for rank 3 that of the cluster
  channel (R68, R155, R169). -/
  | access (rank who age key n : Nat) (v : Option Nat)
  /-- A message of another core's thread for the ring at a key, with the ticks that it has waited: its header, its length and its payload
  (R205, R206, R208). -/
  | ringput (age desc header len payload : Nat)
  /-- A channel of another core that drives write pointer n of the core at an LM base writes it (R179). -/
  | wptr (base n v : Nat)
  /-- A channel of another core drives write pointer n of the core at an LM base, or lets it go: its cluster channel (R179). -/
  | drive (base n ch : Nat)
  | undrive (base n ch : Nat)
  /-- A range of another core's command enters the cluster's table, and all ranges of such a command leave it (R180). -/
  | lock (l : Lock)
  | unlock (cmd : Nat)
  /-- The core of a logical index sends a value to a receive latch of this core, at a phase of its die and with a SPAN (R23, R226). -/
  | transfer (sender phase span : Nat) (vec : Bool) (port : Nat) (value : VecWord)
  /-- A collective command of another core of the package is accepted: its group and its SEQ (R184). -/
  | collective (group : List Nat) (seq : Nat)
  /-- The core of a logical index posts to the row queue, or claims its context's oldest row (R135, R351). -/
  | rowPost (core cx : Nat) (v : Word64)
  | rowClaim (core cx : Nat)
  /-- A pawn of another core of the cluster, by its number in the cluster, issues an op or has it resolved: the cluster's trace unit counts it, and
  may sample it (R425). -/
  | pawnOp (core thread : Nat) (word : Word32) (pc : Word64)
  /-- An event of another core of the cluster that its trace unit records: KIND, thread and payload (R425). -/
  | traced (core kind : Nat) (thread : Option Nat) (payload : Nat)
  /-- A neighbour, 0 north, 1 east, 2 south, 3 west, moves a task entry to the core: entry address, arguments and issuer (R134). -/
  | levelled (source : Nat) (entry : BitVec 21) (args : List Word64) (issuer : Nat)
  /-- All cores of a cluster of a launch but for the modelled one have completed: its launch cluster index (R131). -/
  | clusterDone (job idx : Nat)
  /-- An exchange is out of bound at the other die of a link, so that both dies of the link are in excursion (R215). -/
  | excursion (link : Nat)
  /-- Another die enters excursion otherwise than with the die of the core, or settles (R215, R216). -/
  | farExcursion (die : Nat) (on : Bool)
  /-- A timed flit from another die arrives with a bad CRC (R237). -/
  | badFlit (die : Nat)
  /-- The host writes a new firmware image through the provisioning window (R380). -/
  | provision (image : List Byte)
  /-- CXL.cache is negotiated on the host link, or is not (R428). -/
  | cxlCache (on : Bool)
  /-- The driver places the aperture of BAR2 on physical memory (R428). -/
  | aperture (base : Nat)
  /-- The driver names the supervisor image of a context (R389). -/
  | supImage (cx : Nat) (image : List Byte)
  /-- A breakpoint, watchpoint or brk of another core of the cluster: the core, the source of R421 and its index, the thread that has met it, none for
  an access of another agent, and the address (R422). -/
  | debugHit (core source index : Nat) (who : Option Agent) (addr : Nat)
  /-- An uncorrectable error strikes a word of a store (R413). -/
  | strike (l : ErrLoc)
  /-- An agent meets a correctable error and corrects it at a location (R414, R417). -/
  | corrected (t : ErrTest)
  /-- The controller of a die has failed (R418). -/
  | dieFailed (die : Nat)
deriving DecidableEq, Repr

/-- What the world gives the modelled core in one tick (log 65). -/
structure TickIn where
  /-- Another core of the cluster has a freeze cause of its own (R63 code 9). -/
  freeze : Bool
  /-- Requests of the core that the power grant covers, and those that the mesh takes; none where there is no limit (R68). -/
  tokens : Option Nat
  mesh : Option Nat
  acts : List PeerAct
deriving DecidableEq, Repr

/-- What the launch gives the core (R19, R110, R112, R118). -/
structure LaunchCfg where
  running : Bool
  cx : Nat
  coreIdx : Nat
  clusIdx : Nat
  coreInClus : Nat
  die : Nat
  dieClus : Nat
  nclus : Nat
  nthreads : Nat
  cap : Nat
  det : Bool
  idem : Bool
  guard : Bool
  codeEnd : Nat
  dataEnd : Nat
  stackEnd : Nat
  trapen : BitVec 16
  /-- The clusters of the launch by launch cluster index, as global cluster numbers (R118). -/
  clusters : List Nat
  /-- Pawn threads of every core of the launch by logical core index (R202). -/
  threads : List Nat
  /-- Cycles since the launch started: unfrozen ticks (R3, R134). -/
  cycle : Nat
deriving DecidableEq, Repr

/-- What the threads of the core share. -/
structure CoreState where
  cfg : LaunchCfg
  fd : Vector Word32 16
  t : Vector Tile 16
  w : Vector WSlot 32
  acc : Vector (BitVec 131072) 8
  z : Vector ZReg 32
  tileQ : List TileJob
  wQ : List WJob
  /-- The tiles and slots that the bundle of the tick in hand stands frozen for (R63 cause 5). -/
  awaits : List Res
  wptr : Vector (BitVec 21) 2
  engQ : Vector EngQueue 4
  /-- The cluster's range-lock table: the ranges of this core's commands, and those of the other cores' (R180). -/
  locks : List Lock
  peerLocks : List Lock
  /-- Channels of other cores that drive a write pointer in the cluster: 2 × LM base + n, and the cluster channel (R179). -/
  drivers : List (Nat × Nat)
  /-- Write pointers of the other cores of the cluster: 2 × LM base + n, value (R179). -/
  wptrOther : List (Nat × Nat)
  remotes : List Remote
  outbox : List Sent
  nextId : Nat
  last : Nat
  /-- Barrel cycles before the iterative unit is free (R61). -/
  iter : Nat
  /-- Banks of the core's local memory that serve an access in the tick in hand (R68), and those of other cores that serve one of
  this core's: key / 2^21 × 64 + bank. -/
  banks : BitVec 64
  banksFar : List Nat
  /-- Slots that the bundle of the tick in hand leaves vacant (R70). -/
  vacant : List Nat
  barrelCycle : Nat
  /-- The core was placed in the tick in hand: its first cycle is the next tick's (R342). -/
  fresh : Bool
  /-- Ticks for which the word or row that each agent of rank 3 asks for has waited: copy channels 0 and 1, weight loader, tile
  loader (R68). -/
  ages : Vector Nat 4
  /-- The command that an eqw of the bundle in hand completes: register and words (R169). -/
  pushing : Option (Nat × List Word64)
  /-- ISSUED, FROZEN, VACANT, PAWNOPS, UNFILLED, PBANKDEF, PMESHDEF, PTOKDEF (R72). -/
  cnt : Vector Word64 8
  frzh : Vector Word64 10
  rot : Vector Word64 64
  rdyh : Vector Word64 17
  wdogLimit : BitVec 16
  wdogElapsed : BitVec 16
  /-- Inputs of the tick in hand (log 65): another core of the cluster has a freeze cause of its own (R63 code 9); requests
  that the power grant and the mesh still take, none where there is no limit (R68); what other agents do. -/
  peerFreeze : Bool
  tokens : Option Nat
  /-- Of the tokens, those that go to rank 3. -/
  tokens3 : Option Nat
  mesh : Option Nat
  peers : List PeerAct
  /-- The cluster's trace unit: pawn ops sampled over, ISSUED at the core's previous record, records lost since the last
  overflow record (R425). -/
  trOps : Nat
  trIssued : Word64
  trLost : Nat
  tasks : List Task
  /-- Mailbox deposits of other cores that arrived in the tick: 16 × sender + its thread, thread and word (R203). -/
  mailIn : List (Nat × Nat × Word64)
  /-- Task entries of other cores that arrived in the tick: 16 × sender + its thread, and the entry (R132). -/
  taskIn : List (Nat × Task)
  /-- The next pawn slot of this core that the move order visits, and the round (R333). -/
  moveNext : Nat
  moveRound : Nat
  /-- The move order has reached the slot and waits there (R335, R336). -/
  moveHere : Bool
  /-- The closing op of the chunk that the slot has committed is not complete, and the order waits at the slot. -/
  moveOpen : Bool
  /-- The closing op of the chunk just committed, performed by the next step (R336). -/
  commitOp : Option Ctx
  cache : List CacheLine
  tlb : List TlbEntry
  tlb2 : List TlbEntry
  /-- Pointer entries that the cluster's walkers cache (R357). -/
  ptrs : List PtrEntry
  /-- A pre-emption request that the core has not yet answered: CAUSE and INNER (R398, R400, R406). -/
  preempt : Option (Cause × Cause)
  /-- Ticks for which the request has been on its way (R400). -/
  preemptAge : Nat
  /-- The context is being saved or has been halted for it (R401). -/
  saving : Bool
  /-- Rows of issued mma ops that the array has streamed ahead of the cycles for which they hold the M slot, in the ticks of a save (R403). -/
  streamed : Nat
  /-- The die's tick and beat at the core's last halt (R406). -/
  haltTick : Word64
  haltBeat : Word64
  /-- Words of the core's other stores that an uncorrectable error has struck (R413). -/
  struck : List ErrLoc
  /-- Register writes through the halt window, which take effect at resume: offset in the record, and value (R423). -/
  winWrites : List (Nat × Nat)
deriving DecidableEq, Repr

/-- What the turn of the tick in hand is (the model's own bookkeeping, log 4). -/
inductive Turn where
  /-- The start of a tick: landings (R56). -/
  | land
  /-- The primary issues or freezes (R64). -/
  | present
  /-- The barrel considers its n-th thread, with the issues made and the first thread that issued (R70). -/
  | scan (n count : Nat) (first : Option Nat)
  /-- Bank writes of the primary, then what asks for banks is gathered (R68); with the first thread that issued, which `last` becomes
  at the end of the tick (R70). -/
  | back (first : Option Nat)
  /-- Ranks 2 to 4 at the banks: the core's own steps with their places in the order, between the accesses of other agents (R68). -/
  | serve (steps : List (Nat × Ctx × Instr)) (first : Option Nat)
  /-- What else is ready in the background: requests, walks, commands. -/
  | late (first : Option Nat)
  /-- What the end of the tick settles; the next tick follows. -/
  | finish (first : Option Nat)
deriving DecidableEq, Repr

/-- The die of the core: its clock, its beat and its row queue (R214 to R218, R135). -/
structure Die where
  tick : Word64
  beat : Word64
  /-- Ticks since the last beat arrived (R5); the register saturates (R218). -/
  phase : Nat
  /-- BEATPERIOD in effect, and a new period that takes effect after the next beat (R217, R120). -/
  beatPeriod : Nat
  nextPeriod : Option Nat
  /-- Ticks since the last beat that the die raised as tempo master, or received (R217). -/
  sinceRaised : Nat
  /-- Ticks until a beat that the master has raised reaches this die (R217). -/
  beatDue : Option Nat
  /-- The next beat is exempt from the check of R215. -/
  exempt : Bool
  excursion : Bool
  /-- Consecutive exchanges within the bound, by link, and a good beat since the excursion (R216). -/
  goodExch : List (Nat × Nat)
  goodBeat : Bool
  /-- Beats at whose phase 3 the die was unsettled (R220). -/
  unsettled3 : List Word64
  /-- Stamps of the last 17 exchanges by link: own count at arrival (R215). -/
  stamps : List (Nat × List Word64)
  /-- The count last sent on each link (R214). -/
  sentTicks : List (Nat × Nat)
  /-- Entries of the row queue, the oldest first, each with the context that posted it (R135, R376). -/
  rowq : List (Nat × Word64)
deriving DecidableEq, Repr

/-- An entry of an access-counter table (R362): its table (die, or 6 for the host link), index, page and count. -/
structure PactEntry where
  src : Nat
  index : Nat
  page : Nat
  count : Nat
deriving DecidableEq, Repr

/-- A command queue that the driver has rung, as its descriptor last read (R113, R114). -/
structure CmdQueue where
  cx : Nat
  q : Nat
  base : Nat
  log2 : Nat
  prio : Nat
  en : Bool
  /-- The fields keep their limits; otherwise the next command fails. -/
  ok : Bool
  head : Nat
  tail : Nat
  done : Nat
  /-- The last doorbell was refused; a context error has stopped the queue. -/
  refused : Bool
  stopped : Bool
deriving DecidableEq, Repr

/-- A graph in progress (R121 to R123). -/
structure GraphRun where
  base : Nat
  n : Nat
  /-- NPRED of each node. -/
  npreds : List Nat
  /-- Completed predecessors of each node, and the nodes started, since the graph was armed. -/
  counts : List Nat
  started : List Nat
  /-- The status of the first node that failed. -/
  failed : Option Nat
  /-- A REARM has been chosen. -/
  rearm : Bool
deriving DecidableEq, Repr

/-- How far a command has come. -/
inductive JobPhase where
  /-- At the head of its queue, or a node that starts. -/
  | head
  /-- A launch that waits for clusters (R118). -/
  | placing
  | running
  /-- Its work is done; EVENT is still to be incremented (R127, R185). -/
  | ending
  /-- A node that has completed with a status, and counts at its graph's next step (R122). -/
  | over (status : Nat)
deriving DecidableEq, Repr

/-- A command of a queue or a node of a graph that the master distributor serves (R115 to R128, R185, R434). -/
structure Job where
  id : Nat
  cx : Nat
  slot : Nat
  queue : Nat
  /-- The number of the record in its queue. -/
  index : Nat
  prio : Nat
  /-- The record, none while the page that holds it is not translated. -/
  words : Option (List Word64)
  /-- The graph's job and the node. -/
  node : Option (Nat × Nat)
  phase : JobPhase
  /-- Pages to translate before it goes on: address and access. -/
  todo : List (Nat × Nat)
  /-- A walk has failed: address, access, KIND, and the record's identifier, none while the fault queue is full. -/
  fault : Option (Nat × Nat × Nat × Option Word32)
  /-- The page is under a write-block or a migration lock: it waits for a TLBINV. -/
  blocked : Bool
  /-- A launch: its header, clusters by launch cluster index, and launch number. -/
  hdr : BitVec 512
  clusters : List Nat
  /-- The launch cluster index of the modelled core. -/
  ownIdx : Option Nat
  launchNo : Nat
  startBeat : Nat
  /-- The engine command of kinds 2 and 3. -/
  cmd : Option EngCmd
  graph : Option GraphRun
  /-- The set that a conditional node chose: A, or B. -/
  chose : Bool
  /-- A launch: it has been served and waits for clusters (R117). -/
  waits : Bool := false
  /-- A launch: the clusters that its context might use when it was placed (R374). -/
  mask : BitVec 96 := 0
  /-- Ticks for which its walk has been under way (R23). -/
  waited : Nat := 0
  /-- An event wait that has started: the physical address of its word, and whether a write has brought the value (R124). -/
  watch : Option Nat := none
  reached : Bool := false
deriving DecidableEq, Repr

/-- A launch that has been saved (R404 to R408): its job, the whole of the core, and its region. -/
structure SavedLaunch where
  job : Job
  prim : Primary
  pawns : Vector Pawn 16
  core : CoreState
  /-- A collective command that was accepted before the halt and runs on, or has completed and waits for the restore (R402). -/
  col : Option EngCmd
  /-- The modelled core was one of the launch's. -/
  own : Bool
  base : Nat
  size : Nat
  /-- What ended its run (R400). -/
  cause : Cause
deriving DecidableEq, Repr

/-- An accounting entry (R377): EPOCH, the sixteen words, and the accumulator of ENERGY in microjoules (R378). -/
structure AcctEntry where
  cx : Nat
  epoch : Word32
  words : Vector Word64 16
  micro : Nat
deriving DecidableEq, Repr

/-- A contribution that the package has sent on the fabric: its plane, and its tag (R239). -/
structure FabricTag where
  plane : Nat
  group : List Nat
  seq : Nat
  rank : Nat
  chunk : Nat
deriving DecidableEq, Repr

/-- The types of measurement blocks (R383). -/
inductive MeasType where
  | immutableRom
  | firmware
  | hardwareConfig
  | rawBits
deriving DecidableEq, Repr

/-- A measurement block: its index, its type and its content (R383). -/
structure MeasBlock where
  idx : Nat
  type : MeasType
  content : List Byte
deriving DecidableEq, Repr

/-- What the management side has last been answered (R379, R382, R383): content, not its encoding in a transport. -/
inductive Reply where
  | none
  | version (l : List Nat)
  | capabilities (cert chal meas : Bool)
  | algorithms (asym hash : Nat)
  | digests (l : List Byte)
  | certificate (l : List Byte) (left : Nat)
  | challengeAuth (nonce : BitVec 256) (digest : List Byte) (signature : BitVec 512)
  | measurements (blocks : List MeasBlock) (nonce : BitVec 256) (signature : BitVec 512)
  /-- A reply to a request that asks for no signature. -/
  | unsignedMeasurements (blocks : List MeasBlock)
  | unsupported (code : BitVec 8)
  /-- SNAP, and the sixteen words of each entry. -/
  | accounting (snap : Nat) (entries : List (Vector Word64 16))
deriving DecidableEq, Repr

/-- A request that waits for the one signing engine (R381, R387). -/
inductive SignReq where
  /-- A quote of the registers: the bytes it covers. -/
  | quote (bytes : List Byte)
  | challenge (nonce : BitVec 256) (digest : List Byte)
  | measurements (blocks : List MeasBlock) (nonce : BitVec 256)
deriving DecidableEq, Repr

/-- A request that reads manifest blocks at the end of its tick, after a placement of the tick (R387). -/
inductive QuoteAsk where
  | quote (slot : Nat)
  | measure (idx : Nat) (nonce : Option (BitVec 256))
  | challenge (nonce : BitVec 256)
deriving DecidableEq, Repr

/-- A piece of 64 KiB that a dump is still to send: its virtual page, none for a part of a save region, and its bytes that are not
0 as they stood when the pages were marked. -/
structure DumpPage where
  va : Option Nat
  pa : Nat
  cells : List Host.Cell
deriving DecidableEq, Repr

/-- A dump in progress (R427): whether the pages have been marked, the pieces still to send, the virtual pages whose copy is in
the staging area, and bytes sent so far. -/
structure Dump where
  cx : Nat
  marked : Bool
  pages : List DumpPage
  /-- With the page of the staging area that holds the copy. -/
  staged : List (Nat × Nat)
  sent : Nat
  /-- The context has been terminated. -/
  ended : Bool
deriving DecidableEq, Repr

/-- Device registers and device tables. -/
structure Dev where
  /-- BAR0 registers that differ from their reset value, by offset (R8). -/
  regs : List (Nat × Nat)
  /-- MSI-X vectors raised, the oldest first (R428). -/
  msix : List Nat
  /-- Pin counts: die × 2^40 + physical page number, and count (R178). -/
  pins : List (Nat × Nat)
  /-- The identifier of the next fault record of each context, where it is not 0 (R359). -/
  faultIds : List (Nat × Nat)
  pact : List PactEntry
  /-- Clusters of a launch of which all cores but for the modelled one have completed: job and launch cluster index (R131). -/
  doneClus : List (Nat × Nat)
  /-- The sequence number of the next notification (R363). -/
  nseq : Nat
  /-- The fabric package number, the live planes, and the last SEQ that each group accepted (R182, R184, R238). -/
  pkgNo : BitVec 16
  planes : BitVec 18
  seqs : List (List Nat × Nat)
  /-- Contributions that the streams of the running collective command hold from this package (R239, R240). -/
  streams : List FabricTag
  /-- Lines that have been allocated in an L2 slice since its die was last remapped, so that they may be resident (R233, R234). -/
  l2 : List Nat
  /-- The die whose distributor is master (R129, R130). -/
  master : Nat
  queues : List CmdQueue
  jobs : List Job
  nextJob : Nat
  /-- By priority level, the queue served last: 64 × context + number (R117). -/
  served : List (Nat × Nat)
  /-- The next launch number of each context (R19). -/
  launchNos : List (Nat × Nat)
  /-- The context that last ran on each cluster since device reset (R373). -/
  lastCtx : List (Nat × Nat)
  /-- By host ring, unsignalled entries and microseconds that the oldest has waited (R125). -/
  rings : List (Nat × (Nat × Nat))
  /-- Supervisor images by context, and format descriptors by context and header address (R109, R112, R389). -/
  sup : List (Nat × List Byte)
  fmts : List ((Nat × Nat) × List Word32)
  saved : List SavedLaunch
  acct : List AcctEntry
  /-- The published snapshot, clearings that wait for the boundary, and idle energy in microjoules (R378, R379). -/
  acctSnap : List AcctEntry
  acctClr : List Nat
  idleMicro : Nat
  reply : Reply
  signQ : List SignReq
  /-- Quotes and measurements asked for in the tick in hand, the first first (R387). -/
  asks : List QuoteAsk
  /-- Debug halts on their way to other clusters, with the ticks since they left (R423). -/
  crossing : List (Nat × Nat)
  /-- What the driver has written through the halt window into records of halted cores that the model does not hold: cluster × 8 + core, offset, value
  (R424). -/
  winFar : List (Nat × (Nat × Nat))
  /-- Other dies that are in excursion (R216). -/
  excDies : List Nat
  /-- Heartbeats in a row that each die's distributor has missed (R130). -/
  missed : List (Nat × Nat)
  /-- Certificate slot 0 (R381). -/
  cert : List Byte
  dump : Option Dump
  /-- The number of the next error record, and the second-tier channels that are fenced (R418, R420). -/
  errSeq : Nat
  fencedCh : List Nat
  /-- The input is below 46 V; the device is held in reset for want of supply (R431). -/
  holdUp : Bool
  noSupply : Bool
  /-- Way masks written in the tick in hand, with what they held: a write acts from the next tick on (R234). -/
  newMasks : List (Nat × Nat)
  /-- LOCK of FEATLOCK has been set: FEATACC is read-only until device reset (R136). -/
  featRo : Bool
  /-- CXL.cache is not negotiated; the base of BAR2's aperture (R428). -/
  cxlOff : Bool
  bar2 : Nat
  /-- The package cap in effect, in W, and whether tokens have been withheld since the last boundary (R431). -/
  cap : Nat
  withheld : Bool
  /-- Registers of queues that are full with HEAD equal to TAIL (R363, R420). -/
  fullQ : List Nat
  /-- Locations that wait for their self-test (R417). -/
  tests : List ErrTest
  /-- Microseconds since bad codewords were last read by a patrol (R416). -/
  scrubUs : Nat
deriving DecidableEq, Repr

/-- The part: what manufacture fixes (R1, R11, R12, R17). -/
structure Part where
  /-- A Y6-B; otherwise a Y6-A (R11). -/
  modelB : Bool
  /-- By die, the mask of physical clusters that are not enabled (R11, R12). -/
  fused : List Nat
  /-- By die, the mask of physical L2 slices that are not live (R17, R233). -/
  deadSlices : List Nat
  /-- The tier ranges (R356). -/
  hbmTop : Nat
  t2Base : Nat
  t2Top : Nat
  hostBase : Nat
  /-- FEATW0 (R136). -/
  featw0 : BitVec 32
  /-- SERIAL, ROMVER and VENDKEYH (R380). -/
  serial : Word64
  romVer : BitVec 16
  vendKeyH : BitVec 256
  /-- The firmware image in the module's flash, the boot ROM and the manufacturing identity block (R380, R383). -/
  flash : List Byte
  rom : List Byte
  identity : List Byte
deriving DecidableEq, Repr

/-- The whole state. -/
structure State where
  ctx : Ctx
  prim : Primary
  pawns : Vector Pawn 16
  core : CoreState
  lm : Memory
  pm : Memory
  /-- Host memory by bus address: host rings and dump buffers (R125, R427). -/
  hm : Memory
  /-- Words that an uncorrectable error has struck: bank words of local memory, and 32-byte codewords of device memory
  (R413, R415). -/
  badLm : List Nat
  badPm : List Nat
  die : Die
  dev : Dev
  part : Part
  /-- Steps due now, the next first: inputs of the host and of other agents, and what the turn has found due (log 4). -/
  agenda : List (Ctx × Instr)
  /-- Background steps in flight (log 4). -/
  work : List (Ctx × Instr)
  /-- One entry a tick: bit i set holds the i-th ready background step back for the tick; empty holds none (log 4). -/
  oracle : List Nat
  /-- Inputs of the ticks to come, the next first; with an empty list no other agent acts and nothing is short (log 65). -/
  inputs : List TickIn
  turn : Turn
  /-- The counter that free values are drawn by (log 5). -/
  free : Nat
deriving DecidableEq, Repr

/-- A thread's registers where no launch has set them: the maps' reset values, and 0 where the spec gives none (log 1). -/
def Thread.initial : Thread where
  mode := 0
  slim := 0
  vflags := 0
  seed := Vector.replicate 4 0
  srctr := 0
  tvec := 0
  tcause := 0
  tpc := 0
  ttgt := 0
  taddr := 0
  targ := 0
  tscr := Vector.replicate 4 0
  grdrec := 0
  grdHeld := false
  grdWord := 0
  grdSlot := 15
  asm := Vector.replicate 4 []
  flagTrap := none
  mcheck := none
  exempt := false

/-- Nothing in flight. -/
def Flight.empty : Flight where
  pend := []
  held := Vector.replicate 9 0
  uses := []

/-- A route before it is written: PATH 3 (R224). -/
def routeReset : Word64 := 0x00C0000000000000#64

/-- The primary before a launch: it issues no bundle (log 1). -/
def Primary.initial : Primary where
  th := Thread.initial
  s := Vector.replicate 60 0
  v := Vector.replicate 58 0
  b := Vector.replicate 16 false
  m := Vector.replicate 8 0
  ib := Vector.replicate 4 0
  pc := 0
  target := none
  xfer := none
  loopSet := none
  presented := false
  winCount := 0
  winBase := 0
  past := []
  fl := Flight.empty
  flUser := none
  empties := 0
  resuming := false
  opCount := 0
  loops := Vector.replicate 2 ⟨0, 0, 0, false⟩
  tempoTgt := none
  trapPend := none
  overrun := none
  overrunHeld := none
  sintr := 0
  q := Vector.replicate 4 0
  qFresh := Vector.replicate 4 false
  vq := Vector.replicate 4 0
  vqFresh := Vector.replicate 4 false
  route := Vector.replicate 8 routeReset
  deposits := []
  phv := false
  phvwhy := 0
  exc := false
  tempoRec := 0
  exited := true
  halted := false
  haltNext := false
  frz := 0
  frzClus := false
  frzLast := 0
  bankWait := 0
  bankDone := false

/-- A pawn's registers before a launch (log 1). -/
def PawnRegs.initial : PawnRegs where
  th := Thread.initial
  x := Vector.replicate 64 0
  y := Vector.replicate 8 0
  b := Vector.replicate 8 false
  m := Vector.replicate 4 0
  pc := 0

/-- A pawn before a launch: no thread (log 1). -/
def Pawn.initial : Pawn where
  toPawnRegs := PawnRegs.initial
  buf := []
  status := .absent
  pend := []
  waiting := []
  reqs := []
  pushes := []
  opCount := 0
  mon := Vector.replicate 4 ⟨false, false, false, 0, false⟩
  restored := false
  mbox := 0
  mboxFull := false
  msgSeq := 0
  detchk := 0
  detsq := 0
  chunk := ⟨PawnRegs.initial, 0, [], [], [], [], [], [], false, false, none, PawnRegs.initial, 0, false⟩

/-- No binding (R265). -/
def Tag.unbound : Tag := ⟨false, 0, 0, 0⟩

/-- No launch: every field 0 (log 1). -/
def LaunchCfg.noLaunch : LaunchCfg where
  running := false
  cx := 0
  coreIdx := 0
  clusIdx := 0
  coreInClus := 0
  die := 0
  dieClus := 0
  nclus := 0
  nthreads := 0
  cap := 0
  det := false
  idem := false
  guard := false
  codeEnd := 0
  dataEnd := 0
  stackEnd := 0
  trapen := 0
  clusters := []
  threads := []
  cycle := 0

def EngQueue.empty : EngQueue := ⟨[], [], [], false, false, []⟩

/-- The shared part of the core before a launch (R72, R73, R179, R248, R265, R308, R426; log 1). -/
def CoreState.initial : CoreState where
  cfg := LaunchCfg.noLaunch
  fd := Vector.replicate 16 0
  t := Vector.replicate 16 ⟨0, Tag.unbound⟩
  w := Vector.replicate 32 ⟨0, false, 0, 0, false, 0, Tag.unbound⟩
  acc := Vector.replicate 8 0
  z := Vector.replicate 32 ⟨0, false, 1⟩
  tileQ := []
  wQ := []
  awaits := []
  wptr := Vector.replicate 2 0
  engQ := Vector.replicate 4 EngQueue.empty
  locks := []
  peerLocks := []
  drivers := []
  wptrOther := []
  remotes := []
  outbox := []
  nextId := 0
  last := 0
  iter := 0
  banks := 0
  banksFar := []
  vacant := []
  barrelCycle := 0
  fresh := false
  ages := Vector.replicate 4 0
  pushing := none
  cnt := Vector.replicate 8 0
  frzh := Vector.replicate 10 0
  rot := Vector.replicate 64 0
  rdyh := Vector.replicate 17 0
  wdogLimit := 200
  wdogElapsed := 0
  peerFreeze := false
  tokens := none
  tokens3 := none
  mesh := none
  peers := []
  trOps := 0
  trIssued := 0
  trLost := 0
  tasks := []
  mailIn := []
  taskIn := []
  moveNext := 0
  moveRound := 0
  moveHere := false
  moveOpen := false
  commitOp := none
  cache := []
  tlb := []
  tlb2 := []
  ptrs := []
  preempt := none
  preemptAge := 0
  saving := false
  streamed := 0
  haltTick := 0
  haltBeat := 0
  struck := []
  winWrites := []

/-- Device reset of the die (R214, R217, R218, R222). -/
def Die.initial : Die where
  tick := 0
  beat := 0
  phase := 0
  beatPeriod := 8192
  nextPeriod := none
  sinceRaised := 0
  beatDue := none
  exempt := true
  excursion := false
  goodExch := []
  goodBeat := false
  unsettled3 := []
  stamps := []
  sentTicks := []
  rowq := []

/-- Device reset of the device tables (R430). The fabric package number, for which R182 and R238 give no reset value, is 0 (DESIGN CHOICE, log 1). -/
def Dev.initial : Dev where
  regs := []
  msix := []
  pins := []
  faultIds := []
  pact := []
  doneClus := []
  nseq := 0
  pkgNo := 0
  planes := 0x3FFFF
  seqs := []
  streams := []
  l2 := []
  master := 0
  queues := []
  jobs := []
  nextJob := 0
  served := []
  launchNos := []
  lastCtx := []
  rings := []
  sup := []
  fmts := []
  saved := []
  acct := []
  acctSnap := []
  acctClr := []
  idleMicro := 0
  reply := .none
  signQ := []
  asks := []
  crossing := []
  winFar := []
  excDies := []
  missed := []
  cert := []
  dump := none
  errSeq := 0
  fencedCh := []
  holdUp := false
  noSupply := false
  newMasks := []
  featRo := false
  cxlOff := false
  bar2 := 0
  cap := 7500
  withheld := false
  fullQ := []
  tests := []
  scrubUs := 0

/-- A part: a Y6-A whose physical cluster 15 is disabled on every die (log 3). -/
def Part.initial : Part where
  modelB := false
  fused := List.replicate 6 0x8000
  deadSlices := List.replicate 6 0
  hbmTop := 768000000000
  t2Base := 1099511627776
  t2Top := 2635511627776
  hostBase := 2251799813685248
  featw0 := 0xFF
  serial := 0
  romVer := 0
  vendKeyH := 0
  flash := []
  rom := []
  identity := []

/-- The machine right after device reset: no launch runs, memory lists nothing (log 1, log 2, log 3); its tick, of count 0, is one of exchanges
(R214). -/
def State.reset : State where
  ctx := {}
  prim := Primary.initial
  pawns := Vector.replicate 16 Pawn.initial
  core := CoreState.initial
  lm := []
  pm := []
  hm := []
  badLm := []
  badPm := []
  die := Die.initial
  dev := Dev.initial
  part := Part.initial
  agenda := [({}, .tickExchange 1), ({}, .tickExchange 3)]
  work := []
  oracle := []
  inputs := []
  turn := .land
  free := 0

end Sys2Proof.Machine
end

