-- ==== Sys2Proof/Machine/Bits.lean ====
section
/-! DEFINITION. Bit fields, sign extension, byte order, lanes and register files (R7, R245, R281). -/

namespace Sys2Proof.Machine

/-- Entry i of a file, or d outside it. -/
def vget {α : Type} {n : Nat} (v : Vector α n) (i : Nat) (d : α) : α := (v[i]?).getD d

/-- The file with entry i replaced; unchanged when i lies outside it. -/
def vset {α : Type} {n : Nat} (v : Vector α n) (i : Nat) (x : α) : Vector α n := v.setIfInBounds i x

/-- Every entry of a file changed. -/
def vmap {α β : Type} {n : Nat} (f : α → β) (v : Vector α n) : Vector β n := ⟨⟨v.toList.map f⟩, by simp⟩

/-- Bits [lo + n - 1 : lo] of a number. -/
def bits (x lo n : Nat) : Nat := x / 2 ^ lo % 2 ^ n

/-- Bit i of a number. -/
def bit (x i : Nat) : Bool := x / 2 ^ i % 2 == 1

/-- x with bits [lo + n - 1 : lo] replaced by the low n bits of y. -/
def setBits (x lo n y : Nat) : Nat :=
  x % 2 ^ lo + 2 ^ lo * (y % 2 ^ n) + 2 ^ (lo + n) * (x / 2 ^ (lo + n))

/-- 1 for true. -/
def b2n (b : Bool) : Nat := if b then 1 else 0

/-- The low n bits of x as a signed number. -/
def signedOf (n x : Nat) : Int :=
  if x % 2 ^ n < 2 ^ (n - 1) then (x % 2 ^ n : Nat) else (x % 2 ^ n : Nat) - (2 ^ n : Nat)

/-- The low n bits of an integer in two's complement. -/
def unsignedOf (n : Nat) (x : Int) : Nat := (x % (2 ^ n : Nat)).toNat

/-- The elements packed at `w` bits each, element 0 lowest (R245, R281). -/
def packElems (w : Nat) : List Nat → Nat
  | [] => 0
  | x :: xs => x % 2 ^ w + 2 ^ w * packElems w xs

/-- Element i of a value packed at `w` bits. -/
def elemAt (x w i : Nat) : Nat := x / 2 ^ (w * i) % 2 ^ w

/-- The first n elements of a value packed at `w` bits. -/
def unpackElems (w : Nat) : Nat → Nat → List Nat
  | 0, _ => []
  | n + 1, x => x % 2 ^ w :: unpackElems w n (x / 2 ^ w)

/-- The lanes 0 to n - 1 of a vector register (R281). -/
def lanesOf (n : Nat) (v : VecWord) : List Nat := unpackElems 32 n v.toNat

/-- A vector register from its lanes. -/
def ofLanes (l : List Nat) : VecWord := BitVec.ofNat 2048 (packElems 32 l)

/-- Insert at place i of a list, or leave the list where i is past its end. -/
def listSet {α : Type} : List α → Nat → α → List α
  | [], _, _ => []
  | _ :: l, 0, x => x :: l
  | y :: l, i + 1, x => y :: listSet l i x

/-- A key's value in an association list, or d. -/
def assocGet {β : Type} : List (Nat × β) → Nat → β → β
  | [], _, d => d
  | (k, v) :: l, a, d => if k = a then v else assocGet l a d

/-- Set a key's value; keys stay strictly rising. -/
def assocSet {β : Type} : List (Nat × β) → Nat → β → List (Nat × β)
  | [], a, v => [(a, v)]
  | (k, w) :: l, a, v =>
    if a < k then (a, v) :: (k, w) :: l
    else if a = k then (a, v) :: l
    else (k, w) :: assocSet l a v

/-- Remove a key. -/
def assocErase {β : Type} (l : List (Nat × β)) (a : Nat) : List (Nat × β) := l.filter fun e => e.1 ≠ a

end Sys2Proof.Machine
end

