-- ==== Sys2Proof/Machine/Flags.lean ====
section
/-! DEFINITION. The flags of VFLAGS (R257) and the traps they raise (R259). -/

namespace Sys2Proof.Machine

/-- A set of flags: NV, DZ, OF, UF, NX, IOV in bits 0 to 5 (R257). -/
abbrev FlagSet := BitVec 6

def flagNV : FlagSet := 1
def flagDZ : FlagSet := 2
def flagOF : FlagSet := 4
def flagUF : FlagSet := 8
def flagNX : FlagSet := 16
def flagIOV : FlagSet := 32

/-- A flag where a condition holds. -/
def flagIf (c : Bool) (f : FlagSet) : FlagSet := if c then f else 0

/-- The OR of the flags of the lanes of an operation (R257). -/
def flagsOr (l : List FlagSet) : FlagSet := l.foldl (· ||| ·) 0

/-- The flags that TRAPEN lets trap: bits 1 to 5 of the field enable NV, DZ, OF, UF and NX (R110, R259). -/
def enabledFlags (trapen : BitVec 16) (f : FlagSet) : FlagSet := f &&& (trapen >>> 1).setWidth 6 &&& 31

/-- The lowest subcause among a set of enabled flags: the number of its lowest bit (R259). -/
def lowestFlag (f : FlagSet) : Option Nat := (List.range 5).find? fun i => f.getLsbD i

end Sys2Proof.Machine
end

