-- ==== Sys2Proof/Machine/Float.lean ====
section
/-! DEFINITION. Number formats (13_formats R244 to R256): codes and their exact values, RoundToFormat, and the arithmetic
that every floating-point instruction uses. A finite value is exact: a sign and m × 2^e. A quotient, a root or an
approximate function that is no such number stands as a value between two neighbours far below any rounding position, which
rounds as the exact value does. -/

namespace Sys2Proof.Machine

/-- A datum of any format, exactly. -/
inductive FV where
  /-- A NaN, signalling or not. -/
  | nan (sig : Bool)
  | inf (neg : Bool)
  /-- (-1)^neg × m × 2^e; m = 0 is a signed zero. -/
  | fin (neg : Bool) (m : Nat) (e : Int)
deriving DecidableEq, Repr

/-- A binary format: a sign bit or none, exponent and mantissa widths, bias and special-value class (R246, R250). -/
structure Format where
  sign : Bool
  ew : Nat
  mw : Nat
  bias : Int
  cls : Nat
deriving DecidableEq, Repr

/-- The formats of R246. -/
def fp32 : Format := ⟨true, 8, 23, 127, 0⟩
def bf16 : Format := ⟨true, 8, 7, 127, 0⟩
def fp16 : Format := ⟨true, 5, 10, 15, 0⟩
/-- The scale format E4M3 as magnitudes: bias 7, the largest code 480 (R251). -/
def e4m3 : Format := ⟨false, 4, 3, 7, 2⟩

/-- The width W (R248). -/
def Format.width (f : Format) : Nat := b2n f.sign + f.ew + f.mw

/-- The largest finite magnitude's code without its sign (R250). -/
def Format.maxCode (f : Format) : Nat :=
  match f.cls with
  | 0 => (2 ^ f.ew - 1) * 2 ^ f.mw - 1
  | 1 => 2 ^ (f.ew + f.mw) - 2
  | _ => 2 ^ (f.ew + f.mw) - 1

/-- Emin, the exponent of the smallest normal and of the subnormals (R250, R253). -/
def Format.emin (f : Format) : Int := 1 - f.bias

/-- A magnitude code's value: m × 2^e (R250). -/
def Format.magnitude (f : Format) (c : Nat) : Nat × Int :=
  let e := c / 2 ^ f.mw
  let m := c % 2 ^ f.mw
  if e = 0 then (m, f.emin - f.mw) else (2 ^ f.mw + m, (e : Int) - f.bias - f.mw)

/-- The value of a code (R246, R250). -/
def Format.decode (f : Format) (code : Nat) : FV :=
  let c := code % 2 ^ (f.ew + f.mw)
  let neg := f.sign && bit code (f.ew + f.mw)
  if f.cls = 0 ∧ c / 2 ^ f.mw = 2 ^ f.ew - 1 then
    if c % 2 ^ f.mw = 0 then .inf neg else .nan (!bit c (f.mw - 1))
  else if f.cls = 1 ∧ c = 2 ^ (f.ew + f.mw) - 1 then .nan false
  else
    let v := f.magnitude c
    .fin neg v.1 v.2

/-- The sign bit of a code. -/
def Format.signBit (f : Format) (neg : Bool) : Nat := if f.sign && neg then 2 ^ (f.ew + f.mw) else 0

/-- The canonical NaN (R246, R250); a class-2 format has none. -/
def Format.canonNaN (f : Format) : Nat :=
  match f.cls with
  | 0 => (2 ^ f.ew - 1) * 2 ^ f.mw + 2 ^ (f.mw - 1)
  | 1 => 2 ^ (f.ew + f.mw) - 1
  | _ => 0

/-- ±∞ of a class-0 format. -/
def Format.infCode (f : Format) (neg : Bool) : Nat := f.signBit neg + (2 ^ f.ew - 1) * 2 ^ f.mw

/-- ±Max. -/
def Format.maxVal (f : Format) (neg : Bool) : Nat := f.signBit neg + f.maxCode

/-- The number of bits of a positive number less 1. -/
def floorLog2 (m : Nat) : Nat := Nat.log2 m

/-- Overflow of R254: the mode and the sign choose between Max and ∞ in class 0. -/
def Format.overflow (f : Format) (mode : Nat) (neg : Bool) : Nat × FlagSet :=
  (if f.cls = 0 ∧ (mode = 0 ∨ mode = 4 ∨ (mode = 2 ∧ !neg) ∨ (mode = 3 ∧ neg)) then f.infCode neg else f.maxVal neg,
    flagOF ||| flagNX)

/-- Whether a magnitude k + rem / 2^sh (in units of the spacing, rem ≠ 0) is rounded away from zero (R253). `odd`: the code
of k has bit 0 set, and k is not above Max (a candidate above Max counts as having bit 0 clear). -/
def roundUp (mode u : Nat) (neg odd : Bool) (rem sh : Nat) : Bool :=
  match mode with
  | 0 =>
    if 2 * rem = 2 ^ sh then odd else decide (2 * rem > 2 ^ sh)
  | 1 => false
  | 2 => !neg
  | 3 => neg
  | _ =>
    -- u < ((x - lo) / q) × 2^32 takes hi
    if neg then !decide (u * 2 ^ sh < (2 ^ sh - rem) * 2 ^ 32) else decide (u * 2 ^ sh < rem * 2 ^ 32)

/-- RoundToFormat of a finite value (R253): its code and flags. In a tie of mode 0 between Max with an even code and the candidate above it the rule
names no winner: the model takes Max, with NX and without OF (DESIGN CHOICE, log 73). -/
def Format.roundFin (f : Format) (neg : Bool) (m : Nat) (e : Int) (mode u : Nat) : Nat × FlagSet :=
  if m = 0 then (f.signBit neg, 0)
  else if !f.sign && neg then (0, flagNV)
  else
    let lg : Int := e + floorLog2 m
    let ex := max lg f.emin
    let qe := ex - f.mw
    let base := ((ex + f.bias - 1).toNat) * 2 ^ f.mw
    if qe ≤ e then
      let c := base + m * 2 ^ (e - qe).toNat
      if c > f.maxCode then f.overflow mode neg else (f.signBit neg + c, 0)
    else
      let sh := (qe - e).toNat
      let k := m / 2 ^ sh
      let rem := m % 2 ^ sh
      if rem = 0 then
        let c := base + k
        if c > f.maxCode then f.overflow mode neg else (f.signBit neg + c, 0)
      else
        let c0 := base + k
        let up := roundUp mode u neg (bit c0 0 && decide (c0 ≤ f.maxCode)) rem sh
        let c := if up then c0 + 1 else c0
        -- tininess: the magnitude rounded at its own precision stays below 2^Emin
        let sh' := ((lg - f.mw) - e).toNat
        let k' := m / 2 ^ sh'
        let rem' := m % 2 ^ sh'
        let odd' := decide (((k' : Int) + (lg + f.bias - 1) * (2 ^ f.mw : Nat)) % 2 = 1)
        let k'' := if rem' ≠ 0 ∧ roundUp mode u neg odd' rem' sh' then k' + 1 else k'
        let tiny := decide (lg < f.emin) &&
          !(decide (lg = f.emin - 1) && decide (k'' = 2 ^ (f.mw + 1)))
        if c > f.maxCode then f.overflow mode neg
        else (f.signBit neg + c, flagNX ||| flagIf tiny flagUF)

/-- RoundToFormat of any datum, with the special cases of R254. -/
def Format.round (f : Format) (x : FV) (mode u : Nat) : Nat × FlagSet :=
  match x with
  | .nan sig => if f.cls = 2 then (0, flagNV) else (f.canonNaN, flagIf sig flagNV)
  | .inf neg =>
    if !f.sign && neg then (0, flagNV)
    else if f.cls = 0 then (f.infCode neg, 0)
    else (f.maxVal neg, flagNV)
  | .fin neg m e => f.roundFin neg m e mode u

/-! ### Exact arithmetic -/

/-- The signed mantissa of a finite value at exponent `lsb` ≤ e. -/
def scaled (neg : Bool) (m : Nat) (e lsb : Int) : Int :=
  let v : Int := m * (2 ^ (e - lsb).toNat : Nat)
  if neg then -v else v

/-- The sum of two finite values; an exact zero takes its sign by R256. -/
def addFin (mode : Nat) (n1 : Bool) (m1 : Nat) (e1 : Int) (n2 : Bool) (m2 : Nat) (e2 : Int) : FV :=
  if m1 = 0 ∧ m2 = 0 then .fin (if n1 = n2 then n1 else decide (mode = 3)) 0 0
  else
    let e := min e1 e2
    let s := scaled n1 m1 e1 e + scaled n2 m2 e2 e
    if s = 0 then .fin (decide (mode = 3)) 0 0 else .fin (decide (s < 0)) s.natAbs e

/-- Negation. -/
def FV.neg : FV → FV
  | .nan s => .nan s
  | .inf n => .inf !n
  | .fin n m e => .fin (!n) m e

def FV.isNaN : FV → Bool
  | .nan _ => true
  | .inf _ => false
  | .fin _ _ _ => false

def FV.isSig : FV → Bool
  | .nan s => s
  | .inf _ => false
  | .fin _ _ _ => false

/-- The result of an operation before rounding: a datum and the flags of R256. -/
abbrev Pre := FV × FlagSet

/-- The canonical quiet NaN as a result. -/
def quiet (f : FlagSet) : Pre := (.nan false, f)

/-- a + b (R256). -/
def addFV (mode : Nat) (a b : FV) : Pre :=
  match a, b with
  | .nan s, y => quiet (flagIf (s || y.isSig) flagNV)
  | x, .nan s => quiet (flagIf (s || x.isSig) flagNV)
  | .inf n, .inf n' => if n = n' then (.inf n, 0) else quiet flagNV
  | .inf n, .fin _ _ _ => (.inf n, 0)
  | .fin _ _ _, .inf n => (.inf n, 0)
  | .fin n1 m1 e1, .fin n2 m2 e2 => (addFin mode n1 m1 e1 n2 m2 e2, 0)

/-- a × b (R256). -/
def mulFV (a b : FV) : Pre :=
  match a, b with
  | .nan s, y => quiet (flagIf (s || y.isSig) flagNV)
  | x, .nan s => quiet (flagIf (s || x.isSig) flagNV)
  | .inf n, .inf n' => (.inf (n != n'), 0)
  | .inf n, .fin n' m _ => if m = 0 then quiet flagNV else (.inf (n != n'), 0)
  | .fin n m _, .inf n' => if m = 0 then quiet flagNV else (.inf (n != n'), 0)
  | .fin n1 m1 e1, .fin n2 m2 e2 => (.fin (n1 != n2) (m1 * m2) (e1 + e2), 0)

/-- A positive number q + r / d, 0 ≤ r < d, at exponent e: exact when r = 0, else between q and q + 1. -/
def sticky (neg : Bool) (q r : Nat) (e : Int) : FV := if r = 0 then .fin neg q e else .fin neg (2 * q + 1) (e - 1)

/-- Bits below the leading bit to which quotients and roots are developed: far below any position that rounding looks at
(24 bits of FP32, 149 below it, 32 of a draw). -/
def guardBits : Nat := 320

/-- The quotient of two positive finite values. -/
def divPos (neg : Bool) (m1 : Nat) (e1 : Int) (m2 : Nat) (e2 : Int) : FV :=
  let k := guardBits + Nat.log2 m2
  sticky neg (m1 * 2 ^ k / m2) (m1 * 2 ^ k % m2) (e1 - e2 - k)

/-- a / b (R256): a finite nonzero value by zero raises DZ. -/
def divFV (a b : FV) : Pre :=
  match a, b with
  | .nan s, y => quiet (flagIf (s || y.isSig) flagNV)
  | x, .nan s => quiet (flagIf (s || x.isSig) flagNV)
  | .inf _, .inf _ => quiet flagNV
  | .inf n, .fin n' _ _ => (.inf (n != n'), 0)
  | .fin n _ _, .inf n' => (.fin (n != n') 0 0, 0)
  | .fin n1 m1 e1, .fin n2 m2 e2 =>
    if m2 = 0 then (if m1 = 0 then quiet flagNV else (.inf (n1 != n2), flagDZ))
    else if m1 = 0 then (.fin (n1 != n2) 0 0, 0)
    else (divPos (n1 != n2) m1 e1 m2 e2, 0)

/-- The integer square root, one bit at a time from bit n - 1 of the root down. -/
def isqrt (x : Nat) : Nat → Nat → Nat
  | 0, r => r
  | n + 1, r => if (r + 2 ^ n) * (r + 2 ^ n) ≤ x then isqrt x n (r + 2 ^ n) else isqrt x n r

/-- The root of a positive finite value. -/
def sqrtPos (m : Nat) (e : Int) : FV :=
  let odd := e % 2 ≠ 0
  let m1 := if odd then 2 * m else m
  let e1 := if odd then e - 1 else e
  let x := m1 * 2 ^ (2 * guardBits)
  let r := isqrt x (Nat.log2 x / 2 + 1) 0
  sticky false r (x - r * r) (e1 / 2 - guardBits)

/-- √a (R256): the root of -0 is -0. -/
def sqrtFV (a : FV) : Pre :=
  match a with
  | .nan s => quiet (flagIf s flagNV)
  | .inf n => if n then quiet flagNV else (.inf false, 0)
  | .fin n m e => if m = 0 then (.fin n 0 0, 0) else if n then quiet flagNV else (sqrtPos m e, 0)

/-- a × b + c with one rounding (R290): an infinite product of a zero raises NV even beside a NaN. -/
def fmaFV (mode : Nat) (a b c : FV) : Pre :=
  let nv := (mulFV a b).2
  if a.isNaN || b.isNaN || c.isNaN then
    quiet (flagIf (a.isSig || b.isSig || c.isSig) flagNV ||| (if a.isNaN || b.isNaN then 0 else nv))
  else if nv ≠ 0 then quiet flagNV
  else addFV mode (mulFV a b).1 c

/-- a < b for data that are no NaN; the zeros are equal. -/
def ltFV (a b : FV) : Bool :=
  match a, b with
  | .nan _, _ => false
  | _, .nan _ => false
  | .inf n, .inf n' => n && !n'
  | .inf n, .fin _ _ _ => n
  | .fin _ _ _, .inf n => !n
  | .fin n1 m1 e1, .fin n2 m2 e2 =>
    let e := min e1 e2
    decide (scaled n1 m1 e1 e < scaled n2 m2 e2 e)

/-- a = b for data that are no NaN; the zeros are equal. -/
def eqFV (a b : FV) : Bool := !a.isNaN && !b.isNaN && !ltFV a b && !ltFV b a

/-- The magnitude of a finite value compared: |a| < |b|. -/
def FV.abs : FV → FV
  | .nan s => .nan s
  | .inf _ => .inf false
  | .fin _ m e => .fin false m e

/-! ### Conversion to integers (R255) -/

/-- The integer that a finite value rounds to, and whether it differs from the value. -/
def roundInt (neg : Bool) (m : Nat) (e : Int) (mode u : Nat) : Int × Bool :=
  if 0 ≤ e then (scaled neg m e 0, false)
  else
    let sh := (-e).toNat
    let k := m / 2 ^ sh
    let rem := m % 2 ^ sh
    if rem = 0 then (if neg then -(k : Int) else k, false)
    else
      let k' := if roundUp mode u neg (bit k 0) rem sh then k + 1 else k
      (if neg then -(k' : Int) else k', true)

/-- Conversion to an integer of n bits, signed or not, saturating (R255): the code and the flags. -/
def toInt (x : FV) (n : Nat) (signed : Bool) (mode u : Nat) : Nat × FlagSet :=
  let hi : Int := if signed then 2 ^ (n - 1) - 1 else 2 ^ n - 1
  let lo : Int := if signed then -(2 ^ (n - 1)) else 0
  match x with
  | .nan _ => (0, flagNV)
  | .inf neg => (unsignedOf n (if neg then lo else hi), flagNV)
  | .fin neg m e =>
    let r := roundInt neg m e mode u
    if r.1 > hi then (unsignedOf n hi, flagNV)
    else if r.1 < lo then (unsignedOf n lo, flagNV)
    else (unsignedOf n r.1, flagIf r.2 flagNX)

/-- An integer as a datum. -/
def ofInt (x : Int) : FV := .fin (decide (x < 0)) x.natAbs 0

/-! ### Format descriptors (R248, R249) -/

/-- The format that a descriptor describes. -/
def fdFormat (d : Word32) : Format where
  sign := d.getLsbD 0
  ew := bits d.toNat 1 3
  mw := bits d.toNat 4 3
  bias := signedOf 8 (bits d.toNat 8 8)
  cls := bits d.toNat 16 2

/-- SCALEFMT (R248). -/
def fdScaleE4m3 (d : Word32) : Bool := d.getLsbD 18

/-- The conditions of R249 other than that on SCALEFMT. -/
def fdFormOk (d : Word32) : Bool :=
  let f := fdFormat d
  let mx := f.magnitude f.maxCode
  let mn := f.magnitude 1
  let mn := if mn.1 = 0 then f.magnitude (2 ^ f.mw) else mn
  decide (2 ≤ f.width ∧ f.width ≤ 8) && decide (f.cls ≤ 2) &&
    (decide (f.cls ≠ 0) || (decide (2 ≤ f.ew) && decide (1 ≤ f.mw))) &&
    decide (mx.1 ≠ 0) &&
    -- Max ≤ (2 - 2^-23) × 2^127 and the smallest nonzero magnitude ≥ 2^-149
    !ltFV (.fin false (2 ^ 24 - 1) 104) (.fin false mx.1 mx.2) &&
    !ltFV (.fin false mn.1 mn.2) (.fin false 1 (-149))

/-- VALID under the acceptance of feature bit 7 (R249). -/
def fdValid (d : Word32) (feature7 : Bool) : Bool := fdFormOk d && (!fdScaleE4m3 d || feature7)

/-! ### FP32 operations (R286 to R288) -/

/-- An FP32 code's datum. -/
def f32 (x : Nat) : FV := fp32.decode x

/-- Round a result to FP32 under a mode: the code and all flags. -/
def round32 (p : Pre) (mode u : Nat) : Nat × FlagSet :=
  let r := fp32.round p.1 mode u
  (r.1, r.2 ||| p.2)

def fAdd (mode u a b : Nat) : Nat × FlagSet := round32 (addFV mode (f32 a) (f32 b)) mode u
def fSub (mode u a b : Nat) : Nat × FlagSet := round32 (addFV mode (f32 a) (f32 b).neg) mode u
def fMul (mode u a b : Nat) : Nat × FlagSet := round32 (mulFV (f32 a) (f32 b)) mode u
def fDiv (mode u a b : Nat) : Nat × FlagSet := round32 (divFV (f32 a) (f32 b)) mode u
def fSqrt (mode u a : Nat) : Nat × FlagSet := round32 (sqrtFV (f32 a)) mode u

/-- The canonical FP32 NaN (R246). -/
def nan32 : Nat := 0x7FC00000

/-- fmin and fmax (R287): -0 below +0. -/
def fMin (a b : Nat) : Nat × FlagSet :=
  let x := f32 a
  let y := f32 b
  if x.isNaN || y.isNaN then (nan32, flagIf (x.isSig || y.isSig) flagNV)
  else if ltFV x y then (a, 0)
  else if ltFV y x then (b, 0)
  else (if bit a 31 then a else b, 0)

def fMax (a b : Nat) : Nat × FlagSet :=
  let x := f32 a
  let y := f32 b
  if x.isNaN || y.isNaN then (nan32, flagIf (x.isSig || y.isSig) flagNV)
  else if ltFV x y then (b, 0)
  else if ltFV y x then (a, 0)
  else (if bit a 31 then b else a, 0)

/-- fabs and fneg (R287). -/
def fAbs (a : Nat) : Nat × FlagSet :=
  if (f32 a).isNaN then (nan32, flagIf (f32 a).isSig flagNV) else (a % 2 ^ 31, 0)

def fNeg (a : Nat) : Nat × FlagSet :=
  if (f32 a).isNaN then (nan32, flagIf (f32 a).isSig flagNV)
  else (if bit a 31 then a % 2 ^ 31 else a % 2 ^ 31 + 2 ^ 31, 0)

/-- The compares of R287. -/
def fEq (a b : Nat) : Bool × FlagSet := (eqFV (f32 a) (f32 b), flagIf ((f32 a).isSig || (f32 b).isSig) flagNV)
def fLt (a b : Nat) : Bool × FlagSet := (ltFV (f32 a) (f32 b), flagIf ((f32 a).isNaN || (f32 b).isNaN) flagNV)
def fLe (a b : Nat) : Bool × FlagSet :=
  (ltFV (f32 a) (f32 b) || eqFV (f32 a) (f32 b), flagIf ((f32 a).isNaN || (f32 b).isNaN) flagNV)
def fUn (a b : Nat) : Bool × FlagSet :=
  ((f32 a).isNaN || (f32 b).isNaN, flagIf ((f32 a).isSig || (f32 b).isSig) flagNV)

/-- Widening to FP32: exact, but for a signalling NaN (R254). -/
def widen (f : Format) (c : Nat) : Nat × FlagSet := fp32.round (f.decode c) 0 0

/-- Narrowing from FP32 (R253). -/
def narrowTo (f : Format) (mode u c : Nat) : Nat × FlagSet := f.round (f32 c) mode u

/-! ### Scales (R251) -/

/-- The value of a scale code; E8M0 has no zero. -/
def scaleValue (e4 : Bool) (c : Nat) : FV :=
  if e4 then (if bit c 7 then .nan false else e4m3.decode c)
  else if c = 255 then .nan false
  else .fin false 1 ((c : Int) - 127)

/-- The NaN code of a scale format. -/
def scaleNaN (e4 : Bool) : Nat := if e4 then 0x80 else 0xFF

/-- E8M0 from a positive value: an exponent field, ties to the even field (R251). -/
def e8m0Round (m : Nat) (e : Int) (mode u : Nat) : Nat × FlagSet :=
  let lg : Int := e + floorLog2 m
  if lg < -127 then (0, flagUF ||| flagNX)
  else
    let sh := floorLog2 m
    let rem := m % 2 ^ sh
    let c := (lg + 127).toNat
    if rem = 0 then (if c > 254 then (0xFE, flagOF ||| flagNX) else (c, 0))
    else
      let c' := if roundUp mode u false (bit c 0 && decide (c ≤ 254)) rem sh then c + 1 else c
      if c' > 254 then (0xFE, flagOF ||| flagNX) else (c', flagNX)

/-- Conversion of a value into a scale format (R251). -/
def scaleRound (e4 : Bool) (x : FV) (mode u : Nat) : Nat × FlagSet :=
  match x with
  | .nan s => (scaleNaN e4, flagIf s flagNV)
  | .inf neg => if neg then (0, flagNV) else (if e4 then 0x7F else 0xFE, flagOF ||| flagNX)
  | .fin neg m e =>
    if m = 0 then (0, if e4 then 0 else flagNV)
    else if neg then (0, flagNV)
    else if e4 then
      let r := e4m3.roundFin false m e mode u
      r
    else e8m0Round m e mode u

/-- ScaledValue of R252, with its flags. -/
def scaledValue (x s : FV) : Pre :=
  match x, s with
  | .nan _, _ => (.nan false, 0)
  | _, .nan _ => (.nan false, 0)
  | .inf n, .fin _ m _ => if m = 0 then (.nan false, flagNV) else (.inf n, 0)
  | .fin n m e, .fin _ m' e' => (.fin n (m * m') (e + e'), 0)
  | x, .inf _ => (x, 0)

/-! ### Approximate functions (R305) -/

/-- Fixed-point fraction bits of the series below. -/
def fixBits : Nat := 400

/-- Σ 1 / (k 2^k) for k from n down to 1: ln 2 in fixed point. -/
def ln2Series : Nat → Nat
  | 0 => 0
  | k + 1 => 2 ^ fixBits / ((k + 1) * 2 ^ (k + 1)) + ln2Series k

def ln2Fix : Nat := ln2Series 420

/-- Σ t^i / i! from term i on, the term in hand given. -/
def expSeries (t : Nat) : Nat → Nat → Nat → Nat
  | 0, _, _ => 0
  | n + 1, i, term => term + expSeries t n (i + 1) (term * t / 2 ^ fixBits / (i + 1))

/-- 2^(f / 2^fixBits) for f below 2^fixBits, in fixed point. -/
def exp2Fix (f : Nat) : Nat := expSeries (f * ln2Fix / 2 ^ fixBits) 100 0 (2 ^ fixBits)

/-- Σ z^(2i+1) / (2i + 1): half the logarithm of (1 + z) / (1 - z). -/
def atanhSeries (z2 : Nat) : Nat → Nat → Nat → Nat
  | 0, _, _ => 0
  | n + 1, i, pow => pow / (2 * i + 1) + atanhSeries z2 n (i + 1) (pow * z2 / 2 ^ fixBits)

/-- log2 of m / 2^w for 2^w ≤ m < 2^(w+1), in fixed point. -/
def log2Fix (m w : Nat) : Nat :=
  let z := (m - 2 ^ w) * 2 ^ fixBits / (m + 2 ^ w)
  2 * atanhSeries (z * z / 2 ^ fixBits) 140 0 z * 2 ^ fixBits / ln2Fix

/-- 2^x of a finite value: exact for an integer, else between two neighbours (log 7). -/
def exp2Fin (neg : Bool) (m : Nat) (e : Int) : FV :=
  if m = 0 then .fin false 1 0
  else if e + floorLog2 m ≥ 9 then (if neg then .fin false 3 (-2000) else .fin false 3 2000)
  else
    let x := scaled neg m e (min e 0)
    let sh := (-(min e 0)).toNat
    let i := x.fdiv (2 ^ sh)
    let f := (x.fmod (2 ^ sh)).toNat
    if f = 0 then .fin false 1 i
    else .fin false (2 * exp2Fix (f * 2 ^ fixBits / 2 ^ sh) + 1) (i - fixBits - 1)

/-- log2 of a positive finite value: exact for a power of two, else between two neighbours (log 7). -/
def log2Fin (m : Nat) (e : Int) : FV :=
  let w := floorLog2 m
  let i := e + w
  if m = 2 ^ w then ofInt i
  else
    let v : Int := i * (2 ^ fixBits : Nat) + log2Fix m w
    .fin (decide (v < 0)) (2 * v.natAbs + 1) (-(fixBits : Int) - 1)

def exp2FV (a : FV) : Pre :=
  match a with
  | .nan s => quiet (flagIf s flagNV)
  | .inf n => (if n then .fin false 0 0 else .inf false, 0)
  | .fin n m e => (exp2Fin n m e, 0)

def rcpFV (a : FV) : Pre := divFV (.fin false 1 0) a

def rsqrtFV (a : FV) : Pre :=
  match a with
  | .nan s => quiet (flagIf s flagNV)
  | .inf n => if n then quiet flagNV else (.fin false 0 0, 0)
  | .fin n m e =>
    if m = 0 then (.inf n, flagDZ)
    else if n then quiet flagNV
    else
      -- √(2^2k / m) with an even exponent
      let odd := e % 2 ≠ 0
      let m1 := if odd then 2 * m else m
      let e1 := if odd then e - 1 else e
      let k := guardBits + Nat.log2 m1
      let x := 2 ^ (2 * k) / m1
      let r := isqrt x (Nat.log2 x / 2 + 1) 0
      (sticky false r (2 ^ (2 * k) - r * r * m1) (-(e1 / 2) - k), 0)

def log2FV (a : FV) : Pre :=
  match a with
  | .nan s => quiet (flagIf s flagNV)
  | .inf n => if n then quiet flagNV else (.inf false, 0)
  | .fin n m e => if m = 0 then (.inf true, flagDZ) else if n then quiet flagNV else (log2Fin m e, 0)

end Sys2Proof.Machine
end

