-- ==== Sys2Proof/Machine/Memory.lean ====
section
/-! DEFINITION. Byte memories (R7, R16): reading and writing bytes and little-endian words in the one canonical form. -/

namespace Sys2Proof.Machine

/-- The byte at an address; an unlisted address reads 0 (log 2). -/
def memGet : Memory → Nat → Byte
  | [], _ => 0
  | (k, v) :: m, a => if k = a then v else memGet m a

/-- Write one byte, keeping the canonical form: writing 0 removes the entry. -/
def memSet : Memory → Nat → Byte → Memory
  | [], a, b => if b = 0 then [] else [(a, b)]
  | (k, v) :: m, a, b =>
    if a < k then (if b = 0 then (k, v) :: m else (a, b) :: (k, v) :: m)
    else if a = k then (if b = 0 then m else (a, b) :: m)
    else (k, v) :: memSet m a b

/-- Every entry lies above `lo` (none: above nothing), addresses rise strictly and no entry is 0. -/
def Memory.wfFrom : Option Nat → Memory → Bool
  | _, [] => true
  | lo, (k, v) :: m => (match lo with | none => true | some l => decide (l < k)) && decide (v ≠ 0) && Memory.wfFrom (some k) m

/-- The canonical form of a memory. -/
def Memory.wf (m : Memory) : Bool := Memory.wfFrom none m

/-- The n bytes at an address as a little-endian number (R7). -/
def memRead (m : Memory) : Nat → Nat → Nat
  | _, 0 => 0
  | a, n + 1 => (memGet m a).toNat + 256 * memRead m (a + 1) n

/-- Write the n low bytes of a number, little-endian (R7). -/
def memWrite (m : Memory) : Nat → Nat → Nat → Memory
  | _, 0, _ => m
  | a, n + 1, v => memWrite (memSet m a (BitVec.ofNat 8 v)) (a + 1) n (v / 256)

/-- Write those of the n bytes whose mask bit is set (R162). -/
def memWriteMask (m : Memory) : Nat → Nat → Nat → Nat → Memory
  | _, 0, _, _ => m
  | a, n + 1, v, mask =>
    memWriteMask (if mask % 2 = 1 then memSet m a (BitVec.ofNat 8 v) else m) (a + 1) n (v / 256) (mask / 2)

/-- Write n zero bytes: entries in the range go. -/
def memZero (m : Memory) (a n : Nat) : Memory := m.filter fun e => e.1 < a || a + n ≤ e.1

/-- The n bytes at an address, lowest first. -/
def memBytes (m : Memory) (a n : Nat) : List Byte := (List.range n).map fun i => memGet m (a + i)

end Sys2Proof.Machine
end

