-- ==== Sys2Proof/Machine/Ops.lean ====
section
/-! DEFINITION. The operations that every meaning shares: registers of the issuing thread, effects that land later, writes
of local memory, taking a trap and returning from one, issue itself, and the counters (03_issue R72, 26_traps). -/

namespace Sys2Proof.Machine

/-- The outcome of one step. -/
abbrev Out := Host.Outcome State Fault Refusal

/-! ### Updates of one part of the state -/

def State.updPrim (s : State) (f : Primary → Primary) : State := { s with prim := f s.prim }
def State.updCore (s : State) (f : CoreState → CoreState) : State := { s with core := f s.core }
def State.updDie (s : State) (f : Die → Die) : State := { s with die := f s.die }
def State.updDev (s : State) (f : Dev → Dev) : State := { s with dev := f s.dev }
def State.setPawns (s : State) (p : Vector Pawn 16) : State := { s with pawns := p }
def State.setCtx (s : State) (c : Ctx) : State := { s with ctx := c }
def State.setLm (s : State) (m : Memory) : State := { s with lm := m }
def State.setPm (s : State) (m : Memory) : State := { s with pm := m }
def State.setTurn (s : State) (t : Turn) : State := { s with turn := t }
def State.setAgenda (s : State) (l : List (Ctx × Instr)) : State := { s with agenda := l }
def State.setWork (s : State) (l : List (Ctx × Instr)) : State := { s with work := l }
def State.setOracle (s : State) (l : List Nat) : State := { s with oracle := l }
/-- Advance the counter that free values are drawn by. -/
def State.bumpFree (s : State) : State := { s with free := s.free + 1 }

/-- A store outside the core's own launch state: L2, the TLBs, the pin tables. -/
def ErrLoc.stays : ErrLoc → Bool
  | .l2 _ => true
  | .tlb _ _ => true
  | .pin _ => true
  | .queue _ _ => true
  | _ => false

/-- A store of which a context save writes the words: registers, pending entries, and what the engine queues hold (R405). -/
def ErrLoc.recorded : ErrLoc → Bool
  | .reg _ _ _ => true
  | .entry _ => true
  | .cmd _ => true
  | .record _ _ => true
  | _ => false

/-- A core's state with what does not belong to its launch: its inputs, what other cores of the cluster have registered, its trace unit, its
TLBs and its walkers' caches. -/
def CoreState.inWorld (c w : CoreState) : CoreState :=
  { c with
    peerFreeze := w.peerFreeze
    tokens := w.tokens
    tokens3 := w.tokens3
    mesh := w.mesh
    peers := w.peers
    peerLocks := w.peerLocks
    drivers := w.drivers
    trOps := w.trOps
    trLost := w.trLost
    tlb := w.tlb
    tlb2 := w.tlb2
    ptrs := w.ptrs
    struck := w.struck.filter ErrLoc.stays }

/-- A budget of the tick, one less: none is no limit (R68). -/
def spend (b : Option Nat) : Option Nat := b.map fun n => n - 1

/-- A power token that was asked for has been withheld (R431). -/
def State.withhold (s : State) : State := s.updDev fun d => { d with withheld := true }
def State.spendToken (s : State) : State := s.updCore fun c => { c with tokens := spend c.tokens }
def State.spendMesh (s : State) : State := s.updCore fun c => { c with mesh := spend c.mesh }

/-- Pawn thread t. -/
def State.pawn (s : State) (t : Nat) : Pawn := vget s.pawns t Pawn.initial
def State.updPawn (s : State) (t : Nat) (f : Pawn → Pawn) : State := s.setPawns (vset s.pawns t (f (s.pawn t)))

/-- A step that becomes due after those that are due already. -/
def State.due (s : State) (c : Ctx) (i : Instr) : State := s.setAgenda (s.agenda ++ [(c, i)])

/-- The context in which an agent's step runs. -/
def agentCtx (a : Agent) : Ctx := { agent := a }

/-- The registers of the issuing thread that every thread has for itself. -/
def State.th (s : State) : Thread :=
  match s.ctx.agent with
  | .primary => s.prim.th
  | .pawn t => (s.pawn t).th

def State.updTh (s : State) (f : Thread → Thread) : State :=
  match s.ctx.agent with
  | .primary => s.updPrim fun p => { p with th := f p.th }
  | .pawn t => s.updPawn t fun p => { p with th := f p.th }

/-- Whether the issuing thread is a pawn. -/
def State.isPawn (s : State) : Bool :=
  match s.ctx.agent with
  | .primary => false
  | .pawn _ => true

/-- The pawn number of the issuing thread; 16 for the primary, as THREAD reads (R90). -/
def State.threadNo (s : State) : Nat :=
  match s.ctx.agent with
  | .primary => 16
  | .pawn t => t

/-- Lanes of a vector register: 64 on the primary, 32 for a pawn (R149, R281). -/
def State.lanes (s : State) : Nat := if s.isPawn then 32 else 64

/-- A latency that differs between the primary and a pawn (R58, R61). -/
def State.lat (s : State) (prim pawn : Nat) : Nat := if s.isPawn then pawn else prim

/-- The unit code of the op in hand (R46). -/
def State.unit (s : State) : Nat :=
  if s.isPawn then 6
  else match s.ctx.slot with
    | 0 => 0
    | 1 => 1
    | 2 => 1
    | 3 => 2
    | 4 => 2
    | 5 => 3
    | 6 => 4
    | 7 => 4
    | _ => 5

/-- The privilege mode of the issuing thread is user (R388). -/
def State.userMode (s : State) : Bool := decide (s.th.mode = 0)

/-- An accepted feature (R136, R137): FEATACC of the device registers. -/
def State.feature (s : State) (n : Nat) : Bool := bit (assocGet s.dev.regs 0x44 0) n

/-- The key of offset 0 of the core's local memory: its LM space address (R22). -/
def CoreState.lmBase (c : CoreState) : Nat :=
  c.cfg.die * 2 ^ 28 + c.cfg.dieClus * 2 ^ 24 + c.cfg.coreInClus * 2 ^ 21

/-! ### Registers of the issuing thread (R39, R79) -/

/-- The register that a vector field names: rebased by the index flag of L0, L1, V0 and V1 (R35). -/
def State.vfield (s : State) (f : Field6) : Nat :=
  if s.ctx.ix then
    let ib := match s.ctx.slot with
      | 6 => vget s.prim.ib 0 0
      | 7 => vget s.prim.ib 1 0
      | 3 => vget s.prim.ib 2 0
      | _ => vget s.prim.ib 3 0
    (f.toNat + ib.toNat) % 48
  else f.toNat

/-- A scalar source: s60 to s63 receive from the port latches; x0 reads zero (R79). -/
def State.readS (s : State) (f : Field6) : Word64 :=
  match s.ctx.agent with
  | .primary => if f.toNat < 60 then vget s.prim.s f.toNat 0 else vget s.prim.q (f.toNat - 60) 0
  | .pawn t => if f = 0 then 0 else vget (s.pawn t).x f.toNat 0

/-- A vector source: v60 to v63 receive from the vq latches (R223). -/
def State.readV (s : State) (f : Field6) : VecWord :=
  match s.ctx.agent with
  | .primary =>
    let r := s.vfield f
    if r < 60 then vget s.prim.v r 0 else vget s.prim.vq (r - 60) 0
  | .pawn t => (vget (s.pawn t).y f.toNat 0).setWidth 2048

def State.readB (s : State) (n : Nat) : Bool :=
  match s.ctx.agent with
  | .primary => vget s.prim.b n false
  | .pawn t => vget (s.pawn t).b n false

def State.readM (s : State) (n : Nat) : Word64 :=
  match s.ctx.agent with
  | .primary => vget s.prim.m n 0
  | .pawn t => (vget (s.pawn t).m n 0).setWidth 64

/-- Where a scalar result goes; a port takes its route at issue (R226). -/
def State.dstS (s : State) (f : Field6) : Dst :=
  match s.ctx.agent with
  | .primary => if f.toNat < 60 then .s f.toNat else .sport (f.toNat - 60) (vget s.prim.route (f.toNat - 60) 0)
  | .pawn _ => if f = 0 then .discard else .s f.toNat

/-- Where a vector result goes: mx0 and mx1 take no write but the matrix unit's (R149, R282). -/
def State.dstV (s : State) (f : Field6) : Dst :=
  match s.ctx.agent with
  | .primary =>
    let r := s.vfield f
    if r < 56 then .v r
    else if r < 60 then .discard
    else .vport (r - 60) (vget s.prim.route (r - 56) 0)
  | .pawn _ => .v f.toNat

/-! ### Effects that land later (R56, R390) -/

/-- The entry of an effect of the op in hand that takes place `count` cycles after its issue. The ops beside an sret issue in supervisor
mode (R390, R392). -/
def State.entry (s : State) (count : Nat) (e : Eff) : PEntry where
  count := count
  op := match s.ctx.agent with
    | .primary => s.prim.opCount
    | .pawn t => (s.pawn t).opCount
  unit := s.unit
  slot := s.ctx.slot
  pc := s.ctx.pc
  sup := decide (s.th.mode ≠ 0) || (!s.isPawn && s.prim.resuming)
  eff := e

/-- Queue an effect of the op in hand. -/
def State.emit (s : State) (count : Nat) (e : Eff) : State :=
  match s.ctx.agent with
  | .primary => s.updPrim fun p => { p with fl := { p.fl with pend := p.fl.pend ++ [s.entry count e] } }
  | .pawn t => s.updPawn t fun p => { p with pend := p.pend ++ [s.entry count e] }

/-- A value lands in a register after `lat` cycles. -/
def State.land (s : State) (lat : Nat) (d : Dst) (v : Nat) : State := s.emit lat (.reg d (BitVec.ofNat 4096 v))

/-- Flags that the op in hand raises in the cycle in which its result lands (R258). -/
def State.raise (s : State) (lat : Nat) (f : BitVec 6) : State := if f = 0 then s else s.emit lat (.flags f)

/-- A scalar result. -/
def State.landS (s : State) (lat : Nat) (f : Field6) (v : Word64) : State := s.land lat (s.dstS f) v.toNat

/-- A vector result. -/
def State.landV (s : State) (lat : Nat) (f : Field6) (v : VecWord) : State := s.land lat (s.dstV f) v.toNat

/-- A predicate result. -/
def State.landB (s : State) (lat n : Nat) (v : Bool) : State := s.land lat (.b n) (b2n v)

/-- A mask result. -/
def State.landM (s : State) (lat n : Nat) (v : Word64) : State := s.land lat (.m n) v.toNat

/-- An access to the own core's banks: two cycles after issue on the primary, when granted for a pawn (R58, R61). `rel`
and `acq` order it against the thread's remote and G-class accesses (R154). -/
def State.accessOrd (s : State) (rel acq : Bool) (a : BankAccess) : State :=
  match s.ctx.agent with
  | .primary => s.updPrim fun p => { p with fl := { p.fl with pend := p.fl.pend ++ [{ s.entry 2 (.bank a) with acq := acq }] } }
  | .pawn t => s.updPawn t fun p => { p with waiting := p.waiting ++ [⟨0, p.opCount, a, rel, acq, [], false⟩] }

/-- An access without such an order. -/
def State.access (s : State) (a : BankAccess) : State := s.accessOrd false false a

/-- The number of the op in hand among its thread's. -/
def State.opNo (s : State) : Nat :=
  match s.ctx.agent with
  | .primary => s.prim.opCount
  | .pawn t => (s.pawn t).opCount

/-- The op holds its slot for n cycles, the issue cycle included (R59); a pawn op holds none (R71). -/
def State.hold (s : State) (n : Nat) : State :=
  match s.ctx.agent with
  | .primary => s.updPrim fun p => { p with fl := { p.fl with held := vset p.fl.held s.ctx.slot n } }
  | .pawn _ => s

/-- A resource stays in use for n cycles (R313). -/
def State.inUse (s : State) (n : Nat) (r : Res) : State :=
  s.updPrim fun p => { p with fl := { p.fl with uses := p.fl.uses ++ [(n, r)] } }

/-! ### Local memory -/

/-- A monitor on a local-memory line that the written bytes meet records a hit (R199). -/
def Monitor.lmWritten (m : Monitor) (key n : Nat) : Monitor :=
  if m.armed && m.isLocal && decide (key / 64 ≤ m.line) && decide (m.line ≤ (key + n - 1) / 64) then { m with hit := true } else m

/-- Every pawn's monitors see a write of n bytes. -/
def State.hitLocal (s : State) (key n : Nat) : State :=
  s.setPawns (vmap (fun p => { p with mon := vmap (fun m => m.lmWritten key n) p.mon }) s.pawns)

/-- A write over the bytes of a run of bank words: the bad words that it covers whole are good again (R415). -/
def State.healLm (s : State) (key n : Nat) : State :=
  { s with badLm := s.badLm.filter fun w => decide (8 * w < key) || decide (key + n < 8 * w + 8) }

/-- A write of local memory by any agent (R139, R199). -/
def State.lmWrite (s : State) (key n v : Nat) : State := ((s.setLm (memWrite s.lm key n v)).hitLocal key n).healLm key n

/-- The bank word of a key, and the bank that holds it (R139). -/
def bankOf (key : Nat) : Nat := key / 8 % 64

/-- The bank words that an element list touches, each once (R152). -/
def bankWords (addrs : List Nat) (size : Nat) : List Nat :=
  (addrs.flatMap fun a => (List.range ((a + size - 1) / 8 - a / 8 + 1)).map fun i => a / 8 + i).foldr
    (fun w l => if w ∈ l then l else w :: l) []

/-- The bank words of an access. -/
def BankAccess.words : BankAccess → List Nat
  | .read as n _ _ _ _ => bankWords as n
  | .write as n _ => bankWords as n
  | .rmw a _ _ _ _ _ => [a / 8]

/-- The banks of an access as a mask. -/
def BankAccess.banks (a : BankAccess) : BitVec 64 :=
  a.words.foldl (fun m w => m ||| (1#64 <<< (w % 64))) 0

/-- The new value of an atomic, or none where no write is made (R153). -/
def LmOp.apply (f : LmOp) (old v c : Word64) : Option Word64 :=
  match f with
  | .add => some (old + v)
  | .xchg => some v
  | .cas => if old = c then some v else none
  | .min => some (if old.toInt ≤ v.toInt then old else v)
  | .max => some (if old.toInt ≤ v.toInt then v else old)
  | .and => some (old &&& v)
  | .or => some (old ||| v)

/-- An element extended to `width` bits. -/
def extendElem (size width : Nat) (signed : Bool) (x : Nat) : Nat :=
  if signed then unsignedOf width (signedOf (8 * size) x) else x

/-- The value that a bank read gives its destination: element i at bit i × width. -/
def bankValue (m : Memory) (addrs : List Nat) (size width : Nat) (signed : Bool) : Nat :=
  packElems width (addrs.map fun a => extendElem size width signed (memRead m a size))

/-- The bank words that the elements of a list cover whole between them (R415). -/
def coveredWords (addrs : List Nat) (size : Nat) : List Nat :=
  (bankWords addrs size).filter fun w => (List.range 8).all fun i => addrs.any fun a => decide (a ≤ 8 * w + i) && decide (8 * w + i < a + size)

/-- Write each element, in order: a later element's byte stands (R152). -/
def State.lmWriteAll (s : State) (size : Nat) : List Nat → List Nat → State
  | a :: as, v :: vs => (s.lmWrite a size v).lmWriteAll size as vs
  | _, _ => s

/-- The write of an access: each element, in order; what it covers whole is good again. -/
def State.lmStore (s : State) (size : Nat) (addrs vals : List Nat) : State :=
  let s := s.lmWriteAll size addrs vals
  { s with badLm := s.badLm.filter fun w => !decide (w ∈ coveredWords addrs size) }

/-! ### Taking a trap (R391, R393 to R398) -/

/-- A trap at the op in hand. -/
def State.trapAt (s : State) (code : Nat) (addr arg : Word64) : TrapRec where
  code := BitVec.ofNat 9 code
  addr := addr
  arg := arg
  slot := if s.isPawn then 15 else s.ctx.slot

/-- An encoding or privilege trap of class 0: subcause and the unit of the op, its address and its word (R46, R394). -/
def State.encTrap (s : State) (sub : Nat) : TrapRec :=
  s.trapAt (8 * sub + s.unit) s.ctx.pc (s.ctx.word.setWidth 64)

/-- TCAUSE as trap entry writes it: VALID 1, PMODE 0 (R391, R393). -/
def tcauseOf (code : Cause) (slot : Nat) (delay : Bool) : BitVec 17 :=
  BitVec.ofNat 17 (code.toNat + 2 ^ 9 + b2n delay * 2 ^ 12 + slot % 16 * 2 ^ 13)

/-- The order of requests that coincide: watchdog, machine check, double trap, request (R400). -/
def requestRank (c : Cause) : Nat :=
  if c = 0x1CF then 0 else if c.toNat / 8 = 0x3B then 1 else if c.toNat / 8 = 7 then 2 else 3

/-- A pre-emption request: CAUSE and INNER of the head record (R398, R400). A request while the core is being saved is
ignored. -/
def State.request (s : State) (code inner : Cause) : State :=
  s.updCore fun c => { c with
    preempt := if c.saving then c.preempt
      else
        match c.preempt with
        | none => some (code, inner)
        | some x => if requestRank code < requestRank x.1 then some (code, inner) else some x }

/-- A machine check goes to the runtime, not to the handler (R399, R415). -/
def TrapRec.isCheck (r : TrapRec) : Bool := decide (r.code.toNat / 8 = 0x3B)

/-- The trap record of a thread, in supervisor mode from here on (R391 step 2). -/
def Thread.enter (t : Thread) (r : TrapRec) (pc : Word64) (target : Option Word64) : Thread :=
  { t with
    mode := 1
    tcause := tcauseOf r.code r.slot target.isSome
    tpc := pc.setWidth 21
    ttgt := match target with
      | some a => a.setWidth 21
      | none => t.ttgt
    taddr := r.addr
    targ := r.arg
    grdHeld := t.grdrec.getLsbD 31 }

/-- Phase-valid clears, with its reason (R221, R222): the first reason stands. Which stands when a trap entry, a halt or an exit falls in the tick in which
the next beat arrives the spec does not say: the beat comes at the start of the tick, so that its 2 stays (DESIGN CHOICE, log 73). -/
def Primary.dropPhv (p : Primary) (why : Nat) : Primary :=
  if p.phv then { p with phv := false, phvwhy := BitVec.ofNat 3 why, exc := p.exc || decide (why = 3) } else p

/-- A late tempo leaves its record in TEMPOREC, whatever takes its trap (R220). -/
def Primary.recordLate (p : Primary) (r : TrapRec) : Primary :=
  if r.code = 0x140 then { p with tempoRec := r.arg.setWidth 54 } else p

/-- User operations in flight are held: what is due in the cycle of entry lands with the handler's own, and the rest stands still
(R391). -/
def Primary.holdUser (p : Primary) : Primary :=
  { p with
    flUser := some { p.fl with pend := p.fl.pend.filter fun e => e.count ≠ 0 }
    fl := { Flight.empty with pend := p.fl.pend.filter fun e => e.count = 0 } }

/-- The primary enters its handler with the bundle at its program counter as resume point (R391). -/
def Primary.enterHandler (p : Primary) (r : TrapRec) : Primary :=
  { (p.dropPhv 4).holdUser with
    th := p.th.enter r p.pc p.target
    pc := p.th.tvec.setWidth 64
    target := none
    overrun := none
    overrunHeld := p.overrun
    winCount := 0
    winBase := 1
    tempoTgt := none
    presented := false
    bankWait := 0
    bankDone := false }

/-- The primary takes a trap with the bundle at its program counter as resume point (R391): user operations in flight stand
still, the record is written, and the handler at TVEC is presented next. A trap in supervisor mode is a double trap, and one
without a handler goes to the runtime (R398). -/
def State.primTrap (s : State) (r : TrapRec) : State :=
  let s := s.updPrim fun p => p.recordLate r
  if r.isCheck then s.request r.code 0
  else if s.prim.th.mode ≠ 0 then s.request (BitVec.ofNat 9 (0x38 + r.code.toNat % 8)) r.code
  else if s.prim.th.tvec = 0 then s.request 0x03F r.code
  else s.updPrim fun p => p.enterHandler r

/-- A pawn's op traps: the thread leaves the rotation and enters supervisor mode when R65's condition holds (R395). -/
def State.pawnTrap (s : State) (t : Nat) (r : TrapRec) (resume : Word64) : State :=
  if r.isCheck then (s.request r.code 0).updPawn t fun p => { p with pc := resume, buf := [], status := .halted }
  else if (s.pawn t).th.mode ≠ 0 then
    (s.request (BitVec.ofNat 9 (0x38 + r.code.toNat % 8)) r.code).updPawn t fun p =>
      { p with pc := resume, buf := [], status := .halted }
  else if (s.pawn t).th.tvec = 0 then
    (s.request 0x03F r.code).updPawn t fun p => { p with pc := resume, buf := [], status := .halted }
  else s.updPawn t fun p => { p with pc := resume, buf := [], status := .trapping r resume }

/-- The op in hand traps: the one way an exception is taken. -/
def State.trap (s : State) (r : TrapRec) : State :=
  match s.ctx.agent with
  | .primary => s.primTrap r
  | .pawn t => s.pawnTrap t r s.ctx.pc

/-- Nothing of the thread is outstanding: R65's condition for rejoining, exit and trap entry (R189, R395). -/
def Pawn.quiet (p : Pawn) : Bool := p.pend.isEmpty && p.waiting.isEmpty && p.reqs.isEmpty && p.pushes.isEmpty

/-! ### Return from a trap (R392) -/

/-- Fields of TCAUSE. -/
def Thread.valid (t : Thread) : Bool := t.tcause.getLsbD 9
def Thread.pmode (t : Thread) : BitVec 2 := t.tcause.extractLsb' 10 2
def Thread.delay (t : Thread) : Bool := t.tcause.getLsbD 12

/-- MODE := PMODE, VALID := 0. -/
def Thread.leave (t : Thread) : Thread :=
  { t with mode := t.pmode, tcause := t.tcause &&& ~~~(BitVec.ofNat 17 (2 ^ 9)), grdHeld := false }

/-- Cycles until the last effect of an entry: a bank access lands its value `lat` cycles after the bank cycle. -/
def PEntry.last (e : PEntry) : Nat :=
  match e.eff with
  | .bank (.read _ _ _ _ _ l) => e.count + l
  | .bank (.rmw _ _ _ _ _ l) => e.count + l
  | _ => e.count

/-- Cycles until the last of the pending effects. -/
def lastLanding (l : List PEntry) : Nat := l.foldl (fun m e => max m e.last) 0

/-- sret on the primary: user mode from here on; the end of its bundle counts the empty bundles, and the user operations go on
where they stood when these are done. -/
def State.primReturn (s : State) : State :=
  s.updPrim fun p => { p with th := p.th.leave, resuming := true, overrun := p.overrunHeld <|> p.overrun, overrunHeld := none }

/-- Where an sret resumes: at TPC, as a delay bundle before TTGT where DELAY = 1. The tick in which the window of that bundle is read the spec does
not give: it is the one before the bundle issues (DESIGN CHOICE, log 73). -/
def Primary.resumeAt (p : Primary) : Primary :=
  { p with
    pc := p.th.tpc.setWidth 64
    target := if p.th.delay then some (p.th.ttgt.setWidth 64) else none
    winCount := 0
    winBase := 1 }

/-- sret of a pawn: back in the rotation at TPC (R395). -/
def State.pawnReturn (s : State) (t : Nat) : State :=
  s.updPawn t fun p => { p with th := p.th.leave, pc := p.th.tpc.setWidth 64, buf := [] }

/-! ### What an op needs: places, registers, checks (R39, R45, R396) -/

/-- The class of an op (R40), and with it its slots; the no-operation stands in every slot (R27). -/
inductive OpClass where
  | any | c | s | l | z | v | m | g
deriving DecidableEq, Repr

/-- Who may issue it (R45). -/
inductive Who where
  | both | prim | pawn
deriving DecidableEq, Repr

/-- A register file as an operand names it; `sNoPort` is a scalar operand for which 60 to 63 are out of range, and
`vRw` a vector operand that is read and written (R282). -/
inductive RFile where
  | s | sNoPort | v | vRw | b | m | t | a | w | z | fd | ib | e
deriving DecidableEq, Repr

/-- An operand register. -/
structure RegUse where
  file : RFile
  num : Field6
  /-- A destination; otherwise a source. An operand that is both is listed twice. -/
  dst : Bool := false
  /-- Cycles from issue to the landing of a destination, on the primary (R227 order 4). -/
  lat : Nat := 1

/-- The stages of the order of R396 after the encoding checks; `priv` is subcause 4 and above of class 0. -/
inductive Stage where
  | enc | priv | weight | desc | lm | bind | mat | tempo | eng
deriving DecidableEq, Repr

/-- Bytes that an op accesses, for the watchpoints of R422: local-memory keys, or virtual addresses. -/
structure Span where
  glob : Bool
  addr : Nat
  len : Nat
  rd : Bool
  wr : Bool
deriving DecidableEq, Repr

def lmSpan (key len : Nat) (write : Bool) : Span := ⟨false, key, len, !write, write⟩
def rmwSpan (key : Nat) : Span := ⟨false, key, 8, true, true⟩
/-- A global access: 0 read, 1 write, 2 atomic, 3 monitor, which accesses no byte. -/
def vaSpan (va : Word64) (len acc : Nat) : Span := ⟨true, va.toNat, len, decide (acc = 0) || decide (acc = 2), decide (acc = 1) || decide (acc = 2)⟩

/-- What an op needs before it issues. -/
structure OpSpec where
  cls : OpClass
  who : Who := .both
  /-- The switch marker (R38). -/
  k : Bool := false
  regs : List RegUse := []
  checks : List (Stage × (State → Option TrapRec)) := []
  /-- The bank words that it accesses in its own core (R69). -/
  words : State → List Nat := fun _ => []
  /-- The bank words that the watch port of a hold reads (R87). -/
  port : State → List Nat := fun _ => []
  /-- Freeze causes that it meets (R63), but for cause 5. -/
  freeze : State → List Nat := fun _ => []
  /-- The tiles and weight slots that it waits for while a loader has them: cause 5 (R63). -/
  loads : State → List Res := fun _ => []
  /-- What it reads beside the sources of `regs`: tiles, weight slots, accumulators, scale registers and format descriptors (R413). -/
  reads : State → List (RFile × Nat) := fun _ => []
  /-- What it accesses, for watchpoints (R422). -/
  spans : State → List Span := fun _ => []
  /-- A pawn needs the one iterative unit for it (R61). -/
  iter : Bool := false
  /-- The tiles that the matrix array streams from the op's own cycle on (R313). -/
  streams : State → List Nat := fun _ => []
  /-- A bundle that holds it reports a guard touch (R141). -/
  guardPoint : Bool := false
  /-- A synchronising op: it ends a deterministic chunk and waits for the visit (R334). -/
  sync : Bool := false
  /-- The engine queue register whose assembly a refused submission discards (R177). -/
  engQ : Option Nat := none
  /-- What checking such a submission has done: it has read the group descriptor (R368). -/
  refused : State → State := id
  /-- tempo.any or not, and the register of the target (R219). -/
  tempo : Option (Bool × Field6) := none

/-- The tile loader or the weight loader holds the tile or slot: the busy bit (R150, R310). -/
def State.tileBusy (s : State) (t : Nat) : Bool := s.core.tileQ.any fun j => decide (j.tile = t)
def State.slotBusy (s : State) (w : Nat) : Bool := s.core.wQ.any fun j => decide (j.slot = w)

/-- A loader has the resource. -/
def State.loading (s : State) : Res → Bool
  | .tile t => s.tileBusy t
  | .wslot w => s.slotBusy w
  | .acc _ => false

/-- The freeze causes that an op meets (R63). -/
def OpSpec.causes (sp : OpSpec) (s : State) : List Nat := sp.freeze s ++ if (sp.loads s).any s.loading then [5] else []

/-- The slots that accept a class (R27); a G-class op has none. -/
def OpClass.slots : OpClass → List Nat
  | .any => List.range 9
  | .c => [0]
  | .s => [1, 2]
  | .l => [3, 4]
  | .z => [5]
  | .v => [6, 7]
  | .m => [8]
  | .g => []

/-- An op of an earlier cycle holds the slot (R59); while a handler runs, the held user operations do too (R391). -/
def State.slotHeld (s : State) (n : Nat) : Bool :=
  decide (vget s.prim.fl.held n 0 ≠ 0) ||
    match s.prim.flUser with
    | none => false
    | some f => decide (vget f.held n 0 ≠ 0)

/-- The op stands where R27 and R45 allow, and no earlier op holds its slot (R46 subcause 1, R59). -/
def State.placeOk (s : State) (sp : OpSpec) : Bool :=
  match s.ctx.agent with
  | .pawn _ => decide (sp.who ≠ .prim)
  | .primary =>
    decide (sp.who ≠ .pawn) && decide (s.ctx.slot ∈ sp.cls.slots) && (decide (sp.cls = .any) || !s.slotHeld s.ctx.slot)

/-- The register lies in the file of the issuing thread (R39). -/
def State.regOk (s : State) (u : RegUse) : Bool :=
  let n := u.num.toNat
  match s.ctx.agent with
  | .primary =>
    match u.file with
    | .s => true
    | .sNoPort => decide (n < 60)
    | .v => s.ctx.ix || (decide (n ≠ 58) && decide (n ≠ 59))
    | .vRw => s.ctx.ix || decide (n < 56)
    | .b => decide (n < 16)
    | .m => decide (n < 8)
    | .t => decide (n < 16)
    | .a => decide (n < 8)
    | .w => decide (n < 32)
    | .z => decide (n < 32)
    | .fd => decide (n < 16)
    | .ib => decide (n < 4)
    | .e => decide (n < 4)
  | .pawn _ =>
    match u.file with
    | .s => decide (n < s.core.cfg.cap)
    | .sNoPort => decide (n < s.core.cfg.cap)
    | .v => decide (n < 8)
    | .vRw => decide (n < 8)
    | .b => decide (n < 8)
    | .m => decide (n < 4)
    | .fd => decide (n < 16)
    | .e => decide (n < 4)
    | .t => false
    | .a => false
    | .w => false
    | .z => false
    | .ib => false

/-- The first trap that the checks of a stage report. -/
def State.stageTrap (s : State) (sp : OpSpec) (st : Stage) : Option TrapRec :=
  sp.checks.findSome? fun c => if c.1 = st then c.2 s else none

/-- Subcauses 0, 1 and 3 of class 0, in that order (R47, R48). -/
def State.encodingTrap (s : State) (sp : OpSpec) : Option TrapRec :=
  (if !s.isPawn && sp.k then some (s.encTrap 0) else s.stageTrap sp .enc) <|>
    (if !s.placeOk sp then some (s.encTrap 1)
      else if sp.regs.any fun u => !s.regOk u then some (s.encTrap 3)
      else none)

/-- The port that an operand names: vector port or not, and its number (R39). -/
def State.portOf (s : State) (u : RegUse) : Option (Bool × Nat) :=
  match s.ctx.agent with
  | .pawn _ => none
  | .primary =>
    match u.file with
    | .s => if 60 ≤ u.num.toNat then some (false, u.num.toNat - 60) else none
    | .v => if 60 ≤ s.vfield u.num then some (true, s.vfield u.num - 60) else none
    | _ => none

/-- The route register of a port: QROUTE p or VQROUTE p (R224). -/
def State.routeOf (s : State) (vec : Bool) (p : Nat) : Word64 := vget s.prim.route (if vec then p + 4 else p) 0

/-- Fields of a route (R224). -/
def routePath (r : Word64) : Nat := bits r.toNat 54 2
def routeHops (r : Word64) : Nat := bits r.toNat 48 6
def routeSpan (r : Word64) : Nat := bits r.toNat 40 6
def routeFar (r : Word64) : Bool := bit r.toNat 31
def routeDest (r : Word64) : BitVec 10 := BitVec.ofNat 10 (bits r.toNat 21 10)
def routePort (r : Word64) : Nat := bits r.toNat 0 2

/-- The latch of a port is fresh (R223). -/
def State.fresh (s : State) (vec : Bool) (p : Nat) : Bool :=
  if vec then vget s.prim.vqFresh p false else vget s.prim.qFresh p false

/-- The effect ends as a send on the port. -/
def Eff.sendsOn (e : Eff) (vec : Bool) (p : Nat) : Bool :=
  let d := match e with
    | .reg d _ => d
    | .bank (.read _ _ _ _ d _) => d
    | .bank (.rmw _ _ _ _ d _) => d
    | .remote _ d => d
    | _ => .discard
  match d with
  | .sport q _ => !vec && decide (q = p)
  | .vport q _ => vec && decide (q = p)
  | _ => false

/-- A send on the port that is pending and lands in the same cycle (R227 order 4): `lat` cycles from issue. -/
def State.sendPending (s : State) (vec : Bool) (p lat : Nat) : Bool :=
  s.prim.fl.pend.any fun e => decide (e.last = lat) && e.eff.sendsOn vec p

/-- The checks of R227 for one port field; the record is that of class 5 (R394). `sent` holds the sends of the fields before
it in the bundle: port and landing. -/
def State.portTrap (s : State) (sent : List (Bool × Nat × Nat)) (u : RegUse) : Option TrapRec :=
  match s.portOf u with
  | none => none
  | some (vec, p) =>
    let r := s.routeOf vec p
    let far := decide (routePath r = 1) || decide (routePath r = 2)
    let t := fun base => some (s.trapAt (base + s.unit) s.ctx.pc (BitVec.ofNat 64 (p + 4 * b2n vec)))
    if u.dst && decide (routePath r = 3) then t 0x170
    else if u.dst && far && decide (routeSpan r ≠ 0) && decide (routeHops r > routeSpan r) then t 0x160
    else if ((u.dst && far) || (!u.dst && routeFar r)) && !s.prim.phv then
      t (if s.prim.phvwhy = 3 then 0x178 else 0x148)
    else if u.dst && (s.sendPending vec p u.lat || decide ((vec, p, u.lat) ∈ sent)) then t 0x168
    else if !u.dst && !s.fresh vec p then t 0x150
    else none

/-- The stages after the encoding checks, in the order of R396. -/
def lateStages : List Stage := [.priv, .weight, .desc, .lm, .bind, .mat, .tempo, .eng]

/-- The sends that an op's port fields make. -/
def State.sends (s : State) (sp : OpSpec) : List (Bool × Nat × Nat) :=
  sp.regs.filterMap fun u => if u.dst then (s.portOf u).map fun x => (x.1, x.2, u.lat) else none

/-- The port fields of an op, in the order d, a, b. -/
def State.portsTrap (s : State) (sp : OpSpec) (sent : List (Bool × Nat × Nat)) : Option TrapRec :=
  sp.regs.findSome? fun u => s.portTrap sent u

/-- The first trap of one stage; the tempo stage ends with the port fields (R227). -/
def State.lateTrap (s : State) (sp : OpSpec) (st : Stage) (sent : List (Bool × Nat × Nat)) : Option TrapRec :=
  s.stageTrap sp st <|> (if st = .tempo then s.portsTrap sp sent else none)

/-- The first check that fails for the op in hand (R396). -/
def State.firstTrap (s : State) (sp : OpSpec) : Option TrapRec :=
  s.encodingTrap sp <|> lateStages.findSome? fun st => s.lateTrap sp st []

/-- A read of a port clears the freshness of its latch (R223). -/
def State.clearFresh (s : State) (u : RegUse) : State :=
  if !u.dst then
    match s.portOf u with
    | none => s
    | some (true, p) => s.updPrim fun q => { q with vqFresh := vset q.vqFresh p false }
    | some (false, p) => s.updPrim fun q => { q with qFresh := vset q.qFresh p false }
  else s

/-- The thread counts the op; a pawn moves on to the next op word (R36). -/
def State.advance (s : State) : State :=
  match s.ctx.agent with
  | .primary => s.updPrim fun p => { p with opCount := p.opCount + 1 }
  | .pawn t => s.updPawn t fun p =>
      { p with opCount := p.opCount + 1, pc := s.ctx.pc + 4, buf := p.buf.tail, th := { p.th with exempt := false } }

/-- A switch-marked op takes its thread out of the rotation (R65). -/
def State.switchPoint (s : State) (k : Bool) : State :=
  match s.ctx.agent with
  | .primary => s
  | .pawn t =>
    if k && decide ((s.pawn t).status = .running) then s.updPawn t fun p => { p with status := .switching } else s

/-- The chunk of a deterministic thread ends; the thread waits for its visit (R334, R335). -/
def State.closeChunk (s : State) (t : Nat) (closing : Option Ctx) : State :=
  let page := match closing.bind fun c => c.va.map fun v => (v.toNat / 65536 * 65536, c.level) with
    | some x => [x]
    | none => []
  s.updPawn t fun p => { p with
    status := .moveWait
    chunk := { p.chunk with ended := true, closing := closing, src := p.toPawnRegs, pages := page ++ p.chunk.pages } }

/-- The thread's operand registers are those of another set. -/
def Pawn.withOperands (p : Pawn) (r : PawnRegs) : Pawn := { p with x := r.x, y := r.y, b := r.b, m := r.m }

/-- An op of a deterministic thread counts; the 256th ends its chunk (R334, R335). -/
def State.countChunk (s : State) (t : Nat) : State :=
  let s := s.updPawn t fun p => { p with chunk := { p.chunk with ops := p.chunk.ops + 1 } }
  if 256 ≤ (s.pawn t).chunk.ops ∧ ((s.pawn t).status = .running ∨ (s.pawn t).status = .switching) then
    s.closeChunk t none
  else s

/-- The first op of a chunk: the registers as the chunk finds them are kept (R336). -/
def State.openChunk (s : State) (t : Nat) : State :=
  if (s.pawn t).chunk.ops = 0 then s.updPawn t fun p => { p with chunk := { p.chunk with start := p.toPawnRegs } } else s

/-- The op issues: its effect, the receives of its port operands, and its switch marker. A synchronising op of a
deterministic thread has its effect at the visit, on the operands that it read at its issue (R61), after which the thread rejoins as from a switch
point (R335, R336). -/
def State.perform (s : State) (sp : OpSpec) (eff : State → State) : State :=
  match s.ctx.agent with
  | .primary => sp.regs.foldl State.clearFresh (eff s.advance)
  | .pawn t =>
    if s.ctx.commit then
      ((eff (s.updPawn t fun p => p.withOperands p.chunk.src)).updPawn t fun p => p.withOperands (s.pawn t).toPawnRegs).switchPoint true
    else if s.core.cfg.det then
      let s := s.openChunk t
      if sp.sync then s.advance.closeChunk t (some s.ctx) else ((eff s.advance).switchPoint sp.k).countChunk t
    else (eff s.advance).switchPoint sp.k

/-- The freeze causes that the op in hand meets on the primary (R63); a pawn meets none. -/
def State.freezes (s : State) (sp : OpSpec) : List Nat := if s.isPawn then [] else sp.causes s

/-- Cause bits of R63. -/
def causeMask (l : List Nat) : BitVec 10 := l.foldl (fun m i => m ||| (1#10 <<< i)) 0

/-- The op waits: the causes stand in FRZSTAT. -/
def State.freezeWith (s : State) (l : List Nat) : State :=
  s.updPrim fun p => { p with frz := causeMask l, frzClus := true, frzLast := BitVec.ofNat 11 (causeMask l).toNat ||| 0x400#11, presented := true }

/-- A submission that its checks refuse is discarded with its assembly (R177); reading its group descriptor counts all the same (R368). -/
def State.discardFor (s : State) (sp : OpSpec) (r : TrapRec) : State :=
  match sp.engQ with
  | some e => if r.code.toNat / 8 ∈ [0x30, 0x31] then (sp.refused s).updTh fun t => { t with asm := vset t.asm e [] } else s
  | none => s

/-! ### Counters -/

/-- Counter i of R72 counts n more. -/
def State.bump (s : State) (i n : Nat) : State :=
  s.updCore fun c => { c with cnt := vset c.cnt i (vget c.cnt i 0 + BitVec.ofNat 64 n) }

/-- FRZH of a cause (R426). -/
def State.bumpFrz (s : State) (i : Nat) : State :=
  s.updCore fun c => { c with frzh := vset c.frzh i (vget c.frzh i 0 + 1) }

/-- ROT of a thread and class (R426). -/
def State.bumpRot (s : State) (t k : Nat) : State :=
  s.updCore fun c => { c with rot := vset c.rot (4 * t + k) (vget c.rot (4 * t + k) 0 + 1) }

/-- RDYH of a number of ready threads (R426). -/
def State.bumpRdy (s : State) (r : Nat) : State :=
  s.updCore fun c => { c with rdyh := vset c.rdyh r (vget c.rdyh r 0 + 1) }

end Sys2Proof.Machine
end

