-- ==== Sys2Proof/Machine/Operands.lean ====
section
/-! DEFINITION. Operand forms (R30, R34, R79, R148): immediates, effective addresses, the local-memory checks of R145 with
the stack limit of R108, guard granules, and what the operand fields of each form ask of an op. -/

namespace Sys2Proof.Machine

/-! ### Immediates (R34, R96) -/

/-- imm13 sign-extended, or the literal sign-extended in its place. -/
def State.imm (s : State) (i : BitVec 13) : Word64 :=
  match s.ctx.lit with
  | some l => l.signExtend 64
  | none => i.signExtend 64

/-- imm13 sign-extended, or the literal zero-extended in its place (ori, R96). -/
def State.immZ (s : State) (i : BitVec 13) : Word64 :=
  match s.ctx.lit with
  | some l => l.setWidth 64
  | none => i.signExtend 64

/-- lui's value: imm13 × 2^13, or the literal × 2^32 (R96). -/
def State.immHigh (s : State) (i : BitVec 13) : Word64 :=
  match s.ctx.lit with
  | some l => (l.setWidth 64) <<< 32
  | none => (i.signExtend 64) <<< 13

/-- A memory-form offset: off10 in units of the size, or the literal in bytes (R30, R34). -/
def State.offset (s : State) (o : BitVec 10) (size : Nat) : Word64 :=
  match s.ctx.lit with
  | some l => l.signExtend 64
  | none => o.signExtend 64 * BitVec.ofNat 64 size

/-- The effective address of a memory-form op (R148, R191). -/
def State.ea (s : State) (a : Field6) (o : BitVec 10) (size : Nat) : Word64 := s.readS a + s.offset o size

/-- The unit of a transfer distance: a bundle or an op word (R80). -/
def State.unitBytes (s : State) : Word64 := if s.isPawn then 4 else 40

/-- The target of a PC-relative transfer (R41). -/
def State.relTarget (s : State) (i : BitVec 13) : Word64 := s.ctx.pc + s.imm i * s.unitBytes

/-! ### Locked ranges (R180) -/

/-- Write pointer n of the core whose local memory starts at a key (R179). -/
def State.wptrOf (s : State) (base n : Nat) : Nat :=
  if base = s.core.lmBase then (vget s.core.wptr n 0).toNat else assocGet s.core.wptrOther (2 * base + n) 0

/-- The first byte that a lock still refuses: a sliding range gives up the bytes below the pointer. -/
def State.lockLo (s : State) (l : Lock) : Nat :=
  let base := l.lo / 2 ^ 21 * 2 ^ 21
  match l.slide, l.scaleOf with
  | none, _ => l.lo
  | some n, none => max l.lo (base + s.wptrOf base n)
  | some n, some (d, unit) =>
    let p := d / 2 ^ 21 * 2 ^ 21 + s.wptrOf (d / 2 ^ 21 * 2 ^ 21) n
    if p ≤ d then l.lo else l.lo + 8 * ((p - d - 1) / unit + 1)

/-- A lock of local memory that refuses an access to the bytes from `key` on. -/
def State.lmLocked (s : State) (key len : Nat) (write : Bool) : Bool :=
  (s.core.locks ++ s.core.peerLocks).any fun l =>
    l.lm && !l.fresh && (write || l.refusesReads) && decide (s.lockLo l < key + len) && decide (key ≤ l.hi)

/-- A lock of global memory that refuses an access to a virtual address (R180). -/
def State.globalLocked (s : State) (va len : Nat) (write : Bool) : Bool :=
  (s.core.locks ++ s.core.peerLocks).any fun l =>
    !l.lm && !l.fresh && decide (l.cx = s.core.cfg.cx) && (write || l.refusesReads) && decide (l.lo < va + len) && decide (va ≤ l.hi)

/-! ### The checks of a local-memory access (R145, R108) -/

/-- A class-2 trap: subcause, the offset at fault and the op word (R144, R394). -/
def State.lmTrap (s : State) (sub : Nat) (addr : Word64) : TrapRec :=
  s.trapAt (0x80 + 8 * sub + s.unit) addr (s.ctx.word.setWidth 64)

/-- R145 for an access to the own core: subcauses 1, 6, 2 and 4 in order. -/
def State.lmCheck (s : State) (ea : Word64) (len align : Nat) (write : Bool) : Option TrapRec :=
  let a := ea.toNat
  if a + len > 0x200000 || a % align ≠ 0 then some (s.lmTrap 1 ea)
  else if s.userMode && decide (0x1F0000 < a + len) then some (s.lmTrap 6 ea)
  else if write && decide (a < 0x80) then some (s.lmTrap 2 ea)
  else if s.lmLocked (s.core.lmBase + a) len write then some (s.lmTrap 4 ea)
  else none

/-- The stack limit: a store through base register 2 below SLIM (R108). -/
def State.stackCheck (s : State) (a : Field6) (ea : Word64) : Option TrapRec :=
  if a = 2 && decide (s.th.slim ≠ 0) && decide (ea.toNat < s.th.slim.toNat) then
    some (s.trapAt (if s.isPawn then 0x1C6 else 0x1C2) ea 0)
  else none

/-- The first check that fails over a list of addresses: of several lanes that fail, the lowest is reported, with the first check that it fails
(R152, log 66). -/
def State.lmCheckAll (s : State) (size : Nat) (write : Bool) (eas : List Word64) : Option TrapRec :=
  eas.findSome? fun ea => s.lmCheck ea size size write

/-! ### Cores by LM space address (R22, R142) -/

/-- Clusters enabled on a die (R11). -/
def Part.clustersPerDie (p : Part) : Nat := if p.modelB then 14 else 15

/-- A core of the launch: launch cluster index, die, logical cluster, core in cluster. -/
structure CoreLoc where
  idx : Nat
  die : Nat
  clus : Nat
  core : Nat
deriving DecidableEq, Repr

/-- The core that bits [30:21] of an LM space address name, when it is a core of the launch (R142). -/
def State.resolveCore (s : State) (x : Nat) : Option CoreLoc :=
  let form := bits x 7 3
  let c := s.core.cfg
  let per := s.part.clustersPerDie
  if form ≤ 5 then
    match c.clusters.findIdx? fun g => decide (g = per * form + bits x 3 4) with
    | some i => if bits x 3 4 < per then some ⟨i, form, bits x 3 4, bits x 0 3⟩ else none
    | none => none
  else if form = 7 then
    let i : Int := (c.clusIdx : Int) + signedOf 4 (bits x 3 4)
    if i < 0 then none
    else
      match c.clusters[i.toNat]? with
      | some g => some ⟨i.toNat, g / per, g % per, (c.coreInClus + bits x 0 3) % 8⟩
      | none => none
  else none

/-- The key of a core's offset 0 (R22). -/
def CoreLoc.base (l : CoreLoc) : Nat := l.die * 2 ^ 28 + l.clus * 2 ^ 24 + l.core * 2 ^ 21

/-- The core's logical index in the launch (R15). -/
def CoreLoc.coreIdx (l : CoreLoc) : Nat := 8 * l.idx + l.core

/-- The core lies in the issuer's cluster (R143). -/
def State.sameCluster (s : State) (l : CoreLoc) : Bool :=
  decide (l.die = s.core.cfg.die) && decide (l.clus = s.core.cfg.dieClus)

/-- The target of rld, rst, rvld and rvst: a core of the issuer's own cluster, in absolute form or with δc = 0 (R143). -/
def State.resolveNear (s : State) (x : Nat) : Option CoreLoc :=
  let form := bits x 7 3
  let c := s.core.cfg
  if form ≤ 5 then
    if form = c.die ∧ bits x 3 4 = c.dieClus then some ⟨c.clusIdx, c.die, c.dieClus, bits x 0 3⟩ else none
  else if form = 7 ∧ bits x 3 4 = 0 then some ⟨c.clusIdx, c.die, c.dieClus, (c.coreInClus + bits x 0 3) % 8⟩
  else none

/-! ### Guard granules (R140, R141) -/

/-- The guard ranges of the launch: byte offsets, the second one past the range. -/
def LaunchCfg.guards (c : LaunchCfg) : List (Nat × Nat) :=
  if c.guard then
    [(c.codeEnd * 4096 - 256, c.codeEnd * 4096), (c.dataEnd * 4096 - 256, c.dataEnd * 4096), (c.stackEnd * 4096, 0x1F0000)]
  else []

/-- The first guard byte that an access touches. -/
def LaunchCfg.guardByte (c : LaunchCfg) (off len : Nat) : Option Nat :=
  (c.guards.filterMap fun g => if 0 < len ∧ g.1 < off + len ∧ off < g.2 then some (max off g.1) else none).foldl
    (fun m x => match m with
      | none => some x
      | some y => some (min y x)) none

/-- GRDREC after a touch: the first records itself, a later one counts in MORE (R141). -/
def grdTouch (g : BitVec 48) (off unit : Nat) (remote : Bool) : BitVec 48 :=
  if g.getLsbD 31 then
    let more := bits g.toNat 32 16
    BitVec.ofNat 48 (setBits g.toNat 32 16 (if more = 65535 then 65535 else more + 1))
  else
    BitVec.ofNat 48 (off % 2 ^ 21 + 2 ^ 21 * (off / 8 % 64) + 2 ^ 27 * unit + 2 ^ 30 * b2n remote + 2 ^ 31)

/-- Record the guard touch of an access, if it makes one: the first address of the list that does. Whether each lane of a gather or scatter, or each granule
that one access meets, counts in MORE the spec does not say: an access is one touch, recorded at the first touching lane in lane order (DESIGN CHOICE, log
73). -/
def State.touch (s : State) (offs : List Nat) (len : Nat) (remote : Bool) : State :=
  match offs.findSome? fun o => s.core.cfg.guardByte o len with
  | none => s
  | some b => s.updTh fun t =>
    let first := !t.grdrec.getLsbD 31
    { t with
      grdrec := grdTouch t.grdrec b s.unit remote
      grdWord := if first then s.ctx.word else t.grdWord
      grdSlot := if first then (if s.isPawn then 15 else s.ctx.slot) else t.grdSlot }

/-! ### What the operand fields of the common forms ask (R39) -/

def dstU (f : RFile) (n : Field6) (lat : Nat) : RegUse := { file := f, num := n, dst := true, lat := lat }
def srcU (f : RFile) (n : Field6) : RegUse := { file := f, num := n }

/-- A predicate or mask named in a narrow field. -/
def narrow {w : Nat} (n : BitVec w) : Field6 := n.setWidth 6

/-- sD, sA, sB. -/
def specSSS (k : Bool) (d a b : Field6) (lat : Nat) : OpSpec :=
  { cls := .s, k := k, regs := [dstU .s d lat, srcU .s a, srcU .s b] }

/-- sD, sA. -/
def specSS (k : Bool) (d a : Field6) (lat : Nat) : OpSpec := { cls := .s, k := k, regs := [dstU .s d lat, srcU .s a] }

/-- bD, sA, sB. -/
def specBSS (k : Bool) (d a b : Field6) (lat : Nat) : OpSpec :=
  { cls := .s, k := k, regs := [dstU .b d lat, srcU .s a, srcU .s b] }

/-- bD, bA, bB. -/
def specBBB (k : Bool) (d a b : Field6) : OpSpec :=
  { cls := .s, k := k, regs := [dstU .b d 1, srcU .b a, srcU .b b] }

/-- Rounding mode 4 under an unaccepted feature bit 3 is unassigned (R264). -/
def roundCheck (r : Nat) : Stage × (State → Option TrapRec) :=
  (.enc, fun s => if r = 4 && !s.feature 3 then some (s.encTrap 0) else none)

end Sys2Proof.Machine
end

