-- ==== Sys2Proof/Machine/Draw.lean ====
section
/-! DEFINITION. The draw function and stochastic rounding (R260 to R263). -/

namespace Sys2Proof.Machine

/-- K[i] and ROT[i] of R260. -/
def drawTable : List (Word64 × Nat) :=
  [(0x71D40B9E3A58C6F2#64, 14), (0xB02E67C194DA1F83#64, 52), (0x4E9AD53F08C7B261#64, 23), (0xE81C2A765F039DB4#64, 5),
    (0x2657F0E8C19B4A3D#64, 37), (0x9DB34C027E6FE518#64, 25), (0x53F8A6D921B407CE#64, 46), (0xC40F1B5AE8D2936B#64, 12)]

/-- One round of R260. -/
def drawRound (st : Word64 × Word64) (k : Word64 × Nat) : Word64 × Word64 :=
  let a := st.1 + st.2 + k.1
  (a, (st.2.rotateLeft k.2) ^^^ a)

/-- D(key, ctr) (R260). -/
def draw (key ctr : Word64) : Word64 :=
  let st := drawTable.foldl drawRound (key, ctr ^^^ 0x5A3C96E10F27B48D#64)
  st.1 ^^^ st.2.rotateLeft 31

/-- DrawKey(s, w1, w2) (R261). -/
def drawKey (s w1 w2 : Word64) : Word64 := draw (draw s w1) w2

/-- The FP32 code of UnitFloat(r) = r[63:40] × 2^-24 (R261). -/
def unitFloat (r : Word64) : Nat := (fp32.roundFin false (bits r.toNat 40 24) (-24) 0 0).1

/-- u for output element j of the mode-4 operation in hand (R263). -/
def State.roundDraw (s : State) (j : Nat) : Nat :=
  let kc := draw (vget s.th.seed 0 0) (BitVec.ofNat 64 (s.core.cfg.coreIdx * 256 ||| s.threadNo))
  (draw kc (BitVec.ofNat 64 (s.th.srctr.toNat * 256 ||| j))).toNat % 2 ^ 32

/-- The mode's draw: none is needed outside mode 4. -/
def State.drawFor (s : State) (mode j : Nat) : Nat := if mode = 4 then s.roundDraw j else 0

/-- An operation in mode 4 consumes one value of SRCTR at issue (R263). -/
def State.countRound (s : State) (mode : Nat) : State :=
  if mode = 4 then s.updTh fun t => { t with srctr := t.srctr + 1 } else s

end Sys2Proof.Machine
end

