-- ==== Sys2Proof/Machine/Csr.lean ====
section
/-! DEFINITION. The control registers (R85, R89, R90 and the maps of the other chapters): which index is whose, what a read
returns and what a write does when it takes effect. -/

namespace Sys2Proof.Machine

/-! ### Routes (R224, R225) -/

/-- The n-th enabled physical cluster of a die whose disabled clusters the mask holds (R12). -/
def physCluster (mask : Nat) (n : Nat) : Nat := ((List.range 16).filter fun i => !bit mask i).getD n 0

/-- Coordinates of a core on its die's mesh (R225). -/
def State.meshPos (s : State) (die clus core : Nat) : Nat × Nat :=
  let p := physCluster (s.part.fused.getD die 0) clus
  (4 * (p % 4) + core % 4, 2 * (p / 4) + core / 4)

/-- |a - b|. -/
def absDiff (a b : Nat) : Nat := (a - b) + (b - a)

/-- Two dies share an edge of the package grid (R214). -/
def linked (a b : Nat) : Bool :=
  (decide (a / 3 = b / 3) && decide (absDiff a b = 1)) || decide (absDiff a b = 3)

/-- Hops between cores of one die or of linked dies (R24, R225). -/
def hopCount (sd rd : Nat) (p q : Nat × Nat) : Nat :=
  if sd = rd then absDiff p.1 q.1 + absDiff p.2 q.2
  else if rd = sd + 1 then 15 - p.1 + (q.1 + absDiff q.2 p.2)
  else if sd = rd + 1 then p.1 + ((15 - q.1) + absDiff q.2 p.2)
  else if rd = sd + 3 then 7 - p.2 + (q.2 + absDiff q.1 p.1)
  else p.2 + ((7 - q.2) + absDiff q.1 p.1)

/-- HOPS and PATH to the core that DEST names (R224, R225). HOPS of PATH 3, of which the spec gives no value, is 0 (DESIGN CHOICE, log 73). -/
def State.pathTo (s : State) (dest : Nat) : Nat × Nat :=
  let c := s.core.cfg
  match s.resolveCore dest with
  | none => (0, 3)
  | some l =>
    let h := hopCount c.die l.die (s.meshPos c.die c.dieClus c.coreInClus) (s.meshPos l.die l.clus l.core)
    if s.sameCluster l then (h, 0)
    else if l.die = c.die then (h, 1)
    else if linked c.die l.die then (h, 2)
    else (0, 3)

/-- A route register after a write (R224): PORT, DEST, RXFAR and SPAN as written, HOPS and PATH computed. -/
def State.routeValue (s : State) (v : Word64) : Word64 :=
  let x := v.toNat
  let hp := s.pathTo (bits x 21 10)
  BitVec.ofNat 64
    (bits x 0 2 + bits x 21 10 * 2 ^ 21 + bits x 31 1 * 2 ^ 31 + bits x 40 6 * 2 ^ 40 + hp.1 * 2 ^ 48 + hp.2 * 2 ^ 54)

/-! ### Which index is whose (R89) -/

/-- The chapters assign the index to a thread of the kind (R85, R201, R222, R224, R248). -/
def csrAssigned (pawn write : Bool) (i : Nat) : Bool :=
  if i ∈ [0x10, 0x11, 0x12, 0x13, 0xF3, 0xF4] ∨ (0xF8 ≤ i ∧ i ≤ 0xFF) then !pawn
  else if i = 0xD8 ∨ i = 0xD9 then pawn
  else if 0x100 ≤ i ∧ i ≤ 0x10F then !(pawn && write)
  else
    decide (i ∈ [0x18, 0x19, 0x1A, 0x20, 0x2C, 0xC0, 0xC1, 0xD0, 0xDA, 0xDB, 0xDC, 0xE0, 0xE1, 0xF0, 0xF1, 0xF2]) ||
      decide ((0x28 ≤ i ∧ i ≤ 0x2B) ∨ (0x30 ≤ i ∧ i ≤ 0x3A) ∨ (0xA0 ≤ i ∧ i ≤ 0xA9) ∨ (0xC8 ≤ i ∧ i ≤ 0xCF) ∨
        (0x140 ≤ i ∧ i ≤ 0x190))

/-- The map refuses the access to user mode (R73, R393). -/
def csrPrivileged (write : Bool) (i : Nat) : Bool := decide (0x30 ≤ i ∧ i ≤ 0x3A) || (write && decide (i = 0xC1))

/-! ### Reads -/

/-- A level that takes no part in R84, and count of a level. -/
def LoopLevel.idle : LoopLevel := ⟨0, 0, 0, false⟩
def LoopLevel.setCount (l : LoopLevel) (v : Word64) : LoopLevel := { l with cnt := v.setWidth 32 }

/-- LADDR of a level (R85). -/
def LoopLevel.laddr (l : LoopLevel) : Word64 :=
  BitVec.ofNat 64 (l.start.toNat + l.stop.toNat * 2 ^ 32 + b2n l.active * 2 ^ 63)

/-- The cycles from now in which an effect takes an entry of the pending-write queue (R390): a landing, or a bank write; an atomic
has both, a write of the cycle in hand none, and row presentations stand in the entry of their accumulator landing. -/
def PEntry.slots (e : PEntry) : List Nat :=
  match e.eff with
  | .mx _ => []
  | .bank (.write _ _ _) => if e.count = 0 then [] else [e.count]
  | .bank (.rmw _ _ _ _ _ _) => [e.count, e.last]
  | _ => [e.last]

/-- Entries of the pending-write queue: the effects of one op that land in one cycle share one (R390). -/
def pwqEntries (l : List PEntry) : Nat :=
  ((l.flatMap fun e => e.slots.map fun n => (e.op, n)).foldr (fun x r => if x ∈ r then r else x :: r) []).length

/-- PWQ (R393): HELD, OWN and SLOTS, 0 for a pawn but for OWN in supervisor mode. -/
def State.pwq (s : State) : Word64 :=
  match s.ctx.agent with
  | .primary =>
    let held := match s.prim.flUser with
      | some f => pwqEntries f.pend
      | none => 0
    let own := if s.prim.th.mode = 0 then 0 else pwqEntries s.prim.fl.pend
    let slots := match s.prim.flUser with
      | some f => packElems 1 (f.held.toList.map fun n => b2n (decide (n ≠ 0)))
      | none => 0
    BitVec.ofNat 64 (held + own * 2 ^ 7 + slots * 2 ^ 14)
  | .pawn t =>
    let p := s.pawn t
    BitVec.ofNat 64 (if p.th.mode = 0 then 0 else pwqEntries p.pend * 2 ^ 7)

/-- TSTAT (R222). -/
def State.tstat (s : State) : Word64 :=
  let p := s.prim
  BitVec.ofNat 64 (b2n p.phv + b2n (!s.die.excursion) * 2 + b2n p.exc * 4 + packElems 1 (p.qFresh.toList.map b2n) * 2 ^ 4 +
    packElems 1 (p.vqFresh.toList.map b2n) * 2 ^ 8 + p.phvwhy.toNat * 2 ^ 12)

/-- MONST of a pawn (R201). -/
def Pawn.monst (p : Pawn) : Word64 :=
  BitVec.ofNat 64 (packElems 1 (p.mon.toList.map fun m => b2n m.armed) +
    packElems 1 (p.mon.toList.map fun m => b2n m.hit) * 2 ^ 4 + packElems 1 (p.mon.toList.map fun m => b2n m.isLocal) * 2 ^ 8)

/-- An engine command of thread t waits with a fault record pending (R178). -/
def State.engWalk (s : State) (t : Nat) : Bool :=
  s.core.engQ.toList.any fun q => q.cmds.any fun c => decide (c.byPawn = some t) && match c.fault with
    | some (_, _, some _) => true
    | _ => false

/-- An engine command of thread t waits on an entry with WB or MIG set (R178, R365). -/
def State.engBlock (s : State) (t : Nat) : Bool :=
  s.core.engQ.toList.any fun q => q.cmds.any fun c => decide (c.byPawn = some t) && match c.fault with
    | some (_, kind, _) => decide (3 ≤ kind)
    | none => false

/-- PARKST of the core (R366). -/
def State.parkst (s : State) : Word64 :=
  let st := fun (g : Nat → Bool) f => packElems 1 (s.pawns.toList.zipIdx.map fun p => match p.1.status with
    | .xlateWait k => b2n (f k || g p.2)
    | _ => b2n (g p.2))
  BitVec.ofNat 64 (st s.engBlock (fun k => k.blocked) + st s.engWalk (fun k => k.fault.isSome) * 2 ^ 16)

/-- A descriptor with its VALID bit (R248). -/
def State.fdRead (s : State) (n : Nat) : Word32 :=
  let d := vget s.core.fd n 0
  if fdValid d (s.feature 7) then d ||| 0x80000000#32 else d

/-- What csrr returns: the register as it stands at the start of the issue cycle. -/
def State.csrRead (s : State) (i : Nat) : Word64 :=
  let t := s.th
  let pw := match s.ctx.agent with
    | .primary => Pawn.initial
    | .pawn n => s.pawn n
  if i = 0x10 then (vget s.prim.loops 0 LoopLevel.idle).cnt.setWidth 64
  else if i = 0x11 then (vget s.prim.loops 0 LoopLevel.idle).laddr
  else if i = 0x12 then (vget s.prim.loops 1 LoopLevel.idle).cnt.setWidth 64
  else if i = 0x13 then (vget s.prim.loops 1 LoopLevel.idle).laddr
  else if i = 0x18 then t.slim
  else if i = 0x19 then BitVec.ofNat 64 s.threadNo
  else if i = 0x1A then t.mode.setWidth 64
  else if i = 0x20 then t.vflags.setWidth 64
  else if 0x28 ≤ i ∧ i ≤ 0x2B then vget t.seed (i - 0x28) 0
  else if i = 0x2C then t.srctr.setWidth 64
  else if i = 0x30 then t.tvec.setWidth 64
  else if i = 0x31 then t.tcause.setWidth 64
  else if i = 0x32 then t.tpc.setWidth 64
  else if i = 0x33 then t.ttgt.setWidth 64
  else if i = 0x34 then t.taddr
  else if i = 0x35 then t.targ
  else if 0x36 ≤ i ∧ i ≤ 0x39 then vget t.tscr (i - 0x36) 0
  else if i = 0x3A then s.pwq
  else if 0xA0 ≤ i ∧ i ≤ 0xA9 then vget s.core.frzh (i - 0xA0) 0
  else if i = 0xC0 then BitVec.ofNat 64 (s.prim.frz.toNat + b2n s.prim.frzClus * 2 ^ 10)
  else if i = 0xC1 then BitVec.ofNat 64 (s.core.wdogLimit.toNat + s.core.wdogElapsed.toNat * 2 ^ 16)
  else if 0xC8 ≤ i ∧ i ≤ 0xCF then vget s.core.cnt (i - 0xC8) 0
  else if i = 0xD0 then t.grdrec.setWidth 64
  else if i = 0xD8 then pw.monst
  else if i = 0xD9 then pw.msgSeq.setWidth 64
  else if i = 0xDA then pw.detchk
  else if i = 0xDB then pw.detsq.setWidth 64
  else if i = 0xDC then s.parkst
  else if i = 0xE0 then (vget s.core.wptr 0 0).setWidth 64
  else if i = 0xE1 then (vget s.core.wptr 1 0).setWidth 64
  else if i = 0xF0 then s.die.tick
  else if i = 0xF1 then s.die.beat
  else if i = 0xF2 then BitVec.ofNat 64 (min s.die.phase 131071)
  else if i = 0xF3 then s.tstat
  else if i = 0xF4 then s.prim.tempoRec.setWidth 64
  else if 0xF8 ≤ i ∧ i ≤ 0xFF then vget s.prim.route (i - 0xF8) 0
  else if 0x100 ≤ i ∧ i ≤ 0x10F then (s.fdRead (i - 0x100)).setWidth 64
  else if 0x140 ≤ i ∧ i ≤ 0x17F then vget s.core.rot (i - 0x140) 0
  else if 0x180 ≤ i ∧ i ≤ 0x190 then vget s.core.rdyh (i - 0x180) 0
  else 0

/-! ### Writes, as they take effect -/

/-- A loop level's count and addresses after a write (R85). -/
def LoopLevel.setAddr (l : LoopLevel) (v : Word64) : LoopLevel :=
  { l with
    start := BitVec.ofNat 21 (bits v.toNat 0 21)
    stop := BitVec.ofNat 21 (bits v.toNat 32 21)
    active := bit v.toNat 63 }

/-- Change one loop level. -/
def State.updLoop (s : State) (n : Nat) (f : LoopLevel → LoopLevel) : State :=
  s.updPrim fun p => { p with loops := vset p.loops n (f (vget p.loops n LoopLevel.idle)) }

/-- A descriptor's writable bits (R248). -/
def fdWritable (v : Word64) : Word32 := v.setWidth 32 &&& 0x0007FF7F#32

/-- What csrw does when it takes effect: RO fields and reserved bits stay (R8, R89). -/
def State.csrWrite (s : State) (i : Nat) (v : Word64) : State :=
  if i = 0x10 ∨ i = 0x12 then
    s.updLoop ((i - 0x10) / 2) fun l => l.setCount v
  else if i = 0x11 ∨ i = 0x13 then
    s.updLoop ((i - 0x10) / 2) fun l => l.setAddr v
  else if i = 0x18 then s.updTh fun t => { t with slim := v }
  else if i = 0x20 then s.updTh fun t => { t with vflags := v.setWidth 6 }
  else if 0x28 ≤ i ∧ i ≤ 0x2B then s.updTh fun t => { t with seed := vset t.seed (i - 0x28) v }
  else if i = 0x2C then s.updTh fun t => { t with srctr := v.setWidth 56 }
  else if i = 0x30 then s.updTh fun t => { t with tvec := v.setWidth 21 }
  else if i = 0x31 then s.updTh fun t => { t with tcause := v.setWidth 17 }
  else if i = 0x32 then s.updTh fun t => { t with tpc := v.setWidth 21 }
  else if i = 0x33 then s.updTh fun t => { t with ttgt := v.setWidth 21 }
  else if i = 0x34 then s.updTh fun t => { t with taddr := v }
  else if i = 0x35 then s.updTh fun t => { t with targ := v }
  else if 0x36 ≤ i ∧ i ≤ 0x39 then s.updTh fun t => { t with tscr := vset t.tscr (i - 0x36) v }
  else if i = 0xC1 then s.updCore fun c => { c with wdogLimit := v.setWidth 16 }
  else if i = 0xF3 then s.updPrim fun p => if bit v.toNat 2 then { p with exc := false } else p
  else if 0xF8 ≤ i ∧ i ≤ 0xFF then s.updPrim fun p => { p with route := vset p.route (i - 0xF8) (s.routeValue v) }
  else if 0x100 ≤ i ∧ i ≤ 0x10F then s.updCore fun c => { c with fd := vset c.fd (i - 0x100) (fdWritable v) }
  else s

end Sys2Proof.Machine
end

