-- ==== Sys2Proof/Machine/Device.lean ====
section
/-! DEFINITION. The device register space (R8, R428): which registers there are, their reset values and writable bits, and
how the machine reads and sets them. `Dev.regs` lists the registers that do not hold their reset value. -/

namespace Sys2Proof.Machine

/-- A run of like registers: offsets base + stride × n for n below count, with a reset value and a mask of writable bits. -/
structure RegRow where
  base : Nat
  stride : Nat
  count : Nat
  reset : Nat
  rw : Nat

/-- The offset lies in the run. -/
def RegRow.holds (r : RegRow) (off : Nat) : Bool :=
  decide (r.base ≤ off) && decide ((off - r.base) % r.stride = 0) && decide ((off - r.base) / r.stride < r.count)

/-- A mask of bits hi to lo. -/
def maskOf (hi lo : Nat) : Nat := 2 ^ (hi + 1) - 2 ^ lo

/-- The maps of R126, R136, R234, R356, R363, R362, R371, R374, R379, R380, R386, R399, R403, R416, R421, R424, R425, R427
and R431. Registers whose value the part fixes stand in `partReg`. -/
def regRows : List RegRow := [
  ⟨0x44, 4, 1, 0, 0xFFFFFFFF⟩, ⟨0x48, 4, 1, 0, 1⟩, ⟨0x4C, 4, 1, 0, 0⟩,
  ⟨0x1080, 0x100, 6, 0x0000FF, 0xFFFFFF⟩, ⟨0x1084, 0x100, 6, 0x00FF00, 0xFFFFFF⟩, ⟨0x1088, 0x100, 6, 0x3F0000, 0xFFFFFF⟩,
  ⟨0x108C, 0x100, 6, 0xC00000, 0xFFFFFF⟩, ⟨0x1090, 0x100, 6, 0, 0xFFFFFFFF⟩,
  ⟨0x300, 8, 1, 256, 0xFFFF⟩, ⟨0x308, 8, 1, 0, maskOf 51 12⟩, ⟨0x310, 8, 1, 0, 0xFFFF000F⟩, ⟨0x318, 8, 1, 0, 0⟩,
  ⟨0x320, 8, 1, 0, maskOf 55 16⟩, ⟨0x328, 8, 1, 0, 0xFFFF⟩, ⟨0x330, 8, 1, 0, maskOf 51 16⟩,
  ⟨0x338, 8, 1, 0, maskOf 51 16⟩, ⟨0x348, 8, 1, 0, 0⟩, ⟨0x350, 8, 1, 0, 0⟩, ⟨0x400, 8, 64, 0, 0x3FFF⟩,
  ⟨0x600, 8, 1, 0, 0⟩, ⟨0x610, 8, 4, 0, 0⟩, ⟨0x680, 8, 4, 0, maskOf 63 0⟩, ⟨0x6A0, 8, 1, 0, 0x3F⟩,
  ⟨0x6A8, 8, 1, 0, maskOf 63 0⟩, ⟨0x6B0, 8, 8, 0, 0⟩,
  ⟨0x700, 8, 1, 0, maskOf 51 12⟩, ⟨0x708, 8, 1, 0, 0xFFFF000F⟩, ⟨0x710, 8, 1, 0, 0⟩, ⟨0x718, 8, 1, 0, 0⟩,
  ⟨0x720, 8, 1, 24, 0xFFFF⟩, ⟨0x728, 8, 1, 0, 0⟩, ⟨0x730, 8, 6, 0, 0⟩, ⟨0x760, 8, 6, 0, 0⟩, ⟨0x790, 8, 6, 0, 0⟩,
  ⟨0x800, 8, 1, 7500, 0xFFFF⟩, ⟨0x808, 8, 1, 0, 0⟩, ⟨0x810, 8, 1, 0, 0⟩,
  ⟨0x50000, 16, 4096, 0, maskOf 51 16⟩, ⟨0x50008, 16, 4096, 0, maskOf 35 16⟩,
  ⟨0x70000, 8, 1, 0, 0xFFF⟩, ⟨0x70008, 8, 1, 0, maskOf 63 0⟩, ⟨0x70010, 8, 1, 0, maskOf 63 0⟩,
  ⟨0x70018, 8, 1, 0, maskOf 51 16⟩, ⟨0x70020, 8, 1, 0, 0xFFFFFFFF⟩, ⟨0x70100, 8, 1, 0, 0x877F⟩,
  ⟨0x100000, 64, 4096, 0, maskOf 51 13⟩, ⟨0x100008, 64, 4096, 0, maskOf 51 6⟩, ⟨0x100010, 64, 4096, 0, 0xFFFF000F⟩,
  ⟨0x100020, 64, 4096, 0, maskOf 51 12⟩,
  ⟨0x140000, 32, 4096, 2 ^ 64 - 1, maskOf 63 0⟩, ⟨0x140008, 32, 4096, 0xFFFFFFFF, 0xFFFFFFFF⟩,
  ⟨0x140010, 32, 4096, 0xFFFFFF, 0xFFFFFF⟩,
  ⟨0x170000, 8, 2048, 0, 0⟩,
  ⟨0x180000, 0x400, 96, 0, 0x7FFF1⟩, ⟨0x180008, 0x400, 96, 0, 0⟩,
  ⟨0x180010, 0x400, 96, 0, 0x3FFFFFFF⟩, ⟨0x180018, 0x400, 96, 0, 0x3FFFFFFF⟩, ⟨0x180020, 0x400, 96, 0, 0x3FFFFFFF⟩,
  ⟨0x180028, 0x400, 96, 0, 0x3FFFFFFF⟩,
  ⟨0x180030, 0x400, 96, 0, maskOf 55 0⟩, ⟨0x180040, 0x400, 96, 0, maskOf 55 0⟩, ⟨0x180050, 0x400, 96, 0, maskOf 55 0⟩,
  ⟨0x180060, 0x400, 96, 0, maskOf 55 0⟩,
  ⟨0x180038, 0x400, 96, 3, 0xFFFF⟩, ⟨0x180048, 0x400, 96, 3, 0xFFFF⟩, ⟨0x180058, 0x400, 96, 3, 0xFFFF⟩,
  ⟨0x180068, 0x400, 96, 3, 0xFFFF⟩,
  ⟨0x180080, 0x400, 96, 0, maskOf 51 12⟩, ⟨0x180088, 0x400, 96, 0, 0x3FFF⟩, ⟨0x180090, 0x400, 96, 0, 0⟩,
  ⟨0x1B0000, 32, 1024, 0, maskOf 63 12⟩, ⟨0x1B0008, 32, 1024, 0, 0x800007FF03FFFF0F⟩, ⟨0x1B0010, 32, 1024, 0, 0xFFFFFFFF⟩,
  ⟨0x1B0018, 32, 1024, 0, 0xFFFFFFFF⟩]

/-- The run that holds an offset. -/
def regRow (off : Nat) : Option RegRow := regRows.find? fun r => r.holds off

/-- The value of a register at device reset. -/
def regReset (off : Nat) : Nat :=
  match regRow off with
  | some r => r.reset
  | none => 0

/-- Registers whose value the part fixes: the tier ranges, SLICES, FENCECL, FENCESL, SERIAL and VENDKEYH (R136,
R234, R356, R380, R420). -/
def Part.reg (p : Part) (off : Nat) : Option Nat :=
  if off = 0x60 then some p.hbmTop
  else if off = 0x68 then some p.t2Base
  else if off = 0x70 then some p.t2Top
  else if off = 0x78 then some p.hostBase
  else if off = 0x608 then some p.serial.toNat
  else if 0x630 ≤ off ∧ off < 0x650 ∧ off % 8 = 0 then some (bits p.vendKeyH.toNat (8 * (off - 0x630)) 64)
  else none

/-- Bits of FENCECL and FENCESL that the part sets, beside those that fences have set (R420), and ROMVER beside STATE (R380). -/
def Part.fencedBits (p : Part) (off : Nat) : Nat :=
  if 0x730 ≤ off ∧ off < 0x760 ∧ off % 8 = 0 then p.fused.getD ((off - 0x730) / 8) 0
  else if 0x760 ≤ off ∧ off < 0x790 ∧ off % 8 = 0 then p.deadSlices.getD ((off - 0x760) / 8) 0
  else if off = 0x600 then p.romVer.toNat * 2 ^ 16
  else 0

/-- Bits of a word that are set. -/
def popBits (n x : Nat) : Nat := ((List.range n).filter fun i => bit x i).length

/-- The pins of a page in the six tables, and its counts in the seven (R178, R368). -/
def State.pinsOf (s : State) (page : Nat) : Nat := ((s.dev.pins.filter fun x => x.1 % 2 ^ 40 = page).map fun x => x.2).foldl (· + ·) 0
def State.countsOf (s : State) (page : Nat) : Nat := ((s.dev.pact.filter fun e => e.page = page).map fun e => e.count).foldl (· + ·) 0

/-- FEATW0: feature 1 is there only while CXL.cache is negotiated (R136, R428). -/
def State.featw0 (s : State) : Word32 := if s.dev.cxlOff then s.part.featw0 &&& ~~~2#32 else s.part.featw0

/-- A register of the device as it stands. SLICES counts the live slices (R233, R234). -/
def State.devReg (s : State) (off : Nat) : Nat :=
  if off = 0x40 then s.featw0.toNat else
  match s.part.reg off with
  | some v => v
  | none =>
    if 0x1094 ≤ off ∧ off < 0x1600 ∧ (off - 0x1094) % 0x100 = 0 then
      let o := 0x760 + 8 * ((off - 0x1094) / 0x100)
      64 - popBits 64 (s.part.fencedBits o ||| assocGet s.dev.regs o 0)
    else
      let v := assocGet s.dev.regs off (regReset off) ||| s.part.fencedBits off
      if off = 0x330 then v + min 0xFFFF (s.pinsOf (bits v 16 36))
      else if off = 0x338 then v + min 0xFFFF (s.countsOf (bits v 16 36))
      else v

/-- A register takes a value. -/
def State.setDevReg (s : State) (off v : Nat) : State :=
  s.updDev fun d => { d with regs := if v = regReset off then assocErase d.regs off else assocSet d.regs off v }

/-- The host link is open: not where the boot ROM has refused the image, which leaves the provisioning window alone (R380). -/
def State.hostOpen (s : State) : Bool := decide (bits (s.devReg 0x600) 0 2 ≠ 3)

/-- The global cluster number of a die's logical cluster (R118). -/
def State.clusterNo (s : State) : Nat := s.part.clustersPerDie * s.core.cfg.die + s.core.cfg.dieClus

/-- A register of the debug module of the core's cluster (R421). -/
def State.dbgOff (s : State) (off : Nat) : Nat := 0x180000 + 0x400 * s.clusterNo + off
def State.dbg (s : State) (off : Nat) : Nat := s.devReg (s.dbgOff off)

/-- The module acts on the launch that runs: it has an owner, and the launch is the owner's (R421). -/
def State.dbgOwned (s : State) : Bool :=
  s.core.cfg.running && bit (s.dbg 0) 18 && decide (bits (s.dbg 0) 6 12 = s.core.cfg.cx)

/-- brk is a debug event; events trap to supervisor code (R421). -/
def State.breaksOn (s : State) : Bool := s.dbgOwned && bit (s.dbg 0) 0
def State.dbgRoute (s : State) : Bool := bit (s.dbg 0) 5

/-- DBGSTAT of an event: core, source, index, pawn and thread, address (R421). -/
def dbgStat (core source index : Nat) (pawn : Bool) (t addr : Nat) : Nat :=
  core + source * 8 + index * 64 + b2n pawn * 256 + t * 512 + addr % 2 ^ 32 * 2 ^ 32

/-- HALTED of a cluster clears, and the halt window no longer shows its cores (R423, R424). -/
def State.clearHalted (s : State) (g : Nat) : State :=
  let o := 0x180000 + 0x400 * g
  (s.setDevReg o (setBits (s.devReg o) 3 1 0)).updDev fun d => { d with winFar := d.winFar.filter fun x => x.1 / 8 ≠ g }

/-- HALTED of clusters that a launch leaves clears (R423). -/
def State.clearHalts (s : State) (l : List Nat) : State :=
  l.foldl (fun s g => if g ≠ 255 ∧ bit (s.devReg (0x180000 + 0x400 * g)) 3 then s.clearHalted g else s) s

/-- A halt with XOUT goes to the launch's other clusters (R423). -/
def State.crossHalts (s : State) (l : List Nat) : State :=
  s.updDev fun d => { d with crossing := d.crossing ++ l.map fun g => (g, 0) }

/-- The core halts: HALTTICK and HALTBEAT (R406). -/
def State.markHalt (s : State) : State := s.updCore fun c => { c with haltTick := s.die.tick, haltBeat := s.die.beat }

/-- An event comes before the one that DBGSTAT shows of the same tick: a lower core, or of one core the primary (R422). -/
def State.eventBefore (s : State) (core : Nat) (who : Option Agent) : Bool :=
  let old := s.dbg 8
  let pawn := match who with
    | some (.pawn _) => 1
    | _ => 0
  decide (s.core.haltTick = s.die.tick) && decide (2 * core + pawn < 2 * bits old 0 3 + bits old 8 1)

/-- A debug halt of the cluster for an event at a core, which a thread or else another agent has raised: HALTED, and DBGSTAT of the first event; the
cores stand still from the next tick that R64 forms (R422, R423). -/
def State.haltBy (s : State) (core source index : Nat) (who : Option Agent) (addr : Nat) : State :=
  let first := !bit (s.dbg 0) 3
  let stat := match who with
    | some (.pawn t) => dbgStat core source index true t addr
    | _ => dbgStat core source index false 0 addr
  let s := if first ∨ s.eventBefore core who then s.setDevReg (s.dbgOff 8) stat else s
  let s := if first then (s.setDevReg (s.dbgOff 0) (setBits (s.dbg 0) 3 1 1)).markHalt else s
  let s := if first && bit (s.dbg 0) 4 && decide (source ≠ 4) then
      s.crossHalts (s.core.cfg.clusters.filter fun g => g ≠ s.clusterNo)
    else s
  s.updPrim fun p => { p with haltNext := true }

/-- The same for an event at the modelled core. -/
def State.debugHalt (s : State) (source index : Nat) (pawn : Bool) (t addr : Nat) : State :=
  s.haltBy s.core.cfg.coreInClus source index (some (if pawn then .pawn t else .primary)) addr

/-- A halt that has been raised holds the cluster. -/
def Primary.beginHalt (p : Primary) : Primary := { p with halted := p.halted || p.haltNext, haltNext := false }

end Sys2Proof.Machine
end

