-- ==== Sys2Proof/Machine/Issue.lean ====
section
/-! DEFINITION. Issue of an op (R46 to R48, R63, R396) and the watchpoints that stop one (R422). -/

namespace Sys2Proof.Machine

/-! ### Watchpoints (R421, R422) -/

/-- Watchpoint n of the cluster's module covers some byte of the access. -/
def State.watchMatch (s : State) (n : Nat) (x : Span) : Bool :=
  let ctl := s.dbg (0x38 + 16 * n)
  let size := 2 ^ bits ctl 0 5
  let lo := s.dbg (0x30 + 16 * n) / size * size
  let off := if x.glob then x.addr else x.addr % 2 ^ 21
  let core := if x.glob then s.core.cfg.coreInClus else x.addr / 2 ^ 21 % 8
  decide (3 ≤ bits ctl 0 5) && decide (bits ctl 0 5 ≤ 16) && decide (bit ctl 5 = x.glob) &&
    ((x.rd && bit ctl 6) || (x.wr && bit ctl 7)) && bit ctl (8 + core) &&
    (x.glob || decide (x.addr / 2 ^ 24 = s.core.lmBase / 2 ^ 24)) && decide (lo < off + x.len) && decide (off < lo + size)

/-- The first watchpoint that an access hits, with the first watched byte of it. -/
def State.watchHit (s : State) (l : List Span) : Option (Nat × Nat) :=
  if s.dbgOwned then
    (List.range 4).findSome? fun n => (l.find? fun x => s.watchMatch n x).map fun x =>
      let size := 2 ^ bits (s.dbg (0x38 + 16 * n)) 0 5
      (n, max (if x.glob then x.addr else x.addr % 2 ^ 21) (s.dbg (0x30 + 16 * n) / size * size))
  else none

/-- The op in hand hits a watchpoint and issues nothing: its thread traps, or the cluster halts and a pawn parks. -/
def State.watchStop (s : State) (n addr : Nat) : State :=
  if s.dbgRoute then s.trap (s.trapAt (0x1E0 + s.unit) s.ctx.pc 0)
  else
    match s.ctx.agent with
    | .primary => s.debugHalt 2 n false 0 addr
    | .pawn t => (s.debugHalt 2 n true t addr).updPawn t fun p => { p with status := .halted }

/-- The watchpoint that stops the op in hand. A resume exempts from breakpoints only (R423). -/
def State.opWatch (s : State) (sp : OpSpec) : Option (Nat × Nat) := s.watchHit (sp.spans s)

/-- An access of another agent, or a submitted command, hits a watchpoint of the core whose memory it is in, or that has submitted it: it goes on, and
the halt follows (R422). -/
def State.watchOther (s : State) (x : Span) : State :=
  match s.watchHit [x] with
  | some (n, addr) => s.haltBy (if x.glob then s.core.cfg.coreInClus else x.addr / 2 ^ 21 % 8) 2 n none addr
  | none => s

/-- Banks of the own core are taken for the rest of the tick. -/
def State.takeBanks (s : State) (m : BitVec 64) : State := s.updCore fun c => { c with banks := c.banks ||| m }

/-- The bank of a bank word, over the cores: key / 2^21 × 64 + bank. -/
def farBank (w : Nat) : Nat := w / 2 ^ 18 * 64 + w % 64

/-- The bank of a bank word is free in the tick in hand (R68). -/
def State.wordFree (s : State) (w : Nat) : Bool :=
  if w / 2 ^ 18 = s.core.lmBase / 2 ^ 21 then !s.core.banks.getLsbD (w % 64) else decide (farBank w ∉ s.core.banksFar)

/-- The bank of a bank word is taken for the rest of the tick. -/
def State.takeWord (s : State) (w : Nat) : State :=
  if w / 2 ^ 18 = s.core.lmBase / 2 ^ 21 then s.takeBanks (1#64 <<< (w % 64))
  else s.updCore fun c => { c with banksFar := farBank w :: c.banksFar }

def State.takeWords (s : State) (ws : List Nat) : State := ws.foldl State.takeWord s

/-- Agent i of rank 3 asks for its word or row for another tick, or has been served (R68). -/
def State.keepWaiting (s : State) (i : Nat) : State := s.updCore fun c => { c with ages := vset c.ages i (vget c.ages i 0 + 1) }
def State.stopWaiting (s : State) (i : Nat) : State := s.updCore fun c => { c with ages := vset c.ages i 0 }

/-! ### Issue -/

/-- The effect of an op that has passed its checks, unless a watchpoint stops it. -/
def State.performWatched (s : State) (sp : OpSpec) (eff : State → State) : State :=
  match s.opWatch sp with
  | some (n, addr) => s.watchStop n addr
  | none => s.perform sp eff

/-- Issue of an op: the first check that fails takes its trap and the op does nothing else; otherwise the op has its
effect, unless a cause of R63 keeps it waiting. In a bundle the checks of all slots have been made before (R396). -/
def issue (sp : OpSpec) (s : State) (eff : State → State) : Out :=
  if s.ctx.checked then .next (s.perform sp eff)
  else
    match s.encodingTrap sp with
    | some r => .next (s.trap r)
    | none =>
      if s.freezes sp ≠ [] then .next (s.freezeWith (s.freezes sp))
      else
        match lateStages.findSome? fun st => s.lateTrap sp st [] with
        | some r => .next ((s.discardFor sp r).trap r)
        | none => .next (s.performWatched sp eff)

end Sys2Proof.Machine
end

