-- ==== Sys2Proof/Machine/Home.lean ====
section
/-! DEFINITION. Global memory: tiers, homes and slices (R232, R233), access counters and notifications (R362, R363, R368),
accesses at the home slice with their notices to monitors (R199), and the pawn cache (R162, R163, R188, R241). -/

namespace Sys2Proof.Machine

/-! ### Tiers and homes -/

/-- The tier of a physical address: 0 HBM, 1 second tier, 2 host (R356). -/
def Part.tierOf (p : Part) (pa : Nat) : Option Nat :=
  if pa < p.hbmTop then some 0
  else if p.t2Base ≤ pa ∧ pa < p.t2Top then some 1
  else if p.hostBase ≤ pa ∧ pa < 2 ^ 52 then some 2
  else none

/-- A physical address on the host tier. -/
def State.onHost (s : State) (pa : Nat) : Bool := decide (s.part.tierOf pa = some 2)

/-- The home die of a physical address (R232); 6 stands for the host link. -/
def Part.homeDie (p : Part) (pa : Nat) : Nat :=
  let g := pa / 4096 % 2 ^ 40
  match p.tierOf pa with
  | some 0 => g % 12 / 2
  | some 1 => g % 6
  | _ => 6

/-- The place of a line among the n live slices of its home die (R233). -/
def sliceIndex (line n : Nat) : Nat := ((bits line 0 16 ^^^ bits line 16 16) ^^^ bits line 32 14) % n

/-- The home slice of a line by physical number, where `dead` lists the fenced slices of the die (R233). -/
def homeSlice (line : Nat) (dead : List Nat) : Nat :=
  let live := (List.range 64).filter fun i => decide (i ∉ dead)
  live.getD (sliceIndex line live.length) 0

/-! ### Queues that the device writes -/

/-- A vector is raised towards the host (R428). -/
def State.raiseVector (s : State) (n : Nat) : State := s.updDev fun d => { d with msix := d.msix ++ [n] }

/-- A sum modulo 2^n. -/
def addMod (n a b : Nat) : Nat := (a + b) % 2 ^ n
/-- A difference modulo 2^n. -/
def subMod (n a b : Nat) : Nat := (a + 2 ^ n - b % 2 ^ n) % 2 ^ n

/-- The queue of a register is full with its two pointers equal: all its records are unread. -/
def State.queueFull (s : State) (reg : Nat) : Bool := decide (reg ∈ s.dev.fullQ)

/-- A record has been written: a tail that has come round to the head tells a full queue from an empty one. -/
def State.markFull (s : State) (reg head tail : Nat) : State :=
  if head = tail then s.updDev fun d => { d with fullQ := reg :: d.fullQ } else s

/-! ### Accesses at the home slice -/

/-- A monitor that watches a global line (R198, R199). -/
def Monitor.watches (m : Monitor) (line : Nat) : Bool := m.armed && !m.isLocal && decide (m.line = line)

/-- A thread of the core watches the line. -/
def State.watched? (s : State) (line : Nat) : Bool :=
  s.pawns.toList.any fun p => p.mon.toList.any fun m => m.watches line && m.acked

/-- A monitor of the core records a hit on a global line (R199). -/
def State.hitGlobal (s : State) (line : Nat) : State :=
  s.setPawns (vmap (fun p => { p with
    mon := vmap (fun m => if m.watches line && m.acked then { m with hit := true } else m) p.mon }) s.pawns)

/-- A write to the line of an event wait's word brings it far enough (R124). -/
def State.wakeWaits (s : State) (line : Nat) : State :=
  let meets := fun (j : Job) => j.watch.any fun a => decide (a / 64 ≤ line) && decide (line ≤ (a + 7) / 64)
  if s.dev.jobs.any meets then
    s.updDev fun d => { d with jobs := d.jobs.map fun j =>
      if (meets j && decide (((j.words.getD []).getD 2 0).toNat ≤ memRead s.pm (j.watch.getD 0) 8)) then { j with reached := true } else j }
  else s

/-- The home slice sends a notice of a write to a line that the core has registered; none on the host tier (R199). The distributor looks at
the word of an event wait in the line (R124). In deterministic mode a
hit stands from the write on, so that the next visit judges it (R337). -/
def State.notice (s : State) (pa : Nat) : State :=
  let s := s.wakeWaits (pa / 64)
  if s.watched? (pa / 64) && !s.onHost pa then
    if s.core.cfg.det then s.hitGlobal (pa / 64) else s.setWork (s.work ++ [(agentCtx .primary, .monitorHit false (pa / 64))])
  else s

/-- A committed write makes a chunk stale that has read one of its bytes (R336). -/
def Chunk.meets (c : Chunk) (pa n : Nat) : Chunk :=
  { c with stale := c.stale || c.reads.any fun a => decide (pa ≤ a) && decide (a < pa + n) }

/-- The chunks of a deterministic launch see a write of n bytes. -/
def State.markStale (s : State) (pa n : Nat) : State :=
  if s.core.cfg.det then s.setPawns (vmap (fun p => { p with chunk := p.chunk.meets pa n }) s.pawns) else s

/-- The same of a write of local memory. -/
def Chunk.meetsLocal (c : Chunk) (key n : Nat) : Chunk :=
  { c with stale := c.stale || c.lmReads.any fun a => decide (key ≤ a) && decide (a < key + n) }

/-- The chunks of a deterministic launch see a committed write of a pawn to local memory (R336, log 72). -/
def State.staleLocal (s : State) (key n : Nat) : State :=
  if s.core.cfg.det then s.setPawns (vmap (fun p => { p with chunk := p.chunk.meetsLocal key n }) s.pawns) else s

/-- Marks of the other stores go, where a write has replaced their words (R415). -/
def State.heal (s : State) (f : ErrLoc → Bool) : State := s.updCore fun c => { c with struck := c.struck.filter fun l => !f l }

/-- A word of L2 of which a mask of bytes from an address on covers all eight (R413, R415). -/
def ErrLoc.inL2 (pa n mask : Nat) : ErrLoc → Bool
  | .l2 w => decide (pa ≤ 8 * w) && decide (8 * w + 8 ≤ pa + n) && decide (bits mask (8 * w - pa) 8 = 0xFF)
  | _ => false

/-- A write of device memory over a run of bytes: the bad codewords that it covers whole are good again, in the memory and in L2 (R415). -/
def State.healPm (s : State) (pa n : Nat) : State :=
  ({ s with badPm := s.badPm.filter fun w => decide (32 * w < pa) || decide (pa + n < 32 * w + 32) } : State).heal (ErrLoc.inL2 pa n (2 ^ n - 1))

/-- A write of n bytes of one line performed at its home. -/
def State.homeWrite (s : State) (pa n v : Nat) : State :=
  (((s.setPm (memWrite s.pm pa n v)).markStale pa n).heal (ErrLoc.inL2 pa n (2 ^ n - 1))).notice pa

/-- A read at home. -/
def State.homeRead (s : State) (pa n : Nat) : Nat := memRead s.pm pa n

/-! ### Writes of runs, and errors (R413 to R415, R419, R420) -/

/-- A write by the device or another agent to any run of bytes: each line's home performs its part. -/
def State.homeWriteRun (s : State) (pa n v : Nat) : State :=
  ((List.range ((pa + n + 63) / 64 - pa / 64)).foldl (fun s i => s.notice (64 * (pa / 64 + i))) (((s.setPm (memWrite s.pm pa n v)).markStale pa n).healPm pa n))

/-- A location that an error has been found in waits for its test (R417). -/
def State.askTest (s : State) (t : ErrTest) : State :=
  if t ∈ s.dev.tests then s else s.updDev fun d => { d with tests := d.tests ++ [t] }

/-- The home slice of a line by its physical number (R233). -/
def State.sliceOf (s : State) (addr : Nat) : Nat :=
  let w := s.devReg (0x760 + 8 * s.part.homeDie addr)
  homeSlice (addr / 64) ((List.range 64).filter fun i => bit w i)

/-- The slice group of a line: four slices (R420). -/
def State.sliceGroup (s : State) (addr : Nat) : Nat := s.sliceOf addr / 4

/-- A 64-byte line lies in the range of a fenced stack or second-tier channel (R232, R419). -/
def State.lineFenced (s : State) (line : Nat) : Bool :=
  match s.part.tierOf (64 * line) with
  | some 0 => bit (s.devReg 0x728) (6 + line / 64 % 12)
  | some 1 => decide (Config.channelOf line ∈ s.dev.fencedCh)
  | _ => false

/-- Some byte of a run lies in a fenced range. -/
def State.rangeFenced (s : State) (pa n : Nat) : Bool :=
  !(decide (s.devReg 0x728 = 0) && s.dev.fencedCh.isEmpty) &&
    (List.range ((pa + n + 63) / 64 - pa / 64)).any fun i => s.lineFenced (pa / 64 + i)

/-- An error record is written to the queue, or counted as dropped (R420). `unit` is the physical cluster, slice group or
stack; `cx` the context of the consumer, 0xFFF for none. The test is of the home slice itself. The ticks of a die other than the core's are a free
value. A record whose own place is in a fenced range is lost (R419). -/
def State.errRecord (s : State) (store : Nat) (uncorr : Bool) (verdict die unit core cx idx : Nat) : State :=
  let ctl := s.devReg 0x708
  let cap := 2 ^ (min (bits ctl 0 4) 9 + 7)
  let head := bits ctl 16 16
  let tail := bits ctl 32 16
  let s := if uncorr && decide (verdict = 0) then s.askTest ⟨true, store, die, if store = 1 then s.sliceOf idx else unit, core, idx⟩ else s
  if cap ≤ subMod 16 tail head || s.queueFull 0x708 then s.setDevReg 0x710 (addMod 32 (s.devReg 0x710) 1)
  else
    let w0 := store % 8 + b2n uncorr * 2 ^ 3 + verdict % 4 * 2 ^ 4 + die % 8 * 2 ^ 6 + unit % 16 * 2 ^ 9 + core % 8 * 2 ^ 13 +
      cx % 4096 * 2 ^ 16 + s.dev.errSeq % 2 ^ 36 * 2 ^ 28
    let own := decide (die = s.core.cfg.die)
    let tick := if own then s.die.tick.toNat else Config.freeChoice s.free % 2 ^ 64
    let s := if own then s else s.bumpFree
    let v := w0 + idx % 2 ^ 64 * 2 ^ 64 + tick * 2 ^ 128 + s.devReg 0x728 * 2 ^ 192
    let a := bits (s.devReg 0x700) 12 40 * 4096 + 32 * (tail % cap)
    let s := ((if s.rangeFenced a 32 then s else s.homeWriteRun a 32 v).setDevReg 0x708 (setBits ctl 32 16 (addMod 16 tail 1))).markFull 0x708 head (addMod 16 tail 1)
    let s := s.updDev fun d => { d with errSeq := d.errSeq + 1 }
    if head = tail then s.raiseVector 0 else s

/-- L2 holds a bad word of a run of bytes (R413). -/
def State.l2Bad (s : State) (pa n : Nat) : Bool :=
  s.core.struck.any fun l => match l with
    | .l2 w => decide (8 * w < pa + n) && decide (pa < 8 * w + 8)
    | _ => false

/-- Some codeword under n bytes of device memory is bad, in the memory or in L2, or cannot be reached. -/
def State.pmBad (s : State) (pa n : Nat) : Bool :=
  (s.badPm.any fun w => decide (32 * w < pa + n) && decide (pa < 32 * w + 32)) || s.l2Bad pa n || s.rangeFenced pa n

/-- The store of a bad word at an address, and its unit in the sense of R420: L2 and the slice group, HBM and the stack, or the second tier and the
channel (R232, R413, log 59). -/
def State.storeOf (s : State) (pa : Nat) : Nat × Nat :=
  if s.l2Bad (pa / 64 * 64) 64 && !s.badPm.any (fun w => decide (w / 2 = pa / 64)) then (1, s.sliceGroup pa)
  else if s.part.tierOf pa = some 0 then (2, pa / 4096 % 12)
  else (3, Config.channelOf (pa / 64))

/-- The record of an uncorrectable error in device memory. -/
def State.pmError (s : State) (cx pa : Nat) : State :=
  s.errRecord (s.storeOf pa).1 true 0 (s.part.homeDie pa) (s.storeOf pa).2 0 cx pa

/-- The machine check of a context for which no thread, engine or walker has met the bad word: its launch on the modelled core ends, and its queues stop
(R128, R415, R419). -/
def State.ctxCheck (s : State) (cx : Nat) : State :=
  (if s.core.cfg.running ∧ s.core.cfg.cx = cx then s.request 0x1DF 0 else s).updDev fun d => { d with
    queues := d.queues.map fun x => if x.cx = cx then { x with stopped := true } else x }

/-! ### Counts of requests (R362, R363, R368, R377) -/

/-- A notification (R363): dropped when the queue is full; the vector is raised when the queue turns nonempty. Of the modulus of HEAD and TAIL and of the
entry's slot the spec says nothing: they run modulo 2^16, and the entry goes to slot TAIL modulo the capacity (DESIGN CHOICE, log 73). One in a fenced range
is lost, with an error record (R419). -/
def State.notify (s : State) (count page src cx : Nat) : State :=
  let ctl := s.devReg 0x310
  let cap := 2 ^ (min (bits ctl 0 4) 10 + 6)
  let head := bits ctl 16 16
  let tail := bits ctl 32 16
  if cap ≤ subMod 16 tail head || s.queueFull 0x310 then s.setDevReg 0x318 (addMod 32 (s.devReg 0x318) 1)
  else
    let tier := match s.part.tierOf (page * 65536) with
      | some t => t
      | none => 0
    let w0 := count % 65536 + page % 2 ^ 36 * 2 ^ 16 + tier * 2 ^ 52 + src * 2 ^ 54
    let w1 := cx % 4096 + s.dev.nseq % 2 ^ 48 * 2 ^ 16
    let a := bits (s.devReg 0x308) 12 40 * 4096 + 16 * (tail % cap)
    let s := if s.rangeFenced a 16 then s.pmError 0xFFF a else s.setPm (memWrite (memWrite s.pm a 8 w0) (a + 8) 8 w1)
    let s := (s.setDevReg 0x310 (setBits ctl 32 16 (addMod 16 tail 1))).markFull 0x310 head (addMod 16 tail 1)
    let s := s.updDev fun d => { d with nseq := d.nseq + 1 }
    if head = tail then s.raiseVector 1 else s

/-- The entry of lowest count of a table, the lowest index on a tie (R362). -/
def pactVictim : List PactEntry → Option PactEntry
  | [] => none
  | e :: l =>
    match pactVictim l with
    | none => some e
    | some v => if e.count < v.count ∨ (e.count = v.count ∧ e.index < v.index) then some e else some v

/-- One request is counted in a table (R362). -/
def State.pactCount (s : State) (src pa cx : Nat) : State :=
  let page := pa / 65536
  let tab := s.dev.pact.filter fun e => e.src = src
  let rest := fun (x : PactEntry) => s.dev.pact.filter fun e => !(decide (e.src = src) && decide (e.index = x.index))
  let e : PactEntry :=
    match tab.find? fun e => e.page = page with
    | some e => { e with count := e.count + 1 }
    | none =>
      if tab.length < 4096 then
        ⟨src, ((List.range 4096).find? fun i => tab.all fun e => e.index ≠ i).getD 0, page, 1⟩
      else
        match pactVictim tab with
        | some v => { v with page := page, count := 1 }
        | none => ⟨src, 0, page, 1⟩
  let thr := max 1 (bits (s.devReg 0x300) 0 16)
  let others := rest e
  if thr ≤ e.count then (s.updDev fun d => { d with pact := others }).notify e.count page src cx
  else s.updDev fun d => { d with pact := others ++ [e] }

/-- Word w of a context's accounting entry counts n more (R377). -/
def AcctEntry.add (e : AcctEntry) (w n : Nat) : AcctEntry :=
  { e with words := vset e.words w (vget e.words w 0 + BitVec.ofNat 64 n) }

/-- The accounting entry of a context. -/
def State.acctOf (s : State) (cx : Nat) : AcctEntry :=
  (s.dev.acct.find? fun e => e.cx = cx).getD ⟨cx, 0, Vector.replicate 16 0, 0⟩

/-- An entry in its place by context. -/
def putAcct (x : AcctEntry) : List AcctEntry → List AcctEntry
  | [] => [x]
  | e :: l => if x.cx = e.cx then x :: l else if x.cx < e.cx then x :: e :: l else e :: putAcct x l

/-- A context is charged. -/
def State.acctAdd (s : State) (cx w n : Nat) : State :=
  if n = 0 then s else s.updDev fun d => { d with acct := putAcct ((s.acctOf cx).add w n) d.acct }

/-- The bytes of a request that reaches a memory (R377). -/
def State.acctBytes (s : State) (pa cx : Nat) : State :=
  match s.part.tierOf pa with
  | some t => s.acctAdd cx (5 + t) 64
  | none => s

/-- A way mask in effect: one written in the tick in hand acts from the next on (R234). -/
def State.maskReg (s : State) (off : Nat) : Nat :=
  match s.dev.newMasks.find? fun x => x.1 = off with
  | some x => x.2
  | none => s.devReg off

/-- The L2 ways that a fill of a page class may use at a die for a context, or for the host, whose writes are of class 3 (R234, R375, log 70). -/
def State.ways (s : State) (die cls : Nat) (cx : Option Nat) : Nat :=
  s.maskReg (0x1080 + 0x100 * die + 4 * cls) &&& match cx with
    | some n => s.maskReg (0x140010 + 32 * n)
    | none => 0xFFFFFF

/-- An access of a class may be allocated in L2; of an access without a class that is not known, unless the masks of its context or of every class let none
in (R234, R375). -/
def State.l2Alloc (s : State) (pa : Nat) (cls cx : Option Nat) : Bool :=
  match cls with
  | some c => decide (s.ways (s.part.homeDie pa) c cx ≠ 0)
  | none => (List.range 4).any fun c => decide (s.ways (s.part.homeDie pa) c cx ≠ 0)

/-- An access is surely served by its memory: its class has no ways, and its line has not been allocated before (R234). -/
def State.l2Misses (s : State) (pa : Nat) (cls cx : Option Nat) : Bool := !s.l2Alloc pa cls cx && decide (pa / 64 ∉ s.dev.l2)

/-- A request reaches a memory: its bytes are charged to the context that makes it, and the page's counter counts it. -/
def State.reach (s : State) (src pa : Nat) (cx : Option Nat) : State :=
  (match cx with
    | some n => s.acctBytes pa n
    | none => s).pactCount src pa (cx.getD 0xFFF)

/-- The home of an address has to read its memory for a request: certain of a line that no way can hold, and otherwise a free value unless the access
came back as a hit (R23, R234). -/
def State.fillMiss (s : State) (pa : Nat) (hit alloc : Bool) : Bool :=
  (!alloc && decide (pa / 64 ∉ s.dev.l2)) || (!hit && decide (Config.freeChoice s.free % 2 = 1))

/-- One request of R368 at the home of an address, of a context or of the host; `alloc` says that its fill may take a way. The host link counts every
one; a die counts those that miss its L2 slices (R234, R368). -/
def State.countFill (s : State) (pa : Nat) (cx : Option Nat) (hit alloc : Bool) : State :=
  let die := s.part.homeDie pa
  if die = 6 then s.reach 6 pa cx
  else
    let miss := s.fillMiss pa hit alloc
    let s := s.bumpFree.updDev fun d => { d with l2 := if alloc && decide (pa / 64 ∉ d.l2) then pa / 64 :: d.l2 else d.l2 }
    if miss then s.reach die pa cx else s

/-- A request under the masks in effect. -/
def State.countReq (s : State) (pa : Nat) (cls cx : Option Nat) (hit : Bool) : State := s.countFill pa cx hit (s.l2Alloc pa cls cx)

/-- A request of a context. -/
def State.countHome (s : State) (pa : Nat) (cls : Option Nat) (cx : Nat) (hit : Bool := false) : State := s.countReq pa cls (some cx) hit

/-- The least ticks that a read of a home takes from a die (R23): 40 on the own die, 90 on another, and 300 where the HBM surely serves it, for want
of a way that its line could be in. -/
def State.homeTicks (s : State) (die pa : Nat) (alloc : Bool) : Nat :=
  if decide (s.part.tierOf pa = some 0) && !alloc && decide (pa / 64 ∉ s.dev.l2) then 300
  else if s.part.homeDie pa = die then 40 else 90

/-- A read of a home begins: it counts (R368), and takes the ticks of where it is served at least, 300 where that is the HBM (R23). -/
def State.beginRead (s : State) (die pa : Nat) (cls : Option Nat) (cx : Nat) : State × Nat :=
  let alloc := s.l2Alloc pa cls (some cx)
  (s.countFill pa (some cx) false alloc,
    if s.fillMiss pa false alloc && decide (s.part.tierOf pa = some 0) then 300 else s.homeTicks die pa alloc)

/-! ### The pawn cache (R188) -/

def State.cacheLine (s : State) (line : Nat) : Option CacheLine := s.core.cache.find? fun l => l.line = line

def State.setCacheLine (s : State) (l : CacheLine) : State :=
  s.updCore fun c => { c with cache := l :: c.cache.filter fun x => x.line ≠ l.line }

/-- The mask of n bytes from offset o of a line. -/
def byteMask (o n : Nat) : BitVec 64 := BitVec.ofNat 64 ((2 ^ n - 1) * 2 ^ o)

/-- Bytes of x where the mask is set, else those of y. -/
def mergeBytes (mask : BitVec 64) (x y : Nat) : Nat :=
  packElems 8 ((List.range 64).map fun i => if mask.getLsbD i then elemAt x 8 i else elemAt y 8 i)

/-- The codewords of a line that a byte mask covers whole are good again. -/
def State.healLine (s : State) (line : Nat) (mask : BitVec 64) : State :=
  let h := fun (s : State) i => if bits mask.toNat (32 * i) 32 = 2 ^ 32 - 1 then s.healPm (64 * line + 32 * i) 32 else s
  (h (h s 0) 1).heal (ErrLoc.inL2 (64 * line) 64 mask.toNat)

/-- A word that the pawn cache holds has been struck (R413). -/
def State.cacheStruck (s : State) (w : Nat) : Bool := decide (ErrLoc.cache w ∈ s.core.struck)

/-- The bytes of a line's struck words. -/
def State.struckBytes (s : State) (line : Nat) : BitVec 64 :=
  (List.range 8).foldl (fun m i => if s.cacheStruck (8 * line + i) then m ||| byteMask (8 * i) 8 else m) 0

/-- The cache writes the bytes of a mask of a line: the words that it writes whole are good again, and in a line that it did not hold before
every one (R415). -/
def State.healCache (s : State) (line : Nat) (mask : BitVec 64) : State :=
  let held := (s.cacheLine line).isSome
  s.heal fun l => match l with
    | .cache w => decide (w / 8 = line) && (!held || decide (bits mask.toNat (8 * (w % 8)) 8 = 0xFF))
    | _ => false

/-- The physical cluster of the modelled core. -/
def State.physOwn (s : State) : Nat := physCluster (s.part.fused.getD s.core.cfg.die 0) s.core.cfg.dieClus

/-- The record of an uncorrectable error in a store of the core (R420). -/
def State.coreError (s : State) (cx idx : Nat) : State := s.errRecord 0 true 0 s.core.cfg.die s.physOwn s.core.cfg.coreInClus cx idx

/-- The dirty bytes of a line go to its home; the line stays, clean (R162, R188). In a fenced range they are lost, and so are those of a struck word,
with an error record that names no context (R415, R419). -/
def State.writeBack (s : State) (l : CacheLine) : State :=
  if l.dirty = 0 then s
  else if s.lineFenced l.line then (s.pmError 0xFFF (64 * l.line)).setCacheLine { l with dirty := 0 }
  else
    let pa := 64 * l.line
    let lost := s.struckBytes l.line &&& l.dirty
    let mask := l.dirty &&& ~~~lost
    let s := if lost = 0 then s else s.coreError 0xFFF (8 * l.line)
    let s := ((s.setPm (memWriteMask s.pm pa 64 l.data.toNat mask.toNat)).healLine l.line mask).notice pa
    (s.countHome pa (some l.cls) s.core.cfg.cx).setCacheLine { l with dirty := 0, valid := l.valid &&& ~~~lost }

/-- Every dirty line is written back (R163). -/
def State.writeBackAll (s : State) : State := s.core.cache.foldl State.writeBack s

/-- Clean lines go (R163). -/
def State.dropClean (s : State) : State := s.updCore fun c => { c with cache := c.cache.filter fun l => l.dirty ≠ 0 }

/-- Write back and drop every line of which the predicate holds (R127, R241, R361). -/
def State.flushLines (s : State) (f : CacheLine → Bool) : State :=
  let s := (s.core.cache.filter f).foldl State.writeBack s
  s.updCore fun c => { c with cache := c.cache.filter fun l => !f l }

/-- Room for a line: with every line in use the cache evicts one of its own choosing (R188, R241). -/
def State.makeRoom (s : State) (line : Nat) : State :=
  if (s.cacheLine line).isSome || decide (s.core.cache.length < 1024) then s
  else
    match s.core.cache[Config.freeChoice s.free % s.core.cache.length]? with
    | none => s
    | some v =>
      let s := s.bumpFree.writeBack v
      s.updCore fun c => { c with cache := c.cache.filter fun x => x.line ≠ v.line }

/-- The line as the cache holds it, or an empty one. -/
def State.lineOr (s : State) (line : Nat) : CacheLine := (s.cacheLine line).getD { line := line, data := 0, valid := 0, dirty := 0 }

/-- A line is placed, or reached again, through a page. -/
def CacheLine.placed (l : CacheLine) (cls page : Nat) : CacheLine :=
  { l with cls := cls, pages := if page ∈ l.pages then l.pages else page :: l.pages }

/-- A store is accepted: its bytes become valid and dirty (R188); the core's monitors see it at once (R199). -/
def State.acceptStore (s : State) (pa n v cls page : Nat) : State :=
  let s := (s.makeRoom (pa / 64)).healCache (pa / 64) (byteMask (pa % 64) n)
  let l := (s.lineOr (pa / 64)).placed cls page
  let m := byteMask (pa % 64) n
  let x := mergeBytes m (v % 2 ^ (8 * n) * 2 ^ (8 * (pa % 64))) l.data.toNat
  (s.setCacheLine { l with data := BitVec.ofNat 512 x, valid := l.valid ||| m, dirty := l.dirty ||| m }).hitGlobal (pa / 64)

/-- All n bytes are valid in the cache. -/
def State.cacheHit (s : State) (pa n : Nat) : Bool :=
  match s.cacheLine (pa / 64) with
  | none => false
  | some l => decide (l.valid &&& byteMask (pa % 64) n = byteMask (pa % 64) n)

/-- The bytes of a line whose words can be read. -/
def State.goodBytes (s : State) (line : Nat) : BitVec 64 :=
  (List.range 8).foldl (fun m i => if s.pmBad (64 * line + 8 * i) 8 then m else m ||| byteMask (8 * i) 8) 0

/-- Some of n bytes that the cache holds lie in a struck word. -/
def State.hitStruck (s : State) (pa n : Nat) : Bool := decide (s.struckBytes (pa / 64) &&& byteMask (pa % 64) n ≠ 0)

/-- A fetched line fills the bytes that are not dirty, but for those of a bad codeword (R188, R415). -/
def State.fillLine (s : State) (line cls cx page : Nat) (hit alloc : Bool) : State :=
  let s := s.makeRoom line
  let l := (s.lineOr line).placed cls page
  let good := s.goodBytes line
  let s := s.healCache line (good &&& ~~~l.dirty)
  let x := mergeBytes (l.dirty ||| ~~~good) l.data.toNat (s.homeRead (64 * line) 64)
  (s.setCacheLine { l with data := BitVec.ofNat 512 x, valid := l.valid ||| good }).countFill (64 * line) (some cx) hit alloc

/-- n bytes of a cached line. -/
def State.cacheRead (s : State) (pa n : Nat) : Nat := bits (s.lineOr (pa / 64)).data.toNat (8 * (pa % 64)) (8 * n)

/-- n bytes become valid and clean in any cached copy of their line (R188); where they have been read and not written, those that are dirty stay
(R158). -/
def State.refreshCopy (s : State) (pa n v : Nat) (wrote : Bool := true) : State :=
  match s.cacheLine (pa / 64) with
  | none => s
  | some l =>
    let m := if wrote then byteMask (pa % 64) n else byteMask (pa % 64) n &&& ~~~l.dirty
    let x := mergeBytes m (v % 2 ^ (8 * n) * 2 ^ (8 * (pa % 64))) l.data.toNat
    (s.healCache (pa / 64) m).setCacheLine { l with data := BitVec.ofNat 512 x, valid := l.valid ||| m, dirty := l.dirty &&& ~~~m }

/-- A store performed at home, which any cached copy holds as well. -/
def State.homeUpdate (s : State) (pa n v : Nat) : State := (s.homeWrite pa n v).refreshCopy pa n v

/-- The write-back of its line that precedes an atomic (R188). -/
def State.writeBackLine (s : State) (line : Nat) : State :=
  match s.cacheLine line with
  | none => s
  | some l => s.writeBack l

end Sys2Proof.Machine
end

