-- ==== Sys2Proof/Machine/Checks.lean ====
section
/-! DEFINITION. Errors as agents meet them (29_errors R413 to R415, R420): bad words, error records, and the machine check of
the agent that consumes a bad word. -/

namespace Sys2Proof.Machine

/-- Some bank word of a list holds an uncorrectable error. -/
def State.lmBad (s : State) (words : List Nat) : Bool := s.badLm.any fun w => decide (w ∈ words)

/-- The record of an uncorrectable error that an agent of a context meets in a core's memory. -/
def State.lmError (s : State) (cx : Nat) (words : List Nat) : State :=
  let w := (s.badLm.find? fun w => decide (w ∈ words)).getD 0
  let die := w * 8 / 2 ^ 28
  s.errRecord 0 true 0 die (physCluster (s.part.fused.getD die 0) (w * 8 / 2 ^ 24 % 16)) (w * 8 / 2 ^ 21 % 8) cx (w % 2 ^ 18)

/-- A machine check of a thread waits for its next boundary (R396); that of another agent asks for pre-emption (R400). -/
def State.threadCheck (s : State) (code : Nat) : State :=
  s.updTh fun t => { t with mcheck := t.mcheck <|> some ⟨BitVec.ofNat 9 code, 0, 0, 15⟩ }

/-- A thread consumes bank words. -/
def State.useLm (s : State) (code : Nat) (words : List Nat) : State :=
  if s.lmBad words then (s.lmError s.core.cfg.cx words).threadCheck code else s

/-- A thread consumes bytes of device memory. -/
def State.usePm (s : State) (code pa n : Nat) : State :=
  if s.pmBad pa n then (s.pmError s.core.cfg.cx pa).threadCheck code else s

/-- Bank words are consumed otherwise than by an op that has issued: the machine check asks for pre-emption at once. -/
def State.agentUse (s : State) (code : Nat) (words : List Nat) : State :=
  if s.lmBad words then (s.lmError s.core.cfg.cx words).request (BitVec.ofNat 9 code) 0 else s

/-- A thread stores to a fenced range: the access meets the machine check, and nothing is stored (R419). -/
def State.storeFenced (s : State) (pa : Nat) : State := (s.pmError s.core.cfg.cx pa).threadCheck 0x1DE

/-- An engine, a walker or a loader of the core consumes bank words. -/
def State.agentLm (s : State) (words : List Nat) : State := s.agentUse 0x1DF words

/-- An engine or a walker of the core consumes bytes of device memory. -/
def State.agentPm (s : State) (pa n : Nat) : State :=
  if s.pmBad pa n then (s.pmError s.core.cfg.cx pa).request 0x1DF 0 else s

/-- The bytes of a line that the distributor accesses are charged to the context where they come from a memory: always on the host tier, elsewhere where the
line misses in L2, which is certain of a line without a way and otherwise a free value (R234, R377). -/
def State.chargeLine (s : State) (cx : Nat) (cls : Option Nat) (pa : Nat) : State :=
  if s.onHost pa then s.acctBytes pa cx
  else
    let alloc := s.l2Alloc pa cls (some cx)
    let miss := (!alloc && decide (pa / 64 ∉ s.dev.l2)) || decide (Config.freeChoice s.free % 2 = 1)
    let s := s.bumpFree.updDev fun d => { d with l2 := if alloc && decide (pa / 64 ∉ d.l2) then pa / 64 :: d.l2 else d.l2 }
    if miss then s.acctBytes pa cx else s

/-- The distributor writes n bytes of a line of device memory for a context: those of a fenced range are lost, with the machine check (R419). -/
def State.writeFor (s : State) (cx pa n v : Nat) : State :=
  if s.rangeFenced pa n then (s.pmError cx pa).ctxCheck cx else (s.homeWriteRun pa n v).chargeLine cx none pa

/-! ### The other stores (R413) -/

/-- The number of a struck word in the records of its store (R420, log 59). -/
def ErrLoc.index : ErrLoc → Nat
  | .lm w => w % 2 ^ 18
  | .pm c => 32 * c
  | .reg _ f n => 64 * f + n
  | .entry op => op
  | .cache w => w
  | .l2 w => 8 * w
  | .tlb _ v => v
  | .cmd i => i
  | .lock c => c
  | .pin k => k
  | .record e _ => e
  | .queue cx q => 64 * cx + q

/-- The store of a register file; those from 5 on belong to the core (R19, log 59). -/
def RFile.store : RFile → Option Nat
  | .s => some 0
  | .sNoPort => some 0
  | .v => some 1
  | .vRw => some 1
  | .b => some 2
  | .m => some 3
  | .ib => some 4
  | .t => some 5
  | .w => some 6
  | .a => some 7
  | .z => some 8
  | .fd => some 9
  | .e => none

/-- The mark of a register of an agent. -/
def regLoc (a : Agent) (f n : Nat) : ErrLoc := .reg (if 5 ≤ f then .primary else a) f n

/-- The struck word that the op in hand consumes: a register or unit store that it reads, the record that an eqr of the primary pops, or the lock table,
which every local or global access is checked against. -/
def State.struckOp (s : State) (sp : OpSpec) : Option ErrLoc :=
  if s.core.struck.isEmpty then none
  else
    let uses := (sp.regs.filter fun u => !u.dst || decide (u.file = .vRw)).map (fun u => (u.file, u.num.toNat)) ++ sp.reads s
    let regs := uses.filterMap fun u => u.1.store.map fun f => regLoc s.ctx.agent f u.2
    let recs := (sp.reads s).filterMap fun u => if u.1 = .e then (vget s.core.engQ u.2 EngQueue.empty).recsPrim.head?.map fun v => ErrLoc.record u.2 v else none
    let locks := if sp.cls = .l ∨ sp.cls = .g then s.core.locks.map fun l => .lock l.cmd else []
    (regs ++ recs ++ locks).find? fun l => decide (l ∈ s.core.struck)

/-- The thread in hand consumes a struck word: the record, and its machine check (R415). -/
def State.strikeUse (s : State) (code : Nat) (l : ErrLoc) : State := (s.coreError s.core.cfg.cx l.index).threadCheck code

/-- An engine or a walker of the core consumes a word of a list, if one is struck; once its machine check is on its way, no second one is asked for. -/
def State.agentStrike (s : State) (l : List ErrLoc) : State :=
  match l.find? fun x => decide (x ∈ s.core.struck) && s.core.preempt.isNone with
  | some x => (s.coreError s.core.cfg.cx x.index).request 0x1DF 0
  | none => s

/-- Some word of a list is struck. -/
def State.anyStruck (s : State) (l : List ErrLoc) : Bool := l.any fun x => decide (x ∈ s.core.struck)

/-- The words of a command's own in its queue and in the lock table. -/
def cmdLocs (id : Nat) : List ErrLoc := [.cmd id, .lock id]

/-- The mark of a TLB entry. -/
def TlbEntry.loc (t : TlbEntry) : ErrLoc := .tlb t.cx t.vpn

/-- An engine of the core writes n bytes of device memory: those of a fenced range meet the machine check (R419). -/
def State.agentStore (s : State) (pa n : Nat) : State :=
  if s.rangeFenced pa n then (s.pmError s.core.cfg.cx pa).request 0x1DF 0 else s

end Sys2Proof.Machine
end

