-- ==== Sys2Proof/Machine/Landing.lean ====
section
/-! DEFINITION. RESULT_LANDING: the effects that take place at the start of a cycle (R56, R57, R226, R258, R267, R269,
R272, R390), for the primary and for a pawn. Within one cycle the order is: registers and accumulators, then scale registers
with their generations, then bindings, then flags, then the reads of the banks. -/

namespace Sys2Proof.Machine

/-- The route leads back to the core itself (R224, R226). -/
def State.ownRoute (s : State) (r : Word64) : Bool :=
  decide (routePath r = 0) &&
    match s.resolveCore (routeDest r).toNat with
    | some l => decide (l.coreIdx = s.core.cfg.coreIdx)
    | none => false

/-- A send in the tick in which the value lands takes a mesh cycle of the tick before any other agent (R18, R68): a deposit two cycles on for the core
itself, else a value on its way to another core (R226). -/
def State.send (s : State) (vec : Bool) (r : Word64) (v : VecWord) : State :=
  let s := s.spendMesh
  if s.ownRoute r then
    s.updPrim fun p => { p with deposits := p.deposits ++ [⟨2, vec, routePort r, v, s.core.cfg.coreIdx, false⟩] }
  else
    s.updCore fun c => { c with
      outbox := c.outbox ++ [⟨vec, routePort r, routeDest r, BitVec.ofNat 2 (routePath r), v, s.die.tick⟩] }

/-- The bits of a value as predicates. -/
def boolsOf (n v : Nat) : Vector Bool n := ⟨⟨(List.range n).map fun i => bit v i⟩, by simp⟩

/-- A value lands in a register of the thread in hand; scale registers are written by `landZ`. -/
def State.setReg (s : State) (d : Dst) (v : Wide) : State :=
  match s.ctx.agent with
  | .primary =>
    match d with
    | .s r => s.updPrim fun p => { p with s := vset p.s r (v.setWidth 64) }
    | .v r => s.updPrim fun p => { p with v := vset p.v r (v.setWidth 2048) }
    | .b r => s.updPrim fun p => { p with b := vset p.b r (v.getLsbD 0) }
    | .bAll => s.updPrim fun p => { p with b := boolsOf 16 v.toNat }
    | .m r => s.updPrim fun p => { p with m := vset p.m r (v.setWidth 64) }
    | .ib r => s.updPrim fun p => { p with ib := vset p.ib r (v.setWidth 6) }
    | .sport _ r => s.send false r (v.setWidth 2048)
    | .vport _ r => s.send true r (v.setWidth 2048)
    | .z _ _ _ _ _ => s
    | .discard => s
  | .pawn t =>
    match d with
    | .s r => s.updPawn t fun p => { p with x := vset p.x r (v.setWidth 64) }
    | .v r => s.updPawn t fun p => { p with y := vset p.y r (v.setWidth 1024) }
    | .b r => s.updPawn t fun p => { p with b := vset p.b r (v.getLsbD 0) }
    | .bAll => s.updPawn t fun p => { p with b := boolsOf 8 v.toNat }
    | .m r => s.updPawn t fun p => { p with m := vset p.m r (v.setWidth 32) }
    | .ib _ => s
    | .sport _ _ => s
    | .vport _ _ => s
    | .z _ _ _ _ _ => s
    | .discard => s

/-! ### Scale registers and bindings -/

/-- GEN + 1, from 1 to 0xFFFFFFFF (R267). -/
def nextGen (g : Word32) : Word32 := if g = 0xFFFFFFFF#32 then 1 else g + 1

/-- A tag when a write of scale register z stands: g is the old generation (R267, R272). -/
def Tag.onWrite (t : Tag) (z : Nat) (g : Word32) (keep : Bool) : Tag :=
  if t.bound && decide (t.z = z) then
    { t with gen := if keep && decide (t.gen = g) && decide (g ≠ 0) then nextGen g else 0 }
  else t

/-- The write to a scale register that stands: its entries, format and generation, and every tag on it. -/
def State.landZ (s : State) (z first n : Nat) (fmt keep : Bool) (v : Wide) : State :=
  let r := vget s.core.z z ⟨0, false, 1⟩
  let e := BitVec.ofNat 4096 (setBits r.e.toNat (8 * first) (8 * n) v.toNat)
  s.updCore fun c => { c with
    z := vset c.z z ⟨e, fmt, nextGen r.gen⟩
    t := vmap (fun x => { x with tag := x.tag.onWrite z r.gen keep }) c.t
    w := vmap (fun x => { x with tag := x.tag.onWrite z r.gen keep }) c.w }

/-- A binding made in the cycle (R269). -/
def State.bindTag (s : State) (z base : Nat) : Tag := ⟨true, z, base, (vget s.core.z z ⟨0, false, 1⟩).gen⟩

/-- A tile is bound, or only its BOUND goes (R269). -/
def State.bindTile (s : State) (t : Nat) (b : Option (Nat × Nat)) : State :=
  let old := vget s.core.t t ⟨0, Tag.unbound⟩
  let tag := match b with
    | some (z, base) => s.bindTag z base
    | none => { old.tag with bound := false }
  s.updCore fun c => { c with t := vset c.t t { old with tag := tag } }

/-- A weight slot that nothing has loaded. -/
def WSlot.unloaded : WSlot := ⟨0, false, 0, 0, false, 0, Tag.unbound⟩

def State.bindSlot (s : State) (w z base : Nat) : State :=
  s.updCore fun c => { c with w := vset c.w w { vget c.w w WSlot.unloaded with tag := s.bindTag z base } }

/-! ### Flags -/

/-- Flags raised in the cycle: sticky in VFLAGS; in user mode an enabled one leaves a trap for the next boundary (R258,
R259, R398). Of flags that land in different barrel cycles before one issue the first keeps the trap, which R259 leaves open (DESIGN CHOICE, log 73). -/
def State.landFlags (s : State) (e : PEntry) (f : BitVec 6) : State :=
  s.updTh fun t =>
    let t := { t with vflags := t.vflags ||| f }
    match lowestFlag (enabledFlags s.core.cfg.trapen f) with
    | none => t
    | some sub =>
      if !e.sup && t.flagTrap.isNone then
        { t with flagTrap := some ⟨BitVec.ofNat 9 (0x40 + 8 * sub + e.unit), e.pc, f.setWidth 64, if s.isPawn then 15 else e.slot⟩ }
      else t

/-! ### One cycle of landings -/

/-- Insert an entry behind those of the ops that issued before it (R57). -/
def insertEntry (e : PEntry) : List PEntry → List PEntry
  | [] => [e]
  | x :: l => if e.op < x.op then e :: x :: l else x :: insertEntry e l

/-- The entries in issue order of their ops. -/
def sortEntries (l : List PEntry) : List PEntry := l.foldl (fun acc e => insertEntry e acc) []

/-- The remote access of an identifier. -/
def State.remote (s : State) (id : Nat) : Option Remote := s.core.remotes.find? fun r => r.id = id

def State.dropRemote (s : State) (id : Nat) : State :=
  s.updCore fun c => { c with remotes := c.remotes.filter fun r => r.id ≠ id }

/-- Registers, accumulators and control registers. -/
def State.landReg (s : State) (e : PEntry) : State :=
  match e.eff with
  | .reg d v => s.setReg d v
  | .csr i v => s.csrWrite i.toNat v
  | .mx row => s.updPrim fun p => { p with v := vset (vset p.v 56 (row.setWidth 2048)) 57 ((row >>> 2048).setWidth 2048) }
  | .acc a v _ => s.updCore fun c => { c with acc := vset c.acc a v }
  | .remote id d =>
    match s.remote id with
    | some r => (s.setReg d r.data).dropRemote id
    | none => s
  | .bank _ => s
  | .flags _ => s
  | .bindTile _ _ => s
  | .bindSlot _ _ _ => s

/-- The number of the scale register that an entry writes. -/
def PEntry.zDst (e : PEntry) : Option Nat :=
  match e.eff with
  | .reg (.z z _ _ _ _) _ => some z
  | _ => none

/-- The last write of the cycle to scale register z stands (R57, R267). -/
def State.landZs (s : State) (due : List PEntry) (z : Nat) : State :=
  match (due.filter fun e => e.zDst = some z).getLast? with
  | some e =>
    match e.eff with
    | .reg (.z z first n fmt keep) v => s.landZ z first n fmt keep v
    | _ => s
  | none => s

def State.landBind (s : State) (e : PEntry) : State :=
  match e.eff with
  | .bindTile t b => s.bindTile t b
  | .bindSlot w z b => s.bindSlot w z b
  | _ => s

def State.landFlag (s : State) (e : PEntry) : State :=
  match e.eff with
  | .flags f => s.landFlags e f
  | _ => s

/-- A doubleword as the atomics of the cycle before it leave it. -/
def overlay (m : Memory) (ws : List (Nat × Nat)) (a : Nat) : Nat :=
  match ws.find? fun w => w.1 = a with
  | some w => w.2
  | none => memRead m a 8

/-- The bank accesses of the cycle: reads give their values their way to a register, an atomic also leaves a write for the
end of the cycle, and writes wait for it (R58, R153). `ws` holds what the atomics before have written. -/
def bankStep (m : Memory) : List (Nat × Nat) → List PEntry → List PEntry
  | _, [] => []
  | ws, e :: l =>
    match e.eff with
    | .bank (.read as n w sg d lat) =>
      { e with count := lat, eff := .reg d (BitVec.ofNat 4096 (bankValue m as n w sg)) } :: bankStep m ws l
    | .bank (.rmw a op v c d lat) =>
      let old := BitVec.ofNat 64 (overlay m ws a)
      let back := { e with count := lat, eff := .reg d (old.setWidth 4096) }
      match op.apply old v c with
      | some x => back :: { e with eff := .bank (.write [a] 8 [x.toNat]) } :: bankStep m ((a, x.toNat) :: ws) l
      | none => back :: bankStep m ws l
    | .bank (.write as n vs) => { e with eff := .bank (.write as n vs) } :: bankStep m ws l
    | _ => bankStep m ws l

/-- The bank words that a due entry reads are consumed by the unit of its slot (R415). -/
def State.useEntry (s : State) (e : PEntry) : State :=
  match e.eff with
  | .bank (.read as n _ _ _ _) => s.useLm (0x1D8 + e.unit) (bankWords as n)
  | .bank (.rmw a _ _ _ _ _) => s.useLm (0x1D8 + e.unit) [a / 8]
  | _ => s

/-- An atomic whose word is bad reads it, for the machine check, and writes nothing: nothing that it read is used (R415). -/
def State.spareWord (s : State) (e : PEntry) : PEntry :=
  match e.eff with
  | .bank (.rmw a _ _ _ d lat) => if a / 8 ∈ s.badLm then { e with eff := .bank (.read [a] 8 64 false d lat) } else e
  | _ => e

/-- One cycle of a list of pending entries: those that are due, and the rest with one cycle less to go. -/
def tickDown (l : List PEntry) : List PEntry := l.map fun e => { e with count := e.count - 1 }

/-- The due entries whose words can be read, and the others (R413). -/
def State.sound (s : State) (due : List PEntry) : List PEntry := due.filter fun e => ErrLoc.entry e.op ∉ s.core.struck
def State.unsound (s : State) (due : List PEntry) : List PEntry := due.filter fun e => ErrLoc.entry e.op ∈ s.core.struck

/-- The registers that an entry writes whole, in an agent's files (R413). -/
def PEntry.writes (a : Agent) (e : PEntry) : ErrLoc → Bool :=
  let dst := fun (d : Dst) (l : ErrLoc) => match d with
    | .s r => decide (l = .reg a 0 r)
    | .v r => decide (l = .reg a 1 r)
    | .b r => decide (l = .reg a 2 r)
    | .bAll => match l with
      | .reg c f _ => decide (c = a) && decide (f = 2)
      | _ => false
    | .m r => decide (l = .reg a 3 r)
    | .ib r => decide (l = .reg a 4 r)
    | .z z _ n _ _ => decide (n = 512) && decide (l = .reg .primary 8 z)
    | _ => false
  fun l => match e.eff with
    | .reg d _ => dst d l
    | .remote _ d => dst d l
    | .mx _ => decide (l = .reg a 1 56) || decide (l = .reg a 1 57)
    | .acc n _ _ => decide (l = .reg .primary 7 n)
    | .csr i _ => decide (0x100 ≤ i.toNat) && decide (i.toNat ≤ 0x10F) && decide (l = .reg .primary 9 (i.toNat - 0x100))
    | _ => false

/-- Landings replace the bad words of the registers and the entries that they are of; an entry that cannot be read lands nothing, and its op's unit
takes the machine check (R415). -/
def State.landStruck (s : State) (a : Agent) (due : List PEntry) : State :=
  let bad := s.unsound due
  let s := match bad with
    | [] => s
    | e :: _ => s.strikeUse (if a = Agent.primary then 0x1D8 + e.unit else 0x1DE) (.entry e.op)
  let ok := s.sound due
  s.heal fun l => (ok.any fun e => e.writes a l) || bad.any fun e => decide (l = ErrLoc.entry e.op)

/-- All effects of the due entries but the banks' part. -/
def State.landAll (s : State) (due : List PEntry) : State :=
  let s := due.foldl State.landReg s
  let s := (List.range 32).foldl (fun s z => s.landZs due z) s
  let s := due.foldl State.landBind s
  due.foldl State.landFlag s

/-- The entry waits for a reply that has not arrived (R67). -/
def State.awaitsReply (s : State) (e : PEntry) : Bool :=
  match e.eff with
  | .remote id _ => match s.remote id with
    | some r => !r.replied
    | none => false
  | _ => false

/-- The queue one cycle on; an entry whose reply is late, which only a primary that has exited can meet, stays for the next (R67, R94). -/
def State.tickPend (s : State) : List PEntry :=
  s.prim.fl.pend.map fun e => { e with count := if e.count = 1 ∧ s.awaitsReply e then 1 else e.count - 1 }

/-- The primary's landings of a cycle: the queue and the pipelines advance by one cycle. When the last empty bundle of an
sret has gone by, the user operations go on where they stood (R392). -/
def State.landPrimary (s : State) : State :=
  let l := s.tickPend
  let all := sortEntries (l.filter fun e => e.count = 0)
  let due := s.sound all
  let rest := l.filter fun e => e.count ≠ 0
  let s := s.updPrim fun p => { p with
    fl := {
      pend := rest
      held := vmap (fun n => n - 1) p.fl.held
      uses := (p.fl.uses.map fun u => (u.1 - 1, u.2)).filter fun u => u.1 ≠ 0 } }
  let s := if s.core.struck.isEmpty then s else s.landStruck .primary all
  let s := s.landAll due
  let s := if s.badLm.isEmpty then s else due.foldl State.useEntry s
  let s := s.updPrim fun p => { p with fl := { p.fl with pend := p.fl.pend ++ bankStep s.lm [] (due.map s.spareWord) } }
  if s.prim.resuming && decide (s.prim.empties = 0) then
    s.updPrim fun p => Primary.resumeAt { p with
      resuming := false
      flUser := none
      fl := match p.flUser with
        | some u => { u with pend := p.fl.pend ++ u.pend }
        | none => p.fl }
  else s

/-! ### Accesses made before their cycle (R151, R169) -/

/-- A bank access of a bundle up to the one of op number `op`. -/
def PEntry.bankUpTo (e : PEntry) (op : Nat) : Bool :=
  decide (e.op / 16 ≤ op / 16) && match e.eff with
    | .bank _ => true
    | _ => false

/-- The write that a bank entry makes. -/
def State.bankWrite (s : State) (e : PEntry) : State :=
  match e.eff with
  | .bank (.write as n vs) => s.lmStore n as vs
  | _ => s

/-- Local memory after an access. -/
def BankAccess.after (m : Memory) : BankAccess → Memory
  | .read _ _ _ _ _ _ => m
  | .write as n vs => (as.zip vs).foldl (fun m x => memWrite m x.1 n x.2) m
  | .rmw a op v c _ _ =>
    match op.apply (BitVec.ofNat 64 (memRead m a 8)) v c with
    | some x => memWrite m a 8 x.toNat
    | none => m

/-- The access of a bank entry; what is none changes nothing. -/
def PEntry.afterBank (m : Memory) (e : PEntry) : Memory :=
  match e.eff with
  | .bank a => a.after m
  | _ => m

/-- Of two accesses still to be made, whether the first comes before: those in hand before held user operations, then by cycle, then by op. -/
def bankFirst (x y : Bool × PEntry) : Bool :=
  (!x.1 && y.1) || (decide (x.1 = y.1) && (decide (x.2.count < y.2.count) || (decide (x.2.count = y.2.count) && decide (x.2.op < y.2.op))))

/-- Insert an access behind those that come before it or stand level. -/
def insertBank (x : Bool × PEntry) : List (Bool × PEntry) → List (Bool × PEntry)
  | [] => [x]
  | y :: l => if bankFirst x y then x :: y :: l else y :: insertBank x l

/-- The accesses that the primary's bundles up to `op` have still to make, in their order; the flag marks held user operations. -/
def State.banksAhead (s : State) (op : Nat) : List (Bool × PEntry) :=
  let held := match s.prim.flUser with
    | some f => f.pend
    | none => []
  ((s.prim.fl.pend.map fun e => (false, e)) ++ held.map fun e => (true, e)).foldl
    (fun acc x => if x.2.bankUpTo op then insertBank x acc else acc) []

/-- Local memory as it will stand when the stores of the primary up to the bundle of op number `op` have been performed (R151, R169). -/
def State.viewAhead (s : State) (op : Nat) : Memory := (s.banksAhead op).foldl (fun m x => x.2.afterBank m) s.lm

/-- A pawn's landings of a barrel cycle (R61). -/
def State.landPawn (s : State) (t : Nat) : State :=
  let l := tickDown (s.pawn t).pend
  let all := sortEntries (l.filter fun e => e.count = 0)
  let due := s.sound all
  let s := if s.core.struck.isEmpty then s else s.landStruck (.pawn t) all
  (s.updPawn t fun p => { p with pend := l.filter fun e => e.count ≠ 0 }).landAll due

/-- R56: what is due lands in its destination at the start of the cycle. -/
def execResultLanding (s : State) : Out :=
  match s.ctx.agent with
  | .primary => .next s.landPrimary
  | .pawn t => .next (s.landPawn t)

end Sys2Proof.Machine
end

