-- ==== Sys2Proof/Machine/LocalMem.lean ====
section
/-! DEFINITION. The instructions of local memory: loads and stores, vector and indexed accesses, atomics, flags, remote
accesses, the row queue and the tile loads (06_local_memory R148 to R155). The primary's banks are accessed two cycles after
issue and a load lands four after it; a pawn's access is performed when granted and lands four barrel cycles later (R58, R61). -/

namespace Sys2Proof.Machine

/-! ### What an access of n bytes at an effective address needs (R69, R145, R148) -/

/-- The key of an offset of the own core (R22). -/
def State.key (s : State) (ea : Word64) : Nat := s.core.lmBase + ea.toNat

/-- Addresses of n elements of a size, from the effective address on. -/
def State.runKeys (s : State) (ea : Word64) (size n : Nat) : List Nat := (List.range n).map fun i => s.key ea + i * size

/-- Cycles from the bank access to the landing: `prim` on the primary, 4 for a pawn. -/
def State.bankLat (s : State) (prim : Nat) : Nat := s.lat prim 4

/-- A scalar load: sD, [sA + off]. -/
def specLd (k : Bool) (d a : Field6) (o : BitVec 10) (size : Nat) : OpSpec where
  cls := .l
  k := k
  regs := [dstU .s d 4, srcU .s a]
  checks := [(.lm, fun s => s.lmCheck (s.ea a o size) size size false)]
  words := fun s => bankWords [s.key (s.ea a o size)] size
  spans := fun s => [lmSpan (s.key (s.ea a o size)) size false]

/-- A scalar load (R148). -/
def State.loadS (s : State) (d a : Field6) (o : BitVec 10) (size : Nat) (signed : Bool) : State :=
  let ea := s.ea a o size
  (s.access (.read [s.key ea] size 64 signed (s.dstS d) (s.bankLat 2))).touch [ea.toNat] size false

/-- A scalar store: the data register is a source; a store through base register 2 meets the stack limit. -/
def specSt (k : Bool) (d a : Field6) (o : BitVec 10) (size : Nat) : OpSpec where
  cls := .l
  k := k
  regs := [srcU .s d, srcU .s a]
  checks := [(.lm, fun s => s.lmCheck (s.ea a o size) size size true <|> s.stackCheck a (s.ea a o size))]
  words := fun s => bankWords [s.key (s.ea a o size)] size
  spans := fun s => [lmSpan (s.key (s.ea a o size)) size true]

/-- A scalar store (R148). -/
def State.storeS (s : State) (d a : Field6) (o : BitVec 10) (size : Nat) : State :=
  let ea := s.ea a o size
  (s.access (.write [s.key ea] size [(s.readS d).toNat % 2 ^ (8 * size)])).touch [ea.toNat] size false

/-- A vector load of elements of a size: an offset in bank words, checked as one access of 8-byte alignment (R149). -/
def specVld (k : Bool) (who : Who) (d a : Field6) (o : BitVec 10) (size : Nat) : OpSpec where
  cls := .l
  who := who
  k := k
  regs := [dstU .v d 4, srcU .s a]
  checks := [(.lm, fun s => s.lmCheck (s.ea a o 8) (s.lanes * size) 8 false)]
  words := fun s => bankWords (s.runKeys (s.ea a o 8) size s.lanes) size
  spans := fun s => [lmSpan (s.key (s.ea a o 8)) (s.lanes * size) false]

/-- A vector load (R149). -/
def State.loadV (s : State) (d a : Field6) (o : BitVec 10) (size : Nat) : State :=
  let ea := s.ea a o 8
  (s.access (.read (s.runKeys ea size s.lanes) size 32 false (s.dstV d) (s.bankLat 2))).touch [ea.toNat] (s.lanes * size) false

/-- A vector store (R149); the stack limit as for a scalar store (R108). -/
def specVst (k : Bool) (who : Who) (d a : Field6) (o : BitVec 10) (size : Nat) : OpSpec where
  cls := .l
  who := who
  k := k
  regs := [srcU .v d, srcU .s a]
  checks := [(.lm, fun s => s.lmCheck (s.ea a o 8) (s.lanes * size) 8 true <|> s.stackCheck a (s.ea a o 8))]
  words := fun s => bankWords (s.runKeys (s.ea a o 8) size s.lanes) size
  spans := fun s => [lmSpan (s.key (s.ea a o 8)) (s.lanes * size) true]

/-- The low bytes of the lanes of a vector source. -/
def State.laneBytes (s : State) (d : Field6) (size : Nat) : List Nat :=
  (lanesOf s.lanes (s.readV d)).map fun x => x % 2 ^ (8 * size)

/-- A vector store (R149). -/
def State.storeV (s : State) (d a : Field6) (o : BitVec 10) (size : Nat) : State :=
  let ea := s.ea a o 8
  (s.access (.write (s.runKeys ea size s.lanes) size (s.laneBytes d size))).touch [ea.toNat] (s.lanes * size) false

/-! ### Gathers and scatters (R152) -/

/-- The effective address of each lane. -/
def State.laneEas (s : State) (a b : Field6) (size : Nat) : List Word64 :=
  (lanesOf s.lanes (s.readV b)).map fun x => s.readS a + BitVec.ofNat 64 (x * size)

def specGath (k : Bool) (d a b : Field6) (size : Nat) : OpSpec where
  cls := .l
  k := k
  regs := [dstU .v d 6, srcU .s a, srcU .v b]
  checks := [(.lm, fun s => s.lmCheckAll size false (s.laneEas a b size))]
  words := fun s => bankWords ((s.laneEas a b size).map s.key) size
  spans := fun s => (s.laneEas a b size).map fun e => lmSpan (s.key e) size false

def State.gather (s : State) (d a b : Field6) (size : Nat) : State :=
  let eas := s.laneEas a b size
  (s.access (.read (eas.map s.key) size 32 false (s.dstV d) (s.bankLat 4))).touch (eas.map fun e => e.toNat) size false

def specScat (k : Bool) (d a b : Field6) (size : Nat) : OpSpec where
  cls := .l
  k := k
  regs := [srcU .v d, srcU .s a, srcU .v b]
  checks := [(.lm, fun s => s.lmCheckAll size true (s.laneEas a b size))]
  words := fun s => bankWords ((s.laneEas a b size).map s.key) size
  spans := fun s => (s.laneEas a b size).map fun e => lmSpan (s.key e) size true

def State.scatter (s : State) (d a b : Field6) (size : Nat) : State :=
  let eas := s.laneEas a b size
  (s.access (.write (eas.map s.key) size (s.laneBytes d size))).touch (eas.map fun e => e.toNat) size false

/-! ### Atomics and flags (R153, R154) -/

/-- An atomic reads its destination as a comparand at issue. -/
def specLm (k : Bool) (d a b : Field6) : OpSpec where
  cls := .l
  k := k
  regs := [dstU .s d 6, srcU .s a, srcU .s b]
  checks := [(.lm, fun s => s.lmCheck (s.readS a) 8 8 true)]
  words := fun s => [s.key (s.readS a) / 8]
  spans := fun s => [rmwSpan (s.key (s.readS a))]

/-- lmcas names its comparand in d: a port there receives as well as sends. -/
def specLmcas (k : Bool) (d a b : Field6) : OpSpec := { specLm k d a b with regs := [dstU .s d 6, srcU .s d, srcU .s a, srcU .s b] }

def State.lmAtomic (s : State) (op : LmOp) (d a b : Field6) : State :=
  (s.access (.rmw (s.key (s.readS a)) op (s.readS b) (s.readS d) (s.dstS d) (s.bankLat 4))).touch [(s.readS a).toNat] 8 false

/-- Stores of the primary to other cores whose acknowledgement is outstanding (R154, R167). -/
def State.acksOut (s : State) : Bool := s.core.remotes.any fun r => decide (r.agent = .primary) && r.write

/-- flrel; the primary waits with cause 3 for acknowledgements. -/
def specFlrel (k : Bool) (d a : Field6) : OpSpec where
  cls := .l
  sync := true
  k := k
  regs := [srcU .s d, srcU .s a]
  checks := [(.lm, fun s => s.lmCheck (s.readS a) 8 8 true)]
  words := fun s => [s.key (s.readS a) / 8]
  spans := fun s => [lmSpan (s.key (s.readS a)) 8 true]
  freeze := fun s => if s.acksOut then [3] else []

def specFlacq (k : Bool) (d a : Field6) : OpSpec where
  cls := .l
  sync := true
  k := k
  regs := [dstU .s d 4, srcU .s a]
  checks := [(.lm, fun s => s.lmCheck (s.readS a) 8 8 false)]
  words := fun s => [s.key (s.readS a) / 8]
  spans := fun s => [lmSpan (s.key (s.readS a)) 8 false]

/-! ### Remote accesses (R142, R143, R155) -/

/-- Bits [30:0] of a register that holds an LM space address, and their parts (R22). -/
def lmSpace (x : Word64) : Nat := bits x.toNat 0 31
def lmOffset (x : Word64) : Nat := bits x.toNat 0 21

/-- The checks of R145 for a remote access, against the target. -/
def State.remoteCheck (s : State) (x : Word64) (len : Nat) (write : Bool) : Option TrapRec :=
  let off := lmOffset x
  let addr := BitVec.ofNat 64 off
  if off + len > 0x200000 || off % 8 ≠ 0 then some (s.lmTrap 1 addr)
  else if s.userMode && decide (0x1F0000 < off + len) then some (s.lmTrap 6 addr)
  else
    match s.resolveNear (lmSpace x / 2 ^ 21) with
    | none => some (s.lmTrap 5 addr)
    | some l =>
      if write && decide (off < 0x80) then some (s.lmTrap 2 addr)
      else if s.lmLocked (l.base + off) len write then some (s.lmTrap 4 addr)
      else none

/-- The key of the first byte of a remote access. -/
def State.remoteKey (s : State) (x : Word64) : Nat :=
  match s.resolveNear (lmSpace x / 2 ^ 21) with
  | some l => l.base + lmOffset x
  | none => 0

/-- A remote access goes on its way. The primary keeps a place for a reply eight cycles on; a pawn waits for it. -/
def State.remoteAccess (s : State) (x : Word64) (write : Bool) (len : Nat) (v : Wide) (d : Dst) : State :=
  let id := s.core.nextId
  let r : Remote := ⟨id, s.ctx.agent, s.opNo, 0, s.remoteKey x, write, len, v, false, false, false⟩
  let s := s.touch [lmOffset x] len true
  let s := s.updCore fun c => { c with remotes := c.remotes ++ [r], nextId := id + 1 }
  match s.ctx.agent with
  | .primary => if write then s else s.emit 8 (.remote id d)
  | .pawn t => s.updPawn t fun p => { p with reqs := p.reqs ++ [{
      id := id, kind := .remote id, d := d, p := .discard, va := x, pa := 0, cls := 0, done := none, seq := p.opCount, age := 0, pc := s.ctx.pc }] }

/-- rld and rvld. -/
def specRld (k : Bool) (f : RFile) (d a : Field6) (len : State → Nat) : OpSpec where
  cls := .l
  sync := true
  k := k
  regs := [dstU f d 8, srcU .s a]
  checks := [(.lm, fun s => s.remoteCheck (s.readS a) (len s) false)]

/-- rst and rvst. -/
def specRst (k : Bool) (f : RFile) (d a : Field6) (len : State → Nat) : OpSpec where
  cls := .l
  sync := true
  k := k
  regs := [srcU f d, srcU .s a]
  checks := [(.lm, fun s => s.remoteCheck (s.readS a) (len s) true)]

/-- rqput needs feature bit 5 (R137). -/
def specRqput (k : Bool) (a : Field6) : OpSpec where
  cls := .l
  sync := true
  k := k
  regs := [srcU .s a]
  checks := [(.enc, fun s => if s.feature 5 then none else some (s.encTrap 0))]

/-- A post of a context to the die's row queue: 1,024 entries, then ROWQDROP (R135). -/
def State.rowPostFor (s : State) (cx : Nat) (v : Word64) : State :=
  if s.die.rowq.length < 1024 then s.updDie fun d => { d with rowq := d.rowq ++ [(cx, v)] }
  else s.setDevReg 0x4C ((s.devReg 0x4C + 1) % 2 ^ 32)

/-- A post of the op in hand. -/
def State.rowPost (s : State) (v : Word64) : State := s.rowPostFor s.core.cfg.cx v

/-! ### Tile loads and stores (R150, R151) -/

/-- An issued matrix op still uses the resource (R313). -/
def State.busyRes (s : State) (r : Res) : Bool :=
  (s.prim.fl.uses.any fun u => decide (u.2 = r)) ||
    match s.prim.flUser with
    | some f => f.uses.any fun u => decide (u.2 = r)
    | none => false

/-- A class-4 cause: its detail names the register and its file, 0 tile, 1 weight slot, 2 accumulator (R394). -/
def State.matTrap (s : State) (code : Nat) (file reg : Nat) : TrapRec :=
  s.trapAt (code + s.unit) s.ctx.pc (BitVec.ofNat 64 (reg + 32 * file))

/-- The overlap of a tile load or store with an mma that streams the tile (R63). -/
def overlapCheck (t : BitVec 4) : Stage × (State → Option TrapRec) :=
  (.mat, fun s => if s.busyRes (.tile t.toNat) then some (s.matTrap 0x118 0 t.toNat) else none)

/-- The checks of R145 over the 2,048 bytes, with subcause 7 for the address. -/
def State.tileCheck (s : State) (ea : Word64) (write : Bool) : Option TrapRec :=
  if ea.toNat % 64 ≠ 0 || ea.toNat + 2048 > 0x200000 then some (s.lmTrap 7 ea)
  else s.lmCheck ea 2048 64 write

def specTile (t : BitVec 4) (a : Field6) (write : Bool) : OpSpec where
  cls := .l
  who := .prim
  regs := [srcU .s a]
  checks := [(.lm, fun s => s.tileCheck (s.readS a) write), overlapCheck t]
  loads := fun _ => [.tile t.toNat]

/-- The op joins the tile loader's queue; the loader starts no earlier than three ticks on. -/
def State.queueTile (s : State) (t : BitVec 4) (a : Field6) (store : Bool) (bind : Option Nat) : State :=
  let s := s.touch [(s.readS a).toNat] 2048 false
  s.updCore fun c => { c with tileQ := c.tileQ ++ [⟨t.toNat, s.key (s.readS a), store, bind, 0, 3, s.opNo⟩] }

/-- R148: d := a byte, sign-extended -/
def execLdb (k : Bool) (d a : Field6) (o : BitVec 10) (s : State) : Out :=
  issue (specLd k d a o 1) s fun s => s.loadS d a o 1 true

/-- R148: d := a byte -/
def execLdbu (k : Bool) (d a : Field6) (o : BitVec 10) (s : State) : Out :=
  issue (specLd k d a o 1) s fun s => s.loadS d a o 1 false

/-- R148: d := a halfword, sign-extended -/
def execLdh (k : Bool) (d a : Field6) (o : BitVec 10) (s : State) : Out :=
  issue (specLd k d a o 2) s fun s => s.loadS d a o 2 true

/-- R148: d := a halfword -/
def execLdhu (k : Bool) (d a : Field6) (o : BitVec 10) (s : State) : Out :=
  issue (specLd k d a o 2) s fun s => s.loadS d a o 2 false

/-- R148: d := a word, sign-extended -/
def execLdw (k : Bool) (d a : Field6) (o : BitVec 10) (s : State) : Out :=
  issue (specLd k d a o 4) s fun s => s.loadS d a o 4 true

/-- R148: d := a word -/
def execLdwu (k : Bool) (d a : Field6) (o : BitVec 10) (s : State) : Out :=
  issue (specLd k d a o 4) s fun s => s.loadS d a o 4 false

/-- R148: d := a doubleword -/
def execLd (k : Bool) (d a : Field6) (o : BitVec 10) (s : State) : Out :=
  issue (specLd k d a o 8) s fun s => s.loadS d a o 8 false

/-- R148: store 1 byte -/
def execStb (k : Bool) (d a : Field6) (o : BitVec 10) (s : State) : Out :=
  issue (specSt k d a o 1) s fun s => s.storeS d a o 1

/-- R148: store 2 bytes -/
def execSth (k : Bool) (d a : Field6) (o : BitVec 10) (s : State) : Out :=
  issue (specSt k d a o 2) s fun s => s.storeS d a o 2

/-- R148: store 4 bytes -/
def execStw (k : Bool) (d a : Field6) (o : BitVec 10) (s : State) : Out :=
  issue (specSt k d a o 4) s fun s => s.storeS d a o 4

/-- R148: store 8 bytes -/
def execSt (k : Bool) (d a : Field6) (o : BitVec 10) (s : State) : Out :=
  issue (specSt k d a o 8) s fun s => s.storeS d a o 8

/-- R149: the lanes, 4 bytes each -/
def execVld (d a : Field6) (o : BitVec 10) (s : State) : Out :=
  issue (specVld false .prim d a o 4) s fun s => s.loadV d a o 4

/-- R149: store the lanes, 4 bytes each -/
def execVst (d a : Field6) (o : BitVec 10) (s : State) : Out :=
  issue (specVst false .prim d a o 4) s fun s => s.storeV d a o 4

/-- R149: the lanes, from 2 bytes each -/
def execVldh (k : Bool) (d a : Field6) (o : BitVec 10) (s : State) : Out :=
  issue (specVld k .both d a o 2) s fun s => s.loadV d a o 2

/-- R149: store the low 2 bytes of the lanes -/
def execVsth (k : Bool) (d a : Field6) (o : BitVec 10) (s : State) : Out :=
  issue (specVst k .both d a o 2) s fun s => s.storeV d a o 2

/-- R149: the lanes, from 1 byte each -/
def execVldb (k : Bool) (d a : Field6) (o : BitVec 10) (s : State) : Out :=
  issue (specVld k .both d a o 1) s fun s => s.loadV d a o 1

/-- R150: load a tile in the background -/
def execTld (t : BitVec 4) (a : Field6) (s : State) : Out :=
  issue (specTile t a false) s fun s => s.queueTile t a false none

/-- R150: load a tile in the background and bind it -/
def execTldBind (t : BitVec 4) (a : Field6) (z : BitVec 5) (s : State) : Out :=
  issue (specTile t a false) s fun s => s.queueTile t a false (some z.toNat)

/-- R150: store a tile in the background -/
def execTst (t : BitVec 4) (a : Field6) (s : State) : Out :=
  issue (specTile t a true) s fun s => s.queueTile t a true none

/-- R152: gather elements of 4 -/
def execVgathW (k : Bool) (d a b : Field6) (s : State) : Out :=
  issue (specGath k d a b 4) s fun s => s.gather d a b 4

/-- R152: gather elements of 2 -/
def execVgathH (k : Bool) (d a b : Field6) (s : State) : Out :=
  issue (specGath k d a b 2) s fun s => s.gather d a b 2

/-- R152: gather elements of 1 -/
def execVgathB (k : Bool) (d a b : Field6) (s : State) : Out :=
  issue (specGath k d a b 1) s fun s => s.gather d a b 1

/-- R152: scatter elements of 4 -/
def execVscatW (k : Bool) (d a b : Field6) (s : State) : Out :=
  issue (specScat k d a b 4) s fun s => s.scatter d a b 4

/-- R152: scatter elements of 2 -/
def execVscatH (k : Bool) (d a b : Field6) (s : State) : Out :=
  issue (specScat k d a b 2) s fun s => s.scatter d a b 2

/-- R152: scatter elements of 1 -/
def execVscatB (k : Bool) (d a b : Field6) (s : State) : Out :=
  issue (specScat k d a b 1) s fun s => s.scatter d a b 1

/-- R153: the doubleword := old + s[B]; s[D] := old -/
def execLmadd (k : Bool) (d a b : Field6) (s : State) : Out :=
  issue (specLm k d a b) s fun s => s.lmAtomic .add d a b

/-- R153: the doubleword := s[B]; s[D] := old -/
def execLmxchg (k : Bool) (d a b : Field6) (s : State) : Out :=
  issue (specLm k d a b) s fun s => s.lmAtomic .xchg d a b

/-- R153: the doubleword := s[B] if old = s[D]; s[D] := old -/
def execLmcas (k : Bool) (d a b : Field6) (s : State) : Out :=
  issue (specLmcas k d a b) s fun s => s.lmAtomic .cas d a b

/-- R153: the doubleword := the smaller, signed; s[D] := old -/
def execLmmin (k : Bool) (d a b : Field6) (s : State) : Out :=
  issue (specLm k d a b) s fun s => s.lmAtomic .min d a b

/-- R153: the doubleword := the larger, signed; s[D] := old -/
def execLmmax (k : Bool) (d a b : Field6) (s : State) : Out :=
  issue (specLm k d a b) s fun s => s.lmAtomic .max d a b

/-- R153: the doubleword := old and s[B]; s[D] := old -/
def execLmand (k : Bool) (d a b : Field6) (s : State) : Out :=
  issue (specLm k d a b) s fun s => s.lmAtomic .and d a b

/-- R153: the doubleword := old or s[B]; s[D] := old -/
def execLmor (k : Bool) (d a b : Field6) (s : State) : Out :=
  issue (specLm k d a b) s fun s => s.lmAtomic .or d a b

/-- R154: store a flag after every earlier access -/
def execFlrel (k : Bool) (d a : Field6) (s : State) : Out :=
  issue (specFlrel k d a) s fun s => let ea := s.readS a
    (s.accessOrd true false (.write [s.key ea] 8 [(s.readS d).toNat])).touch [ea.toNat] 8 false

/-- R154: load a flag before every later access -/
def execFlacq (k : Bool) (d a : Field6) (s : State) : Out :=
  issue (specFlacq k d a) s fun s => let ea := s.readS a
    (s.accessOrd false true (.read [s.key ea] 8 64 false (s.dstS d) (s.bankLat 2))).touch [ea.toNat] 8 false

/-- R155: a doubleword of a core of the cluster -/
def execRld (k : Bool) (d a : Field6) (s : State) : Out :=
  issue (specRld k .s d a fun _ => 8) s fun s => s.remoteAccess (s.readS a) false 8 0 (s.dstS d)

/-- R155: store a doubleword to a core of the cluster -/
def execRst (k : Bool) (d a : Field6) (s : State) : Out :=
  issue (specRst k .s d a fun _ => 8) s fun s => s.remoteAccess (s.readS a) true 8 ((s.readS d).setWidth 4096) .discard

/-- R155: the lanes from a core of the cluster -/
def execRvld (k : Bool) (d a : Field6) (s : State) : Out :=
  issue (specRld k .v d a fun s => 4 * s.lanes) s fun s => s.remoteAccess (s.readS a) false (4 * s.lanes) 0 (s.dstV d)

/-- R155: store the lanes to a core of the cluster -/
def execRvst (k : Bool) (d a : Field6) (s : State) : Out :=
  issue (specRst k .v d a fun s => 4 * s.lanes) s fun s => s.remoteAccess (s.readS a) true (4 * s.lanes) ((s.readV d).setWidth 4096) .discard

/-- R155, R135: post to the die's row queue -/
def execRqput (k : Bool) (a : Field6) (s : State) : Out :=
  issue (specRqput k a) s fun s => s.rowPost (s.readS a)

end Sys2Proof.Machine
end

