-- ==== Sys2Proof/Machine/Scales.lean ====
section
/-! DEFINITION. The scale instructions (14_scales R266 to R278): loading and storing scale registers, bindings, generations and
scale arithmetic. Generations step and tags change where the writes land (Landing.lean). -/

namespace Sys2Proof.Machine

/-- A scale register as it stands. -/
def State.zreg (s : State) (z : Nat) : ZReg := vget s.core.z z ⟨0, false, 1⟩

/-- Entry i of a scale register. -/
def ZReg.entry (r : ZReg) (i : Nat) : Nat := elemAt r.e.toNat 8 i

/-- The 512 entries. -/
def ZReg.entries (r : ZReg) : List Nat := unpackElems 8 512 r.e.toNat

/-- E4M3 scales under an unaccepted feature bit 7 (R264, R277). -/
def e4m3Check (f : State → Bool) : Stage × (State → Option TrapRec) :=
  (.desc, fun s => if f s && !s.feature 7 then some (s.trapAt (0x70 + s.unit) s.ctx.pc 0) else none)

/-! ### Loading and storing (R273) -/

/-- Bytes of N groups, N - 1 in the field. -/
def groupBytes (n : BitVec 3) : Nat := 64 * (n.toNat + 1)

def specZld (f : BitVec 1) (a : Field6) (n : BitVec 3) : OpSpec where
  cls := .z
  who := .prim
  regs := [srcU .sNoPort a]
  checks := [e4m3Check fun _ => f = 1, (.lm, fun s => s.lmCheck (s.readS a) (groupBytes n) 8 false)]
  words := fun s => bankWords (s.runKeys (s.readS a) 8 (groupBytes n / 8)) 8
  spans := fun s => [lmSpan (s.key (s.readS a)) (groupBytes n) false]

def specZst (z : BitVec 5) (a : Field6) (n : BitVec 3) : OpSpec where
  cls := .z
  who := .prim
  regs := [srcU .sNoPort a]
  checks := [e4m3Check fun s => (s.zreg z.toNat).fmt, (.lm, fun s => s.lmCheck (s.readS a) (groupBytes n) 8 true)]
  words := fun s => bankWords (s.runKeys (s.readS a) 8 (groupBytes n / 8)) 8
  spans := fun s => [lmSpan (s.key (s.readS a)) (groupBytes n) true]
  reads := fun _ => [(.z, z.toNat)]

/-- R273: N groups of entries from local memory, at c + 6. -/
def execZld (f : BitVec 1) (z : BitVec 5) (a : Field6) (n g : BitVec 3) (s : State) : Out :=
  issue (specZld f a n) s fun s =>
    (s.access (.read (s.runKeys (s.readS a) 8 (groupBytes n / 8)) 8 64 false
      (.z z.toNat (64 * g.toNat) (groupBytes n) (decide (f = 1)) false) 4)).touch [(s.readS a).toNat] (groupBytes n) false

/-- R273: N groups of entries to local memory, as they stand at issue. -/
def execZst (z : BitVec 5) (a : Field6) (n g : BitVec 3) (s : State) : Out :=
  issue (specZst z a n) s fun s =>
    let vals := unpackElems 64 (groupBytes n / 8) ((s.zreg z.toNat).e.toNat / 2 ^ (512 * g.toNat))
    (s.access (.write (s.runKeys (s.readS a) 8 (groupBytes n / 8)) 8 vals)).touch [(s.readS a).toNat] (groupBytes n) false

/-! ### Binding and inspecting (R274, R275) -/

/-- A binding of a tile or a weight slot that a loader holds waits with cause 5. -/
def specZbind (t : Field6) (zs : List RegUse) : OpSpec where
  cls := .z
  who := .prim
  regs := dstU .t t 2 :: zs
  loads := fun _ => [.tile t.toNat]

def specZbindw (w z : Field6) : OpSpec where
  cls := .z
  who := .prim
  regs := [dstU .w w 2, srcU .z z]
  loads := fun _ => [.wslot w.toNat]

/-- R274: bind a tile, at c + 2. -/
def execZbind (t z : Field6) (g : BitVec 3) (s : State) : Out :=
  issue (specZbind t [srcU .z z]) s fun s => s.emit 2 (.bindTile t.toNat (some (z.toNat, g.toNat)))

/-- R274: unbind a tile, at c + 2. -/
def execZbindNone (t : Field6) (s : State) : Out := issue (specZbind t []) s fun s => s.emit 2 (.bindTile t.toNat none)

/-- R274: bind a weight slot, at c + 2. -/
def execZbindw (w z : Field6) (g : BitVec 3) (s : State) : Out :=
  issue (specZbindw w z) s fun s => s.emit 2 (.bindSlot w.toNat z.toNat g.toNat)

/-- A tag is live: bound, and its generation is the register's (R268). -/
def State.live (s : State) (t : Tag) : Bool := t.bound && decide (t.gen = (s.zreg t.z).gen)

/-- What zgen returns for a tag (R275). -/
def State.tagBits (s : State) (t : Tag) : Word64 :=
  BitVec.ofNat 64 (t.gen.toNat + t.z * 2 ^ 32 + t.base * 2 ^ 37 + b2n t.bound * 2 ^ 40 + b2n (s.live t) * 2 ^ 41)

def specZgen (d : Field6) (f : RFile) (n : Field6) : OpSpec where
  cls := .z
  who := .prim
  regs := [dstU .sNoPort d 2, srcU f n]

/-- R275: the generation and format of a scale register. -/
def execZgenZ (d z : Field6) (s : State) : Out :=
  issue (specZgen d .z z) s fun s =>
    s.landS 2 d (BitVec.ofNat 64 ((s.zreg z.toNat).gen.toNat + b2n (s.zreg z.toNat).fmt * 2 ^ 32))

/-- R275: the tag of a tile. -/
def execZgenT (d t : Field6) (s : State) : Out :=
  issue (specZgen d .t t) s fun s => s.landS 2 d (s.tagBits (vget s.core.t t.toNat ⟨0, Tag.unbound⟩).tag)

/-- R275: the tag of a weight slot. -/
def execZgenW (d w : Field6) (s : State) : Out :=
  issue (specZgen d .w w) s fun s => s.landS 2 d (s.tagBits (vget s.core.w w.toNat WSlot.unloaded).tag)

/-! ### Scale arithmetic (R276, R277) -/

/-- What an op on scale registers needs: reading or writing E4M3 needs feature bit 7. -/
def specZop (regs : List RegUse) (e4 : State → Bool) : OpSpec where
  cls := .z
  who := .prim
  regs := regs
  checks := [e4m3Check e4]

/-- A value times 2^k; beyond ±1,000 the result is the same as at the bound. -/
def FV.scaleBy (x : FV) (k : Int) : FV :=
  match x with
  | .fin n m e => .fin n m (e + max (-1000) (min 1000 k))
  | y => y

/-- A whole register of new entries lands at c + 3, with the flags of the conversions. -/
def State.landZreg (s : State) (z : BitVec 5) (fmt : Bool) (keep : BitVec 1) (r : List (Nat × FlagSet)) : State :=
  (s.land 3 (.z z.toNat 0 512 fmt (decide (keep = 1))) (packElems 8 (r.map fun x => x.1))).raise 3 (flagsOr (r.map fun x => x.2))

/-- One entry times a power of two (R277). -/
def scaleEntry (e4 : Bool) (c : Nat) (k : Int) : Nat × FlagSet := scaleRound e4 ((scaleValue e4 c).scaleBy k) 0 0

/-- The greater of two entries in A's format (R277). -/
def zmaxEntry (ea eb : Bool) (a b : Nat) : Nat × FlagSet :=
  let x := scaleValue ea a
  let y := scaleValue eb b
  if x.isNaN || y.isNaN then (scaleNaN ea, 0)
  else if ltFV x y then (if ea = eb then (b, 0) else scaleRound ea y 0 0)
  else (a, 0)

/-- R276: each entry times 2^s[B]. -/
def execZmul (z : BitVec 5) (a b : Field6) (p : BitVec 1) (s : State) : Out :=
  issue (specZop [srcU .z a, srcU .sNoPort b] fun s => (s.zreg a.toNat).fmt) s fun s =>
    let r := s.zreg a.toNat
    s.landZreg z r.fmt p (r.entries.map fun c => scaleEntry r.fmt c (s.readS b).toInt)

/-- R276: each entry times 2 to the signed entry of B. -/
def execZadde (z : BitVec 5) (a b : Field6) (p : BitVec 1) (s : State) : Out :=
  issue (specZop [srcU .z a, srcU .z b] fun s => (s.zreg a.toNat).fmt || (s.zreg b.toNat).fmt) s fun s =>
    let r := s.zreg a.toNat
    s.landZreg z r.fmt p ((r.entries.zip (s.zreg b.toNat).entries).map fun x => scaleEntry r.fmt x.1 (signedOf 8 x.2))

/-- R276: the entry of greater value. -/
def execZmax (z : BitVec 5) (a b : Field6) (p : BitVec 1) (s : State) : Out :=
  issue (specZop [srcU .z a, srcU .z b] fun s => (s.zreg a.toNat).fmt || (s.zreg b.toNat).fmt) s fun s =>
    let x := s.zreg a.toNat
    let y := s.zreg b.toNat
    s.landZreg z x.fmt p ((x.entries.zip y.entries).map fun e => zmaxEntry x.fmt y.fmt e.1 e.2)

/-- R276: each entry in the format of the field. -/
def execZcvt (f : BitVec 1) (z : BitVec 5) (a : Field6) (p : BitVec 1) (s : State) : Out :=
  issue (specZop [srcU .z a] fun s => (s.zreg a.toNat).fmt || decide (f = 1)) s fun s =>
    let r := s.zreg a.toNat
    s.landZreg z (decide (f = 1)) p (r.entries.map fun c =>
      if r.fmt = decide (f = 1) then (c, 0) else scaleRound (decide (f = 1)) (scaleValue r.fmt c) 0 0)

/-- R276: every entry := s[A][7:0]. -/
def execZfill (f : BitVec 1) (z : BitVec 5) (a : Field6) (p : BitVec 1) (s : State) : Out :=
  issue (specZop [srcU .sNoPort a] fun _ => f = 1) s fun s =>
    s.landZreg z (decide (f = 1)) p (List.replicate 512 ((s.readS a).toNat % 256, 0))

/-- R276: a copy with its format. -/
def execZmov (z : BitVec 5) (a : Field6) (p : BitVec 1) (s : State) : Out :=
  issue (specZop [srcU .z a] fun s => (s.zreg a.toNat).fmt) s fun s =>
    let r := s.zreg a.toNat
    s.landZreg z r.fmt p (r.entries.map fun c => (c, 0))

/-- The greatest entry of a list with its index: the first of equals, and the first NaN before all (R278). -/
def amaxEntry (e4 : Bool) : Nat → Option (Nat × Nat) → List Nat → Nat × Nat
  | _, none, [] => (0, 0)
  | _, some b, [] => b
  | i, none, c :: l => if (scaleValue e4 c).isNaN then (scaleNaN e4, i) else amaxEntry e4 (i + 1) (some (c, i)) l
  | i, some b, c :: l =>
    if (scaleValue e4 c).isNaN then (scaleNaN e4, i)
    else amaxEntry e4 (i + 1) (some (if ltFV (scaleValue e4 b.1) (scaleValue e4 c) then (c, i) else b)) l

/-- R278: the code and index of the greatest entry of N groups. -/
def execZamax (d a : Field6) (n g : BitVec 3) (s : State) : Out :=
  issue (specZop [dstU .sNoPort d 4, srcU .z a] fun s => (s.zreg a.toNat).fmt) s fun s =>
    let r := s.zreg a.toNat
    let m := amaxEntry r.fmt (64 * g.toNat) none ((r.entries.drop (64 * g.toNat)).take (groupBytes n))
    s.landS 4 d (BitVec.ofNat 64 (m.1 + 256 * m.2))

end Sys2Proof.Machine
end

