-- ==== Sys2Proof/Machine/ScalarFloat.lean ====
section
/-! DEFINITION. Scalar floating point, majors 0x12 and 0x13 (15_vector R286 to R288): on bits [31:0] of the sources, the result
zero-extended; flags are raised when the result lands (R258). -/

namespace Sys2Proof.Machine

/-- Bits [31:0] of a scalar source. -/
def State.readF (s : State) (f : Field6) : Nat := (s.readS f).toNat % 2 ^ 32

/-- A scalar result with its flags. -/
def State.landF (s : State) (lat : Nat) (d : Field6) (r : Nat × FlagSet) : State :=
  (s.landS lat d (BitVec.ofNat 64 r.1)).raise lat r.2

/-- A predicate result with its flags. -/
def State.landFB (s : State) (lat : Nat) (d : Field6) (r : Bool × FlagSet) : State :=
  (s.landB lat d.toNat r.1).raise lat r.2

/-- What a rounding scalar op needs. -/
def specFff (k : Bool) (d a b : Field6) (r : BitVec 3) (lat : Nat) : OpSpec :=
  { specSSS k d a b lat with checks := [roundCheck r.toNat] }
def specFf (k : Bool) (d a : Field6) (r : BitVec 3) (lat : Nat) : OpSpec :=
  { specSS k d a lat with checks := [roundCheck r.toNat] }

/-- fdiv and fsqrt: 4 cycles of the slot and latency 12 on the primary, the iterative unit and latency 20 for a pawn. -/
def State.slowF (s : State) (d : Field6) (r : Nat × FlagSet) : State :=
  ((s.landF (s.lat 12 20) d r).hold 4).updCore fun c => if s.isPawn then { c with iter := 20 } else c

/-- R286: a + b -/
def execFadd (k : Bool) (d a b : Field6) (r : BitVec 3) (s : State) : Out :=
  issue (specFff k d a b r 4) s fun s => (s.landF 4 d (fAdd r.toNat (s.drawFor r.toNat 0) (s.readF a) (s.readF b))).countRound r.toNat

/-- R286: a - b -/
def execFsub (k : Bool) (d a b : Field6) (r : BitVec 3) (s : State) : Out :=
  issue (specFff k d a b r 4) s fun s => (s.landF 4 d (fSub r.toNat (s.drawFor r.toNat 0) (s.readF a) (s.readF b))).countRound r.toNat

/-- R286: a × b -/
def execFmul (k : Bool) (d a b : Field6) (r : BitVec 3) (s : State) : Out :=
  issue (specFff k d a b r 4) s fun s => (s.landF 4 d (fMul r.toNat (s.drawFor r.toNat 0) (s.readF a) (s.readF b))).countRound r.toNat

/-- R286: a / b -/
def execFdiv (k : Bool) (d a b : Field6) (r : BitVec 3) (s : State) : Out :=
  issue { specFff k d a b r 12 with iter := true } s fun s => (s.slowF d (fDiv r.toNat (s.drawFor r.toNat 0) (s.readF a) (s.readF b))).countRound r.toNat

/-- R286: the square root of a -/
def execFsqrt (k : Bool) (d a : Field6) (r : BitVec 3) (s : State) : Out :=
  issue { specFf k d a r 12 with iter := true } s fun s => (s.slowF d (fSqrt r.toNat (s.drawFor r.toNat 0) (s.readF a))).countRound r.toNat

/-- R287: the lesser -/
def execFmin (k : Bool) (d a b : Field6) (s : State) : Out :=
  issue (specSSS k d a b 4) s fun s => s.landF 4 d (fMin (s.readF a) (s.readF b))

/-- R287: the greater -/
def execFmax (k : Bool) (d a b : Field6) (s : State) : Out :=
  issue (specSSS k d a b 4) s fun s => s.landF 4 d (fMax (s.readF a) (s.readF b))

/-- R287: the magnitude -/
def execFabs (k : Bool) (d a : Field6) (s : State) : Out :=
  issue (specSS k d a 4) s fun s => s.landF 4 d (fAbs (s.readF a))

/-- R287: the negation -/
def execFneg (k : Bool) (d a : Field6) (s : State) : Out :=
  issue (specSS k d a 4) s fun s => s.landF 4 d (fNeg (s.readF a))

/-- R287: bD := a = b -/
def execFcmpEq (k : Bool) (d a b : Field6) (s : State) : Out :=
  issue (specBSS k d a b 4) s fun s => s.landFB 4 d (fEq (s.readF a) (s.readF b))

/-- R287: bD := a < b -/
def execFcmpLt (k : Bool) (d a b : Field6) (s : State) : Out :=
  issue (specBSS k d a b 4) s fun s => s.landFB 4 d (fLt (s.readF a) (s.readF b))

/-- R287: bD := a ≤ b -/
def execFcmpLe (k : Bool) (d a b : Field6) (s : State) : Out :=
  issue (specBSS k d a b 4) s fun s => s.landFB 4 d (fLe (s.readF a) (s.readF b))

/-- R287: bD := a or b is a NaN -/
def execFcmpUn (k : Bool) (d a b : Field6) (s : State) : Out :=
  issue (specBSS k d a b 4) s fun s => s.landFB 4 d (fUn (s.readF a) (s.readF b))

/-- R288: FP32 of a signed integer -/
def execCvtFI (k : Bool) (d a : Field6) (r : BitVec 3) (s : State) : Out :=
  issue (specFf k d a r 3) s fun s => (s.landF 3 d (fp32.round (ofInt (s.readS a).toInt) r.toNat (s.drawFor r.toNat 0))).countRound r.toNat

/-- R288: FP32 of an unsigned integer -/
def execCvtFU (k : Bool) (d a : Field6) (r : BitVec 3) (s : State) : Out :=
  issue (specFf k d a r 3) s fun s => (s.landF 3 d (fp32.round (ofInt (s.readS a).toNat) r.toNat (s.drawFor r.toNat 0))).countRound r.toNat

/-- R288, R255: the signed integer of an FP32 value -/
def execCvtIF (k : Bool) (d a : Field6) (r : BitVec 3) (s : State) : Out :=
  issue (specFf k d a r 3) s fun s => (s.landF 3 d (toInt (f32 (s.readF a)) 64 true r.toNat (s.drawFor r.toNat 0))).countRound r.toNat

/-- R288, R255: the unsigned integer of an FP32 value -/
def execCvtUF (k : Bool) (d a : Field6) (r : BitVec 3) (s : State) : Out :=
  issue (specFf k d a r 3) s fun s => (s.landF 3 d (toInt (f32 (s.readF a)) 64 false r.toNat (s.drawFor r.toNat 0))).countRound r.toNat

/-- R288: BF16 of an FP32 value -/
def execCvtBfF (k : Bool) (d a : Field6) (r : BitVec 3) (s : State) : Out :=
  issue (specFf k d a r 3) s fun s => (s.landF 3 d (narrowTo bf16 r.toNat (s.drawFor r.toNat 0) (s.readF a))).countRound r.toNat

/-- R288: FP16 of an FP32 value -/
def execCvtHF (k : Bool) (d a : Field6) (r : BitVec 3) (s : State) : Out :=
  issue (specFf k d a r 3) s fun s => (s.landF 3 d (narrowTo fp16 r.toNat (s.drawFor r.toNat 0) (s.readF a))).countRound r.toNat

/-- R288: FP32 of a BF16 value -/
def execCvtFBf (k : Bool) (d a : Field6) (s : State) : Out :=
  issue (specSS k d a 3) s fun s => s.landF 3 d (widen bf16 (s.readF a % 2 ^ 16))

/-- R288: FP32 of an FP16 value -/
def execCvtFH (k : Bool) (d a : Field6) (s : State) : Out :=
  issue (specSS k d a 3) s fun s => s.landF 3 d (widen fp16 (s.readF a % 2 ^ 16))

end Sys2Proof.Machine
end

