-- ==== Sys2Proof/Machine/VecFloat.lean ====
section
/-! DEFINITION. Vector floating point: arithmetic, fused operations, compares, conversions, narrow formats, quantisation, draws and
approximate functions (15_vector R289, R290, R292, R294, R296 to R298, R304, R305). -/

namespace Sys2Proof.Machine

/-! ### Lanes -/

/-- The lanes of a vector source. -/
def State.readLanes (s : State) (f : Field6) : List Nat := lanesOf s.lanes (s.readV f)

/-- The results of the lanes, with the OR of their flags (R257). -/
def State.landLanes (s : State) (lat : Nat) (d : Field6) (r : List (Nat × FlagSet)) : State :=
  (s.landV lat d (ofLanes (r.map fun x => x.1))).raise lat (flagsOr (r.map fun x => x.2))

/-- One function of two sources, lane by lane; j is the lane number. -/
def lanes2 (f : Nat → Nat → Nat → Nat × FlagSet) (a b : List Nat) : List (Nat × FlagSet) :=
  (a.zip b).zipIdx.map fun x => f x.2 x.1.1 x.1.2

/-- One function of one source, lane by lane. -/
def lanes1 (f : Nat → Nat → Nat × FlagSet) (a : List Nat) : List (Nat × FlagSet) := a.zipIdx.map fun x => f x.2 x.1

/-- Two sources and a mode. -/
def State.vec2 (s : State) (lat : Nat) (d a b : Field6) (r : Nat) (f : Nat → Nat → Nat → Nat → Nat × FlagSet) : State :=
  (s.landLanes lat d (lanes2 (fun j x y => f r (s.drawFor r j) x y) (s.readLanes a) (s.readLanes b))).countRound r

/-- One source and a mode. -/
def State.vec1 (s : State) (lat : Nat) (d a : Field6) (r : Nat) (f : Nat → Nat → Nat → Nat × FlagSet) : State :=
  (s.landLanes lat d (lanes1 (fun j x => f r (s.drawFor r j) x) (s.readLanes a))).countRound r

/-- The wait of vdiv and vsqrt: 8 cycles of the slot, or the iterative unit for a pawn. -/
def State.slowV (s : State) : State := (s.hold 8).updCore fun c => if s.isPawn then { c with iter := 32 } else c

/-! ### What the ops need -/

/-- vD, vA, vB. -/
def specVVV (k : Bool) (d a b : Field6) (lat : Nat) : OpSpec :=
  { cls := .v, k := k, regs := [dstU .v d lat, srcU .v a, srcU .v b] }

/-- vD, vA. -/
def specVV (k : Bool) (d a : Field6) (lat : Nat) : OpSpec := { cls := .v, k := k, regs := [dstU .v d lat, srcU .v a] }

/-- mD, vA, vB. -/
def specMVV (k : Bool) (d a b : Field6) : OpSpec :=
  { cls := .v, k := k, regs := [dstU .m d 2, srcU .v a, srcU .v b] }

def specVVVr (k : Bool) (d a b : Field6) (r : BitVec 3) (lat : Nat) : OpSpec :=
  { specVVV k d a b lat with checks := [roundCheck r.toNat] }
def specVVr (k : Bool) (d a : Field6) (r : BitVec 3) (lat : Nat) : OpSpec :=
  { specVV k d a lat with checks := [roundCheck r.toNat] }

/-- A fused op: d is read and written, so latches and ports are out of range (R282). -/
def specFma (k : Bool) (d a b : Field6) (r : BitVec 3) : OpSpec where
  cls := .v
  k := k
  regs := [dstU .vRw d 5, srcU .v a, srcU .v b]
  checks := [roundCheck r.toNat]

/-- The descriptor check of R249, with the descriptor number as its detail (R394). -/
def fdCheck (f : BitVec 4) : Stage × (State → Option TrapRec) :=
  (.desc, fun s =>
    let d := vget s.core.fd f.toNat 0
    if !fdFormOk d then some (s.trapAt (0x68 + s.unit) s.ctx.pc (f.setWidth 64))
    else if fdScaleE4m3 d && !s.feature 7 then some (s.trapAt (0x70 + s.unit) s.ctx.pc (f.setWidth 64))
    else none)

/-- vpack and vunpack; variants 3 and 4 of major 0x27 round stochastically and need feature bit 3 (R264, R296). -/
def specPack (k : Bool) (d a : Field6) (f : BitVec 4) (rs : Bool) : OpSpec :=
  { specVV k d a 6 with checks := [roundCheck (if rs then 4 else 0), fdCheck f], reads := fun _ => [(.fd, f.toNat)] }

/-- vquant: vB is a second destination. -/
def specQuant (k : Bool) (d a b : Field6) (f : BitVec 4) (rs : Bool) : OpSpec where
  cls := .v
  k := k
  regs := [dstU .v d 6, srcU .v a, dstU .v b 6]
  checks := [roundCheck (if rs then 4 else 0), fdCheck f]
  reads := fun _ => [(.fd, f.toNat)]

/-! ### Arithmetic (R289, R290) -/

/-- R289: lane i := a + b -/
def execVadd (k : Bool) (d a b : Field6) (r : BitVec 3) (s : State) : Out :=
  issue (specVVVr k d a b r 4) s fun s => s.vec2 4 d a b r.toNat fAdd

/-- R289: lane i := a - b -/
def execVsub (k : Bool) (d a b : Field6) (r : BitVec 3) (s : State) : Out :=
  issue (specVVVr k d a b r 4) s fun s => s.vec2 4 d a b r.toNat fSub

/-- R289: lane i := a × b -/
def execVmul (k : Bool) (d a b : Field6) (r : BitVec 3) (s : State) : Out :=
  issue (specVVVr k d a b r 4) s fun s => s.vec2 4 d a b r.toNat fMul

/-- R289: lane i := a / b -/
def execVdiv (k : Bool) (d a b : Field6) (r : BitVec 3) (s : State) : Out :=
  issue { specVVVr k d a b r 16 with iter := true } s fun s => (s.vec2 (s.lat 16 32) d a b r.toNat fDiv).slowV

/-- R289: lane i := the lesser -/
def execVmin (k : Bool) (d a b : Field6) (s : State) : Out :=
  issue (specVVV k d a b 4) s fun s => s.vec2 4 d a b 0 fun _ _ => fMin

/-- R289: lane i := the greater -/
def execVmax (k : Bool) (d a b : Field6) (s : State) : Out :=
  issue (specVVV k d a b 4) s fun s => s.vec2 4 d a b 0 fun _ _ => fMax

/-- R289: lane i := the magnitude -/
def execVabs (k : Bool) (d a : Field6) (s : State) : Out :=
  issue (specVV k d a 4) s fun s => s.vec1 4 d a 0 fun _ _ => fAbs

/-- R289: lane i := the negation -/
def execVneg (k : Bool) (d a : Field6) (s : State) : Out :=
  issue (specVV k d a 4) s fun s => s.vec1 4 d a 0 fun _ _ => fNeg

/-- R289: lane i := the square root -/
def execVsqrt (k : Bool) (d a : Field6) (r : BitVec 3) (s : State) : Out :=
  issue { specVVr k d a r 16 with iter := true } s fun s => (s.vec1 (s.lat 16 32) d a r.toNat fSqrt).slowV

/-- One lane of a fused operation: one rounding of the exact value (R290). -/
def fFma (mode u a b d : Nat) (negP negD : Bool) : Nat × FlagSet :=
  let x := if negP then (f32 a).neg else f32 a
  let z := if negD then (f32 d).neg else f32 d
  round32 (fmaFV mode x (f32 b) z) mode u

/-- The three fused operations: d as the addend. -/
def State.fused (s : State) (d a b : Field6) (r : Nat) (negP negD : Bool) : State :=
  let xs := ((s.readLanes a).zip (s.readLanes b)).zip (s.readLanes d)
  (s.landLanes 5 d (xs.zipIdx.map fun x => fFma r (s.drawFor r x.2) x.1.1.1 x.1.1.2 x.1.2 negP negD)).countRound r

/-- R290: lane i := a × b + d -/
def execVfma (k : Bool) (d a b : Field6) (r : BitVec 3) (s : State) : Out :=
  issue (specFma k d a b r) s fun s => s.fused d a b r.toNat false false

/-- R290: lane i := a × b - d -/
def execVfms (k : Bool) (d a b : Field6) (r : BitVec 3) (s : State) : Out :=
  issue (specFma k d a b r) s fun s => s.fused d a b r.toNat false true

/-- R290: lane i := -(a × b) + d -/
def execVfnma (k : Bool) (d a b : Field6) (r : BitVec 3) (s : State) : Out :=
  issue (specFma k d a b r) s fun s => s.fused d a b r.toNat true false

/-! ### Compares (R292) -/

/-- Bit i of the mask from lane i. -/
def State.vecCmp (s : State) (d a b : Field6) (f : Nat → Nat → Bool × FlagSet) : State :=
  let r := ((s.readLanes a).zip (s.readLanes b)).map fun x => f x.1 x.2
  (s.landM 2 d.toNat (BitVec.ofNat 64 (packElems 1 (r.map fun x => b2n x.1)))).raise 2 (flagsOr (r.map fun x => x.2))

/-- R292: bit i := a = b as FP32 -/
def execVcmpEq (k : Bool) (d a b : Field6) (s : State) : Out :=
  issue (specMVV k d a b) s fun s => s.vecCmp d a b fEq

/-- R292: bit i := a < b as FP32 -/
def execVcmpLt (k : Bool) (d a b : Field6) (s : State) : Out :=
  issue (specMVV k d a b) s fun s => s.vecCmp d a b fLt

/-- R292: bit i := a ≤ b as FP32 -/
def execVcmpLe (k : Bool) (d a b : Field6) (s : State) : Out :=
  issue (specMVV k d a b) s fun s => s.vecCmp d a b fLe

/-- R292: bit i := a or b is a NaN -/
def execVcmpUn (k : Bool) (d a b : Field6) (s : State) : Out :=
  issue (specMVV k d a b) s fun s => s.vecCmp d a b fUn

/-- R292: bit i := a = b -/
def execVicmpEq (k : Bool) (d a b : Field6) (s : State) : Out :=
  issue (specMVV k d a b) s fun s => s.vecCmp d a b fun x y => (decide (x = y), 0)

/-- R292: bit i := a < b, signed -/
def execVicmpLt (k : Bool) (d a b : Field6) (s : State) : Out :=
  issue (specMVV k d a b) s fun s => s.vecCmp d a b fun x y => (decide (signedOf 32 x < signedOf 32 y), 0)

/-- R292: bit i := a < b, unsigned -/
def execVicmpLtu (k : Bool) (d a b : Field6) (s : State) : Out :=
  issue (specMVV k d a b) s fun s => s.vecCmp d a b fun x y => (decide (x < y), 0)

/-! ### Conversions (R294) -/

/-- R294: FP32 of INT32 -/
def execVcvtFI (k : Bool) (d a : Field6) (r : BitVec 3) (s : State) : Out :=
  issue (specVVr k d a r 3) s fun s => s.vec1 3 d a r.toNat fun m u x => fp32.round (ofInt (signedOf 32 x)) m u

/-- R294, R255: INT32 of FP32 -/
def execVcvtIF (k : Bool) (d a : Field6) (r : BitVec 3) (s : State) : Out :=
  issue (specVVr k d a r 3) s fun s => s.vec1 3 d a r.toNat fun m u x => toInt (f32 x) 32 true m u

/-- R294: BF16 of FP32 -/
def execVcvtBfF (k : Bool) (d a : Field6) (r : BitVec 3) (s : State) : Out :=
  issue (specVVr k d a r 3) s fun s => s.vec1 3 d a r.toNat fun m u x => narrowTo bf16 m u x

/-- R294: FP16 of FP32 -/
def execVcvtHF (k : Bool) (d a : Field6) (r : BitVec 3) (s : State) : Out :=
  issue (specVVr k d a r 3) s fun s => s.vec1 3 d a r.toNat fun m u x => narrowTo fp16 m u x

/-- R294: FP32 of BF16 -/
def execVcvtFBf (k : Bool) (d a : Field6) (s : State) : Out :=
  issue (specVV k d a 3) s fun s => s.vec1 3 d a 0 fun _ _ x => widen bf16 (x % 2 ^ 16)

/-- R294: FP32 of FP16 -/
def execVcvtFH (k : Bool) (d a : Field6) (s : State) : Out :=
  issue (specVV k d a 3) s fun s => s.vec1 3 d a 0 fun _ _ x => widen fp16 (x % 2 ^ 16)

/-! ### Narrow formats and quantisation (R296 to R298) -/

/-- A packed result of elements of w bits, with the OR of their flags (R281). -/
def State.landPacked (s : State) (lat w : Nat) (d : Field6) (r : List (Nat × FlagSet)) : State :=
  (s.landV lat d (BitVec.ofNat 2048 (packElems w (r.map fun x => x.1)))).raise lat (flagsOr (r.map fun x => x.2))

/-- vpack under a mode: element j := the lane rounded to the descriptor's format. -/
def State.pack (s : State) (d a : Field6) (f : BitVec 4) (mode : Nat) : State :=
  let fm := fdFormat (vget s.core.fd f.toNat 0)
  (s.landPacked 6 fm.width d (lanes1 (fun j x => narrowTo fm mode (s.drawFor mode j) x) (s.readLanes a))).countRound mode

/-- The scale of a block: its code, its value and the flags of a clamp (R298). -/
def blockScale (e4 : Bool) (amax mx : FV) : Nat × FV × FlagSet :=
  match amax, mx with
  | .fin _ m1 e1, .fin _ m2 e2 =>
    if m1 = 0 then (if e4 then 0x38 else 127, .fin false 1 0, 0)
    else if e4 then
      let q := (divFV amax mx).1
      let fl := if ltFV (.fin false 480 0) q then flagOF ||| flagNX else if ltFV q (.fin false 1 (-9)) then flagUF ||| flagNX else 0
      let c := (scaleRound true q 2 0).1
      (c, scaleValue true c, fl)
    else
      let t0 : Int := (e1 + floorLog2 m1) - (e2 + floorLog2 m2)
      let t := if ltFV (.fin false m2 (e2 + t0)) amax then t0 + 1 else t0
      let tc := max (-127) (min 127 t)
      let fl := if t > 127 then flagOF ||| flagNX else if t < -127 then flagUF ||| flagNX else 0
      ((tc + 127).toNat, .fin false 1 tc, fl)
  | _, _ => (scaleNaN e4, .nan false, 0)

/-- The greatest magnitude of a list of finite values. -/
def maxMagnitude (l : List FV) : FV := l.foldl (fun m x => if ltFV m x.abs then x.abs else m) (.fin false 0 0)

/-- Whether a code is a NaN or an infinity. -/
def notFinite32 (x : Nat) : Bool := decide (bits x 23 8 = 255)

/-- One block of 32 lanes, the first of them lane j0: its scale code, its elements and its flags. -/
def quantBlock (fm : Format) (e4 : Bool) (mode : Nat) (u : Nat → Nat) (j0 : Nat) (blk : List Nat) :
    Nat × List (Nat × FlagSet) :=
  if blk.any notFinite32 then (scaleNaN e4, blk.map fun x => (fm.signBit (bit x 31), flagNV))
  else
    let m := fm.magnitude fm.maxCode
    let sc := blockScale e4 (maxMagnitude (blk.map f32)) (.fin false m.1 m.2)
    (sc.1, (blk.zipIdx j0).map fun x =>
      let r := fm.round (divFV (f32 x.1) sc.2.1).1 mode (u x.2)
      (r.1, r.2 ||| sc.2.2))

/-- The lanes in blocks of 32. -/
def blocks32 : Nat → List Nat → List (List Nat)
  | 0, _ => []
  | n + 1, l => l.take 32 :: blocks32 n (l.drop 32)

/-- vquant under a mode. -/
def State.quant (s : State) (d a b : Field6) (f : BitVec 4) (mode : Nat) : State :=
  let fd := vget s.core.fd f.toNat 0
  let fm := fdFormat fd
  let bs := (blocks32 (s.lanes / 32) (s.readLanes a)).zipIdx.map fun x =>
    quantBlock fm (fdScaleE4m3 fd) mode (s.drawFor mode) (32 * x.2) x.1
  ((s.landPacked 6 fm.width d (bs.flatMap fun x => x.2)).landV 6 b (BitVec.ofNat 2048 (packElems 8 (bs.map fun x => x.1)))).countRound mode

/-- R297: pack the lanes in a descriptor's format -/
def execVpack (k : Bool) (d a : Field6) (f : BitVec 4) (s : State) : Out :=
  issue (specPack k d a f false) s fun s => s.pack d a f 0

/-- R297: widen packed elements to lanes -/
def execVunpack (k : Bool) (d a : Field6) (f : BitVec 4) (s : State) : Out :=
  issue (specPack k d a f false) s fun s => let fm := fdFormat (vget s.core.fd f.toNat 0)
    s.landLanes 6 d ((unpackElems fm.width s.lanes (s.readV a).toNat).map fun x => widen fm x)

/-- R298: block-scaled quantisation -/
def execVquant (k : Bool) (d a b : Field6) (f : BitVec 4) (s : State) : Out :=
  issue (specQuant k d a b f false) s fun s => s.quant d a b f 0

/-- R298: block-scaled quantisation, rounding stochastically -/
def execVquantRs (k : Bool) (d a b : Field6) (f : BitVec 4) (s : State) : Out :=
  issue (specQuant k d a b f true) s fun s => s.quant d a b f 4

/-- R297: pack, rounding stochastically -/
def execVpackRs (k : Bool) (d a : Field6) (f : BitVec 4) (s : State) : Out :=
  issue (specPack k d a f true) s fun s => s.pack d a f 4

/-! ### Draws (R304) -/

/-- The draw of a lane: sequence from a, position and purpose from b, under SEED1. -/
def State.laneDraw (s : State) (x y : Nat) : Word64 :=
  draw (drawKey (vget s.th.seed 1 0) (BitVec.ofNat 64 x) (BitVec.ofNat 64 (y % 2 ^ 24))) (BitVec.ofNat 64 (y / 2 ^ 24))

/-- R304: lane i := 32 bits of its draw -/
def execVdraw (k : Bool) (d a b : Field6) (s : State) : Out :=
  issue (specVVV k d a b 5) s fun s => s.landLanes 5 d (lanes2 (fun _ x y => ((s.laneDraw x y).toNat % 2 ^ 32, 0)) (s.readLanes a) (s.readLanes b))

/-- R304: lane i := the FP32 code of its draw in [0, 1) -/
def execVdrawF (k : Bool) (d a b : Field6) (s : State) : Out :=
  issue (specVVV k d a b 5) s fun s => s.landLanes 5 d (lanes2 (fun _ x y => (unitFloat (s.laneDraw x y), 0)) (s.readLanes a) (s.readLanes b))

/-! ### Approximate functions (R305): the exact value, rounded once (log 7) -/

/-- R305: lane i := 2^a -/
def execVexp2 (k : Bool) (d a : Field6) (s : State) : Out :=
  issue (specVV k d a 8) s fun s => s.vec1 8 d a 0 fun _ _ x => round32 (exp2FV (f32 x)) 0 0

/-- R305: lane i := 1 / a -/
def execVrcp (k : Bool) (d a : Field6) (s : State) : Out :=
  issue (specVV k d a 8) s fun s => s.vec1 8 d a 0 fun _ _ x => round32 (rcpFV (f32 x)) 0 0

/-- R305: lane i := 1 / √a -/
def execVrsqrt (k : Bool) (d a : Field6) (s : State) : Out :=
  issue (specVV k d a 8) s fun s => s.vec1 8 d a 0 fun _ _ x => round32 (rsqrtFV (f32 x)) 0 0

/-- R305: lane i := log2 a -/
def execVlog2 (k : Bool) (d a : Field6) (s : State) : Out :=
  issue (specVV k d a 8) s fun s => s.vec1 8 d a 0 fun _ _ x => round32 (log2FV (f32 x)) 0 0

end Sys2Proof.Machine
end

