-- ==== Sys2Proof/Machine/Matrix.lean ====
section
/-! DEFINITION. The matrix unit (16_matrix R307 to R318): mldw, the four mma variants, mrd and mclr, and the two background
loaders (R150, R151, R310). -/

namespace Sys2Proof.Machine

/-! ### Operand types (R307) -/

/-- The element width of a type code under its descriptor. -/
def typeWidth (ty : Nat) (fd : Word32) : Nat :=
  match ty with
  | 0 => (fdFormat fd).width
  | 1 => 8
  | 2 => 4
  | _ => 16

/-- K_row and K_step of a width class. -/
def kRow (w : Nat) : Nat := if w = 16 then 32 else if w ≤ 4 then 128 else 64

/-- The width class: 0, 1 or 2 for up to 4 bits, 5 to 8 and 16. -/
def widthClass (w : Nat) : Nat := if w = 16 then 2 else if w ≤ 4 then 0 else 1

def typeIsInt (ty : Nat) : Bool := decide (ty = 1) || decide (ty = 2)

/-- The format of a floating-point type. -/
def typeFormat (ty : Nat) (fd : Word32) : Format :=
  match ty with
  | 0 => fdFormat fd
  | 3 => bf16
  | _ => fp16

/-- VSIZE in bytes (R308) and the index area of R311. -/
def weightBytes (ty : Nat) (fd : Word32) : Nat := let w := typeWidth ty fd; kRow w * 16 * w
def indexBytes (ty : Nat) (fd : Word32) : Nat := kRow (typeWidth ty fd) * 32

def State.wslot (s : State) (w : Nat) : WSlot := vget s.core.w w WSlot.unloaded
def State.tile (s : State) (t : Nat) : Tile := vget s.core.t t ⟨0, Tag.unbound⟩

/-- Element width of a loaded slot. -/
def WSlot.width (w : WSlot) : Nat := typeWidth w.ty.toNat w.fd

/-! ### Loading a weight slot (R310) -/

/-- The fields of the weight-load word. -/
def wwType (x : Word64) : Nat := bits x.toNat 0 3
def wwSparse (x : Word64) : Bool := bit x.toNat 3
def wwZ (x : Word64) : Nat := bits x.toNat 8 5

/-- A malformed weight-load word. -/
def wwBad (x : Word64) (f : BitVec 4) (scaled : Bool) : Bool :=
  decide (bits x.toNat 4 4 ≠ 0) || decide (bits x.toNat 13 51 ≠ 0) || decide (5 ≤ wwType x) ||
    (decide (wwType x ≠ 0) && decide (f ≠ 0)) || (if scaled then decide (wwType x ≠ 0) else decide (wwZ x ≠ 0))

/-- The descriptor that a load or an mma reads at issue. -/
def State.fdNow (s : State) (f : BitVec 4) : Word32 := vget s.core.fd f.toNat 0

/-- Bytes of the source. -/
def State.mldwBytes (s : State) (x : Word64) (f : BitVec 4) : Nat :=
  weightBytes (wwType x) (s.fdNow f) + if wwSparse x then indexBytes (wwType x) (s.fdNow f) else 0

/-- The source's address: a multiple of 64 inside local memory (R145, R310). -/
def State.mldwSource (s : State) (ea : Word64) (len : Nat) : Option TrapRec :=
  if ea.toNat % 64 ≠ 0 || ea.toNat + len > 0x200000 then some (s.lmTrap 1 ea) else s.lmCheck ea len 64 false

def specMldw (w : BitVec 5) (a b : Field6) (f : BitVec 4) (scaled : Bool) : OpSpec where
  cls := .m
  who := .prim
  regs := [srcU .sNoPort a, srcU .sNoPort b]
  checks := [
    (.weight, fun s => if wwBad (s.readS b) f scaled then some (s.matTrap 0x138 1 w.toNat) else none),
    (.desc, fun s => if wwType (s.readS b) = 0 then (fdCheck f).2 s else none),
    (.lm, fun s => s.mldwSource (s.readS a) (s.mldwBytes (s.readS b) f)),
    (.mat, fun s => if s.busyRes (.wslot w.toNat) then some (s.matTrap 0x118 1 w.toNat) else none)]
  loads := fun _ => [.wslot w.toNat]
  reads := fun s => if wwType (s.readS b) = 0 then [(.fd, f.toNat)] else []

/-- The op joins the weight loader's queue. Its source records no guard touch: the causes of R399 name no unit 5 (log 67). -/
def State.queueWeights (s : State) (w : BitVec 5) (a b : Field6) (f : BitVec 4) (scaled : Bool) : State :=
  let x := s.readS b
  let fd := if wwType x = 0 then s.fdNow f else 0
  let job : WJob := {
    slot := w.toNat
    addr := s.key (s.readS a)
    ty := BitVec.ofNat 3 (wwType x)
    fd := fd
    sparse := wwSparse x
    bind := if scaled then some (wwZ x) else none
    vgran := weightBytes (wwType x) fd / 64
    igran := if wwSparse x then indexBytes (wwType x) fd / 64 else 0
    row := 0
    delay := 3
    op := s.opNo
    vals := 0
    idx := 0 }
  s.updCore fun c => { c with wQ := c.wQ ++ [job] }

/-- R310: load a weight slot in the background. -/
def execMldw (w : BitVec 5) (a b : Field6) (f : BitVec 4) (s : State) : Out :=
  issue (specMldw w a b f false) s fun s => s.queueWeights w a b f false

/-- R310: load a weight slot in the background and bind it at BASE 0. -/
def execMldwS (w : BitVec 5) (a b : Field6) (f : BitVec 4) (s : State) : Out :=
  issue (specMldw w a b f true) s fun s => s.queueWeights w a b f true

/-! ### The background loaders (R150, R151, R310)

A tick in which rank 3 grants the banks of the next row or granule moves it. A loader holds to one operation at a time, no
earlier than the tick of the third cycle after its issue. It sees the stores of the primary up to the op's own bundle, made or not (R151). -/

/-- The eight banks of 64 bytes. -/
def rowBanks (key : Nat) : BitVec 64 := 0xFF#64 <<< (key / 8 % 64)

/-- The tile loader may move a row in this tick. -/
def State.tileReady (s : State) : Option TileJob :=
  match s.core.tileQ with
  | [] => none
  | j :: _ => if j.delay = 0 && decide (s.core.banks &&& rowBanks (j.addr + 64 * j.row) = 0) then some j else none

/-- The weight loader may move a granule in this tick. -/
def State.weightReady (s : State) : Option WJob :=
  match s.core.wQ with
  | [] => none
  | j :: _ => if j.delay = 0 && decide (s.core.banks &&& rowBanks (j.addr + 64 * j.row) = 0) then some j else none

/-- The tile loader is done with its operation: a loaded tile is whole and good, and a tld with z binds it (R150, R269). -/
def State.endTile (s : State) (j : TileJob) : State :=
  let s := s.updCore fun c => { c with tileQ := c.tileQ.tail }
  let s := if j.store then s else s.heal fun l => decide (l = .reg .primary 5 j.tile)
  match j.bind with
  | some z => s.bindTile j.tile (some (z, 2 * (j.tile % 4)))
  | none => s

/-- The bytes of one row move; what cannot be read is not used, and the loader takes the machine check (R415). -/
def State.rowBytes (s : State) (j : TileJob) : State :=
  let a := j.addr + 64 * j.row
  let t := s.tile j.tile
  if j.store then
    let u := s.agentStrike [.reg .primary 5 j.tile]
    if s.anyStruck [.reg .primary 5 j.tile] then u else u.lmWrite a 64 (bits t.data.toNat (512 * j.row) 512)
  else
    let u := s.agentLm (bankWords [a] 64)
    if s.lmBad (bankWords [a] 64) then u
    else
      let d := BitVec.ofNat 16384 (setBits t.data.toNat (512 * j.row) 512 (memRead (s.viewAhead j.op) a 64))
      u.updCore fun c => { c with t := vset c.t j.tile { t with data := d } }

/-- One row moves. A row of a tst is written in its own tick: an access that is pending then has its own (R139, R168). -/
def State.moveRow (s : State) (j : TileJob) : State :=
  let a := j.addr + 64 * j.row
  let s := ((((s.stopWaiting 3).takeBanks (rowBanks a)).watchOther (lmSpan a 64 j.store))).rowBytes j
  if j.row < 31 then
    s.updCore fun c => { c with tileQ := match c.tileQ with
      | [] => []
      | x :: l => { x with row := j.row + 1 } :: l }
  else s.endTile j

/-- R150: the tile loader moves one 64-byte row. -/
def execTileLoaderRow (s : State) : Out :=
  match s.tileReady with
  | none => .next (s.keepWaiting 3)
  | some j => .next (s.moveRow j)

/-- The slot with a finished load: values above VSIZE are never read (R308). -/
def WJob.finish (j : WJob) (w : WSlot) : WSlot :=
  { w with vals := j.vals, loaded := true, ty := j.ty, fd := j.fd, sparse := j.sparse, idx := j.idx }

/-- A granule of the values or, after them, of the indices (R310, R311). -/
def WJob.put (j : WJob) (x : Nat) : WJob :=
  if j.row < j.vgran then { j with vals := BitVec.ofNat 65536 (setBits j.vals.toNat (512 * j.row) 512 x) }
  else { j with idx := BitVec.ofNat 32768 (setBits j.idx.toNat (512 * (j.row - j.vgran)) 512 x) }

/-- The weight loader is done with its operation (R269, R310). -/
def State.endSlot (s : State) (j : WJob) : State :=
  let s := s.updCore fun c => { c with wQ := c.wQ.tail, w := vset c.w j.slot (j.finish (vget c.w j.slot WSlot.unloaded)) }
  let s := s.heal fun l => decide (l = .reg .primary 6 j.slot)
  match j.bind with
  | some z => s.bindSlot j.slot z 0
  | none => s

/-- One granule moves; what cannot be read is not used, and the loader takes the machine check (R415). -/
def State.moveGranule (s : State) (j : WJob) : State :=
  let a := j.addr + 64 * j.row
  let bad := s.lmBad (bankWords [a] 64)
  let x := memRead (s.viewAhead j.op) a 64
  let s := (((s.stopWaiting 2).takeBanks (rowBanks a)).watchOther (lmSpan a 64 false)).agentLm (bankWords [a] 64)
  let k := if bad then j else j.put x
  let j : WJob := { k with row := j.row + 1 }
  if j.row < j.vgran + j.igran then s.updCore fun c => { c with wQ := j :: c.wQ.tail } else s.endSlot j

/-- R310: the weight loader moves one 64-byte granule. -/
def execWeightLoaderGranule (s : State) : Out :=
  match s.weightReady with
  | none => .next (s.keepWaiting 2)
  | some j => .next (s.moveGranule j)

/-! ### The sum of one step (R314, R315) -/

/-- An operand element: its exact scaled value and the flags that it raises when a term uses it. -/
abbrev Elem := FV × FlagSet

/-- A scaled or unscaled floating-point element. -/
def floatElem (f : Format) (scale : Option FV) (c : Nat) : Elem :=
  let x := f.decode c
  match scale with
  | none => (x, flagIf x.isSig flagNV)
  | some sc =>
    let r := scaledValue x sc
    (r.1, r.2 ||| flagIf x.isSig flagNV)

/-- The scale that entry j after a tag's base gives (R270). -/
def State.tagScale (s : State) (t : Tag) (j : Nat) : FV :=
  let r := s.zreg t.z
  scaleValue r.fmt (r.entry (64 * t.base + j))

/-- Put the elements of a row or column under their blocks of 32. -/
def blockMap {α β : Type} (f : Nat → α → β) : Nat → List α → List β
  | _, [] => []
  | i, x :: l => f (i / 32) x :: blockMap f (i + 1) l

/-- The codes of row i of a tile (R245, R307). -/
def Tile.row (t : Tile) (w i : Nat) : List Nat := unpackElems w (kRow w) (bits t.data.toNat (512 * i) 512)

/-- Row i of the A operand from one tile. -/
def State.aRowTile (s : State) (ty : Nat) (fd : Word32) (t i : Nat) : List Elem :=
  let tl := s.tile t
  let w := typeWidth ty fd
  let bpr := kRow w / 32
  blockMap (fun b c => floatElem (typeFormat ty fd) (if ty = 0 then some (s.tagScale tl.tag (bpr * i + b)) else none) c) 0 (tl.row w i)

/-- Row i of the A operand: a sparse slot takes it from the pair of tiles (R309). -/
def State.aRow (s : State) (ty : Nat) (fd : Word32) (t i : Nat) (sparse : Bool) : List Elem :=
  if sparse then s.aRowTile ty fd t i ++ s.aRowTile ty fd (t + 1) i else s.aRowTile ty fd t i

/-- Row i as integers. -/
def State.aRowInt (s : State) (ty t i : Nat) (sparse : Bool) : List Int :=
  let w := typeWidth ty 0
  let row := fun t => ((s.tile t).row w i).map (signedOf w)
  if sparse then row t ++ row (t + 1) else row t

/-- Column n of the stored codes: rows 0 to K_step - 1 (R308). -/
def WSlot.column (w : WSlot) (n : Nat) : List Nat :=
  (List.range (kRow w.width)).map fun r => elemAt w.vals.toNat w.width (128 * r + n)

/-- The logical rows of the stored rows of column n (R308, R311). -/
def WSlot.rowsOf (w : WSlot) (n : Nat) : List Nat :=
  (List.range (kRow w.width)).map fun r => if w.sparse then 4 * (r / 2) + elemAt w.idx.toNat 2 (128 * r + n) else r

/-- Column n of the B operand. -/
def State.bColumn (s : State) (w : WSlot) (n : Nat) : List Elem :=
  let per := kRow w.width / 32
  blockMap (fun b c => floatElem (typeFormat w.ty.toNat w.fd)
    (if w.ty = 0 then some (s.tagScale w.tag (per * n + b)) else none) c) 0 (w.column n)

/-- The terms of one output element: each stored row's logical A element times the B element. -/
def pairUp {α β : Type} (d : α) (arow : List α) (sparse : Bool) (rows : List Nat) (bcol : List β) : List (α × β) :=
  if sparse then (rows.map fun k => arow.getD k d).zip bcol else arow.zip bcol

/-- What a list of terms has met: a NaN, each infinity, the exact sum of the finite ones (none before the first), flags. -/
structure TermSum where
  nan : Bool
  pinf : Bool
  ninf : Bool
  sum : Option FV
  flags : FlagSet

def TermSum.add (a : TermSum) (t : Elem × Elem) : TermSum :=
  let p := mulFV t.1.1 t.2.1
  let a := { a with flags := a.flags ||| t.1.2 ||| t.2.2 ||| p.2 }
  match p.1 with
  | .nan _ => { a with nan := true }
  | .inf n => if n then { a with ninf := true } else { a with pinf := true }
  | .fin n m e =>
    { a with sum := some (match a.sum with
      | some (.fin n' m' e') => addFin 0 n' m' e' n m e
      | _ => .fin n m e) }

/-- T and its flags: infinities of both signs meet as an invalid operation. -/
def termTotal (l : List (Elem × Elem)) : FV × FlagSet :=
  let r := l.foldl TermSum.add ⟨false, false, false, none, 0⟩
  let f := r.flags ||| flagIf (r.pinf && r.ninf) flagNV
  if r.nan || (r.pinf && r.ninf) then (.nan false, f)
  else if r.pinf then (.inf false, f)
  else if r.ninf then (.inf true, f)
  else (r.sum.getD (.fin false 0 0), f)

/-- The step at a floating-point accumulator word (R314): overflow held at ±Max under .sat. Which flags a sum above Max, but less than half a unit above it,
raises under .sat the spec leaves open: R314 calls the mode-1 rounding to Max there an overflow held at Max, for which R315 has OF and NX, while the mode-0
rounding of R315 gives NX alone. The model takes those of mode 0, with OF from half a unit on (DESIGN CHOICE, log 73). -/
def stepFloat (sat : Bool) (old : Nat) (t : FV) : Nat × FlagSet :=
  match f32 old, t with
  | .nan _, _ => (nan32, 0)
  | _, .nan _ => (nan32, 0)
  | .inf n, .inf n' => if n = n' then (fp32.infCode n, 0) else (nan32, flagNV)
  | .inf n, .fin _ _ _ => (fp32.infCode n, 0)
  | .fin _ _ _, .inf n => (fp32.infCode n, 0)
  | .fin n1 m1 e1, .fin n2 m2 e2 =>
    let x := addFin 0 n1 m1 e1 n2 m2 e2
    let r := fp32.round x 0 0
    if sat && decide (r.1 % 2 ^ 31 = 0x7F800000) then (fp32.maxVal (bit r.1 31), r.2) else r

/-- The step at an integer accumulator word (R314). -/
def stepInt (sat : Bool) (old : Nat) (t : Int) : Nat × FlagSet :=
  let x := signedOf 32 old + t
  if -(2 ^ 31) ≤ x ∧ x ≤ 2 ^ 31 - 1 then (unsignedOf 32 x, 0)
  else if sat then (if x > 0 then 0x7FFFFFFF else 0x80000000, flagIOV)
  else (unsignedOf 32 x, flagIOV)

/-- One row of new accumulator words with the row's flags. -/
def floatRow (sat sparse : Bool) (arow : List Elem) (cols : List (List Nat × List Elem)) (old : List Nat) : List (Nat × FlagSet) :=
  (cols.zip old).map fun x =>
    let t := termTotal (pairUp (.fin false 0 0, 0) arow sparse x.1.1 x.1.2)
    let r := stepFloat sat x.2 t.1
    (r.1, r.2 ||| t.2)

def intRow (sat sparse : Bool) (arow : List Int) (cols : List (List Nat × List Int)) (old : List Nat) : List (Nat × FlagSet) :=
  (cols.zip old).map fun x =>
    stepInt sat x.2 (((pairUp 0 arow sparse x.1.1 x.1.2).map fun p => p.1 * p.2).foldl (· + ·) 0)

/-- The words of row i of an accumulator. -/
def accRow (a : BitVec 131072) (i : Nat) : List Nat := unpackElems 32 128 (bits a.toNat (4096 * i) 4096)

/-- All 32 rows after the step. -/
def State.mmaRows (s : State) (ty : Nat) (fd : Word32) (d t w : Nat) (sat : Bool) : List (List (Nat × FlagSet)) :=
  let sl := s.wslot w
  let a := vget s.core.acc d 0
  if typeIsInt ty then
    let cols := (List.range 128).map fun n => (sl.rowsOf n, (sl.column n).map (signedOf sl.width))
    (List.range 32).map fun i => intRow sat sl.sparse (s.aRowInt ty t i sl.sparse) cols (accRow a i)
  else
    let cols := (List.range 128).map fun n => (sl.rowsOf n, s.bColumn sl n)
    (List.range 32).map fun i => floatRow sat sl.sparse (s.aRow ty fd t i sl.sparse) cols (accRow a i)

/-! ### mma (R312, R313) -/

/-- The binding checks of R271 for one operand that uses `span` entries: file 0 for a tile, 1 for a weight slot. -/
def State.bindTrap (s : State) (tag : Tag) (span file reg : Nat) : Option TrapRec :=
  if !tag.bound then some (s.matTrap 0x108 file reg)
  else if !s.live tag then some (s.matTrap 0x100 file reg)
  else if 64 * tag.base + span > 512 then some (s.matTrap 0x110 file reg)
  else if (s.zreg tag.z).fmt && !s.feature 7 then some (s.trapAt (0x70 + s.unit) s.ctx.pc 0)
  else none

/-- The tiles of the A operand: a pair for a sparse slot. -/
def State.mmaTiles (s : State) (t : BitVec 4) (w : BitVec 5) : List Nat :=
  let sl := s.wslot w.toNat
  if sl.loaded && sl.sparse && decide (t.toNat < 15) then [t.toNat, t.toNat + 1] else [t.toNat]

/-- Check 1 of R312: the A tiles, then the slot. -/
def State.mmaBind (s : State) (y : BitVec 3) (t : BitVec 4) (w : BitVec 5) (f : BitVec 4) : Option TrapRec :=
  let sl := s.wslot w.toNat
  (if y = 0 then (s.mmaTiles t w).findSome? fun n => s.bindTrap (s.tile n).tag (kRow (typeWidth 0 (s.fdNow f))) 0 n else none) <|>
    (if sl.loaded && decide (sl.ty = 0) then s.bindTrap sl.tag (4 * kRow sl.width) 1 w.toNat else none)

/-- Checks 2 to 5 of R312. -/
def State.mmaMat (s : State) (y d : BitVec 3) (t : BitVec 4) (w : BitVec 5) (f : BitVec 4) : Option TrapRec :=
  let sl := s.wslot w.toNat
  if s.busyRes (.acc d.toNat) then some (s.matTrap 0x118 2 d.toNat)
  else if !sl.loaded then some (s.matTrap 0x128 1 w.toNat)
  else if typeIsInt y.toNat ≠ typeIsInt sl.ty.toNat ∨ widthClass (typeWidth y.toNat (s.fdNow f)) ≠ widthClass sl.width then
    some (s.matTrap 0x120 1 w.toNat)
  else if sl.sparse && bit t.toNat 0 then some (s.matTrap 0x130 0 t.toNat)
  else none

/-- What an mma reads: its tiles, its slot, the accumulator that it adds to, the scales that bind them, and its descriptor (R307 to R314). -/
def State.mmaReads (s : State) (y d : BitVec 3) (t : BitVec 4) (w : BitVec 5) (f : BitVec 4) : List (RFile × Nat) :=
  let ts := s.mmaTiles t w
  ts.map (fun n => (RFile.t, n)) ++ [(.w, w.toNat), (.a, d.toNat)] ++
    (if y = 0 then (.fd, f.toNat) :: ts.map fun n => (RFile.z, (s.tile n).tag.z) else []) ++
    if (s.wslot w.toNat).ty = 0 then [(.z, (s.wslot w.toNat).tag.z)] else []

def specMma (y d : BitVec 3) (t : BitVec 4) (w : BitVec 5) (f : BitVec 4) : OpSpec where
  cls := .m
  who := .prim
  checks := [
    (.desc, fun s => if y = 0 then (fdCheck f).2 s else none),
    (.bind, fun s => s.mmaBind y t w f),
    (.mat, fun s => s.mmaMat y d t w f)]
  loads := fun s => (s.mmaTiles t w).map Res.tile ++ [.wslot w.toNat]
  reads := fun s => s.mmaReads y d t w f
  streams := fun s => s.mmaTiles t w

/-- The rows on the forwarding latch: row i in cycle c + 12 + n_r × i and, in the 16-bit class, the next (R316). -/
def State.present (s : State) (nr : Nat) : Nat → List (List Nat) → State
  | _, [] => s
  | i, row :: l => (s.emit (12 + nr * i) (.mx (BitVec.ofNat 4096 (packElems 32 row)))).present nr (i + 1) l

/-- The effect of an mma: everything is read at issue; the accumulator lands n + 12 cycles later with the flags. -/
def State.multiply (s : State) (y d : BitVec 3) (t : BitVec 4) (w : BitVec 5) (f : BitVec 4) (fwd sat : Bool) : State :=
  let rows := s.mmaRows y.toNat (s.fdNow f) d.toNat t.toNat w.toNat sat
  let vals := rows.map fun r => r.map fun x => x.1
  let flags := flagsOr (rows.map fun r => flagsOr (r.map fun x => x.2))
  let nr := if widthClass (typeWidth y.toNat (s.fdNow f)) = 2 then 2 else 1
  let n := 32 * nr
  let u := (s.mmaTiles t w).foldl (fun s k => s.inUse n (.tile k)) (((s.hold n).inUse (n + 12) (.acc d.toNat)).inUse n (.wslot w.toNat))
  let u := if fwd then u.present nr 0 vals else u
  (u.emit (n + 12) (.acc d.toNat (BitVec.ofNat 131072 (packElems 4096 (vals.map (packElems 32)))) (1 + b2n fwd))).raise (n + 12) flags

/-- R312: one step into accumulator D. -/
def execMma (y d : BitVec 3) (t : BitVec 4) (w : BitVec 5) (f : BitVec 4) (s : State) : Out :=
  issue (specMma y d t w f) s fun s => s.multiply y d t w f false false

/-- R312: the same, with the rows on the forwarding latch. -/
def execMmaFwd (y d : BitVec 3) (t : BitVec 4) (w : BitVec 5) (f : BitVec 4) (s : State) : Out :=
  issue (specMma y d t w f) s fun s => s.multiply y d t w f true false

/-- R312: the same, saturating. -/
def execMmaSat (y d : BitVec 3) (t : BitVec 4) (w : BitVec 5) (f : BitVec 4) (s : State) : Out :=
  issue (specMma y d t w f) s fun s => s.multiply y d t w f false true

/-- R312: the same, forwarding and saturating. -/
def execMmaFwdSat (y d : BitVec 3) (t : BitVec 4) (w : BitVec 5) (f : BitVec 4) (s : State) : Out :=
  issue (specMma y d t w f) s fun s => s.multiply y d t w f true true

/-! ### mrd and mclr (R317, R318) -/

/-- An accumulator that an mma still uses is not read or cleared. -/
def accCheck (a : BitVec 3) : Stage × (State → Option TrapRec) :=
  (.mat, fun s => if s.busyRes (.acc a.toNat) then some (s.matTrap 0x118 2 a.toNat) else none)

def specMrd (d : Field6) (a : BitVec 3) : OpSpec where
  cls := .m
  who := .prim
  regs := [dstU .v d 4]
  checks := [accCheck a]
  reads := fun _ => [(.a, a.toNat)]

/-- R317: half a row of an accumulator, at c + 4. -/
def execMrd (d : Field6) (a : BitVec 3) (h : BitVec 1) (r : BitVec 5) (s : State) : Out :=
  issue (specMrd d a) s fun s =>
    s.landV 4 d (BitVec.ofNat 2048 (bits (vget s.core.acc a.toNat 0).toNat (4096 * r.toNat + 2048 * h.toNat) 2048))

/-- R318: an accumulator := 0, at c + 1. -/
def execMclr (a : BitVec 3) (s : State) : Out :=
  issue { cls := .m, who := .prim, checks := [accCheck a] } s fun s => s.emit 1 (.acc a.toNat 0)

end Sys2Proof.Machine
end

