-- ==== Sys2Proof/Machine/Translate.lean ====
section
/-! DEFINITION. Address translation (22_translation R353 to R361, 23_program_migration R366, R367): page-table entries,
TLBs, walks, fault records, and what a pawn's walk leads to. -/

namespace Sys2Proof.Machine

/-! ### Entries (R353 to R356) -/

/-- Bits of an address below a level's index. -/
def levelShift (level : Nat) : Nat := 16 + 10 * level

/-- Fields of an entry. -/
def pteValid (e : Nat) : Bool := bit e 0
def pteR (e : Nat) : Bool := bit e 1
def pteW (e : Nat) : Bool := bit e 2
def pteD (e : Nat) : Bool := bit e 4
def pteLeaf (e : Nat) : Bool := bit e 5
def pteClass (e : Nat) : Nat := bits e 6 2
def pteWB (e : Nat) : Bool := bit e 8
def pteTier (e : Nat) : Nat := bits e 9 2
def pteG (e : Nat) : Bool := bit e 11
def pteMig (e : Nat) : Bool := bit e 12
def ptePa (e : Nat) : Nat := bits e 16 36 * 65536
/-- The next table of a pointer entry. -/
def pteTable (e : Nat) : Nat := ptePa e + bits e 13 3 * 8192

/-- The range of a tier: first address, and one past the last (R356). -/
def Part.tierRange (p : Part) (t : Nat) : Nat × Nat :=
  match t with
  | 0 => (0, p.hbmTop)
  | 1 => (p.t2Base, p.t2Top)
  | _ => (p.hostBase, 2 ^ 52)

/-- A run of bytes lies in a tier. -/
def Part.inTier (p : Part) (t a n : Nat) : Bool := decide ((p.tierRange t).1 ≤ a) && decide (a + n ≤ (p.tierRange t).2)

/-- An entry with V = 1 is malformed (R355). -/
def Part.malformed (p : Part) (e level : Nat) : Bool :=
  if bits e 52 4 ≠ 0 then true
  else if pteLeaf e then
    decide (level = 3) || decide (bits e 13 3 ≠ 0) || decide (ptePa e % 2 ^ levelShift level ≠ 0) || decide (pteTier e = 3) ||
      !p.inTier (pteTier e) (ptePa e) (2 ^ levelShift level)
  else
    decide (level = 0) || decide (bits e 1 4 ≠ 0) || decide (bits e 6 7 ≠ 0) ||
      !(p.inTier 0 (pteTable e) 8192 || p.inTier 1 (pteTable e) 8192)

/-- The entry's bits allow an access: 0 read, 1 write, 2 atomic or sequentially consistent, 3 monitor (R358). -/
def permits (e acc : Nat) : Bool :=
  match acc with
  | 1 => pteW e
  | 2 => pteR e && pteW e
  | _ => pteR e

/-- The access needs D (R358). -/
def needsD (acc : Nat) : Bool := decide (acc = 1) || decide (acc = 2)

/-! ### TLBs (R357) -/

/-- The entry covers a virtual address of a context. -/
def TlbEntry.covers (t : TlbEntry) (cx va : Nat) : Bool :=
  (decide (t.cx = cx) || pteG t.attrs.toNat) && decide (t.vpn = va / 2 ^ levelShift t.level)

/-- The physical address that an entry gives. -/
def TlbEntry.pa (t : TlbEntry) (va : Nat) : Nat := t.ppn + va % 2 ^ levelShift t.level

/-- The entry serves the access without a walk: a write needs D, and WB and an unaccepted host tier are left to the walk. -/
def State.tlbServes (s : State) (t : TlbEntry) (acc : Nat) : Bool :=
  let e := t.attrs.toNat
  permits e acc && (!needsD acc || (pteD e && !pteWB e)) && (decide (pteTier e ≠ 2) || s.feature 1)

/-- A hit in a TLB. -/
def State.tlbHit (s : State) (l : List TlbEntry) (cx va acc : Nat) : Option TlbEntry :=
  match l.find? fun t => t.covers cx va with
  | some t => if s.tlbServes t acc then some t else none
  | none => none

/-- An entry joins a TLB of a size; which entry it replaces is not architectural. -/
def tlbAdd (l : List TlbEntry) (t : TlbEntry) (size free : Nat) : List TlbEntry :=
  let l := l.filter fun x => !(decide (x.cx = t.cx) && decide (x.level = t.level) && decide (x.vpn = t.vpn))
  if l.length < size then t :: l else t :: l.eraseIdx (free % size)

/-- An entry joins the core's data TLB, and the cluster's: a word that is written anew is good (R415). -/
def State.tlbFill (s : State) (t : TlbEntry) (first : Bool) : State :=
  ((s.heal fun l => decide (l = t.loc)).updCore fun c => { c with
    tlb := if first then tlbAdd c.tlb t 192 (Config.freeChoice s.free) else c.tlb
    tlb2 := tlbAdd c.tlb2 t 8192 (Config.freeChoice s.free) }).bumpFree

/-! ### Copy-on-write under a dump (R427) -/

/-- A write to a page that a dump is still to send, of which no copy has been taken. -/
def State.cowPage (s : State) (cx va acc : Nat) : Bool :=
  needsD acc && match s.dev.dump with
    | none => false
    | some d => d.marked && decide (d.cx = cx) && d.pages.any (fun p => decide (p.va = some (va / 65536 * 65536))) &&
        decide (va / 65536 * 65536 ∉ d.staged.map fun x => x.1)

/-- The staging area takes one page more. -/
def State.cowRoom (s : State) : Bool :=
  match s.dev.dump with
  | none => true
  | some d => decide (d.staged.length < bits (s.devReg 0x70020) 0 32)

/-- The first page of the staging area that holds no copy. -/
def Dump.slot (d : Dump) : Nat := ((List.range (d.staged.length + 1)).find? fun i => i ∉ d.staged.map fun x => x.2).getD 0

/-- Address of a page of the staging area. -/
def State.stagePage (s : State) (slot : Nat) : Nat := bits (s.devReg 0x70018) 16 36 * 65536 + 65536 * slot

/-- The page is copied into the staging area first, as it stood when the pages were marked; a bad word of it, or a page of the area in a fenced range, is
the machine check of the context (R415, R419). -/
def State.cowCopy (s : State) (cx va acc : Nat) : State :=
  if s.cowPage cx va acc then
    match s.dev.dump with
    | none => s
    | some d =>
      let page := va / 65536 * 65536
      let a := s.stagePage d.slot
      let old := d.pages.find? fun p => p.va = some page
      let cells := (old.map fun p => p.cells).getD []
      let s := if old.any (fun p => s.pmBad p.pa 65536) then (s.pmError cx ((old.map fun p => p.pa).getD 0)).ctxCheck cx else s
      let s := if s.rangeFenced a 65536 then (s.pmError cx a).ctxCheck cx else s
      let s := (s.setPm (cells.foldl (fun m c => memSet m (a + c.1) c.2) (memZero s.pm a 65536))).healPm a 65536
      s.updDev fun x => { x with dump := some { d with staged := (page, d.slot) :: d.staged } }
  else s

/-! ### Walks (R358) -/

/-- Where a walk ends: the address of a leaf with its level and value, or a failure's KIND with the level and the entry. -/
inductive WalkEnd where
  | leaf (ea level e : Nat)
  | fail (kind level e : Nat)
deriving DecidableEq, Repr

/-- A walk from a table down: `n` levels remain. The list holds the addresses of the entries read, the last first. -/
def State.descend (s : State) (va : Nat) : Nat → Nat → List Nat → WalkEnd × List Nat
  | 0, _, l => (.fail 2 0 0, l)
  | n + 1, table, l =>
    let ea := table + 8 * bits va (levelShift n) 10
    let e := s.homeRead ea 8
    if !pteValid e then (.fail 0 n e, ea :: l)
    else if s.part.malformed e n then (.fail 2 n e, ea :: l)
    else if pteLeaf e then (.leaf ea n e, ea :: l)
    else s.descend va n (pteTable e) (ea :: l)

/-- The walk of a context's page table. -/
def State.pageWalk (s : State) (cx va : Nat) : WalkEnd × List Nat :=
  s.descend va 4 (bits (s.devReg (0x100000 + 64 * cx)) 13 39 * 8192) []

/-- A walk by one of the cluster's walkers: where `use` says so for a level, a pointer entry that they cache serves it unread; one that is read is
cached (R357). -/
def State.descendWith (s : State) (use : Nat → Bool) (cx va : Nat) : Nat → Nat → List Nat → List PtrEntry → WalkEnd × List Nat × List PtrEntry
  | 0, _, l, p => (.fail 2 0 0, l, p)
  | n + 1, table, l, p =>
    let vpn := va / 2 ^ levelShift n
    let ea := table + 8 * bits va (levelShift n) 10
    match if use n then p.find? fun x => decide (x.cx = cx) && decide (x.level = n) && decide (x.vpn = vpn) else none with
    | some x => s.descendWith use cx va n (pteTable x.e) l p
    | none =>
      let e := s.homeRead ea 8
      if !pteValid e then (.fail 0 n e, ea :: l, p)
      else if s.part.malformed e n then (.fail 2 n e, ea :: l, p)
      else if pteLeaf e then (.leaf ea n e, ea :: l, p)
      else s.descendWith use cx va n (pteTable e) (ea :: l)
        (⟨cx, n, vpn, e⟩ :: p.filter fun x => !(decide (x.cx = cx) && decide (x.level = n) && decide (x.vpn = vpn)))

/-- The least ticks that reads of entries take at their homes, one after another, from a die (R23, R357). -/
def State.walkTicks (s : State) (die cx : Nat) (l : List Nat) : Nat :=
  (l.map fun a => s.homeTicks die a (s.l2Alloc a none (some cx))).foldl (fun a b => a + b) 0

/-- A walk by the cluster's walkers that uses the cached pointer entries of some levels. -/
def State.coreWalkBy (s : State) (use : Nat → Bool) (cx va : Nat) : WalkEnd × List Nat × List PtrEntry :=
  s.descendWith use cx va 4 (bits (s.devReg (0x100000 + 64 * cx)) 13 39 * 8192) [] s.core.ptrs

/-- The walk of a context's page table by the cluster's walkers: which cached pointer entries they still hold is not architectural (R357), as far as
there was time to read the others (R23). -/
def State.coreWalk (s : State) (cx va waited : Nat) : WalkEnd × List Nat × List PtrEntry :=
  let w := s.coreWalkBy (fun n => bit (Config.freeChoice s.free) n) cx va
  if s.walkTicks s.core.cfg.die cx w.2.1 ≤ waited then w else s.coreWalkBy (fun _ => true) cx va

/-- A walk of the core has had the time that its reads need, or the second level of the TLBs serves it (R23, R357). -/
def State.walkDue (s : State) (cx va acc waited : Nat) : Bool :=
  (!s.cowPage cx va acc && (s.tlbHit s.core.tlb2 cx va acc).isSome) ||
    decide (s.walkTicks s.core.cfg.die cx (s.coreWalkBy (fun _ => true) cx va).2.1 ≤ waited)

/-- An entry that a walk has read is bad (R415). -/
def State.walkBad (s : State) (l : List Nat) : Bool := l.any fun a => s.pmBad a 8

/-- What the walkers cache after a walk. -/
def State.keepPtrs (s : State) (p : List PtrEntry) : State := (s.updCore fun c => { c with ptrs := p }).bumpFree

/-- What a walk comes to for an access (R358, R360, R365, R367). -/
inductive Verdict where
  /-- Permitted: the TLB entry, the entry's address, and its value with A and D set. -/
  | fill (t : TlbEntry) (ea e : Nat)
  /-- A write-block or a migration lock: the access waits for a TLBINV. -/
  | block
  /-- A host-tier leaf under an unaccepted feature bit 1. -/
  | hostOff
  | fault (kind level e : Nat)
deriving DecidableEq, Repr

/-- The verdict on the end of a walk. A write-block comes before the permissions: a pawn waits for it, and an engine destination faults with KIND 3,
whatever W and MIG are (R365, R367). -/
def State.verdict (s : State) (w : WalkEnd) (cx va acc : Nat) (engine : Bool) : Verdict :=
  match w with
  | .fail kind level e => if pteMig e then .block else .fault kind level e
  | .leaf ea level e =>
    if s.cowPage cx va acc && !s.cowRoom && permits e acc then .block
    else if pteTier e = 2 ∧ !s.feature 1 then .hostOff
    else if needsD acc && pteWB e then (if engine then .fault 3 level e else .block)
    else if !permits e acc then (if pteMig e then .block else .fault 1 level e)
    else
      let e' := setBits (if needsD acc then setBits e 4 1 1 else e) 3 1 1
      .fill ⟨cx, va / 2 ^ levelShift level, level, ptePa e, BitVec.ofNat 13 (bits e' 0 13)⟩ ea e'

/-- The reads of a walk are counted: one that the HBM has served has taken 300 ticks, as far as the walk has had the time, of which `left` ticks are more
than the least (R23, R368). -/
def State.countWalk (s : State) (die cx : Nat) (left : Nat) : List Nat → State
  | [] => s
  | a :: l =>
    let alloc := s.l2Alloc a none (some cx)
    let more := 300 - s.homeTicks die a alloc
    let hit := decide (s.part.tierOf a = some 0) && decide (left < more)
    let miss := s.fillMiss a hit alloc && decide (s.part.tierOf a = some 0)
    (s.countFill a (some cx) hit alloc).countWalk die cx (if miss then left - more else left) l

/-- The walker's accesses are counted, and A and D are set at the entry's home by one compare and swap, which finds its line there (R358, R368); the walk has
been under way for `waited` ticks, from a die. -/
def State.walkEffects (s : State) (l : List Nat) (v : Verdict) (cx die waited : Nat) : State :=
  let s := s.countWalk die cx (waited - s.walkTicks die cx l) l
  match v with
  | .fill _ ea e => if s.homeRead ea 8 = e then s else (s.homeWrite ea 8 e).countHome ea none cx true
  | _ => s

/-- A bad entry that the core's walker reads gives a machine check (R415). -/
def State.walkCheck (s : State) (l : List Nat) : State := l.foldl (fun s a => s.agentPm a 8) s

/-! ### Fault records (R359) -/

/-- The resident slot that holds a context (R371). -/
def State.slotOf (s : State) (cx : Nat) : Option Nat :=
  (List.range 64).find? fun i => decide (bits (s.devReg (0x400 + 8 * i)) 0 13 = cx % 4096 + 4096)

/-- A record for the context's fault queue: none when the queue has no room. `who` is the thread or channel, `core` the
logical index of the issuer. The identifier is the record's. Of the modulus of HEAD and TAIL and of the record's slot the spec says nothing: they run modulo
2^16, and the record goes to slot TAIL modulo the capacity (DESIGN CHOICE, log 73). One in a fenced range is lost, with the machine check of the context
(R419). -/
def State.faultRecord (s : State) (cx va kind acc level who core e : Nat) (engine : Bool) : Option (State × Word32) :=
  let base := 0x100000 + 64 * cx
  let ctl := s.devReg (base + 0x10)
  let cap := 2 ^ (min (bits ctl 0 4) 8 + 4)
  let head := bits ctl 16 16
  let tail := bits ctl 32 16
  if cap ≤ subMod 16 tail head then none
  else
    let id := assocGet s.dev.faultIds cx 0
    let a := bits (s.devReg (base + 8)) 6 46 * 64 + 32 * (tail % cap)
    let w1 := kind + acc * 2 ^ 4 + level * 2 ^ 6 + b2n engine * 2 ^ 8 + who % 16 * 2 ^ 9 + core % 65536 * 2 ^ 16
    let v := va % 2 ^ 56 + w1 * 2 ^ 64 + id % 2 ^ 32 * 2 ^ 128 + e % 2 ^ 64 * 2 ^ 192
    let s := if s.rangeFenced a 32 then (s.pmError cx a).ctxCheck cx else s.homeWriteRun a 32 v
    let s := s.setDevReg (base + 0x10) (setBits ctl 32 16 (addMod 16 tail 1))
    let s := s.updDev fun d => { d with faultIds := assocSet d.faultIds cx (addMod 32 id 1) }
    let s := match s.slotOf cx with
      | some n => s.raiseVector (2 + n)
      | none => s
    some (s, BitVec.ofNat 32 id)

/-! ### A pawn's translation (R190, R360, R366, R367) -/

/-- The cause that a delivered KIND gives a pawn (R360). -/
def kindCause (kind : Nat) : Nat :=
  match kind with
  | 0 => 0xD6
  | 1 => 0xDE
  | 2 => 0xEE
  | _ => 0xDE

/-- The op that a pawn is parked at traps: address, and the record's identifier or 0 (R394). -/
def State.parkTrap (s : State) (t code : Nat) (va : Word64) (id : Word32) : State :=
  s.pawnTrap t ⟨BitVec.ofNat 9 code, va, id.setWidth 64, 15⟩ (s.pawn t).pc

/-- The thread takes up its op again. -/
def State.unpark (s : State) (t : Nat) : State := s.updPawn t fun p => { p with status := .running }

/-- The thread parks at the op in hand (R190): the op has used its slot and issues again later. -/
def State.parkAt (s : State) (t : Nat) (va : Word64) (acc : Nat) : State :=
  s.updPawn t fun p => { p with status := .xlateWait ⟨va, acc, none, false, 0⟩ }

/-- A walk for a parked pawn completes: the TLBs are filled and the thread rejoins, or it parks on a block, or its record is
written, or it traps. A cached translation of the second level serves it without a walk. Of a bad entry nothing is used: the machine check, of the
thread where its own TLB holds a struck one, ends the launch (R415). -/
def State.pawnWalk (s : State) (t : Nat) (k : Park) : State :=
  let cx := s.core.cfg.cx
  let va := k.va.toNat
  match s.core.tlb.find? fun e => e.covers cx va && decide (e.loc ∈ s.core.struck) with
  | some e => (((s.setCtx (agentCtx (.pawn t))).strikeUse 0x1DE e.loc).setCtx s.ctx).unpark t
  | none =>
  match if s.cowPage cx va k.acc then none else s.tlbHit s.core.tlb2 cx va k.acc with
  | some e => if decide (e.loc ∈ s.core.struck) then s.agentStrike [e.loc] else (s.tlbFill e true).unpark t
  | none =>
    let w := s.coreWalk cx va k.waited
    if s.walkBad w.2.1 then
      (s.bumpFree.walkCheck w.2.1).updPawn t fun p => { p with status := .xlateWait { k with fault := none, waited := 0 } }
    else
    let v := s.verdict w.1 cx va k.acc false
    let s := (s.keepPtrs w.2.2).walkEffects w.2.1 v cx s.core.cfg.die k.waited
    match v with
    | .fill e _ _ => ((s.cowCopy cx va k.acc).tlbFill e true).unpark t
    | .block => s.updPawn t fun p => { p with status := .xlateWait { k with blocked := true, fault := none } }
    | .hostOff => s.parkTrap t 0xFE k.va 0
    | .fault kind level e =>
      match s.faultRecord cx va kind k.acc level t s.core.cfg.coreIdx e false with
      | none => s.parkTrap t 0xF6 k.va 0
      | some (s, id) => s.updPawn t fun p => { p with status := .xlateWait { k with fault := some (id, kind), blocked := false } }

/-! ### Issue of a G-class op (R186) -/

/-- The TLB entry that serves an access at its issue; a struck one does not (R415). -/
def State.gHit (s : State) (va : Word64) (acc : Nat) : Option TlbEntry :=
  if s.cowPage s.core.cfg.cx va.toNat acc then none
  else (s.tlbHit s.core.tlb s.core.cfg.cx va.toNat acc).filter fun e => decide (e.loc ∉ s.core.struck)

/-- Issue of a pawn op that translates an address: after the checks of the op, a miss parks the thread, an atomic or monitor
on the host tier traps, and `post` holds the checks that follow R186. -/
def issueG (sp : OpSpec) (va : State → Word64) (acc : Nat) (post : State → TlbEntry → Option TrapRec) (s : State)
    (eff : State → State) : Out :=
  if s.ctx.checked then .next (s.perform sp eff)
  else
    match s.encodingTrap sp <|> lateStages.findSome? fun st => s.lateTrap sp st [] with
    | some r => .next (s.trap r)
    | none =>
      match s.gHit (va s) acc with
      | none => .next (s.parkAt s.threadNo (va s) acc)
      | some e =>
        if 2 ≤ acc ∧ pteTier e.attrs.toNat = 2 then .next (s.trap (s.trapAt 0xE6 (va s) 0))
        else
          match post s e with
          | some r => .next (s.trap r)
          | none =>
            .next ((s.setCtx { s.ctx with checked := true, pa := e.pa (va s).toNat, cls := pteClass e.attrs.toNat, va := some (va s), level := e.level }).performWatched sp eff)

/-- Steps 1, 2 and 4 of R186 for an access of `size` bytes; the argument of the range-lock cause is x[A] (R394). -/
def State.gCheck (s : State) (ea xa : Word64) (size : Nat) (write : Bool) : Option TrapRec :=
  if bits ea.toNat 56 8 ≠ 0 then some (s.trapAt (0xC8 + s.unit) ea 0)
  else if ea.toNat % size ≠ 0 then some (s.trapAt (0xC0 + s.unit) ea 0)
  else if s.globalLocked ea.toNat size write then some (s.trapAt (0x190 + s.unit) s.ctx.pc xa)
  else none

end Sys2Proof.Machine
end

