-- ==== Sys2Proof/Machine/PawnMem.lean ====
section
/-! DEFINITION. The global memory of a pawn (09_pawn_memory R186 to R196, 07_memory_model R163, R171, 18_determinism R335):
loads, stores, atomics at the home slice, release and acquire, sequentially consistent ops, and the events that perform them.
An op issues a request; an event performs it, and with the reply its result lands. -/

namespace Sys2Proof.Machine

/-! ### Requests -/

/-- The op in hand sends a request. -/
def State.gSend (s : State) (kind : GKind) (d p : Dst) (va : Word64) : State :=
  match s.ctx.agent with
  | .primary => s
  | .pawn t =>
    let id := s.core.nextId
    let s := s.updCore fun c => { c with nextId := id + 1 }
    s.updPawn t fun q => { q with
      reqs := q.reqs ++ [{
        id := id
        kind := kind
        d := d
        p := p
        va := va
        pa := s.ctx.pa
        cls := s.ctx.cls
        done := none
        seq := q.opCount
        age := 0
        pc := s.ctx.pc
        level := s.ctx.level }] }

/-- An acquire: later accesses wait until it has landed (R160, R195, R196, R207). -/
def GKind.isAcquire : GKind → Bool
  | .load _ _ acq => acq.isSome
  | .sc _ _ _ _ _ => true
  | .ringget _ _ _ => true
  | .eqr _ => true
  | _ => false

/-- A release: it waits until every earlier access has been performed (R163, R206, R209). -/
def GKind.isRelease : GKind → Bool
  | .store _ rel _ => rel.isSome
  | .sc _ _ _ _ _ => true
  | .ringput _ _ _ => true
  | .callat _ _ _ _ => true
  | _ => false

/-- An access of global memory. -/
def GKind.isMemory : GKind → Bool
  | .load _ _ _ => true
  | .store _ _ _ => true
  | .atomic _ _ _ _ => true
  | .sc _ _ _ _ _ => true
  | _ => false

def GKind.isLoad : GKind → Bool
  | .load _ _ _ => true
  | _ => false
def GKind.isStore : GKind → Bool
  | .store _ _ _ => true
  | _ => false
def GKind.isAtomic : GKind → Bool
  | .atomic _ _ _ _ => true
  | _ => false
def GKind.isSc : GKind → Bool
  | .sc _ _ _ _ _ => true
  | _ => false

/-- A release of the thread waits for the request: it is not performed, or its reply has still to bring the cached copy its value, which the core's
other threads read after the release (R158, R161, R163, R188). -/
def GReq.holdsRelease (q : GReq) : Bool := q.done.isNone || q.kind.isAtomic

/-- An earlier request of the thread keeps r waiting: it is an acquire, an access to the same line whose reply is still to come, which
brings the cached copy its value (R157, R188), or one that a release waits for. -/
def GReq.holds (q r : GReq) : Bool :=
  decide (q.seq < r.seq) &&
    (q.kind.isAcquire || (q.holdsRelease && r.kind.isRelease) ||
      (q.kind.isMemory && r.kind.isMemory && decide (q.pa / 64 = r.pa / 64)))

/-- The request may be performed: nothing of the thread holds it, flags included (R154). -/
def Pawn.mayPerform (p : Pawn) (r : GReq) : Bool :=
  r.done.isNone && !(p.reqs.any fun q => q.holds r) &&
    !(p.waiting.any fun w => decide (w.op < r.seq) && (w.acq || r.kind.isRelease))

/-- A request that waits for a record of an engine. -/
def GKind.isEqr : GKind → Bool
  | .eqr _ => true
  | _ => false

/-- The core that a key or a target index names is another one. -/
def CoreState.otherKey (c : CoreState) (key : Nat) : Bool := decide (key / 2 ^ 21 ≠ c.lmBase / 2 ^ 21)

/-- The request leaves the core over the mesh (R68): not what the pawn cache serves or accepts, nor what stays in the core. -/
def State.needsMesh (s : State) (r : GReq) : Bool :=
  match r.kind with
  | .load _ _ (some (_ + 1)) => true
  | .load size _ _ => s.core.cfg.det || !s.cacheHit r.pa size
  | .store _ (some (_ + 1)) _ => true
  | .store _ (some 0) _ => s.core.cfg.det
  | .store _ none _ => false
  | .mbput core _ _ => decide (core ≠ s.core.cfg.coreIdx)
  | .callat core _ _ _ => decide (core ≠ s.core.cfg.coreIdx)
  | .ringput desc _ _ => s.core.otherKey desc
  | .ringget _ _ _ => false
  | .remote id => s.core.remotes.any fun q => decide (q.id = id) && s.core.otherKey q.addr
  | .eqr _ => false
  | _ => true

/-- The request may be performed as far as its thread goes. While the context is saved an engine delivers no record, and what waits behind an
eqr goes on (R213, log 22). -/
def State.mayGo (s : State) (t : Nat) (r : GReq) : Bool :=
  let p := s.pawn t
  (if s.core.saving then { p with reqs := p.reqs.filter fun q => !q.kind.isEqr } else p).mayPerform r

/-- The request may be performed: nothing holds it, and the mesh has taken it where it leaves the core. -/
def State.reqReady (s : State) (t : Nat) (r : GReq) : Bool := s.mayGo t r && (r.sent || !s.needsMesh r)

/-- The first request of a sort that may be performed. -/
def State.firstReq (s : State) (t : Nat) (f : GReq → Bool) : Option GReq := (s.pawn t).reqs.find? fun r => f r && s.reqReady t r

/-- The request leaves the core: a fill for it begins, under the way masks of the tick (R234). -/
def State.sendReq (s : State) (t : Nat) (r : GReq) : State :=
  let ways := s.ways (s.part.homeDie r.pa) r.cls (some s.core.cfg.cx)
  s.updPawn t fun p => { p with reqs := p.reqs.map fun q => if q.id = r.id then { q with sent := true, ways := ways } else q }

/-- The mesh takes what a thread has for it, in order, as long as it takes requests; each that it refuses counts for the tick
(R68, R72). -/
def State.meshThread (s : State) (t : Nat) : State :=
  ((s.pawn t).reqs.filter fun r => !r.sent && s.needsMesh r && s.mayGo t r).foldl (fun s r =>
    if s.core.mesh = some 0 then s.bump 6 1
    else s.spendMesh.sendReq t r) s

def State.dropReq (s : State) (t id : Nat) : State :=
  s.updPawn t fun p => { p with reqs := p.reqs.filter fun r => r.id ≠ id }

/-- The request has been performed; its reply is on its way, with whether its home had to read its memory (R23). -/
def State.markDone (s : State) (t id : Nat) (v : Wide) (ok : Bool) (miss : Bool := false) : State :=
  s.updPawn t fun p => { p with reqs := p.reqs.map fun r => if r.id = id then { r with done := some (v, ok), miss := miss } else r }

/-- A value on its way to a register of a pawn from op number `op`: it lands at the start of the next cycle, in the order of issue (R57);
none for a value that no register receives. -/
def Pawn.reply (p : Pawn) (op : Nat) (d : Dst) (v : Wide) : List PEntry :=
  if d = .discard then []
  else [{ count := 1, op := op, unit := 6, slot := 15, pc := 0, sup := decide (p.th.mode ≠ 0), eff := .reg d v }]

/-- The reply lands in the thread's registers. -/
def State.landReq (s : State) (t : Nat) (r : GReq) (v : Wide) (ok : Bool) : State :=
  (s.updPawn t fun p => { p with pend := p.pend ++ p.reply r.seq r.d v ++ p.reply r.seq r.p (BitVec.ofNat 4096 (b2n ok)) }).dropReq t r.id

/-! ### The chunk of a deterministic thread (R335) -/

/-- Lines that uncommitted bytes of all threads occupy. -/
def State.chunkLines (s : State) : Nat :=
  ((s.pawns.toList.flatMap fun p => p.chunk.writes.map fun c => c.1 / 64).foldr (fun x l => if x ∈ l then l else x :: l) []).length

/-- The 64 KiB page of a virtual address. -/
def vaPage (va : Nat) : Nat := va / 65536 * 65536

/-- The move order waits at the slot of a thread. -/
def CoreState.visits (c : CoreState) (t : Nat) : Bool := c.moveHere && decide (c.moveNext = t)

/-- A deterministic store to a line that no chunk has written finds no line of the 1,024 left: it waits, and its thread is parked until the visit,
at which the rest of the chunk has its way (R188, R335); none waits while the context is saved, which discards the bytes (R402). -/
def State.noRoom (s : State) (t : Nat) (r : GReq) : Bool :=
  s.core.cfg.det && !s.core.saving && r.kind.isStore && !r.kind.isRelease && !s.core.visits t && decide (1024 ≤ s.chunkLines) &&
    !(s.pawns.toList.any fun p => p.chunk.writes.any fun c => decide (c.1 / 64 = r.pa / 64))

/-- The thread is parked for want of room, whatever it waits for besides; it fetches anew when it is back (R147, R335). -/
def State.parkFull (s : State) (t : Nat) : State :=
  if s.core.visits t then s else s.updPawn t fun p => { p with buf := [], chunk := { p.chunk with full := true } }

/-- A store of n bytes joins the chunk; with that the thread is parked where no room is left. -/
def State.chunkStore (s : State) (t : Nat) (r : GReq) (n v : Nat) : State :=
  let w := (List.range n).foldl (fun (l : List Host.Cell) i =>
    (r.pa + i, BitVec.ofNat 8 (v / 256 ^ i)) :: l.filter fun c => c.1 ≠ r.pa + i) (s.pawn t).chunk.writes
  let s := s.updPawn t fun p => { p with chunk := { p.chunk with
    writes := w
    classes := (r.pa / 64, r.cls) :: p.chunk.classes.filter fun x => x.1 ≠ r.pa / 64
    pages := (vaPage r.va.toNat, r.level) :: p.chunk.pages } }
  if 1024 ≤ s.chunkLines then s.parkFull t else s

/-- n bytes as the chunk sees them, with the addresses read from committed state. -/
def Chunk.read (c : Chunk) (m : Memory) : Nat → Nat → Nat × List Nat
  | _, 0 => (0, [])
  | pa, n + 1 =>
    let r := c.read m (pa + 1) n
    match c.writes.find? fun w => w.1 = pa with
    | some w => (w.2.toNat + 256 * r.1, r.2)
    | none => ((memGet m pa).toNat + 256 * r.1, pa :: r.2)

/-! ### Loads and stores (R191) -/

def specGld (k : Bool) (d a : Field6) (o : BitVec 10) (size : Nat) : OpSpec where
  cls := .g
  who := .pawn
  k := k
  regs := [dstU .s d 1, srcU .s a]
  checks := [(.lm, fun s => s.gCheck (s.ea a o size) (s.readS a) size false)]
  spans := fun s => [vaSpan (s.ea a o size) size 0]

/-- A global load. -/
def issueGld (k : Bool) (d a : Field6) (o : BitVec 10) (size : Nat) (signed : Bool) (s : State) : Out :=
  issueG (specGld k d a o size) (fun s => s.ea a o size) 0 (fun _ _ => none) s fun s =>
    s.gSend (.load size signed none) (s.dstS d) .discard (s.ea a o size)

def specGst (k : Bool) (d a : Field6) (o : BitVec 10) (size : Nat) : OpSpec where
  cls := .g
  who := .pawn
  k := k
  regs := [srcU .s d, srcU .s a]
  checks := [(.lm, fun s => s.stackCheck a (s.ea a o size) <|> s.gCheck (s.ea a o size) (s.readS a) size true)]
  spans := fun s => [vaSpan (s.ea a o size) size 1]

/-- A global store. -/
def issueGst (k : Bool) (d a : Field6) (o : BitVec 10) (size : Nat) (s : State) : Out :=
  issueG (specGst k d a o size) (fun s => s.ea a o size) 1 (fun _ _ => none) s fun s =>
    s.gSend (.store size none (s.readS d)) .discard .discard (s.ea a o size)

/-- R191: a byte, sign-extended. -/
def execGldb (k : Bool) (d a : Field6) (o : BitVec 10) (s : State) : Out := issueGld k d a o 1 true s
/-- R191: a byte, zero-extended. -/
def execGldbu (k : Bool) (d a : Field6) (o : BitVec 10) (s : State) : Out := issueGld k d a o 1 false s
/-- R191: a halfword, sign-extended. -/
def execGldh (k : Bool) (d a : Field6) (o : BitVec 10) (s : State) : Out := issueGld k d a o 2 true s
/-- R191: a halfword, zero-extended. -/
def execGldhu (k : Bool) (d a : Field6) (o : BitVec 10) (s : State) : Out := issueGld k d a o 2 false s
/-- R191: a word, sign-extended. -/
def execGldw (k : Bool) (d a : Field6) (o : BitVec 10) (s : State) : Out := issueGld k d a o 4 true s
/-- R191: a word, zero-extended. -/
def execGldwu (k : Bool) (d a : Field6) (o : BitVec 10) (s : State) : Out := issueGld k d a o 4 false s
/-- R191: a doubleword. -/
def execGld (k : Bool) (d a : Field6) (o : BitVec 10) (s : State) : Out := issueGld k d a o 8 false s
/-- R191: store a byte. -/
def execGstb (k : Bool) (d a : Field6) (o : BitVec 10) (s : State) : Out := issueGst k d a o 1 s
/-- R191: store a halfword. -/
def execGsth (k : Bool) (d a : Field6) (o : BitVec 10) (s : State) : Out := issueGst k d a o 2 s
/-- R191: store a word. -/
def execGstw (k : Bool) (d a : Field6) (o : BitVec 10) (s : State) : Out := issueGst k d a o 4 s
/-- R191: store a doubleword. -/
def execGst (k : Bool) (d a : Field6) (o : BitVec 10) (s : State) : Out := issueGst k d a o 8 s

/-! ### Atomics (R192, R193) -/

/-- The new value of an n-bit location, or none where no write is made. -/
def gaNew (fn n old v c : Nat) : Option Nat :=
  match fn with
  | 0 => some ((old + v) % 2 ^ n)
  | 1 => some v
  | 2 => if old = c then some v else none
  | 3 => some (if signedOf n old ≤ signedOf n v then old else v)
  | 4 => some (if signedOf n old ≤ signedOf n v then v else old)
  | 5 => some (min old v)
  | 6 => some (max old v)
  | 7 => some (old &&& v)
  | 8 => some (old ||| v)
  | 9 => some (old ^^^ v)
  | _ => some (fAdd 0 0 old v).1

/-- What x[D] receives (R193). -/
def gaReply (fn size old : Nat) : Wide :=
  BitVec.ofNat 4096 (if fn = 10 ∨ size = 8 then old else unsignedOf 64 (signedOf 32 old))

def gaSize (w : BitVec 1) : Nat := if w = 1 then 4 else 8

def specGa (k : Bool) (d a b : Field6) (size : Nat) : OpSpec where
  cls := .g
  who := .pawn
  k := k
  sync := true
  regs := [dstU .s d 1, srcU .s a, srcU .s b]
  checks := [(.lm, fun s => s.gCheck (s.readS a) (s.readS a) size true)]
  spans := fun s => [vaSpan (s.readS a) size 2]

/-- An atomic. -/
def issueGa (k : Bool) (d a b : Field6) (fn size : Nat) (s : State) : Out :=
  issueG (specGa k d a b size) (fun s => s.readS a) 2 (fun _ _ => none) s fun s =>
    s.gSend (.atomic fn size (s.readS b) (s.readS d)) (s.dstS d) .discard (s.readS a)

/-- R192: add. -/
def execGaadd (k : Bool) (d a b : Field6) (w : BitVec 1) (s : State) : Out := issueGa k d a b 0 (gaSize w) s
/-- R192: swap. -/
def execGaswap (k : Bool) (d a b : Field6) (w : BitVec 1) (s : State) : Out := issueGa k d a b 1 (gaSize w) s
/-- R192: compare and swap. -/
def execGacas (k : Bool) (d a b : Field6) (w : BitVec 1) (s : State) : Out := issueGa k d a b 2 (gaSize w) s
/-- R192: the smaller, signed. -/
def execGamin (k : Bool) (d a b : Field6) (w : BitVec 1) (s : State) : Out := issueGa k d a b 3 (gaSize w) s
/-- R192: the larger, signed. -/
def execGamax (k : Bool) (d a b : Field6) (w : BitVec 1) (s : State) : Out := issueGa k d a b 4 (gaSize w) s
/-- R192: the smaller, unsigned. -/
def execGaminu (k : Bool) (d a b : Field6) (w : BitVec 1) (s : State) : Out := issueGa k d a b 5 (gaSize w) s
/-- R192: the larger, unsigned. -/
def execGamaxu (k : Bool) (d a b : Field6) (w : BitVec 1) (s : State) : Out := issueGa k d a b 6 (gaSize w) s
/-- R192: and. -/
def execGaand (k : Bool) (d a b : Field6) (w : BitVec 1) (s : State) : Out := issueGa k d a b 7 (gaSize w) s
/-- R192: or. -/
def execGaor (k : Bool) (d a b : Field6) (w : BitVec 1) (s : State) : Out := issueGa k d a b 8 (gaSize w) s
/-- R192: exclusive or. -/
def execGaxor (k : Bool) (d a b : Field6) (w : BitVec 1) (s : State) : Out := issueGa k d a b 9 (gaSize w) s
/-- R192: FP32 add. -/
def execGafadd (k : Bool) (d a b : Field6) (s : State) : Out := issueGa k d a b 10 4 s

/-! ### Release and acquire (R195) -/

def specLdacq (k : Bool) (d a : Field6) (size : Nat) : OpSpec where
  cls := .g
  who := .pawn
  k := k
  sync := true
  regs := [dstU .s d 1, srcU .s a]
  checks := [(.lm, fun s => s.gCheck (s.readS a) (s.readS a) size false)]
  spans := fun s => [vaSpan (s.readS a) size 0]

/-- R195: an acquire load at a scope. -/
def execLdacq (k : Bool) (d a : Field6) (w : BitVec 1) (sc : BitVec 3) (s : State) : Out :=
  issueG (specLdacq k d a (gaSize w)) (fun s => s.readS a) 0 (fun _ _ => none) s fun s =>
    s.gSend (.load (gaSize w) false (some sc.toNat)) (s.dstS d) .discard (s.readS a)

def specStrel (k : Bool) (d a : Field6) (size : Nat) : OpSpec where
  cls := .g
  who := .pawn
  k := k
  sync := true
  regs := [srcU .s d, srcU .s a]
  checks := [(.lm, fun s => s.gCheck (s.readS a) (s.readS a) size true)]
  spans := fun s => [vaSpan (s.readS a) size 1]

/-- R195: a release store at a scope. -/
def execStrel (k : Bool) (d a : Field6) (w : BitVec 1) (sc : BitVec 3) (s : State) : Out :=
  issueG (specStrel k d a (gaSize w)) (fun s => s.readS a) 1 (fun _ _ => none) s fun s =>
    s.gSend (.store (gaSize w) (some sc.toNat) (s.readS d)) .discard .discard (s.readS a)

/-! ### Sequentially consistent operations (R171, R196) -/

def specSc (k : Bool) (regs : List RegUse) (a : Field6) (write : Bool) : OpSpec where
  cls := .g
  who := .pawn
  k := k
  sync := true
  regs := regs
  checks := [(.lm, fun s => s.gCheck (s.readS a) (s.readS a) 8 write)]
  spans := fun s => [vaSpan (s.readS a) 8 (if write then 2 else 0)]

/-- An announced op: its key holds the beat and the window of its issue tick. -/
def State.scSend (s : State) (fn : Nat) (v c : Word64) (d : Dst) (a : Field6) : State :=
  s.gSend (.sc fn v c s.die.beat (s.die.phase / 256)) d .discard (s.readS a)

/-- The new value of a location (R196). -/
def scNew (fn : Nat) (old v c : Word64) : Option Word64 :=
  match fn with
  | 0 => some (old + v)
  | 1 => some v
  | 2 => if old = c then some v else none
  | 3 => none
  | _ => some v

/-- R196: add. -/
def execScadd (k : Bool) (d a b : Field6) (s : State) : Out :=
  issueG (specSc k [dstU .s d 1, srcU .s a, srcU .s b] a true) (fun s => s.readS a) 2 (fun _ _ => none) s fun s =>
    s.scSend 0 (s.readS b) 0 (s.dstS d) a

/-- R196: swap. -/
def execScswap (k : Bool) (d a b : Field6) (s : State) : Out :=
  issueG (specSc k [dstU .s d 1, srcU .s a, srcU .s b] a true) (fun s => s.readS a) 2 (fun _ _ => none) s fun s =>
    s.scSend 1 (s.readS b) 0 (s.dstS d) a

/-- R196: compare and swap. -/
def execSccas (k : Bool) (d a b : Field6) (s : State) : Out :=
  issueG (specSc k [dstU .s d 1, srcU .s a, srcU .s b] a true) (fun s => s.readS a) 2 (fun _ _ => none) s fun s =>
    s.scSend 2 (s.readS b) (s.readS d) (s.dstS d) a

/-- R196: load. -/
def execScld (k : Bool) (d a : Field6) (s : State) : Out :=
  issueG (specSc k [dstU .s d 1, srcU .s a] a false) (fun s => s.readS a) 2 (fun _ _ => none) s fun s =>
    s.scSend 3 0 0 (s.dstS d) a

/-- R196: store. -/
def execScst (k : Bool) (d a : Field6) (s : State) : Out :=
  issueG (specSc k [srcU .s d, srcU .s a] a true) (fun s => s.readS a) 2 (fun _ _ => none) s fun s =>
    s.scSend 4 (s.readS d) 0 .discard a

/-! ### Performing them -/

/-- A load of the HBM tier that has not been under way for the time of a read of its memory has hit in L2 (R23). -/
def State.readHit (s : State) (r : GReq) : Bool := decide (s.part.tierOf r.pa = some 0) && decide (r.age < 300)

/-- A fill for the request may take a way of L2 (R234). -/
def GReq.alloc (r : GReq) : Bool := decide (r.ways ≠ 0)

/-- A thread's request consumes bad bytes: the machine check comes in the place of its result (R415). -/
def State.badReq (s : State) (t : Nat) (r : GReq) (size : Nat) : State :=
  (((s.setCtx (agentCtx (.pawn t))).usePm 0x1DE r.pa size).setCtx s.ctx).dropReq t r.id

/-- A thread's load meets a struck word of the cache: the machine check comes in the place of its result (R415). -/
def State.strikeReq (s : State) (t : Nat) (r : GReq) : State :=
  (((s.setCtx (agentCtx (.pawn t))).strikeUse 0x1DE (.cache (r.pa / 8))).setCtx s.ctx).dropReq t r.id

/-- A load is performed and lands: from the cache, filled first where bytes are missing; an acquire wider than core from the
home slice, after which clean lines go (R163, R188). A deterministic load reads under R335, and what it reads of committed state is a request
of its home (R368). -/
def State.performLoad (s : State) (t : Nat) (r : GReq) (size : Nat) (signed : Bool) (acq : Option Nat) : State :=
  let land := fun (s : State) (v : Nat) => s.landReq t r (BitVec.ofNat 4096 (extendElem size 64 signed v)) false
  let cx := s.core.cfg.cx
  let hit := s.readHit r
  match acq with
  | some (_ + 1) =>
    if s.pmBad r.pa size then s.badReq t r size else
    let v := s.homeRead r.pa size
    (land ((s.countFill r.pa (some cx) hit r.alloc).refreshCopy r.pa size v false) v).dropClean
  | _ =>
    if s.core.cfg.det then
      let x := (s.pawn t).chunk.read s.pm r.pa size
      if x.2.any fun a => s.pmBad a 1 then s.badReq t r size else
      let reads := if acq.isNone then x.2 else []
      let s := if x.2 = [] then s else s.countFill r.pa (some cx) hit r.alloc
      land (s.updPawn t fun p => { p with chunk := { p.chunk with
        reads := reads ++ p.chunk.reads
        pages := (vaPage r.va.toNat, r.level) :: p.chunk.pages } }) x.1
    else
      let s := if s.cacheHit r.pa size then s else s.fillLine (r.pa / 64) r.cls cx (vaPage r.va.toNat) hit r.alloc
      if !s.cacheHit r.pa size then s.badReq t r size
      else if s.hitStruck r.pa size then s.strikeReq t r
      else land s (s.cacheRead r.pa size)

/-- The least number of ticks from the issue of a request to its result (R23): 3 for a pawn-cache hit, otherwise those of a read of its home. -/
def State.leastAge (s : State) (r : GReq) : Nat :=
  let hit := match r.kind with
    | .load size _ (some 0) => !s.core.cfg.det && s.cacheHit r.pa size
    | .load size _ none => !s.core.cfg.det && s.cacheHit r.pa size
    | _ => false
  if hit then 3 else if r.miss && decide (s.part.tierOf r.pa = some 0) then 300 else s.homeTicks s.core.cfg.die r.pa r.alloc

/-- R188: a line fetched from its home returns, and the waiting load reads the merged line; a load takes the ticks of
R23 at least. -/
def execPawnCacheFill (t : Nat) (s : State) : Out :=
  match s.firstReq t fun r => r.kind.isLoad && decide (s.leastAge r ≤ r.age) with
  | none => .next s
  | some r =>
    match r.kind with
    | .load size signed acq => .next (s.performLoad t r size signed acq)
    | _ => .next s

/-- A store is accepted by the pawn cache, which holds that of a deterministic thread as part of its chunk (R335); a release writes the dirty
lines back first and, wider than core, is performed at the home slice (R163). A store to a fenced range meets the machine check (R419). -/
def State.performStore (s : State) (t : Nat) (r : GReq) (size : Nat) (rel : Option Nat) (v : Word64) : State :=
  let x := v.toNat % 2 ^ (8 * size)
  if s.rangeFenced r.pa size then (((s.setCtx (agentCtx (.pawn t))).storeFenced r.pa).setCtx s.ctx).dropReq t r.id else
  match rel with
  | some (_ + 1) =>
    ((s.writeBackAll.homeUpdate r.pa size x).countFill r.pa (some s.core.cfg.cx) false r.alloc).dropReq t r.id
  | none => (if s.core.cfg.det then s.chunkStore t r size x else s.acceptStore r.pa size x r.cls (vaPage r.va.toNat)).dropReq t r.id
  | some 0 => (if s.core.cfg.det then (s.homeUpdate r.pa size x).countFill r.pa (some s.core.cfg.cx) false r.alloc else s.acceptStore r.pa size x r.cls (vaPage r.va.toNat)).dropReq t r.id

/-- The first store of the thread that may be accepted is accepted. -/
def State.storeStep (s : State) (t : Nat) : State :=
  match s.firstReq t fun r => r.kind.isStore with
  | none => s
  | some r =>
    match r.kind with
    | .store size rel v => if s.noRoom t r then s.parkFull t else s.performStore t r size rel v
    | _ => s

/-- R193: an atomic is performed at the line's home slice, after the write-back of its line (R188). -/
def State.performAtomic (s : State) (t : Nat) (r : GReq) (fn size : Nat) (v c : Word64) : State :=
  let s := s.writeBackLine (r.pa / 64)
  if s.pmBad r.pa size then s.badReq t r size else
  let old := s.homeRead r.pa size
  let n := 8 * size
  let s := match gaNew fn n old (v.toNat % 2 ^ n) (c.toNat % 2 ^ n) with
    | some x => s.homeWrite r.pa size x
    | none => s
  (s.countFill r.pa (some s.core.cfg.cx) false r.alloc).markDone t r.id (gaReply fn size old) false (s.fillMiss r.pa false r.alloc)

/-- R193: an atomic request is performed at the home slice and its reply returns. -/
def execHomeAtomic (t : Nat) (s : State) : Out :=
  match s.firstReq t fun r => r.kind.isAtomic with
  | none => .next s
  | some r =>
    match r.kind with
    | .atomic fn size v c => .next (s.performAtomic t r fn size v c)
    | _ => .next s

/-- The value of the bytes of an atomic or sequentially consistent op once it has been performed, from its reply, with its size and whether the op
wrote it: what it has only read is a read of the thread (R158, R188, R193). -/
def GReq.left (r : GReq) : Option (Nat × Nat × Bool) :=
  let old := (r.done.getD (0, false)).1.toNat
  match r.kind with
  | .atomic fn size v c =>
    let n := 8 * size
    let x := gaNew fn n (old % 2 ^ n) (v.toNat % 2 ^ n) (c.toNat % 2 ^ n)
    some (size, x.getD (old % 2 ^ n), x.isSome)
  | .sc fn v c _ _ =>
    let x := scNew fn (BitVec.ofNat 64 old) v c
    some (8, (x.getD (BitVec.ofNat 64 old)).toNat, x.isSome)
  | _ => none

/-- R193: the old value returns and lands; any cached copy of the line takes the value of the op's bytes (R188). A sequentially consistent op is
an acquire (R196). -/
def execAtomicReply (t : Nat) (s : State) : Out :=
  match (s.pawn t).reqs.find? fun r => (r.kind.isAtomic || r.kind.isSc) && r.done.isSome && decide (s.leastAge r ≤ r.age) with
  | none => .next s
  | some r =>
    let s := match r.left with
      | some (n, v, w) => s.refreshCopy r.pa n v w
      | none => s
    let s' := s.landReq t r (r.done.getD (0, false)).1 false
    .next (if r.kind.isSc then s'.dropClean else s')

/-- The parts of a key that differ between the ops of one core: B, k, thread and place (R171). -/
def GReq.key (r : GReq) (t : Nat) : List Nat :=
  match r.kind with
  | .sc _ _ _ b w => [b.toNat, w, t, r.seq]
  | _ => []

/-- a < b, part by part. -/
def keyLt : List Nat → List Nat → Bool
  | x :: a, y :: b => decide (x < y) || (decide (x = y) && keyLt a b)
  | _, _ => false

/-- The announced op of least key that is not performed. -/
def leastSc : List (Nat × GReq) → Option (Nat × GReq)
  | [] => none
  | e :: l =>
    match leastSc l with
    | none => some e
    | some f => if keyLt (f.2.key f.1) (e.2.key e.1) then some f else some e

/-- The sequentially consistent ops of the core that are not performed. -/
def State.scOps (s : State) : List (Nat × GReq) :=
  (List.range 16).flatMap fun t => ((s.pawn t).reqs.filter fun r => r.kind.isSc && r.done.isNone).map fun r => (t, r)

/-- The window of the key is closed on the core's die; in deterministic mode the move order governs (R171). -/
def State.windowClosed (s : State) (r : GReq) : Bool :=
  match r.kind with
  | .sc _ _ _ b w => s.core.cfg.det || keyLt [b.toNat, w] [s.die.beat.toNat, s.die.phase / 256]
  | _ => false

/-- An op is performed at its home: a release first writes the dirty lines back (R163, R196). -/
def State.performSc (s : State) (t : Nat) (r : GReq) (fn : Nat) (v c : Word64) : State :=
  let s := s.writeBackAll
  if s.pmBad r.pa 8 then s.badReq t r 8 else
  let old := BitVec.ofNat 64 (s.homeRead r.pa 8)
  let s := match scNew fn old v c with
    | some x => s.homeWrite r.pa 8 x.toNat
    | none => s
  (s.countFill r.pa (some s.core.cfg.cx) false r.alloc).markDone t r.id (old.setWidth 4096) false (s.fillMiss r.pa false r.alloc)

/-- Ops are performed in key order as long as the next one is due: n bounds their number. -/
def State.scRun (s : State) : Nat → State
  | 0 => s
  | n + 1 =>
    match leastSc s.scOps with
    | none => s
    | some (t, r) =>
      match r.kind with
      | .sc fn v c _ _ => if s.windowClosed r && s.reqReady t r then (s.performSc t r fn v c).scRun n else s
      | _ => s

/-- R171: every die has closed a window: sequentially consistent ops are performed in key order. -/
def execScWindowClose (s : State) : Out := .next (s.scRun s.scOps.length)

end Sys2Proof.Machine
end

