-- ==== Sys2Proof/Machine/Order.lean ====
section
/-! DEFINITION. The fences and cross-path fences (07_memory_model R164 to R167) and how a pawn rejoins the rotation (R65,
R147, R165). -/

namespace Sys2Proof.Machine

/-- What a fence needs; on the primary it waits with cause 3 for the acknowledgements of remote stores (R167). -/
def specFence (k : Bool) : OpSpec where
  cls := .c
  k := k
  sync := true
  freeze := fun s => if s.acksOut then [3] else []

/-- A pawn leaves the rotation until the fence of the scope is complete; the primary's has no further effect. -/
def State.fence (s : State) (scope : Nat) : State :=
  match s.ctx.agent with
  | .primary => s
  | .pawn t => s.updPawn t fun p => { p with status := .fencing scope }

/-- R165: release and acquire at core scope. -/
def execFenceCore (k : Bool) (s : State) : Out := issue (specFence k) s fun s => s.fence 0
/-- R165: release and acquire at cluster scope. -/
def execFenceClus (k : Bool) (s : State) : Out := issue (specFence k) s fun s => s.fence 1
/-- R165: release and acquire at die scope. -/
def execFenceDie (k : Bool) (s : State) : Out := issue (specFence k) s fun s => s.fence 2
/-- R165: release and acquire at package scope. -/
def execFencePkg (k : Bool) (s : State) : Out := issue (specFence k) s fun s => s.fence 3
/-- R165: release and acquire at system scope. -/
def execFenceSys (k : Bool) (s : State) : Out := issue (specFence k) s fun s => s.fence 4

/-- R166: a fence at core scope; the thread's later pushes come after it, since it is out of the rotation until then. -/
def execXfenceCore (k : Bool) (s : State) : Out := issue (specFence k) s fun s => s.fence 0
/-- R166: a cross-path fence at cluster scope. -/
def execXfenceClus (k : Bool) (s : State) : Out := issue (specFence k) s fun s => s.fence 1
/-- R166: a cross-path fence at die scope. -/
def execXfenceDie (k : Bool) (s : State) : Out := issue (specFence k) s fun s => s.fence 2
/-- R166: a cross-path fence at package scope. -/
def execXfencePkg (k : Bool) (s : State) : Out := issue (specFence k) s fun s => s.fence 3
/-- R166: a cross-path fence at system scope. -/
def execXfenceSys (k : Bool) (s : State) : Out := issue (specFence k) s fun s => s.fence 4

/-! ### Rejoining -/

/-- The release and acquire actions of a fence on the pawn cache (R163, R165). -/
def State.fenceActions (s : State) (scope : Nat) : State := if scope = 0 then s else s.writeBackAll.dropClean

/-- The thread is back in the rotation with an empty buffer (R147). -/
def State.backIn (s : State) (t : Nat) : State := s.updPawn t fun p => { p with status := .running, buf := [] }

/-- The trap of a guard report (R141): the record goes, and GRDREC clears. -/
def Thread.guardTrap (t : Thread) : TrapRec where
  code := BitVec.ofNat 9 (0x98 + bits t.grdrec.toNat 27 3)
  addr := t.grdrec.setWidth 64
  arg := t.grdWord.setWidth 64
  slot := t.grdSlot

def Thread.clearGuard (t : Thread) : Thread := { t with grdrec := 0, grdHeld := false }

/-- A guard touch waits for its report; one that was pending at trap entry waits for the return (R396). -/
def Thread.guardPending (t : Thread) : Bool := t.grdrec.getLsbD 31 && !(t.grdHeld && decide (t.mode ≠ 0))

/-- The pending event that comes first for a pawn, before a guard report (R259, R396, R398). -/
def Pawn.event (p : Pawn) : Option TrapRec := p.th.mcheck <|> (if p.th.mode = 0 then p.th.flagTrap else none)

/-- A thread rejoins after a switch point; with a guard touch recorded and no event before it, it traps instead (R65, R141, R396). -/
def State.rejoin (s : State) (t : Nat) : State :=
  let p := s.pawn t
  if p.event.isNone && p.th.guardPending then
    (s.pawnTrap t p.th.guardTrap p.pc).updPawn t fun q => { q with th := q.th.clearGuard }
  else s.backIn t

/-- An engine submission of the thread waits for the driver, so that it parks (R178). -/
def State.engParked (s : State) (t : Nat) : Bool :=
  s.core.engQ.toList.any fun q => q.cmds.any fun c => decide (c.byPawn = some t) && (c.fault.isSome || c.failed)

/-- Nothing of the thread is outstanding: R65's condition, with R178's for an eqw. -/
def State.pawnQuiet (s : State) (t : Nat) : Bool := (s.pawn t).quiet && !s.engParked t

/-- R65: a thread that left the rotation comes back, or ends, once nothing of it is outstanding. -/
def execPawnSwitchRejoin (t : Nat) (s : State) : Out :=
  .next (match (s.pawn t).status with
    | .switching => if s.pawnQuiet t then s.rejoin t else s
    | .fencing scope => if s.pawnQuiet t then (s.fenceActions scope).rejoin t else s
    | .exiting => if s.pawnQuiet t then s.updPawn t fun p => { p with status := .exited } else s
    | .waking => s.updPawn t fun p => { p with status := .running }
    | _ => s)

end Sys2Proof.Machine
end

