-- ==== Sys2Proof/Machine/Messages.lean ====
section
/-! DEFINITION. Monitors, mailboxes, message rings, tasks and the row queue (09_pawn_memory R197 to R213, 05_launch R132 to
R135): the instructions of majors 0x3B to 0x3D and their events. -/

namespace Sys2Proof.Machine

/-! ### Monitors (R198 to R200) -/

def Pawn.monitor (p : Pawn) (n : Nat) : Monitor := vget p.mon n ⟨false, false, false, 0, false⟩

def State.setMonitor (s : State) (t n : Nat) (m : Monitor) : State := s.updPawn t fun p => { p with mon := vset p.mon n m }

/-- A value listed once. -/
def distinct (l : List Nat) : List Nat := l.foldr (fun x r => if x ∈ r then r else x :: r) []

/-- Global lines that the core's monitors hold, but for monitor n of thread t (R198). -/
def State.otherLines (s : State) (t n : Nat) : List Nat :=
  (List.range 16).flatMap fun u => (List.range 4).filterMap fun i =>
    let m := (s.pawn u).monitor i
    if m.armed && !m.isLocal && !(decide (u = t) && decide (i = n)) then some m.line else none

/-- A 33rd line (R198). -/
def State.lineTrap (s : State) (n : Nat) (a : Field6) (e : TlbEntry) : Option TrapRec :=
  if 32 < (distinct (e.pa (s.readS a).toNat / 64 :: s.otherLines s.threadNo n)).length then
    some (s.trapAt 0x1BE s.ctx.pc (s.readS a))
  else none

def specMonarm (k : Bool) (a : Field6) : OpSpec where
  cls := .g
  who := .pawn
  k := k
  sync := true
  regs := [srcU .s a]
  checks := [(.lm, fun s => s.gCheck (s.readS a) (s.readS a) 1 false)]

/-- R198: arm monitor n on a global line; it registers with the home slice. -/
def execMonarm (k : Bool) (n : BitVec 2) (a : Field6) (s : State) : Out :=
  issueG (specMonarm k a) (fun s => s.readS a) 3 (fun s e => s.lineTrap n.toNat a e) s fun s =>
    (s.setMonitor s.threadNo n.toNat ⟨true, false, false, s.ctx.pa / 64, false⟩).gSend (.monarm n.toNat) .discard .discard (s.readS a)

def specMonarmLm (k : Bool) (a : Field6) : OpSpec where
  cls := .g
  who := .pawn
  k := k
  sync := true
  regs := [srcU .s a]
  checks := [(.lm, fun s => if (s.readS a).toNat < 0x200000 then none else some (s.lmTrap 1 (s.readS a)))]

/-- R198: arm monitor n on a line of the own local memory. -/
def execMonarmLm (k : Bool) (n : BitVec 2) (a : Field6) (s : State) : Out :=
  issue (specMonarmLm k a) s fun s => s.setMonitor s.threadNo n.toNat ⟨true, false, true, s.key (s.readS a) / 64, true⟩

/-- R200: wait for a hit, mail, a restore or the timeout; the conditions are read at the end of the cycle. -/
def execMonwait (k : Bool) (d b : Field6) (s : State) : Out :=
  issue { cls := .g, who := .pawn, k := k, sync := true, regs := [dstU .s d 1, srcU .s b] } s fun s =>
    let n := (s.readS b).toNat % 2 ^ 32
    s.updPawn s.threadNo fun p => { p with status := .monWait (s.dstS d) (if n = 0 then none else some n) k }

/-- R200: disarm monitor n, or all four. Whether LOCAL in MONST clears with it the spec does not say: the model keeps it (DESIGN CHOICE, log 73). -/
def execMonclr (k : Bool) (n : BitVec 3) (s : State) : Out :=
  issue { cls := .g, who := .pawn, k := k, sync := true } s fun s =>
    s.updPawn s.threadNo fun p =>
      let off := fun (m : Monitor) => { m with armed := false, hit := false }
      { p with mon := if n.toNat < 4 then vset p.mon n.toNat (off (p.monitor n.toNat)) else vmap off p.mon }

/-- A wake condition of a monwait holds. -/
def Pawn.wakes (p : Pawn) : Bool := (p.mon.toList.any fun m => m.armed && m.hit) || p.mboxFull || p.restored

/-- x[D] of a monwait. -/
def Pawn.wakeValue (p : Pawn) (timeout : Bool) : Nat :=
  packElems 1 (p.mon.toList.map fun m => b2n (m.armed && m.hit)) + b2n timeout * 2 ^ 4 + b2n p.mboxFull * 2 ^ 5 + b2n p.restored * 2 ^ 6

/-- How a thread goes on after a wait: at once, or from a switch point. -/
def afterWait (marked : Bool) : PStatus := if marked then .switching else .waking

/-- A value lands in the thread one barrel cycle on. -/
def State.landWait (s : State) (t : Nat) (d : Dst) (v : Nat) : State :=
  ((s.setCtx (agentCtx (.pawn t))).land 1 d v).setCtx s.ctx

/-- A monwait completes: hits and the restore flag clear, and the monitors stay armed. -/
def State.monComplete (s : State) (t : Nat) (d : Dst) (marked timeout : Bool) : State :=
  (s.landWait t d ((s.pawn t).wakeValue timeout)).updPawn t fun p =>
    { p with status := afterWait marked, restored := false, mon := vmap (fun m => { m with hit := false }) p.mon }

/-- The end of a tick for a thread in monitor wait: in a barrel cycle it completes, or its timeout is due; the timeout runs on in every
tick. -/
def State.monStep (s : State) (live : Bool) (t : Nat) : State :=
  match (s.pawn t).status with
  | .monWait d left marked =>
    if live && (s.pawn t).wakes then s.monComplete t d marked (decide (left = some 0))
    else
      match left with
      | none => s
      | some 0 => if live then s.due (agentCtx .primary) (.monwaitTimeout t) else s
      | some (n + 1) => s.updPawn t fun p => { p with status := .monWait d (some n) marked }
  | _ => s

/-- R200: the timeout has expired. -/
def execMonwaitTimeout (t : Nat) (s : State) : Out :=
  .next (match (s.pawn t).status with
    | .monWait d (some 0) marked => s.monComplete t d marked true
    | _ => s)

/-- R198: the home slice acknowledges the line of monitor n. -/
def execMonitorRegisterAck (t n : Nat) (s : State) : Out :=
  .next (match (s.pawn t).reqs.find? fun r => decide (r.kind = .monarm n) with
    | none => s
    | some r =>
      let m := (s.pawn t).monitor n
      let s := s.dropReq t r.id
      if m.armed && !m.isLocal && decide (m.line = r.pa / 64) then s.setMonitor t n { m with acked := true } else s)

/-- R199: a write to a local-memory line, or a slice's notice for a global one, reaches the monitors. -/
def execMonitorHit (loc : Bool) (line : Nat) (s : State) : Out :=
  .next (if loc then s.hitLocal (64 * line) 64 else s.hitGlobal line)

/-! ### Mailboxes (R202, R203) -/

/-- The core that a target word names, when it is one of the launch (R142, R202). -/
def State.targetCore (s : State) (x : Word64) : Option CoreLoc := s.resolveCore (lmSpace x / 2 ^ 21)

/-- The check of an mbput's target. -/
def State.mailCheck (s : State) (x : Word64) : Option TrapRec :=
  let bad := match s.targetCore x with
    | none => true
    | some l => decide (bits x.toNat 4 17 ≠ 0) || decide (s.core.cfg.threads.getD l.coreIdx 0 ≤ bits x.toNat 0 4)
  if bad then some (s.trapAt 0x1A6 s.ctx.pc x) else none

def specMbput (k : Bool) (d a b : Field6) : OpSpec where
  cls := .g
  who := .pawn
  k := k
  sync := true
  regs := [srcU .s d, srcU .s a, dstU .b b 1]
  checks := [(.eng, fun s => s.mailCheck (s.readS a))]

/-- The index of the core that a word names; the own core's when it names none. -/
def State.targetIdx (s : State) (x : Word64) : Nat :=
  match s.targetCore x with
  | some l => l.coreIdx
  | none => s.core.cfg.coreIdx

/-- R202: a deposit for a thread's mailbox. -/
def execMbput (k : Bool) (d a b : Field6) (s : State) : Out :=
  issue (specMbput k d a b) s fun s =>
    s.gSend (.mbput (s.targetIdx (s.readS a)) (bits (s.readS a).toNat 0 4) (s.readS d)) .discard (.b b.toNat) (s.readS a)

/-- An mbget reads and empties the mailbox. -/
def State.mailTake (s : State) (t : Nat) (d : Dst) : State :=
  (s.landWait t d (s.pawn t).mbox.toNat).updPawn t fun p => { p with mboxFull := false }

/-- R203: read the mailbox; the thread waits while it is empty. -/
def execMbget (k : Bool) (d : Field6) (s : State) : Out :=
  issue { cls := .g, who := .pawn, k := k, sync := true, regs := [dstU .s d 1] } s fun s =>
    let t := s.threadNo
    if (s.pawn t).mboxFull then s.mailTake t (s.dstS d)
    else s.updPawn t fun p => { p with status := .mailWait (s.dstS d) k }

/-- A waiting mbget completes in the first later cycle whose start finds the mailbox full. -/
def State.mailStep (s : State) (t : Nat) : State :=
  match (s.pawn t).status with
  | .mailWait d marked =>
    if (s.pawn t).mboxFull then (s.mailTake t d).updPawn t fun p => { p with status := afterWait marked } else s
  | _ => s

/-- A deposit: the first that finds the mailbox empty fills it. -/
def State.deposit (s : State) (t : Nat) (v : Word64) : State × Bool :=
  if (s.pawn t).mboxFull then (s, false) else (s.updPawn t fun p => { p with mbox := v, mboxFull := true }, true)

/-- R203: a deposit of another core arrives; the end of the cycle settles it with the others. `sender` is 16 × the logical index of the
sending core + its thread. -/
def execMailboxDeposit (t sender : Nat) (word : Word64) (s : State) : Out :=
  .next (if t < s.core.cfg.nthreads then s.updCore fun c => { c with mailIn := c.mailIn ++ [(sender, t, word)] } else s)

/-- A list by a key, in the order in which it came where keys are equal. -/
def byKey {α : Type} (f : α → Nat) (l : List α) : List α :=
  l.foldl (fun acc x => (acc.takeWhile fun y => decide (f y ≤ f x)) ++ x :: acc.dropWhile fun y => decide (f y ≤ f x)) []

/-- The deposits of other cores for the cycle whose sender the predicate holds of, by core and then by thread (R203). -/
def State.mailFrom (s : State) (f : Nat → Bool) : State :=
  (byKey (fun x => x.1) (s.core.mailIn.filter fun x => f x.1)).foldl (fun s x => (s.deposit x.2.1 x.2.2).1)
    (s.updCore fun c => { c with mailIn := c.mailIn.filter fun x => !f x.1 })

/-! ### Acknowledgements (R189) -/

/-- The request's kinds whose predicate an acknowledgement lands. -/
def GKind.isAcked : GKind → Bool
  | .mbput _ _ _ => true
  | .ringput _ _ _ => true
  | .callat _ _ _ _ => true
  | _ => false

/-- R189: the acknowledgement of an mbput, ringput or callat returns and its predicate lands. -/
def execAckLanding (t : Nat) (ok : Bool) (s : State) : Out :=
  .next (match (s.pawn t).reqs.find? fun r => r.kind.isAcked && decide (r.done = some (0, ok)) with
    | none => s
    | some r => s.landReq t r 0 ok)

/-- The request has been performed at its target; the acknowledgement is on its way. -/
def State.answer (s : State) (t id : Nat) (ok : Bool) : State :=
  let s := s.markDone t id 0 ok
  s.setWork (s.work ++ [(agentCtx .primary, .ackLanding t ok)])

/-! ### Message rings (R204 to R208) -/

/-- A ring descriptor that is well formed (R204). -/
structure Ring where
  base : Nat
  size : Nat
  head : Nat
  tail : Nat
  used : Nat
  dropped : Nat
deriving DecidableEq, Repr

/-- The descriptor at a key, unless it is malformed. -/
def readRing (m : Memory) (key : Nat) : Option Ring :=
  let w0 := memRead m key 8
  let w1 := memRead m (key + 8) 8
  let w2 := memRead m (key + 16) 8
  let w3 := memRead m (key + 24) 8
  let r : Ring := ⟨bits w0 0 21, bits w0 32 21, w1, w2, bits w3 0 21, bits w3 32 32⟩
  if bits w0 21 11 ≠ 0 ∨ bits w0 53 11 ≠ 0 ∨ bits w3 21 11 ≠ 0 ∨ 0x1F0000 < r.base + r.size ∨ w1 % 8 ≠ 0 ∨ w2 % 8 ≠ 0 ∨ r.used % 8 ≠ 0 ∨ r.size ≤ w1 ∨ r.size ≤ w2 ∨
      r.size < r.used then none
  else some r

/-- The key of offset 0 of the core that holds a key. -/
def coreBase (key : Nat) : Nat := key / 2 ^ 21 * 2 ^ 21

/-- A write of the ring unit: what would fall in words 0 to 15 of the constant window is not written (R20, R138). -/
def State.ringWrite (s : State) (key n v : Nat) : State :=
  let skip := min n (0x80 - key % 2 ^ 21)
  if skip = n then s else (s.lmWrite (key + skip) (n - skip) (v / 256 ^ skip)).staleLocal (key + skip) (n - skip)

/-- Write one word of the descriptor where it changes. -/
def State.ringWord (s : State) (key v : Nat) : State := if memRead s.lm key 8 = v then s else s.ringWrite key 8 v

/-- HEAD, TAIL, USED and OVERFLOW after an operation. -/
def State.writeRing (s : State) (key : Nat) (r : Ring) : State :=
  ((s.ringWord (key + 8) r.head).ringWord (key + 16) r.tail).ringWord (key + 24) (r.used + r.dropped * 2 ^ 32)

/-- A record is written at a ring offset: header, then payload (R205). -/
def State.writeRecord (s : State) (at_ header len payload : Nat) : State :=
  let s := s.ringWrite at_ 8 header
  if len = 0 then s else s.ringWrite (at_ + 8) len payload

/-- R206's operation: whether the message is accepted. -/
def State.ringPut (s : State) (key : Nat) (r : Ring) (header len payload : Nat) : State × Bool :=
  let m := 8 + len
  let free := r.size - r.used
  let tail := r.size - r.tail
  let area := coreBase key + r.base
  if m ≤ tail ∧ m ≤ free then
    ((s.writeRecord (area + r.tail) header len payload).writeRing key { r with tail := (r.tail + m) % r.size, used := r.used + m }, true)
  else if tail < m ∧ tail + m ≤ free then
    let s := s.ringWrite (area + r.tail) 8 (tail - 8 + 2 ^ 16)
    ((s.writeRecord area header len payload).writeRing key { r with tail := m, used := r.used + tail + m }, true)
  else (s.writeRing key { r with dropped := (r.dropped + 1) % 2 ^ 32 }, false)

/-- Pads at the head are passed over: a pad runs to the end, so two steps reach a record or an empty ring. -/
def skipPads (m : Memory) (area : Nat) : Nat → Ring → Ring
  | 0, r => r
  | n + 1, r =>
    if 0 < r.used ∧ bit (memRead m (area + r.head) 8) 16 then
      skipPads m area n { r with used := r.used - (r.size - r.head), head := 0 }
    else r

/-- R207's operation: x[D] and the predicate. -/
def State.ringGet (s : State) (key : Nat) (r : Ring) (dst cap : Nat) : State × Nat × Bool :=
  let area := coreBase key + r.base
  let r := skipPads s.lm area 2 r
  let h := memRead s.lm (area + r.head) 8
  let len := bits h 0 16
  if r.used = 0 then (s.writeRing key r, 0, false)
  else if cap < len then (s.writeRing key r, h, false)
  else
    let s := if len = 0 then s else (s.lmWrite dst len (memRead s.lm (area + r.head + 8) len)).staleLocal dst len
    (s.writeRing key { r with head := (r.head + 8 + len) % r.size, used := r.used - (8 + len) }, h, true)

/-- The class-6 causes of a ring op (R206, R207, R212). -/
def State.ringTrap (s : State) (sub : Nat) (x : Word64) : TrapRec := s.trapAt (0x186 + 8 * sub) s.ctx.pc x

/-- The descriptor as the op names it: by LM space address for ringput, by offset for ringget. -/
def State.ringKey (s : State) (put : Bool) (x : Word64) : Option Nat :=
  let off := if put then lmOffset x else x.toNat
  if off % 32 ≠ 0 ∨ 0x200000 ≤ off then none
  else if put then (s.targetCore x).map fun l => l.base + off
  else some (s.core.lmBase + off)

/-- The checks of a ring op; the descriptor is read as it stands at issue. -/
def State.ringCheck (s : State) (put : Bool) (x w : Word64) : Option TrapRec :=
  let off := bits w.toNat 0 21
  let len := bits w.toNat 32 16
  match s.ringKey put x with
  | none => some (s.ringTrap 4 x)
  | some key =>
    if off % 8 ≠ 0 || (put && (decide (len % 8 ≠ 0) || decide (4088 < len) || decide (bits w.toNat 21 11 ≠ 0) ||
        decide (bits w.toNat 48 16 ≠ 0))) then some (s.ringTrap 5 x)
    else
      (if len = 0 then none else s.lmCheck (BitVec.ofNat 64 off) len 8 (!put)) <|>
        (if (readRing s.lm key).isNone then some (s.ringTrap 5 x) else none)

def specRing (k put : Bool) (d a b : Field6) : OpSpec where
  cls := .g
  who := .pawn
  k := k
  sync := true
  regs := if put then [srcU .s d, srcU .s a, dstU .b b 1] else [srcU .s d, dstU .s d 1, srcU .s a, dstU .b b 1]
  checks := [(.eng, fun s => s.ringCheck put (s.readS a) (s.readS d))]
  spans := fun s => [lmSpan (s.core.lmBase + bits (s.readS d).toNat 0 21) (bits (s.readS d).toNat 32 16) (!put)]

/-- R206: send a message to a ring. -/
def execRingput (k : Bool) (d a b : Field6) (s : State) : Out :=
  issue (specRing k true d a b) s fun s =>
    let w := (s.readS d).toNat
    let s := s.touch [bits w 0 21] (bits w 32 16) false
    s.gSend (.ringput ((s.ringKey true (s.readS a)).getD 0) (s.core.lmBase + bits w 0 21) (bits w 32 16)) .discard (.b b.toNat) (s.readS a)

/-- R207: receive from a ring of the own core. -/
def execRingget (k : Bool) (d a b : Field6) (s : State) : Out :=
  issue (specRing k false d a b) s fun s =>
    let w := (s.readS d).toNat
    let s := s.touch [bits w 0 21] (bits w 32 16) false
    s.gSend (.ringget ((s.ringKey false (s.readS a)).getD 0) (s.core.lmBase + bits w 0 21) (bits w 32 16)) (s.dstS d) (.b b.toNat) (s.readS a)

/-- The header of a thread's next message (R205). -/
def State.ringHeader (s : State) (t len : Nat) : Nat :=
  len + t * 2 ^ 20 + s.core.cfg.coreIdx % 65536 * 2 ^ 24 + (s.pawn t).msgSeq.toNat * 2 ^ 40

/-- An operation that finds its descriptor malformed changes nothing, and its thread traps at the op (R204, R212, R394): the descriptor
has been written since the op issued, and what the thread has issued since stands (log 41). Whatever the thread waits for since, and a later trap of
its own, gives way to the trap of the earlier op; a thread that a debug halt parks takes it when it goes on. -/
def State.ringBroken (s : State) (t : Nat) (r : GReq) : State := (s.dropReq t r.id).pawnTrap t ⟨0x1AE, r.pc, r.va, 15⟩ r.pc

/-- The bank words of a run of bytes; none of an empty run. -/
def runWords (key len : Nat) : List Nat := if len = 0 then [] else bankWords [key] len

/-- The bank words that a message of len bytes is written to: the pad header at the end of the area where the record starts over at BASE, and the record;
none where it is dropped (R206). -/
def putWords (desc : Nat) (g : Ring) (len : Nat) : List Nat :=
  let area := coreBase desc + g.base
  let tail := g.size - g.tail
  let free := g.size - g.used
  if 8 + len ≤ tail ∧ 8 + len ≤ free then runWords (area + g.tail) (8 + len)
  else if tail < 8 + len ∧ tail + (8 + len) ≤ free then runWords (area + g.tail) 8 ++ runWords area (8 + len)
  else []

/-- Of a receive: the headers that it reads, and whether it takes a record, with the offset and the length (R207). -/
def ringTakes (m : Memory) (desc : Nat) (g : Ring) (cap : Nat) : List Nat × Option (Nat × Nat) :=
  let area := coreBase desc + g.base
  let g2 := skipPads m area 2 g
  let heads := (List.range 3).flatMap fun i => let x := skipPads m area i g; if x.used = 0 then [] else runWords (area + x.head) 8
  let len := bits (memRead m (area + g2.head) 8) 0 16
  (heads, if g2.used = 0 ∨ cap < len then none else some (area + g2.head + 8, len))

/-- The bank words that a ring operation reads: the descriptor, and the message to send or to receive. -/
def State.ringReads (s : State) (k : GKind) : List Nat :=
  match k with
  | .ringput desc src len => bankWords [desc] 32 ++ runWords src len
  | .ringget desc _ cap => bankWords [desc] 32 ++
    match readRing s.lm desc with
    | none => []
    | some g =>
      let x := ringTakes s.lm desc g cap
      x.1 ++ match x.2 with
        | some (a, len) => runWords a len
        | none => []
  | _ => []

/-- The bank words that a ring operation serves: it is performed in a tick in which rank 3 has their banks (R208). -/
def State.ringServes (s : State) (k : GKind) : List Nat :=
  s.ringReads k ++
    match k with
    | .ringput desc _ len => match readRing s.lm desc with
      | none => []
      | some g => putWords desc g len
    | .ringget desc dst cap => match readRing s.lm desc with
      | none => []
      | some g => match (ringTakes s.lm desc g cap).2 with
        | some (_, len) => runWords dst len
        | none => []
    | _ => []

/-- A ring operation is performed. A ringput is a release at package scope, an accepted ringget an acquire. One that reads a bad word changes nothing, and
its thread takes the machine check (R415). -/
def State.performRing (s : State) (t : Nat) (r : GReq) : State :=
  if s.lmBad (s.ringReads r.kind) then (((s.setCtx (agentCtx (.pawn t))).useLm 0x1DE (s.ringReads r.kind)).setCtx s.ctx).dropReq t r.id else
  match r.kind with
  | .ringput desc src len =>
    match readRing s.lm desc with
    | none => s.ringBroken t r
    | some g =>
      let s := s.writeBackAll
      let x := s.ringPut desc g (s.ringHeader t len) len (memRead s.lm src len)
      let s := x.1.answer t r.id x.2
      if x.2 then s.updPawn t fun p => { p with msgSeq := p.msgSeq + 1 } else s
  | .ringget desc dst cap =>
    match readRing s.lm desc with
    | none => s.ringBroken t r
    | some g =>
      let x := s.ringGet desc g dst cap
      let s := x.1.landReq t r (BitVec.ofNat 4096 x.2.1) x.2.2
      if x.2.2 then s.dropClean else s
  | _ => s

def GKind.isRing : GKind → Bool
  | .ringput _ _ _ => true
  | .ringget _ _ _ => true
  | _ => false

/-- The ring that an operation is on. -/
def GKind.ringDesc : GKind → Option Nat
  | .ringput desc _ _ => some desc
  | .ringget desc _ _ => some desc
  | _ => none

/-- A place in the order of a tick: the rank, and two places within it (R68). The ranks of R68 are 2 and 3; 4 stands for ring operations, and 5, 6 and 7
for the local pawns, the remote pawns and the fetches of its rank 4. -/
def placeOf (rank sub seq : Nat) : Nat := rank * 2 ^ 80 + sub * 2 ^ 24 + seq

/-- The place of a ring operation: the one that has arrived first, and of one tick by the issuer's core and thread (R208). -/
def ringPlace (waited core thread : Nat) : Nat := placeOf 4 (2 ^ 40 - 1 - waited) (16 * core + thread)

/-- A ring operation of another core on a descriptor, with its place. -/
def PeerAct.ringAt : PeerAct → Option (Nat × Nat)
  | .ringput age desc header _ _ => some (desc, ringPlace age (bits header 24 16) (bits header 20 4))
  | _ => none

/-- An operation on a descriptor that has arrived before the one at a place has still to be performed (R208). -/
def State.ringAhead (s : State) (desc place : Nat) : Bool :=
  (s.core.peers.any fun a => match a.ringAt with
    | some x => decide (x.1 = desc) && decide (x.2 < place)
    | none => false) ||
    (List.range 16).any fun t => (s.pawn t).reqs.any fun q =>
      decide (q.kind.ringDesc = some desc) && decide (0 < q.waited) && decide (ringPlace q.waited s.core.cfg.coreIdx t < place)

/-- The operation has asked for its banks in vain: it has arrived, and waits; the refusal counts for the tick (R72). -/
def State.ringWaits (s : State) (t : Nat) (r : GReq) : State :=
  (s.bump 5 1).updPawn t fun p => { p with reqs := p.reqs.map fun q => if q.id = r.id then { q with waited := q.waited + 1 } else q }

/-- R208: the ring unit performs one operation that has arrived, in a tick in which its banks are free, after those on its ring that have arrived
before. -/
def execRingOperation (t : Nat) (s : State) : Out :=
  .next (match s.firstReq t fun r => r.kind.isRing with
    | none => s
    | some r =>
      let ws := s.ringServes r.kind
      if ws.all s.wordFree && !s.ringAhead (r.kind.ringDesc.getD 0) (ringPlace r.waited s.core.cfg.coreIdx t) then (s.takeWords ws).performRing t r
      else s.ringWaits t r)

/-! ### Tasks (R132, R133, R209, R210) -/

/-- The check of a callat's target and entry (R209). -/
def State.taskCheck (s : State) (x : Word64) : Option TrapRec :=
  if bits x.toNat 32 32 ≠ 0 || (s.targetCore x).isNone || lmOffset x % 4 ≠ 0 || decide (0x1F0000 ≤ lmOffset x) then
    some (s.trapAt 0x1B6 s.ctx.pc x)
  else none

def specCallat (k : Bool) (d a b : Field6) : OpSpec where
  cls := .g
  who := .pawn
  k := k
  sync := true
  regs := [dstU .b d 1, srcU .s a, srcU .s b]
  checks := [(.enc, fun s => if s.isPawn && decide (s.core.cfg.cap ≤ b.toNat + 2) then some (s.encTrap 3) else none),
    (.eng, fun s => s.taskCheck (s.readS a))]

/-- R209: append an entry to a core's task queue. -/
def execCallat (k : Bool) (d a b : Field6) (s : State) : Out :=
  issue (specCallat k d a b) s fun s =>
    let x := s.readS a
    s.gSend (.callat (s.targetIdx x) ((BitVec.ofNat 21 (lmOffset x))) (bit x.toNat 31) [s.readS b, s.readS (b + 1), s.readS (b + 2)])
      .discard (.b d.toNat) x

/-- An entry joins the queue of 64, or is refused (R132). -/
def State.addTask (s : State) (e : Task) : State × Bool :=
  if s.core.tasks.length < 64 then (s.updCore fun c => { c with tasks := c.tasks ++ [e] }, true) else (s, false)

/-- R132: an entry of another core arrives; the end of the cycle settles it with the others of the tick. `issuer` is 16 × the logical index of the
issuing core + its thread. -/
def execTaskEntryArrival (entry : BitVec 21) (arg0 arg1 arg2 : Word64) (issuer : Nat) (anywhere : Bool) (s : State) : Out :=
  .next (s.updCore fun c => { c with
    taskIn := c.taskIn ++ [(issuer, ⟨entry, [arg0, arg1, arg2], issuer / 16, anywhere, c.barrelCycle⟩)] })

/-- The entries of other cores for the tick whose sender the predicate holds of, by core and then by thread (R132). -/
def State.tasksFrom (s : State) (f : Nat → Bool) : State :=
  (byKey (fun x => x.1) (s.core.taskIn.filter fun x => f x.1)).foldl (fun s x => (s.addTask x.2).1)
    (s.updCore fun c => { c with taskIn := c.taskIn.filter fun x => !f x.1 })

/-- R210: wait for a task entry. -/
def execTwait (k : Bool) (s : State) : Out :=
  issue { cls := .g, who := .pawn, k := k, sync := true } s fun s =>
    s.updPawn s.threadNo fun p => { p with status := .taskWait s.core.barrelCycle k }

/-- A thread takes an entry: an acquire at package scope; its registers are written one barrel cycle on (R210). -/
def State.takeTask (s : State) (t : Nat) (e : Task) (marked : Bool) : State :=
  let link := (s.pawn t).pc.toNat
  let s := (((s.landWait t (.s 4) (e.args.getD 0 0).toNat).landWait t (.s 5) (e.args.getD 1 0).toNat).landWait t (.s 6)
    (e.args.getD 2 0).toNat).landWait t (.s 7) (e.issuer + b2n e.anywhere * 2 ^ 63)
  (s.landWait t (.s 1) link).dropClean.updPawn t fun p =>
    { p with pc := e.entry.setWidth 64, buf := [], status := afterWait marked }

/-- The thread in task wait that comes first (R133). -/
def State.taskWaiter (s : State) : Option (Nat × Nat × Bool) :=
  (List.range 16).foldl (fun best t => match (s.pawn t).status with
    | .taskWait since marked =>
      match best with
      | none => some (t, since, marked)
      | some b => if since < b.2.1 then some (t, since, marked) else best
    | _ => best) none

/-- Entries of earlier cycles go to the waiting threads (R133); n bounds their number. -/
def State.taskStep (s : State) : Nat → State
  | 0 => s
  | n + 1 =>
    match s.core.tasks, s.taskWaiter with
    | e :: rest, some w =>
      if e.cycle < s.core.barrelCycle then
        ((s.updCore fun c => { c with tasks := rest }).takeTask w.1 e w.2.2).taskStep n
      else s
    | _, _ => s

/-! ### Load levelling (R134) -/

/-- A queue without the entries that move: of its four youngest ANYWHERE entries, which arrive in their order, the first k find room (R134). -/
def levelSplit (k : Nat) (l : List Task) : List Task :=
  let may := (l.zipIdx.filter fun x => x.1.anywhere).map fun x => x.2
  let go := (may.drop (may.length - 4)).take k
  (l.zipIdx.filter fun x => x.2 ∉ go).map fun x => x.1

/-- R134: at every 1,024th cycle, a core whose queue is deeper by 8 than that of a neighbour moves up to 4 entries; those that the neighbour
has no room for when they arrive stay. The depth of the neighbour, which is another core, and the room it has are free values. -/
def execLoadLevelling (s : State) : Out :=
  let c := s.core.cfg
  let n := Config.freeChoice s.free % 65
  let taken := Config.freeChoice (s.free + 1) % 65
  .next (if c.running && !c.det && s.feature 6 && decide (c.cycle % 1024 = 0) then
    if n + 8 ≤ s.core.tasks.length then
      (s.updCore fun k => { k with tasks := levelSplit taken k.tasks }).bumpFree.bumpFree
    else s.bumpFree.bumpFree
  else s)

/-! ### The row queue (R135, R211) -/

/-- rqclm needs feature bit 5 (R137). -/
def specRqclm (k : Bool) (d b : Field6) : OpSpec where
  cls := .g
  who := .pawn
  k := k
  sync := true
  regs := [dstU .s d 1, dstU .b b 1]
  checks := [(.enc, fun s => if s.feature 5 then none else some (s.encTrap 0))]

/-- R211: claim the oldest entry of the die's row queue. -/
def execRqclm (k : Bool) (d b : Field6) (s : State) : Out :=
  issue (specRqclm k d b) s fun s => s.gSend .rqclm (s.dstS d) (.b b.toNat) 0

/-- The entries of a queue without the first that its context posted, and that one (R376). -/
def takeRow (cx : Nat) : List (Nat × Word64) → Option Word64 × List (Nat × Word64)
  | [] => (none, [])
  | e :: l =>
    if e.1 = cx then (some e.2, l)
    else
      let r := takeRow cx l
      (r.1, e :: r.2)

/-- R135, R376: the oldest entry of the thread's own context is removed whole, and the reply lands. -/
def execRowClaimReply (t : Nat) (s : State) : Out :=
  .next (match s.firstReq t fun r => decide (r.kind = .rqclm) with
    | none => s
    | some r =>
      match takeRow s.core.cfg.cx s.die.rowq with
      | (none, _) => s.landReq t r 0 false
      | (some v, rest) => (s.updDie fun d => { d with rowq := rest }).landReq t r (v.setWidth 4096) true)

/-! ### Requests to the own core, and to others -/

/-- A request that is neither memory nor ring: a deposit, a task entry. For another core the answer is a free value. -/
def State.performMsg (s : State) (t : Nat) (r : GReq) : State :=
  match r.kind with
  | .mbput core thread v =>
    if core = s.core.cfg.coreIdx then
      let x := s.deposit thread v
      x.1.answer t r.id x.2
    else s.bumpFree.answer t r.id (decide (Config.freeChoice s.free % 2 = 1))
  | .callat core entry any args =>
    let s := s.writeBackAll
    if core = s.core.cfg.coreIdx then
      let x := s.addTask ⟨entry, args, core, any, s.core.barrelCycle⟩
      x.1.answer t r.id x.2
    else s.bumpFree.answer t r.id (decide (Config.freeChoice s.free % 2 = 1))
  | _ => s

def GKind.isMsg : GKind → Bool
  | .mbput _ _ _ => true
  | .callat _ _ _ _ => true
  | _ => false

/-- The first deposit or task entry of the thread that may go. -/
def State.msgStep (s : State) (t : Nat) : State :=
  match s.firstReq t fun r => r.kind.isMsg with
  | none => s
  | some r => s.performMsg t r

end Sys2Proof.Machine
end

