-- ==== Sys2Proof/Machine/Trace.lean ====
section
/-! DEFINITION. The trace unit of the cluster (30_debug R425). -/

namespace Sys2Proof.Machine

/-! ### Trace records -/

/-- The unit records events of a sort: EN and the sort's bit of TRCTL. -/
def State.tracing (s : State) (b : Nat) : Bool := bit (s.dbg 0x88) 5 && bit (s.dbg 0x88) b

/-- Records that the ring holds. -/
def State.traceSize (s : State) : Nat := 2 ^ (min (bits (s.dbg 0x88) 0 5) 21 + 7)

/-- A record can be written: the ring wraps, or has room. -/
def State.traceRoom (s : State) : Bool := bit (s.dbg 0x88) 6 || decide (bits (s.dbg 0x90) 0 32 < s.traceSize)

/-- One record of a core of the cluster goes to the ring, at TAIL. Which thread number a record of the primary holds is a free value. One in a fenced
range is lost, with the machine check of the context (R419). -/
def State.traceWrite (s : State) (core kind : Nat) (thread : Option Nat) (payload : Nat) : State :=
  let n := s.traceSize
  let tail := bits (s.dbg 0x90) 0 32
  let th := thread.getD (Config.freeChoice s.free % 16)
  let w := kind + core * 2 ^ 4 + th * 2 ^ 7 + s.die.tick.toNat * 2 ^ 64 + s.die.beat.toNat * 2 ^ 128 + payload * 2 ^ 192
  let a := s.dbg 0x80 / 4096 * 4096 + 32 * (tail % n)
  let s := if s.rangeFenced a 32 then (s.bumpFree.pmError s.core.cfg.cx a).ctxCheck s.core.cfg.cx else s.bumpFree.homeWriteRun a 32 w
  let tail := if bit (s.dbg 0x88) 6 then (tail + 1) % n else tail + 1
  s.setDevReg (s.dbgOff 0x90) (setBits (s.dbg 0x90) 0 32 tail)

/-- A record is written where the ring has room, and lost where it is full. -/
def State.tracePut (s : State) (core kind : Nat) (thread : Option Nat) (payload : Nat) : State :=
  if s.traceRoom then s.traceWrite core kind thread payload
  else
    (s.setDevReg (s.dbgOff 0x90) (setBits (s.dbg 0x90) 32 32 (min (bits (s.dbg 0x90) 32 32 + 1) (2 ^ 32 - 1)))).updCore fun c =>
      { c with trLost := c.trLost + 1 }

/-- A record, after the one of KIND 7 that tells of those lost before it. -/
def State.traceRecOf (s : State) (core kind : Nat) (thread : Option Nat) (payload : Nat) : State :=
  let s := if s.traceRoom && decide (s.core.trLost ≠ 0) then
      (s.traceWrite core 7 thread (s.core.trLost % 2 ^ 32)).updCore fun c => { c with trLost := 0 }
    else s
  s.tracePut core kind thread payload

/-- A record of the modelled core. -/
def State.traceRec (s : State) (kind : Nat) (thread : Option Nat) (payload : Nat) : State :=
  let u := s.traceRecOf s.core.cfg.coreInClus kind thread payload
  if s.traceRoom then u.updCore fun c => { c with trIssued := vget c.cnt 0 0 } else u

/-- A taken transfer or loop wrap of the primary, with the bundles issued since the core's previous record. -/
def State.traceJump (s : State) (source target : Nat) : State :=
  if s.tracing 7 then
    s.traceRec 1 none (source % 2 ^ 21 + target % 2 ^ 21 * 2 ^ 21 +
      min ((vget s.core.cnt 0 0).toNat - s.core.trIssued.toNat) (2 ^ 22 - 1) * 2 ^ 42)
  else s

/-- Trap entry of a thread. -/
def State.traceTrap (s : State) (thread : Option Nat) (t : Thread) : State :=
  if s.tracing 7 then s.traceRec 2 thread (bits t.tcause.toNat 0 9 + t.tpc.toNat * 2 ^ 9) else s

/-- The return of a thread. -/
def State.traceReturn (s : State) (thread : Option Nat) (pc : Word64) : State :=
  if s.tracing 7 then s.traceRec 3 thread (pc.toNat % 2 ^ 21) else s

/-- A pawn op of the cluster: every 2^SAMPLE-th is recorded. -/
def State.traceOp (s : State) (core t : Nat) (word : Word32) (pc : Word64) : State :=
  if s.tracing 13 then
    let n := s.core.trOps + 1
    let s := s.updCore fun c => { c with trOps := n }
    if n % 2 ^ bits (s.dbg 0x88) 9 4 ≠ 0 then s
    else
      let v := word.toNat + pc.toNat % 2 ^ 21 * 2 ^ 32
      if core = s.core.cfg.coreInClus then s.traceRec 4 (some t) v else s.traceRecOf core 4 (some t) v
  else s

/-- A pawn op of the modelled core. -/
def State.traceSample (s : State) (t : Nat) (word : Word32) (pc : Word64) : State := s.traceOp s.core.cfg.coreInClus t word pc

/-- An event of another core of the cluster. -/
def State.tracePeer (s : State) (core kind : Nat) (thread : Option Nat) (payload : Nat) : State :=
  if s.tracing (if kind < 4 then 7 else 8) then s.traceRecOf core kind thread payload else s

/-- An engine submission or completion. -/
def State.traceEngine (s : State) (kind : Nat) (thread : Option Nat) (tag op queue status : Nat) : State :=
  if s.tracing 8 then s.traceRec kind thread (tag % 2 ^ 16 + op * 2 ^ 16 + queue * 2 ^ 20 + status * 2 ^ 22) else s

end Sys2Proof.Machine
end

