-- ==== Sys2Proof/Machine/Engines.lean ====
section
/-! DEFINITION. The engine queue registers and the engines (08_engines R172 to R184, 11_network R240): the instructions eqw,
eqr and eqcnt, the checks of a submission, range locks and pins, the copy channels' commands word by word, the collective
engine, completion and records. A started command has left its command side. -/

namespace Sys2Proof.Machine

/-! ### Fields of a command (R174, R175, R182) -/

/-- Word i of a command. -/
def wd (w : List Word64) (i : Nat) : Nat := (w.getD i 0).toNat
def cmdOp (w : List Word64) : Nat := bits (wd w 0) 0 4
def cmdSlm (w : List Word64) : Bool := bit (wd w 0) 4
def cmdDlm (w : List Word64) : Bool := bit (wd w 0) 5
def cmdWpadv (w : List Word64) : Bool := bit (wd w 0) 8
def cmdRec (w : List Word64) : Bool := bit (wd w 0) 9
def cmdTag (w : List Word64) : Nat := bits (wd w 0) 16 16

/-- Words of a command, by its register and OP (R173). -/
def cmdLen (e : Nat) (w : List Word64) : Nat :=
  let op := cmdOp w
  if e = 2 then (if op ≤ 3 then 8 else 1)
  else if op = 0 ∨ op = 5 ∨ op = 6 then 4
  else if op ≤ 4 then 8
  else 1

/-- A side of a copy command: its source, its data destination, and the scale destination or index list. -/
inductive Side where
  | src | dst | aux
deriving DecidableEq, Repr

/-- The word that holds a side's address, when the command has the side. -/
def sideWord (op : Nat) : Side → Option Nat
  | .src => if op = 5 ∨ op = 6 then none else some 1
  | .dst => if op = 5 ∨ op = 6 then some 1 else some 2
  | .aux => if op = 2 ∨ op = 3 ∨ op = 4 then some 3 else none

/-- The side lies in local memory. -/
def sideLm (w : List Word64) : Side → Bool
  | .src => cmdSlm w
  | .dst => cmdDlm w
  | .aux => true

/-- The bits that word i of a command may hold (R175). -/
def wordMask (op i : Nat) : Nat :=
  let all := 2 ^ 64 - 1
  let m : List Nat := match op with
    | 0 => [all, all, 2 ^ 24 - 1]
    | 1 => [all, all, 2 ^ 48 - 1, all, all]
    | 2 => [all, all, all, 2 ^ 28 - 1]
    | 3 => [all, all, all, 2 ^ 48 - 1, all]
    | 4 => [all, all, all, 2 ^ 48 - 1, all]
    | 5 => [all, all, 2 ^ 24 - 1]
    | _ => [all]
  m.getD (i - 1) 0

/-- The header of a copy command is as R174 and R175 ask: the source of a scatter is local; of a gather DLM says whether the destination is (log 68). -/
def cmdHeaderOk (w : List Word64) : Bool :=
  let op := cmdOp w
  decide (wd w 0 &&& 0xFFFFFFFF0000FCC0 = 0) && decide (op ≤ 6) && (!cmdWpadv w || cmdDlm w) &&
    match op with
    | 2 => cmdDlm w && !cmdSlm w
    | 3 => !cmdSlm w
    | 4 => cmdSlm w && !cmdDlm w
    | 5 => !cmdSlm w
    | 6 => !cmdSlm w && cmdDlm w && !cmdWpadv w
    | _ => true

/-- An address word has no bits beyond its space and is a multiple of 8. -/
def addrOk (w : List Word64) (sd : Side) : Bool :=
  match sideWord (cmdOp w) sd with
  | none => true
  | some i =>
    let lm := if sd = .dst ∧ cmdOp w = 5 then cmdDlm w else sideLm w sd
    decide (wd w i % 8 = 0) && decide (if lm then wd w i < 2 ^ 31 else wd w i < 2 ^ 56)

/-- Lengths, counts and strides are within their limits. -/
def countsOk (w : List Word64) : Bool :=
  match cmdOp w with
  | 0 => decide (bits (wd w 3) 0 24 % 8 = 0) && decide (8 ≤ bits (wd w 3) 0 24)
  | 1 => decide (bits (wd w 3) 0 24 % 8 = 0) && decide (1 ≤ bits (wd w 3) 24 24) && decide (wd w 4 % 8 = 0) && decide (wd w 5 % 8 = 0)
  | 2 => decide (1 ≤ bits (wd w 4) 0 24) && decide (2 ≤ bits (wd w 4) 24 4) && decide (bits (wd w 4) 24 4 ≤ 8)
  | 3 => decide (bits (wd w 4) 24 24 % 8 = 0) && decide (wd w 5 % 8 = 0)
  | 4 => decide (bits (wd w 4) 24 24 % 8 = 0) && decide (wd w 5 % 8 = 0)
  | 5 => decide (bits (wd w 3) 0 24 % 8 = 0)
  | _ => true

/-- Check 1 of R177 for a copy channel, but for the spans of computed addresses. -/
def copyFieldsOk (w : List Word64) : Bool :=
  cmdHeaderOk w && ((List.range 7).all fun i => decide (wd w (i + 1) &&& wordMask (cmdOp w) (i + 1) = wd w (i + 1))) &&
    addrOk w .src && addrOk w .dst && addrOk w .aux && countsOk w

/-! ### Geometry -/

/-- A stride as a signed number. -/
def strideOf (x : Nat) : Int := signedOf 64 x

/-- The span of n rows of a length: first byte, and one past the last, from the base; empty without a byte. -/
def hull (n : Nat) (stride : Int) (len : Nat) : Int × Int :=
  if n = 0 ∨ len = 0 then (0, 0) else (min 0 ((n - 1 : Nat) * stride), max 0 ((n - 1 : Nat) * stride) + len)

/-- The span of indexed rows. -/
def indexHull (idx : List Nat) (stride : Int) (len : Nat) : Int × Int :=
  match idx with
  | [] => (0, 0)
  | i :: l =>
    if len = 0 then (0, 0)
    else l.foldl (fun h (j : Nat) => (min h.1 (j * stride), max h.2 (j * stride + len))) (i * stride, i * stride + len)

/-- Rows and bytes of a row of a gather or scatter. -/
def gRows (w : List Word64) : Nat := bits (wd w 4) 0 24
def gBytes (w : List Word64) : Nat := bits (wd w 4) 24 24

/-- The span of a side of a copy command, from its base (R176, R180). -/
def sideSpan (w : List Word64) (idx : List Nat) (sd : Side) : Int × Int :=
  let bytes := bits (wd w 3) 0 24
  let units := bits (wd w 4) 0 24
  let wb := bits (wd w 4) 24 4
  let packed : Int × Int := (0, (gRows w * gBytes w : Nat))
  let index : Int × Int := (0, if gBytes w = 0 then 0 else (4 * gRows w : Nat))
  match cmdOp w, sd with
  | 0, .src => (0, bytes)
  | 0, .dst => (0, bytes)
  | 1, .src => hull (bits (wd w 3) 24 24) (strideOf (wd w 4)) bytes
  | 1, .dst => hull (bits (wd w 3) 24 24) (strideOf (wd w 5)) bytes
  | 2, .src => (0, (units * (8 + 32 * wb) : Nat))
  | 2, .dst => (0, (units * (32 * wb) : Nat))
  | 2, .aux => (0, (8 * units : Nat))
  | 3, .src => indexHull idx (strideOf (wd w 5)) (gBytes w)
  | 3, .dst => packed
  | 3, .aux => index
  | 4, .src => packed
  | 4, .dst => indexHull idx (strideOf (wd w 5)) (gBytes w)
  | 4, .aux => index
  | 5, .dst => (0, bytes)
  | _, _ => (0, 0)

/-- A side is written by the engine. -/
def sideWritten (op : Nat) (sd : Side) : Bool := decide (sd = .dst) || (decide (sd = .aux) && decide (op = 2))

/-! ### Check 2 of R177 and the spans -/

/-- The core that a side's local-memory address names, and the offset. -/
def State.sideCore (s : State) (w : List Word64) (sd : Side) : Option (CoreLoc × Nat) :=
  match sideWord (cmdOp w) sd with
  | none => none
  | some i => (s.resolveCore (bits (wd w i) 21 10)).map fun l => (l, bits (wd w i) 0 21)

/-- A local-memory side names a core of the launch and stays within its limits. -/
def State.sideOk (s : State) (w : List Word64) (idx : List Nat) (sd : Side) : Bool :=
  if (sideWord (cmdOp w) sd).isNone || !sideLm w sd then true
  else
    match s.sideCore w sd with
    | none => false
    | some (_, off) =>
      let h := sideSpan w idx sd
      decide (0 ≤ off + h.1) && decide (off + h.2 ≤ 0x200000) &&
        (!sideWritten (cmdOp w) sd || decide (h.2 ≤ h.1) || (decide (0x80 ≤ off + h.1) && decide (off + h.2 ≤ 0x1F0000)))

/-- The key of a local-memory side's base. -/
def State.sideKey (s : State) (w : List Word64) (sd : Side) : Nat :=
  match s.sideCore w sd with
  | some (l, off) => l.base + off
  | none => 0

/-- Local memory as an engine finds it that reads in the tick of a push: the stores of the pushing primary, those of the push bundle included,
come first (R169). -/
def State.pushView (s : State) (pawn : Bool) (after : Nat) : Memory := if pawn then s.lm else s.viewAhead after

/-- The index list of a gather or scatter as a view of local memory gives it (R178). -/
def State.readIndex (s : State) (m : Memory) (w : List Word64) : List Nat :=
  if (cmdOp w = 3 ∨ cmdOp w = 4) ∧ gBytes w ≠ 0 then
    (List.range (gRows w)).map fun i => memRead m (s.sideKey w .aux + 4 * i) 4
  else []

/-- The list for the push in hand. -/
def State.pushIndex (s : State) (w : List Word64) : List Nat := s.readIndex (s.pushView s.isPawn s.opNo) w

/-- A global side stays within the virtual address space. -/
def globalOk (w : List Word64) (idx : List Nat) (sd : Side) : Bool :=
  match sideWord (cmdOp w) sd with
  | none => true
  | some i =>
    if sideLm w sd then true
    else decide (0 ≤ (wd w i : Int) + (sideSpan w idx sd).1) && decide ((wd w i : Int) + (sideSpan w idx sd).2 ≤ 2 ^ 56)

/-! ### Collective commands (R182, R183) -/

/-- The physical address of a byte under a context, for a read by an engine; none where its walk does not permit it. -/
def State.peekPa (s : State) (cx va : Nat) : Option Nat :=
  match s.verdict (s.pageWalk cx va).1 cx va 0 true with
  | .fill t _ _ => some (t.pa va)
  | _ => none

/-- n bytes at virtual addresses that a function translates, each by itself: a run may cross pages. -/
def State.readVia (s : State) (pa : Nat → Nat) : Nat → Nat → Nat
  | _, 0 => 0
  | va, n + 1 => (memGet s.pm (pa va)).toNat + 256 * s.readVia pa (va + 1) n

/-- The same for a write. -/
def State.writeVia (s : State) (pa : Nat → Nat) (va n v : Nat) : State :=
  if va % 65536 + n ≤ 65536 then s.homeWriteRun (pa va) n v
  else (List.range n).foldl (fun s i => s.homeWriteRun (pa (va + i)) 1 (v / 256 ^ i % 256)) s

/-- n bytes of a context's memory, little-endian. -/
def State.peek (s : State) (cx : Nat) : Nat → Nat → Option Nat
  | _, 0 => some 0
  | va, n + 1 =>
    match s.peekPa cx va, s.peek cx (va + 1) n with
    | some pa, some r => some ((memGet s.pm pa).toNat + 256 * r)
    | _, _ => none

/-- The package numbers of a group descriptor; an empty list for a count outside 1 to 512 (R182). -/
def State.groupAt (s : State) (cx va : Nat) : Option (List Nat) :=
  match s.peek cx va 2 with
  | none => none
  | some n =>
    if n = 0 ∨ 512 < n then some []
    else (s.peek cx (va + 8) (2 * n)).map fun x => unpackElems 16 n x

/-- A bad codeword under a group descriptor, or one that cannot be reached: nothing is read from it (R415, R419). -/
def State.groupBad (s : State) (cx va : Nat) : Option Nat :=
  let bad := fun i => (s.peekPa cx (va + 32 * i)).filter fun pa => s.pmBad pa 32
  bad 0 <|>
    let n := (s.peek cx va 2).getD 0
    (List.range (if 512 < n then 0 else (8 + 2 * n + 31) / 32)).findSome? bad

/-- The lines of a group descriptor that is read are requests of their homes (R368). -/
def State.countGroup (s : State) (cx va : Nat) : State :=
  let n := (s.peek cx va 2).getD 0
  (List.range (if 512 < n then 1 else (8 + 2 * n + 63) / 64)).foldl (fun s i =>
    match s.verdict (s.pageWalk cx (va + 64 * i)).1 cx (va + 64 * i) 0 true with
    | .fill t _ _ => s.countHome (t.pa (va + 64 * i)) (some (pteClass t.attrs.toNat)) cx
    | _ => s) s

/-- The core's collective engine reads a group descriptor: a bad word of it is a machine check (R415). -/
def State.readGroup (s : State) (cx va : Nat) : State :=
  match s.groupBad cx va with
  | some pa => s.agentPm pa 32
  | none => s.countGroup cx va

def colCount (w : List Word64) : Nat := bits (wd w 4) 0 32
def colType (w : List Word64) : Nat := bits (wd w 4) 32 4
def colRed (w : List Word64) : Nat := bits (wd w 4) 36 4
def colRoot (w : List Word64) : Nat := bits (wd w 4) 40 9
/-- Bytes of an element. -/
def colSize (w : List Word64) : Nat := if colType w = 1 then 2 else 4

/-- Check 1 for a collective, where the group descriptor can be read. -/
def groupFits (s : State) (w : List Word64) (g : List Nat) : Bool :=
  decide (g ≠ []) && decide (s.dev.pkgNo.toNat ∈ g) && (decide (cmdOp w ≠ 3) || decide (colRoot w < g.length)) &&
    (decide (cmdOp w ≠ 1) || decide (colCount w % g.length = 0))

/-- Check 1 for a collective, but for what depends on the group. -/
def colFieldsOk (w : List Word64) : Bool :=
  decide (wd w 0 &&& 0xFFFFFFFF0000FDF0 = 0) && decide (cmdOp w ≤ 3) && decide (wd w 1 % 64 = 0) &&
    decide (wd w 1 < 2 ^ 56) && decide (wd w 2 < 2 ^ 56) && decide (wd w 3 < 2 ^ 56) &&
    decide (colType w ≤ 2) && decide (colRed w ≤ 2) && (decide (colRed w = 0) || decide (cmdOp w ≤ 1)) &&
    (decide (colRoot w = 0) || decide (cmdOp w = 3)) && decide (bits (wd w 4) 49 15 = 0) && decide (wd w 6 = 0) && decide (wd w 7 = 0)

/-- Elements of the source and of the destination. -/
def colSrc (w : List Word64) : Nat := colCount w
def colDst (w : List Word64) (n : Nat) : Nat :=
  match cmdOp w with
  | 1 => colCount w / n
  | 2 => n * colCount w
  | _ => colCount w

/-! ### Submission checks (R173, R177) -/

/-- The words of the pusher's command with the new one. -/
def State.assembled (s : State) (e : Nat) (v : Word64) : List Word64 := vget s.th.asm e [] ++ [v]

/-- The push completes a command. -/
def State.completes (s : State) (e : Nat) (v : Word64) : Bool :=
  decide ((s.assembled e v).length = cmdLen e (s.assembled e v))

/-- Check 1. -/
def State.fieldsOk (s : State) (e : Nat) (w : List Word64) : Bool :=
  if e = 2 then
    colFieldsOk w && match if (s.groupBad s.core.cfg.cx (wd w 1)).isSome then none else s.groupAt s.core.cfg.cx (wd w 1) with
      | some g => groupFits s w g
      | none => true
  else copyFieldsOk w

/-- Check 2. -/
def State.addrsOk (s : State) (w : List Word64) : Bool :=
  s.sideOk w [] .aux && s.sideOk w [] .src && s.sideOk w [] .dst

/-- The rows that a list names lie in the address space. -/
def State.indexOk (_s : State) (w : List Word64) (idx : List Nat) : Bool := globalOk w idx .src && globalOk w idx .dst

/-- The submission checks of an eqw; on the primary what depends on an index list is checked when the bundle's stores are known. -/
def State.engineCheck (s : State) (e : Nat) (v : Word64) : Option TrapRec :=
  let w := s.assembled e v
  let bad := fun code => some (s.trapAt (code + s.unit) s.ctx.pc (BitVec.ofNat 64 (wd w 0)))
  if e = 3 then some (s.trapAt (0x198 + s.unit) s.ctx.pc v)
  else if !s.completes e v then none
  else if !s.fieldsOk e w then bad 0x180
  else if e = 2 then none
  else if !s.addrsOk w then bad 0x188
  else if !s.isPawn || s.indexOk w (s.pushIndex w) then none
  else bad 0x180

/-- The command of the bundle in hand names a row outside the address space; its index list is read with the bundle's own stores (R169, R177).
The trap stands in slot C at the bundle. -/
def State.pushTrap (s : State) (pc : Word64) : Option (Nat × TrapRec) :=
  match s.core.pushing with
  | some (e, w) =>
    if e = 2 || s.indexOk w (s.readIndex (s.viewAhead s.prim.opCount) w) then none
    else some (e, ⟨0x180, pc, BitVec.ofNat 64 (wd w 0), 0⟩)
  | none => none

/-! ### Room (R172, R173, R180) -/

/-- Sides of a command that register a range. -/
def lockSides (w : List Word64) (idx : List Nat) : List Side :=
  [Side.src, .dst, .aux].filter fun sd => (sideWord (cmdOp w) sd).isSome && decide ((sideSpan w idx sd).1 < (sideSpan w idx sd).2)

def State.engineQ (s : State) (e : Nat) : EngQueue := vget s.core.engQ e EngQueue.empty
def State.updEngine (s : State) (e : Nat) (f : EngQueue → EngQueue) : State :=
  s.updCore fun c => { c with engQ := vset c.engQ e (f (vget c.engQ e EngQueue.empty)) }

/-- Entries of a part of a command side. -/
def cmdCap (e : Nat) : Nat := if e = 3 then 0 else if e = 2 then 4 else 8
def recCap (e : Nat) : Nat := if e = 3 then 16 else 8

/-- Entries of a part in use. -/
def EngQueue.used (q : EngQueue) (pawn : Bool) : Nat :=
  (q.cmds.filter fun c => !c.started && decide (c.byPawn.isSome = pawn)).length

def EngQueue.recs (q : EngQueue) (pawn : Bool) : List Word64 := if pawn then q.recsPawn else q.recsPrim
def EngQueue.setRecs (q : EngQueue) (pawn : Bool) (l : List Word64) : EngQueue :=
  if pawn then { q with recsPawn := l } else { q with recsPrim := l }

/-- The group of a collective command, empty where its descriptor cannot be read. -/
def State.groupOf (s : State) (w : List Word64) : List Nat :=
  if (s.groupBad s.core.cfg.cx (wd w 1)).isSome then [] else (s.groupAt s.core.cfg.cx (wd w 1)).getD []

/-- The ranges of a collective: its source refuses writes, its destination all accesses (R180); the destination of a group that is not known
is that of one rank. -/
def colLocks (id cx : Nat) (w : List Word64) (n : Nat) : List Lock :=
  let range := fun (a len : Nat) (all : Bool) => (⟨id, false, cx, a, a + len - 1, all, none, none, true⟩ : Lock)
  let dst := colDst w (max 1 n) * colSize w
  (if colSrc w = 0 then [] else [range (wd w 2) (colSrc w * colSize w) false]) ++ (if dst = 0 then [] else [range (wd w 3) dst true])

/-- The ranges that a command registers. -/
def State.locksOf (s : State) (e : Nat) (w : List Word64) (idx : List Nat) : Nat :=
  if e = 2 then (colLocks 0 0 w (s.groupOf w).length).length else (lockSides w idx).length

/-- A command side has room for the command, and the range-lock table for its ranges. -/
def State.room (s : State) (e : Nat) (pawn : Bool) (w : List Word64) (idx : List Nat) : Bool :=
  decide ((s.engineQ e).used pawn < cmdCap e) && decide (s.core.locks.length + s.core.peerLocks.length + s.locksOf e w idx ≤ 64)

/-! ### Submission (R178, R180) -/

/-- The range that a side registers. -/
def State.sideLock (s : State) (id e : Nat) (w : List Word64) (idx : List Nat) (sd : Side) : Lock :=
  let h := sideSpan w idx sd
  let lm := sideLm w sd
  let base : Int := if lm then (s.sideKey w sd : Nat) else (wd w ((sideWord (cmdOp w) sd).getD 1) : Nat)
  let slides := cmdWpadv w && lm && sideWritten (cmdOp w) sd
  { cmd := id
    lm := lm
    cx := s.core.cfg.cx
    lo := (base + h.1).toNat
    hi := (base + h.2).toNat - 1
    refusesReads := sideWritten (cmdOp w) sd
    slide := if slides then some e else none
    scaleOf := if slides && decide (sd = .aux) then some (s.sideKey w .dst, 32 * bits (wd w 4) 24 4) else none
    fresh := true }

/-- Pages of 64 KiB that a run of bytes touches. -/
def runPages (a len : Nat) : List Nat :=
  if len = 0 then [] else (List.range ((a + len - 1) / 65536 - a / 65536 + 1)).map fun i => (a / 65536 + i) * 65536

/-- Pages of a global side, row by row: those that its rows touch, and not the gaps between them, of which R178 says neither (DESIGN CHOICE, log 73). -/
def sidePages (w : List Word64) (idx : List Nat) (sd : Side) : List Nat :=
  match sideWord (cmdOp w) sd with
  | none => []
  | some i =>
    if sideLm w sd then []
    else
      let base : Int := wd w i
      let bytes := bits (wd w 3) 0 24
      match cmdOp w, sd with
      | 1, .src => (List.range (bits (wd w 3) 24 24)).flatMap fun (r : Nat) => runPages (base + r * strideOf (wd w 4)).toNat bytes
      | 1, .dst => (List.range (bits (wd w 3) 24 24)).flatMap fun (r : Nat) => runPages (base + r * strideOf (wd w 5)).toNat bytes
      | 3, .src => idx.flatMap fun (r : Nat) => runPages (base + r * strideOf (wd w 5)).toNat (gBytes w)
      | 4, .dst => idx.flatMap fun (r : Nat) => runPages (base + r * strideOf (wd w 5)).toNat (gBytes w)
      | _, _ => runPages (wd w i) (sideSpan w idx sd).2.toNat

/-- Pages to translate: sources for a read, destinations for a write. -/
def copyPages (w : List Word64) (idx : List Nat) : List (Nat × Bool) :=
  ((distinct (sidePages w idx .src)).map fun p => (p, false)) ++ ((distinct (sidePages w idx .dst)).map fun p => (p, true))

/-- Pages of a collective whose group has n ranks; only the descriptor's while the group is not known. -/
def colPages (w : List Word64) (n : Nat) : List (Nat × Bool) :=
  ((distinct (runPages (wd w 1) (8 + 2 * max 1 n) ++ (if n = 0 then [] else runPages (wd w 2) (colSrc w * colSize w)))).map fun p => (p, false)) ++
    (if n = 0 then [] else (distinct (runPages (wd w 3) (colDst w n * colSize w))).map fun p => (p, true))

/-- The global ranges of a submitted command meet the watchpoints (R422). -/
def State.watchCmd (s : State) (locks : List Lock) : State :=
  locks.foldl (fun s l => if l.lm then s else s.watchOther ⟨true, l.lo, l.hi + 1 - l.lo, !l.refusesReads, l.refusesReads⟩) s

/-- The bank words of an index list. -/
def State.indexWords (s : State) (w : List Word64) : List Nat :=
  if (cmdOp w = 3 ∨ cmdOp w = 4) ∧ gBytes w ≠ 0 ∧ gRows w ≠ 0 then bankWords [s.sideKey w .aux] (4 * gRows w) else []

/-- A command enters its command side; its ranges are registered, and its index list or group is read. With a bad word in its list a command does
not start: the machine check ends the launch (R415). -/
def State.submit (s : State) (e : Nat) (pawn : Option Nat) (after : Nat) (w : List Word64) : State :=
  let id := s.core.nextId
  let bad := s.lmBad (s.indexWords w) && decide (e ≠ 2)
  let idx := if bad then [] else if e = 2 then s.groupOf w else s.readIndex (s.pushView pawn.isSome after) w
  let cmd : EngCmd := {
    id := id
    after := after
    words := w
    byPawn := pawn
    cx := s.core.cfg.cx
    started := false
    pos := 0
    bytes := 0
    idx := idx
    todo := if e = 2 then colPages w idx.length else copyPages w idx
    pages := []
    fault := if bad then some (0, 4, none) else none
    status := none
    tries := 0 }
  let s := if e = 2 then s.readGroup s.core.cfg.cx (wd w 1) else s.agentLm (s.indexWords w)
  let locks := if e = 2 then colLocks id s.core.cfg.cx w idx.length else (lockSides w idx).map fun sd => s.sideLock id e w idx sd
  (((s.updCore fun c => { c with nextId := id + 1, locks := c.locks ++ locks }).updEngine e fun q =>
    { q with cmds := q.cmds ++ [cmd] }).watchCmd locks).traceEngine 5 pawn (cmdTag w) (cmdOp w) e 0

/-- Some pawn's push into the register waits in the push buffer: the buffer is emptied in the order of issue (R88). -/
def State.pushWaits (s : State) (e : Nat) : Bool := s.pawns.toList.any fun p => p.pushes.any fun x => decide (x.2.1 = e)

/-- A command of a pawn goes into the push buffer. -/
def State.bufferPush (s : State) (t e : Nat) (w : List Word64) : State :=
  (s.updCore fun c => { c with nextId := c.nextId + 1 }).updPawn t fun p => { p with pushes := p.pushes ++ [(s.core.nextId, e, w)] }

/-- The command that the bundle completes enters its command side when the bundle has issued (R169). -/
def State.submitPush (s : State) : State :=
  match s.core.pushing with
  | some (e, w) => (s.updCore fun c => { c with pushing := none }).submit e none s.prim.opCount w
  | none => s

/-- An eqw takes effect: the word joins the command, and the last word submits it, for the primary with its bundle. -/
def State.pushWord (s : State) (e : Nat) (v : Word64) : State :=
  let w := s.assembled e v
  if s.completes e v then
    let u := s.updTh fun t => { t with asm := vset t.asm e [] }
    match s.ctx.agent with
    | .primary => u.updCore fun c => { c with pushing := some (e, w) }
    | .pawn t =>
      if (s.pawn t).pushes ≠ [] ∨ s.pushWaits e ∨ !s.room e true w (s.pushIndex w) then u.bufferPush t e w
      else u.submit e (some t) 0 w
  else s.updTh fun t => { t with asm := vset t.asm e w }

/-! ### eqw, eqr, eqcnt (R88) -/

def specEqw (k : Bool) (e a : Field6) : OpSpec where
  cls := .c
  k := k
  sync := true
  regs := [srcU .e e, srcU .s a]
  checks := [(.eng, fun s => s.engineCheck e.toNat (s.readS a))]
  freeze := fun s =>
    let w := s.assembled e.toNat (s.readS a)
    if e.toNat < 3 && s.completes e.toNat (s.readS a) && !s.room e.toNat false w (s.pushIndex w) then [2] else []
  engQ := some e.toNat
  refused := fun s =>
    let w := vget s.th.asm e.toNat []
    if e.toNat = 2 ∧ w.length = 7 then s.countGroup s.core.cfg.cx (wd w 1) else s

/-- R88: push a word; the primary waits for room with cause 2, a pawn's command waits in the push buffer. -/
def execEqw (k : Bool) (e a : Field6) (s : State) : Out :=
  issue (specEqw k e a) s fun s => s.pushWord e.toNat (s.readS a)

/-- Pop the oldest record of a part. -/
def State.popRec (s : State) (e : Nat) (pawn : Bool) : State :=
  s.updEngine e fun q => q.setRecs pawn ((q.recs pawn).drop 1)

def specEqr (k : Bool) (d e : Field6) : OpSpec where
  cls := .c
  k := k
  sync := true
  regs := [dstU .s d 1, srcU .e e]
  freeze := fun s => if (s.engineQ e.toNat).recs false = [] then [2] else []
  reads := fun s => if s.isPawn then [] else [(.e, e.toNat)]

/-- R88: pop a record; the primary waits for one with cause 2, a pawn's result lands when one is there. -/
def execEqr (k : Bool) (d e : Field6) (s : State) : Out :=
  issue (specEqr k d e) s fun s =>
    match s.ctx.agent with
    | .primary => (s.landS 1 d (((s.engineQ e.toNat).recs false).headD 0)).popRec e.toNat false
    | .pawn _ => s.gSend (.eqr e.toNat) (s.dstS d) .discard 0

/-- R88: free command entries and waiting records of the issuer's parts. The primary reads them before the tick's pushes and pops; a pawn
reads them as the pushes of the tick that come before it have left them, and before the tick's pops (log 66). -/
def execEqcnt (k : Bool) (d e : Field6) (s : State) : Out :=
  issue { cls := .c, k := k, sync := true, regs := [dstU .s d 1, srcU .e e] } s fun s =>
    let q := s.engineQ e.toNat
    s.landS 1 d (BitVec.ofNat 64 (cmdCap e.toNat - q.used s.isPawn + (q.recs s.isPawn).length * 2 ^ 16))

/-- The waiting eqr of the core's pawns on a register that issued first. Which of several that have issued in different ticks takes a record that arrives the
spec does not say (R68 orders those of one tick): the model lets the first to issue have it (DESIGN CHOICE, log 73). -/
def State.firstEqr (s : State) (e : Nat) : Option (Nat × GReq) :=
  ((List.range 16).flatMap fun t => ((s.pawn t).reqs.filter fun r => decide (r.kind = .eqr e)).map fun r => (t, r)).foldl
    (fun best x => match best with
      | none => some x
      | some b => if x.2.id < b.2.id then some x else best) none

/-- A record goes to the waiting eqr that issued first; a landed eqr is an acquire (R170). Of a struck record nothing is used: its thread takes the machine
check (R415). -/
def State.eqrOne (s : State) (e : Nat) : State :=
  match s.firstEqr e, (s.engineQ e).recsPawn with
  | some (t, r), v :: _ =>
    if ErrLoc.record e v ∈ s.core.struck then ((((s.setCtx (agentCtx (.pawn t))).strikeUse 0x1DE (.record e v)).setCtx s.ctx).dropReq t r.id).popRec e true
    else ((s.landReq t r (v.setWidth 4096) false).popRec e true).dropClean
  | _, _ => s

/-- The pops of the tick by the pawns from one register: as many as there are records (R68, R88). -/
def State.eqrStep (s : State) (e : Nat) : State := (s.engineQ e).recsPawn.foldl (fun s _ => s.eqrOne e) s

/-- Nothing that waits in the push buffer for the register was issued before push n (R88). -/
def State.pushFirst (s : State) (n e : Nat) : Bool :=
  s.pawns.toList.all fun p => p.pushes.all fun x => decide (x.2.1 ≠ e) || decide (n ≤ x.1)

/-- R88: a command in the push buffer is pushed when its side has room. -/
def execPawnPushRetry (t : Nat) (s : State) : Out :=
  .next (match (s.pawn t).pushes with
    | [] => s
    | (n, e, w) :: rest =>
      if s.pushFirst n e && s.room e true w (s.readIndex s.lm w) then
        (s.updPawn t fun p => { p with pushes := rest }).submit e (some t) 0 w
      else s)

/-- The pushes that wait, in the order of issue, by thread. -/
def State.pushOrder (s : State) : List Nat :=
  let l := (List.range 16).flatMap fun t => (s.pawn t).pushes.map fun x => (x.1, t)
  (l.foldl (fun (acc : List (Nat × Nat)) x => (acc.takeWhile fun y => decide (y.1 ≤ x.1)) ++ x :: acc.dropWhile fun y => decide (y.1 ≤ x.1)) []).map
    fun x => x.2

/-! ### Pins (R178) -/

/-- The number of a page in a die's pin table. -/
def pinKey (die page : Nat) : Nat := die * 2 ^ 40 + page

/-- One more pin of a page in a die's table; none when the table or the count is full. -/
def State.pin (s : State) (die page : Nat) : Option State :=
  let key := pinKey die page
  let n := assocGet s.dev.pins key 0
  if n = 0 ∧ 8192 ≤ (s.dev.pins.filter fun x => x.1 / 2 ^ 40 = die).length then none
  else if 65535 ≤ n then none
  else some (s.updDev fun d => { d with pins := assocSet d.pins key (n + 1) })

def State.unpin (s : State) (die page : Nat) : State :=
  let key := pinKey die page
  let n := assocGet s.dev.pins key 0
  s.updDev fun d => { d with pins := if n ≤ 1 then assocErase d.pins key else assocSet d.pins key (n - 1) }

/-- The physical address that a command's pages give a virtual address. -/
def EngCmd.paOf (c : EngCmd) (va : Nat) : Nat :=
  match c.pages.find? fun p => p.1 = va / 65536 * 65536 with
  | some p => p.2.2 + va % 65536
  | none => 0

/-- The class of the page. -/
def EngCmd.clsOf (c : EngCmd) (va : Nat) : Option Nat := (c.pages.find? fun p => p.1 = va / 65536 * 65536).map fun p => p.2.1

/-- The command's pages are no longer pinned. -/
def State.unpinAll (s : State) (die : Nat) (c : EngCmd) : State := c.pages.foldl (fun s p => s.unpin die (p.2.2 / 65536)) s

/-! ### The copy channels, word by word (R176, R179) -/

/-- Where a word comes from or goes: a key of local memory, a virtual address, or a pattern. -/
inductive Place where
  | lm (key : Nat)
  | va (a : Nat)
  | val (v : Nat)
deriving DecidableEq, Repr

/-- A place `off` bytes on from the base of a side. -/
def State.place (s : State) (w : List Word64) (sd : Side) (off : Int) : Place :=
  if sideLm w sd then .lm ((s.sideKey w sd : Int) + off).toNat
  else .va ((wd w ((sideWord (cmdOp w) sd).getD 1) : Int) + off).toNat

/-- The n-th 8-byte word of a command: source, destination, whether it is a data word, and its place in its row. -/
def State.move (s : State) (c : EngCmd) (n : Nat) : Option (Place × Place × Bool × Nat) :=
  let w := c.words
  let bytes := bits (wd w 3) 0 24
  let rw := (if cmdOp w = 1 then bytes else gBytes w) / 8
  let r := n / rw
  let o : Int := 8 * (n % rw : Nat)
  match cmdOp w with
  | 0 => if 8 * n < bytes then some (s.place w .src (8 * n : Nat), s.place w .dst (8 * n : Nat), true, n) else none
  | 1 =>
    if rw ≠ 0 ∧ r < bits (wd w 3) 24 24 then
      some (s.place w .src (r * strideOf (wd w 4) + o), s.place w .dst (r * strideOf (wd w 5) + o), true, n % rw)
    else none
  | 2 =>
    let wb := bits (wd w 4) 24 4
    let u := n / (1 + 4 * wb)
    let j := n % (1 + 4 * wb)
    if u < bits (wd w 4) 0 24 then
      if j = 0 then some (s.place w .src (u * (8 + 32 * wb) : Nat), s.place w .aux (8 * u : Nat), false, n)
      else some (s.place w .src (u * (8 + 32 * wb) + 8 * j : Nat), s.place w .dst (32 * wb * u + 8 * (j - 1) : Nat), true, n)
    else none
  | 3 =>
    match c.idx[r]? with
    | some i => if rw ≠ 0 then some (s.place w .src (i * strideOf (wd w 5) + o), s.place w .dst (8 * n : Nat), true, n % rw) else none
    | none => none
  | 4 =>
    match c.idx[r]? with
    | some i => if rw ≠ 0 then some (s.place w .src (8 * n : Nat), s.place w .dst (i * strideOf (wd w 5) + o), true, n % rw) else none
    | none => none
  | 5 => if 8 * n < bytes then some (.val (wd w 2), s.place w .dst (8 * n : Nat), true, n) else none
  | _ => none

/-- One request is counted for each 64-byte unit of an engine access (R368). -/
def State.countUnit (s : State) (c : EngCmd) (va pa row : Nat) : State :=
  if row = 0 ∨ pa % 64 = 0 then s.countHome pa (c.clsOf va) c.cx else s

/-- A word of local memory takes its bank (R68), and meets the watchpoints of the cluster. -/
def State.engineBank (s : State) (k : Nat) (write : Bool) : State :=
  (s.takeWord (k / 8)).watchOther (lmSpan k 8 write)

/-- A source word is bad: the engine's machine check takes the place of the move (R415). -/
def State.placeBad (s : State) (c : EngCmd) : Place → Bool
  | .lm k => s.lmBad [k / 8]
  | .va a => s.pmBad (c.paOf a) 8
  | .val _ => false

/-- The value of a source word. -/
def State.readPlace (s : State) (c : EngCmd) (row : Nat) : Place → State × Nat
  | .lm k => ((s.engineBank k false).agentLm [k / 8], memRead s.lm k 8)
  | .va a => ((s.countUnit c a (c.paOf a) row).agentPm (c.paOf a) 8, s.homeRead (c.paOf a) 8)
  | .val v => (s, v)

/-- A run of a command's destination may be written: the pages of it that a dump is still to send have been copied first, as far as the staging area has
room; the write waits for the others (R427). -/
def State.stageRun (s : State) (c : EngCmd) (va n : Nat) : State × Bool :=
  (runPages va n).foldl (fun (x : State × Bool) p =>
    if x.1.cowPage c.cx p 1 then (if x.1.cowRoom then (x.1.cowCopy c.cx p 1, x.2) else (x.1, false)) else x) (s, true)

/-- A destination word is written: at its bank, or at its home; in a fenced range it is lost, with the machine check (R419). -/
def State.writePlace (s : State) (c : EngCmd) (row v : Nat) : Place → State
  | .lm k => (s.lmWrite k 8 v).engineBank k true
  | .va a =>
    let pa := c.paOf a
    if s.rangeFenced pa 8 then s.agentStore pa 8 else
    let s := if 3 ≤ row ∧ pa % 32 = 24 then s.healPm (pa - 24) 32 else s
    (s.homeWrite pa 8 v).countUnit c a pa row
  | .val _ => s

/-- Write pointer n of a core takes a value (R179). -/
def State.setWptr (s : State) (base n v : Nat) : State :=
  if base = s.core.lmBase then s.updCore fun c => { c with wptr := vset c.wptr n (BitVec.ofNat 21 v) }
  else s.updCore fun c => { c with wptrOther := assocSet c.wptrOther (2 * base + n) v }

/-- The pointer moves past a data word that the command has written, unless it stands higher. -/
def State.advanceWptr (s : State) (w : List Word64) (e key : Nat) : State :=
  let base := key / 2 ^ 21 * 2 ^ 21
  if cmdWpadv w then s.setWptr base e (max (s.wptrOf base e) (key % 2 ^ 21 + 8)) else s

/-- The command that a channel runs, or runs next. -/
def State.headCmd (s : State) (ch : Nat) : Option EngCmd := (s.engineQ ch).cmds.head?

/-- Change the command that a channel runs. -/
def State.setHead (s : State) (ch : Nat) (c : EngCmd) : State := s.updEngine ch fun q => { q with cmds := c :: q.cmds.drop 1 }

/-- A pending store of the primary that issued no later than the pushing bundle (R169). -/
def State.storesBefore (s : State) (c : EngCmd) : Bool :=
  let p := fun (e : PEntry) => (match e.eff with
    | .bank (.write _ _ _) => true
    | .bank (.rmw _ _ _ _ _ _) => true
    | _ => false) && decide (e.op / 16 ≤ c.after / 16)
  c.byPawn.isNone && (s.prim.fl.pend.any p || match s.prim.flUser with
    | some f => f.pend.any p
    | none => false)

/-- The write pointer that a command drives: 2 × LM base + number (R179). -/
def State.drives (s : State) (ch : Nat) (c : EngCmd) : Option Nat :=
  if ch < 2 ∧ cmdWpadv c.words then some (2 * coreBase (s.sideKey c.words .dst) + ch) else none

/-- A channel of another core drives the pointer that the command would drive, or waits to drive it as a lower cluster channel (R179). -/
def State.pointerBusy (s : State) (ch : Nat) (c : EngCmd) : Bool :=
  match s.drives ch c with
  | none => false
  | some k => (s.core.drivers.any fun d => decide (d.1 = k)) || s.core.peers.any fun a => match a with
    | .drive base n low => decide (2 * base + n = k) && decide (low < 2 * s.core.cfg.coreInClus + ch)
    | _ => false

/-- The command may start (R178, R179). -/
def State.mayStart (s : State) (ch : Nat) (c : EngCmd) : Bool :=
  !c.started && (s.engineQ ch).blocked.isEmpty && (c.status.isSome || (c.todo.isEmpty && c.fault.isNone)) && !s.storesBefore c &&
    (c.status.isSome || !s.pointerBusy ch c)

/-- The command has started, its pages are translated, and it has no status yet. -/
def EngCmd.running (c : EngCmd) : Bool := c.started && c.status.isNone && c.todo.isEmpty && c.fault.isNone

/-- The start of a command: the start rule of the write pointer, and wpset's effect (R175, R179). A command whose own words are struck does not
start: the machine check ends the launch (R415). -/
def State.startCmd (s : State) (ch : Nat) (c : EngCmd) : State :=
  let key := s.sideKey c.words .dst
  let base := key / 2 ^ 21 * 2 ^ 21
  let off := key % 2 ^ 21
  if s.anyStruck (cmdLocs c.id) then s.agentStrike (cmdLocs c.id)
  else if c.status.isSome then s.setHead ch { c with started := true }
  else if cmdOp c.words = 6 then (s.setWptr base ch off).setHead ch { c with started := true }
  else if cmdWpadv c.words then
    if off < s.wptrOf base ch then s.setHead ch { c with started := true, status := some 1 }
    else (s.setWptr base ch off).setHead ch { c with started := true }
  else s.setHead ch { c with started := true }

/-- The bank of a place is free. -/
def State.placeFree (s : State) : Place → Bool
  | .lm k => s.wordFree (k / 8)
  | _ => true

/-- A place lies outside the core, so that a word for it crosses the mesh (R68). -/
def State.placeFar (s : State) : Place → Bool
  | .lm k => s.core.otherKey k
  | .va _ => true
  | .val _ => false

/-- Two places of local memory share a bank, which serves one of them in a tick (R68). -/
def sameBank : Place → Place → Bool
  | .lm a, .lm b => decide (farBank (a / 8) = farBank (b / 8))
  | _, _ => false

/-- A word is written, the pointer moves, and the command goes on to the next word; the word that was the oldest on its way is no longer. -/
def State.finishWord (s : State) (ch : Nat) (c : EngCmd) (dst : Place) (data : Bool) (row v : Nat) : State :=
  let s := s.writePlace c row v dst
  let s := match dst with
    | .lm k => if data then s.advanceWptr c.words ch k else s
    | _ => s
  s.setHead ch { c with pos := c.pos + 1, bytes := c.bytes + 8, flight := c.flight.drop 1 }

/-- Words that a channel reads from homes ahead of those that it writes (log 38). -/
def aheadWords : Nat := 64

/-- The next word that a command reads from a home sets out on its way, which takes the ticks of R23 at least. Of a bad word nothing is used (R415). -/
def State.readAhead (s : State) (die : Nat) (c : EngCmd) : Option (State × EngCmd) :=
  if aheadWords ≤ c.flight.length then none
  else
    match s.move c (c.pos + c.flight.length) with
    | some (.va a, _, _, row) =>
      let pa := c.paOf a
      let x := if row = 0 ∨ pa % 64 = 0 then s.beginRead die pa (c.clsOf a) c.cx else (s, s.homeTicks die pa (s.l2Alloc pa (c.clsOf a) (some c.cx)))
      some (x.1.agentPm pa 8, if s.placeBad c (.va a) then c else { c with flight := c.flight ++ [(s.homeRead pa 8, x.2)] })
    | _ => none

/-- The channel reads ahead, when the mesh takes the request. -/
def State.fetchWord (s : State) (ch : Nat) : State :=
  match s.headCmd ch with
  | none => s
  | some c =>
    if s.core.mesh = some 0 ∨ s.core.preempt.isSome then s
    else match s.readAhead s.core.cfg.die c with
      | some (s, c) => s.spendMesh.setHead ch c
      | none => s

/-- The oldest word on its way is here (R23). -/
def EngCmd.landed (c : EngCmd) : Option Nat :=
  match c.flight with
  | (v, 0) :: _ => some v
  | _ => none

/-- A word of the running command. One whose source is a home is written once it is here and its bank is free, while others are read ahead. One whose
source is local moves once its banks are free and the mesh takes it: where its two places share a bank, in two ticks. -/
def State.moveWord (s : State) (ch : Nat) (c : EngCmd) : State :=
  match s.move c c.pos with
  | none => s
  | some (.va _, dst, data, row) =>
    (match c.landed with
      | some v => if s.placeFree dst then (s.stopWaiting ch).finishWord ch c dst data row v else s.keepWaiting ch
      | none => s).fetchWord ch
  | some (src, dst, data, row) =>
    match c.landed with
    | some v => if s.placeFree dst then (s.stopWaiting ch).finishWord ch c dst data row v else s.keepWaiting ch
    | none =>
      let far := s.placeFar src || s.placeFar dst
      if !(s.placeFree src && s.placeFree dst) || (far && decide (s.core.mesh = some 0)) then s.keepWaiting ch else
      let x := (s.stopWaiting ch).readPlace c row src
      let s' := if far then x.1.spendMesh else x.1
      if s.placeBad c src then s'
      else if sameBank src dst then s'.setHead ch { c with flight := [(x.2, 0)] }
      else s'.finishWord ch c dst data row x.2

/-- A command has a word to write, or one to read: what is on its way does not yet fill what the channel reads ahead. -/
def State.wordDue (s : State) (c : EngCmd) : Bool :=
  match s.move c c.pos with
  | none => true
  | some (.va _, _, _, _) => c.landed.isSome || (decide (c.flight.length < aheadWords) && (s.move c (c.pos + c.flight.length)).isSome)
  | some _ => true

/-- A word of a command that has left its place in local memory has not been written yet (R402). -/
def State.wordInHand (s : State) (c : EngCmd) : Bool :=
  decide (c.flight ≠ []) && match s.move c c.pos with
    | some (.va _, _, _, _) => false
    | _ => true

/-- A tick passes for what a command has on its way. -/
def EngCmd.older (c : EngCmd) : EngCmd := { c with flight := c.flight.map (fun x => (x.1, x.2 - 1)), waited := c.waited + 1 }

/-- The command of a channel starts, or moves its next word. -/
def State.copyStep (s : State) (op ch : Nat) : State :=
  match s.headCmd ch with
  | none => s
  | some c =>
    if cmdOp c.words ≠ op ∨ 2 ≤ ch then s
    else if s.mayStart ch c then s.startCmd ch c
    else if c.running then s.moveWord ch c
    else s

/-- R175: the copy of a contiguous range moves on. -/
def execCopy (ch : Nat) (s : State) : Out := .next (s.copyStep 0 ch)
/-- R175: the copy of strided rows moves on. -/
def execCopy2d (ch : Nat) (s : State) : Out := .next (s.copyStep 1 ch)
/-- R176: the split of scaled units moves on. -/
def execSplit (ch : Nat) (s : State) : Out := .next (s.copyStep 2 ch)
/-- R175: the gather of rows moves on. -/
def execGather (ch : Nat) (s : State) : Out := .next (s.copyStep 3 ch)
/-- R175: the scatter of rows moves on. -/
def execScatter (ch : Nat) (s : State) : Out := .next (s.copyStep 4 ch)
/-- R175: the fill of a range moves on. -/
def execFill (ch : Nat) (s : State) : Out := .next (s.copyStep 5 ch)
/-- R175: a write pointer is set. -/
def execWpset (ch : Nat) (s : State) : Out := .next (s.copyStep 6 ch)

/-! ### The collective engine (R182 to R184) -/

/-- Rank of the package in a group. -/
def State.rankIn (s : State) (g : List Nat) : Nat := g.findIdx fun n => decide (n = s.dev.pkgNo.toNat)

/-- An element as it is folded. -/
def colWiden (ty x : Nat) : Nat := if ty = 1 then (widen bf16 x).1 else x
/-- An element as it is stored. -/
def colNarrow (ty x : Nat) : Nat := if ty = 1 then (narrowTo bf16 0 0 x).1 else x

/-- Combine (R183). -/
def colCombine (ty red a b : Nat) : Nat :=
  if ty = 2 then
    match red with
    | 0 => (a + b) % 2 ^ 32
    | 1 => if signedOf 32 a < signedOf 32 b then b else a
    | _ => if signedOf 32 b < signedOf 32 a then b else a
  else
    match red with
    | 0 => (fAdd 0 0 a b).1
    | 1 => (fMax a b).1
    | _ => (fMin a b).1

/-- The fold over ranks in increasing order. -/
def colFold (ty red : Nat) : List Nat → Nat
  | [] => 0
  | c :: l => colNarrow ty (l.foldl (fun acc x => colCombine ty red acc (colWiden ty x)) (colWiden ty c))

/-- Element i of the contribution of a rank: the package's own source, or another package's, which is a free value. -/
def State.contribution (s : State) (w : List Word64) (pa : Nat → Nat) (own rank i : Nat) : Nat :=
  if rank = own then s.readVia pa (wd w 2 + i * colSize w) (colSize w)
  else (Config.peerData s.free rank i).toNat % 2 ^ (8 * colSize w)

/-- Element i of the destination. -/
def State.colElement (s : State) (w : List Word64) (g : List Nat) (pa : Nat → Nat) (i : Nat) : Nat :=
  let own := s.rankIn g
  let fold := fun j => colFold (colType w) (colRed w) ((List.range g.length).map fun r => s.contribution w pa own r j)
  match cmdOp w with
  | 0 => fold i
  | 1 => fold (own * (colCount w / g.length) + i)
  | 2 => s.contribution w pa own (i / colCount w) (i % colCount w)
  | _ => s.contribution w pa own (colRoot w) i

/-- The whole result is written, from values read before any write. -/
def State.collect (s : State) (w : List Word64) (g : List Nat) (pa : Nat → Nat) : State :=
  let vals := (List.range (colDst w g.length)).map fun i => (i, s.colElement w g pa i)
  (vals.foldl (fun t x => t.writeVia pa (wd w 3 + x.1 * colSize w) (colSize w) x.2) s).bumpFree

/-- Requests of a collective for a run of bytes: one for each 64-byte unit (R368). -/
def State.countRun (s : State) (c : EngCmd) (va len : Nat) : State :=
  if len = 0 then s
  else (List.range ((va + len - 1) / 64 - va / 64 + 1)).foldl (fun s i =>
    let a := max va ((va / 64 + i) * 64)
    s.countHome (c.paOf a) (c.clsOf a) c.cx) s

/-- The reads of a collective's source begin, under the way masks of the tick: one request for each 64-byte unit (R234, R368). The longest of them is what
the command needs (R23). -/
def State.beginCol (s : State) (die : Nat) (c : EngCmd) : State × EngCmd :=
  let va := wd c.words 2
  let len := colSrc c.words * colSize c.words
  let x := (List.range (if len = 0 then 0 else (va + len - 1) / 64 - va / 64 + 1)).foldl (fun (x : State × Nat) i =>
    let a := max va ((va / 64 + i) * 64)
    let y := x.1.beginRead die (c.paOf a) (c.clsOf a) c.cx
    (y.1, max x.2 y.2)) (s, 0)
  (x.1, { c with started := true, waited := 0, need := x.2 })

/-- The SEQ of a group is above the last that it accepted (R184). What identifies a group the spec does not say: the model takes the list of its package
numbers, wherever its descriptor stands (DESIGN CHOICE, log 73). -/
def State.seqFresh (s : State) (g : List Nat) (seq : Nat) : Bool :=
  match s.dev.seqs.find? fun x => x.1 = g with
  | some x => decide (x.2 < seq)
  | none => true

def State.acceptSeq (s : State) (g : List Nat) (seq : Nat) : State :=
  s.updDev fun d => { d with seqs := (g, seq) :: d.seqs.filter fun x => x.1 ≠ g }

/-- A collective of a command queue is running (R185). -/
def State.colJob (s : State) : Option Job :=
  s.dev.jobs.find? fun j => decide (j.phase = .running) && decide (bits ((j.words.getD []).getD 0 0).toNat 0 8 = 3) && j.cmd.isSome

/-- A collective of a saved launch that still runs (R402). -/
def State.colKept (s : State) : Option (SavedLaunch × EngCmd) :=
  s.dev.saved.findSome? fun x => (x.col.filter fun c => c.status.isNone).map fun c => (x, c)

/-- The collective engine runs a command of this core's register, or one of a saved launch. -/
def State.colBusy (s : State) : Bool :=
  s.colKept.isSome || match s.headCmd 2 with
    | some c => c.started && c.status.isNone
    | none => false

/-- The live planes of the fabric, in order: P is their number (R238). -/
def State.livePlanes (s : State) : List Nat := (List.range 18).filter fun k => bit s.dev.planes.toNat k

/-- The plane that chunk c of a command travels on (R239). -/
def State.planeOf (s : State) (c : Nat) : Option Nat := s.livePlanes[c % s.livePlanes.length]?

/-- Bytes that the package sends for a collective: its contribution, unless the group is the package alone or a broadcast has another root
(R377). -/
def State.fabricBytes (s : State) (c : EngCmd) : Nat :=
  if c.idx.length ≤ 1 ∨ (cmdOp c.words = 3 ∧ s.rankIn c.idx ≠ colRoot c.words) then 0 else colSrc c.words * colSize c.words

/-- The next 4 KiB chunk of the contribution goes out under its tag, and is charged (R239, R377); it waits while no plane is live, and a tag
that its stream holds is discarded. None once all chunks are sent. -/
def State.sendChunk (s : State) (c : EngCmd) : Option (State × EngCmd) :=
  let total := s.fabricBytes c
  if c.pos * 4096 < total then
    match s.planeOf c.pos with
    | none => some (s, c)
    | some p =>
      let tag : FabricTag := ⟨p, c.idx, wd c.words 5, s.rankIn c.idx, c.pos⟩
      let s := s.updDev fun d => { d with streams := if tag ∈ d.streams then d.streams else d.streams ++ [tag] }
      some (s.acctAdd c.cx 8 (min 4096 (total - c.pos * 4096)), { c with pos := c.pos + 1 })
  else none

/-- The streams of a command are over. -/
def State.endStreams (s : State) (c : EngCmd) : State :=
  s.updDev fun d => { d with streams := d.streams.filter fun t => !(decide (t.group = c.idx) && decide (t.seq = wd c.words 5)) }

/-- Physical runs of a collective's source and destination, page by page. -/
def EngCmd.colRuns (c : EngCmd) (va len : Nat) : List (Nat × Nat) :=
  (runPages va len).map fun p => (c.paOf (max p va), min (p + 65536) (va + len) - max p va)

/-- The collective engine consumes bad words of its source, or writes to a fenced range (R415, R419). -/
def State.colCheck (s : State) (c : EngCmd) : Option Nat :=
  let src := (c.colRuns (wd c.words 2) (colSrc c.words * colSize c.words)).find? fun x => s.pmBad x.1 x.2
  let dst := (c.colRuns (wd c.words 3) (colDst c.words c.idx.length * colSize c.words)).find? fun x => s.rangeFenced x.1 x.2
  (src <|> dst).map fun x => x.1

/-- A collective has had the time that reading its source takes, or needs none. -/
def EngCmd.colDue (c : EngCmd) : Bool := !c.started || c.status.isSome || decide (c.need ≤ c.waited)

/-- A whole collective: its result, the requests of its destination, and the end of its streams; the codewords that it covers are good (R415). Whether a rank
that is not ROOT reads its source in a broadcast the spec does not say: its lines are requests and are checked for bad words as those of any other source, and
none of their bytes is used (DESIGN CHOICE, log 73). -/
def State.runCollective (s : State) (c : EngCmd) : State :=
  let n := colDst c.words c.idx.length * colSize c.words
  let t := ((s.collect c.words c.idx c.paOf).countRun c (wd c.words 3) n).endStreams c
  (c.colRuns (wd c.words 3) n).foldl (fun s x => s.healPm x.1 x.2) t

/-- The pages of a group descriptor that are still to be translated, with what its first page gives of its length. -/
def State.groupPages (s : State) (c : EngCmd) : List (Nat × Bool) :=
  let n := (s.peek c.cx (wd c.words 1) 2).getD 0
  ((distinct (runPages (wd c.words 1) (8 + 2 * (if 512 < n then 0 else n)))).map fun p => (p, false)).filter fun p => c.pages.all fun q => q.1 ≠ p.1

/-- The group of a command whose descriptor could not be read at submission is read when it starts: a page of the descriptor that is not
translated is walked, with its record and its wait (R178); a descriptor that then proves malformed, or unreadable although it is translated, completes the
command with STATUS 2 (log 39). The ranges that it registered give way to those of the group, once the table has room (R180). -/
def State.colGroup (s : State) (c : EngCmd) : State :=
  match s.groupAt c.cx (wd c.words 1) with
  | some g =>
    let others := s.core.locks.filter fun l => l.cmd ≠ c.id
    let own := colLocks c.id c.cx c.words g.length
    if !groupFits s c.words g then (s.countGroup c.cx (wd c.words 1)).setHead 2 { c with started := true, status := some 2 }
    else if 64 < others.length + s.core.peerLocks.length + own.length then s
    else
      ((s.countGroup c.cx (wd c.words 1)).updCore fun k => { k with locks := others ++ own }).setHead 2
        { c with idx := g, todo := (colPages c.words g.length).filter fun p => c.pages.all fun q => q.1 ≠ p.1 }
  | none =>
    if s.groupPages c = [] then s.setHead 2 { c with started := true, status := some 2 }
    else s.setHead 2 { c with todo := s.groupPages c }

/-- A command that has been accepted goes on: its next chunk, or its result. Where it meets a bad word it writes nothing, and the address comes
with it (R415). -/
def State.colRun (s : State) (c : EngCmd) : State × EngCmd × Option Nat :=
  match s.sendChunk c with
  | some x => (x.1, x.2, none)
  | none => match s.colCheck c with
    | some pa => (s, c, some pa)
    | none =>
      let n := colDst c.words c.idx.length * colSize c.words
      let x := s.stageRun c (wd c.words 3) n
      if x.2 then (x.1.runCollective c, { c with bytes := n, status := some 0 }, none) else (x.1, c, none)

/-- The core of a collective takes the machine check of a bad word, once (R415). -/
def State.colError (s : State) (pa : Nat) : State :=
  if s.core.preempt.isSome then s else (s.pmError s.core.cfg.cx pa).request 0x1DF 0

/-- A record (R181). -/
def recordOf (c : EngCmd) (status queue bytes : Nat) (lost : Bool) : Word64 :=
  BitVec.ofNat 64 (cmdTag c.words + status * 2 ^ 16 + cmdOp c.words * 2 ^ 20 + queue * 2 ^ 24 + b2n lost * 2 ^ 31 + bytes % 2 ^ 32 * 2 ^ 32)

/-- What a saved launch keeps of its collective; a command that is over leaves its pages, and its completion record stands in the launch record (R178,
R402, R404). -/
def State.setKept (s : State) (x : SavedLaunch) (c : EngCmd) : State :=
  let ended := c.status.isSome
  let s := if ended then s.unpinAll x.core.cfg.die c else s
  let c := if ended then { c with pages := [] } else c
  let s := if ended then s.homeWriteRun (x.base + 32) 16 (1 + (recordOf c (c.status.getD 0).toNat 0 c.bytes false).toNat * 2 ^ 64) else s
  s.updDev fun d => { d with saved := d.saved.map fun y => if y.job.id = x.job.id then { y with col := some c } else y }

/-- The collective of a saved launch has met a bad word: the launch ends by the machine check (R415). -/
def State.failKept (s : State) (x : SavedLaunch) (c : EngCmd) : State :=
  ((s.endStreams c).unpinAll x.core.cfg.die c).updDev fun d =>
    { d with saved := d.saved.map fun y => if y.job.id = x.job.id then { y with col := none, cause := 0x1DF } else y }

/-- The collective command at the head: it is accepted, its chunks are sent, then its result is written. One of a saved launch runs on first. -/
def State.colStep (s : State) (op : Nat) : State :=
  match s.colKept, s.headCmd 2 with
  | some (x, c), _ =>
    if cmdOp c.words ≠ op then s
    else
      let y := s.colRun c
      match y.2.2 with
      | some pa => (s.pmError c.cx pa).failKept x c
      | none => y.1.setKept x y.2.1
  | none, none => s
  | none, some c =>
    if cmdOp c.words ≠ op then s
    else if s.mayStart 2 c && s.colJob.isNone then
      if s.anyStruck (cmdLocs c.id) then s.agentStrike (cmdLocs c.id)
      else if c.status.isSome then s.setHead 2 { c with started := true }
      else if c.idx = [] then
        match s.groupBad c.cx (wd c.words 1) with
        | some pa => s.colError pa
        | none => s.colGroup c
      else if s.seqFresh c.idx (wd c.words 5) then
        let x := (s.acceptSeq c.idx (wd c.words 5)).beginCol s.core.cfg.die c
        x.1.setHead 2 x.2
      else s.setHead 2 { c with started := true, status := some 3 }
    else if c.started ∧ c.status = none then
      let y := s.colRun c
      match y.2.2 with
      | some pa => s.colError pa
      | none => y.1.setHead 2 y.2.1
    else s

/-- R182: all-reduce. -/
def execAllReduce (s : State) : Out := .next (s.colStep 0)
/-- R182: reduce-scatter. -/
def execReduceScatter (s : State) : Out := .next (s.colStep 1)
/-- R182: all-gather. -/
def execAllGather (s : State) : Out := .next (s.colStep 2)
/-- R182: broadcast. -/
def execBroadcast (s : State) : Out := .next (s.colStep 3)

/-- One more incomplete result of a command: it is sent again from its first chunk, and the eighth in a row abandons it. -/
def EngCmd.incomplete (c : EngCmd) : EngCmd :=
  if 7 ≤ c.tries then { c with tries := 8, status := some 4 } else { c with tries := c.tries + 1, pos := 0 }

/-- A command that has contributions on a reduction stream: it has started, has no status, and its OP reduces (R239, R240). -/
def EngCmd.streaming (c : EngCmd) : Bool := c.started && c.status.isNone && decide (cmdOp c.words ≤ 1)

/-- R240: an incomplete reply has the command issued again under its SEQ, and the eighth in a row abandons it. The mask of
ranks changes nothing in the package. Every reply counts as one result, also those of several planes to one issue, of which the rule does not say
(DESIGN CHOICE, log 73). -/
def execCollectiveIncompleteReply (_mask : BitVec 512) (s : State) : Out :=
  let again := fun (c : EngCmd) => if c.streaming then c.incomplete else c
  .next (match s.colKept, s.headCmd 2, s.colJob with
    | some (x, c), _, _ => if c.streaming then (s.endStreams c).setKept x c.incomplete else s
    | none, _, some j =>
      let s := (j.cmd.map s.endStreams).getD s
      s.updDev fun d => { d with jobs := d.jobs.map fun k => if k.id = j.id then { k with cmd := k.cmd.map again } else k }
    | none, some c, none => if c.streaming then (s.endStreams c).setHead 2 c.incomplete else s
    | none, none, none => s)

/-! ### Completion (R181) -/

/-- The command at the head has nothing more to write. -/
def State.finished (s : State) (ch : Nat) (c : EngCmd) : Bool :=
  c.started && (c.status.isSome || (c.running && decide (ch < 2) && (s.move c c.pos).isNone))

/-- The first command of a channel that a host-tier page has refused: it completes at once, out of its turn (R178, R360). -/
def State.refusedCmd (s : State) (ch : Nat) : Option EngCmd := (s.engineQ ch).cmds.find? fun c => c.atOnce

/-- The command that completes next: one that completes out of its turn, or the one at the head. -/
def State.doneCmd (s : State) (ch : Nat) : Option EngCmd :=
  s.refusedCmd ch <|> if (s.engineQ ch).blocked.isEmpty then (s.headCmd ch).filter fun c => s.finished ch c else none

/-- The pointer's final value: just past the highest destination byte, or the destination's start. -/
def State.finalWptr (s : State) (ch : Nat) (c : EngCmd) : State :=
  let key := s.sideKey c.words .dst
  let base := key / 2 ^ 21 * 2 ^ 21
  if cmdWpadv c.words && decide (ch < 2) && c.status.isNone then
    s.setWptr base ch (key % 2 ^ 21 + (sideSpan c.words c.idx .dst).2.toNat)
  else s

/-- A failed command's record goes to the submitter's part of e3, or is lost. -/
def State.faultRec (s : State) (ch : Nat) (c : EngCmd) (status : Nat) : State :=
  let pawn := c.byPawn.isSome
  s.updEngine 3 fun q =>
    let lost := if pawn then q.lostPawn else q.lostPrim
    if (q.recs pawn).length < recCap 3 then
      let q := q.setRecs pawn (q.recs pawn ++ [recordOf c status ch 0 lost])
      if pawn then { q with lostPawn := false } else { q with lostPrim := false }
    else if pawn then { q with lostPawn := true }
    else { q with lostPrim := true }

/-- The record of a completed command: pushed, or held while the part is full. -/
def EngQueue.complete (q : EngQueue) (pawn : Bool) (v : Word64) (ch : Nat) : EngQueue :=
  if (q.recs pawn).length < recCap ch ∧ q.blocked.all fun x => x.1 ≠ pawn then q.setRecs pawn (q.recs pawn ++ [v])
  else { q with blocked := q.blocked ++ [(pawn, v)] }

/-- The first held record whose part has room. -/
def EngQueue.pushable (q : EngQueue) (ch : Nat) : Option (Bool × Word64) := q.blocked.find? fun x => decide ((q.recs x.1).length < recCap ch)

/-- A command of a channel completes: locks, pins, pointer and record, in this order. -/
def State.completeCmd (s : State) (ch : Nat) (c : EngCmd) : State :=
  let st := (c.status.getD 0).toNat
  let s := s.agentStrike (c.pages.map fun p => .pin (pinKey s.core.cfg.die (p.2.2 / 65536)))
  let s := s.updCore fun k => { k with locks := k.locks.filter fun l => l.cmd ≠ c.id }
  let s := ((s.unpinAll s.core.cfg.die c).finalWptr ch c).updEngine ch fun q => { q with cmds := q.cmds.filter fun x => x.id ≠ c.id }
  let s := (if st = 0 then s else s.faultRec ch c st).traceEngine 6 c.byPawn (cmdTag c.words) (cmdOp c.words) ch st
  if cmdRec c.words then s.updEngine ch fun q => q.complete c.byPawn.isSome (recordOf c st 0 c.bytes false) ch else s

/-- R181: a command that is over completes. -/
def execEngineCommandCompletion (ch : Nat) (s : State) : Out :=
  .next (match s.doneCmd ch with
    | none => s
    | some c => s.completeCmd ch c)

/-- R181: a held record is pushed once its part has room. -/
def execCompletionRecordPush (ch : Nat) (s : State) : Out :=
  .next (match (s.engineQ ch).pushable ch with
    | none => s
    | some (pawn, v) => s.updEngine ch fun q => ({ q with blocked := q.blocked.erase (pawn, v) } : EngQueue).setRecs pawn (q.recs pawn ++ [v]))

/-! ### What waits on engines -/

/-- An engine submission of the primary waits for the driver: cause 6 (R63, R178). -/
def State.cause6 (s : State) : Bool :=
  s.core.engQ.toList.any fun q => q.cmds.any fun c => c.byPawn.isNone && (c.fault.isSome || c.failed)

/-- The core's channels are idle (R94). -/
def State.enginesIdle (s : State) : Bool :=
  s.core.engQ.toList.all fun q => q.cmds.isEmpty && q.blocked.isEmpty

end Sys2Proof.Machine
end

