-- ==== Sys2Proof/Machine/Moves.lean ====
section
/-! DEFINITION. The move order of a deterministic launch (18_determinism R333 to R338): a visit commits the chunk of a slot of the
modelled core, squashes it, or passes. Between the core's last slot and its first the order visits the other cores, which the
agents of the turn stand for (log 4). -/

namespace Sys2Proof.Machine

/-- The move order runs on the core. -/
def State.movesRun (s : State) : Bool := s.core.cfg.running && s.core.cfg.det && !s.core.saving && decide (0 < s.core.cfg.nthreads)

/-- Major, fn and fields of the closing op of a chunk. -/
def Ctx.major (c : Ctx) : Nat := bits c.word.toNat 25 6
def Ctx.fn (c : Ctx) : Nat := bits c.word.toNat 0 7

/-- The closing op is of a major and function. -/
def Chunk.closes (c : Chunk) (major fn : Nat) : Bool :=
  match c.closing with
  | some x => decide (x.major = major) && decide (x.fn = fn)
  | none => false

/-- Register field of the closing op: bit offset in its word. -/
def Chunk.field (c : Chunk) (off : Nat) : Field6 :=
  match c.closing with
  | some x => BitVec.ofNat 6 (bits x.word.toNat off 6)
  | none => 0

/-- The thread's operands as the closing op read them at its issue (R61). -/
def State.closingView (s : State) (t : Nat) (c : Chunk) : State := (s.setCtx (agentCtx (.pawn t))).updPawn t fun p => p.withOperands c.src

/-- The ring of a closing ringget holds no record. -/
def State.ringEmpty (s : State) (t : Nat) (c : Chunk) : Bool :=
  let u := s.closingView t c
  match u.ringKey false (u.readS (c.field 13)) with
  | none => false
  | some key => match readRing s.lm key with
    | none => false
    | some r => decide ((skipPads s.lm (coreBase key + r.base) 2 r).used = 0)

/-- The closing monwait has a timeout, and as many rounds have passed it (R337). -/
def State.roundsUp (s : State) (t : Nat) (c : Chunk) : Bool :=
  let n := ((s.closingView t c).readS (c.field 7)).toNat % 2 ^ 32
  decide (n ≠ 0) && decide (n ≤ c.passed)

/-- The thread is parked in a wait of R337 whose condition is false on committed state. -/
def State.moveWaits (s : State) (t : Nat) : Bool :=
  let p := s.pawn t
  let c := p.chunk
  c.ended &&
    if c.closes 0x3B 1 then !p.wakes && !s.roundsUp t c
    else if c.closes 0x3C 1 then !p.mboxFull
    else if c.closes 0x3C 3 then s.ringEmpty t c
    else if c.closes 0x3D 1 then s.core.tasks.isEmpty
    else false

/-- The order goes on to the next slot of the core; after the last a round has ended. -/
def State.moveOn (s : State) : State :=
  s.updCore fun c =>
    let last := decide (c.cfg.nthreads ≤ c.moveNext + 1)
    { c with
      moveNext := if last then 0 else c.moveNext + 1
      moveRound := if last then c.moveRound + 1 else c.moveRound
      moveHere := false
      moveOpen := false }

/-- A new chunk begins. -/
def Chunk.fresh (p : Pawn) : Chunk := ⟨p.toPawnRegs, 0, [], [], [], [], [], [], false, false, none, p.toPawnRegs, 0, false⟩

/-- The thread stands at the start of its chunk again. -/
def Pawn.rerun (p : Pawn) : Pawn :=
  let q := { p with
    toPawnRegs := p.chunk.start
    buf := []
    status := .running
    detsq := if p.detsq = BitVec.allOnes 32 then p.detsq else p.detsq + 1 }
  { q with chunk := { Chunk.fresh q with passed := p.chunk.passed } }

/-- The chunk is run again from its start: registers and buffers are as they were, and what it has written is dropped; the rounds that passed a wait
still count (R336, R337). -/
def State.squash (s : State) (t : Nat) : State := s.updPawn t Pawn.rerun

/-- The bytes of a chunk are written through to their homes, as one step (R336); each line is a request of its home, under the class of its page (R368). -/
def State.commitWrites (s : State) (c : Chunk) : State :=
  (distinct (c.writes.map fun x => x.1 / 64)).foldl
    (fun s n => s.countHome (64 * n) ((c.classes.find? fun x => x.1 = n).map fun x => x.2) s.core.cfg.cx)
    (c.writes.foldl (fun s x => s.homeWrite x.1 1 x.2.toNat) s)

/-- Bad codewords and bad bank words that a chunk's bytes cover whole are good again (R415). -/
def State.healCells (s : State) (pm lm : List Host.Cell) : State :=
  let whole := fun (l : List Host.Cell) (n w : Nat) => (List.range n).all fun i => l.any fun c => decide (c.1 = n * w + i)
  { s with badPm := s.badPm.filter fun w => !whole pm 32 w, badLm := s.badLm.filter fun w => !whole lm 8 w }

/-- The bytes of a chunk in local memory are written, as one step with the others (R336, log 72). -/
def State.commitLocal (s : State) (l : List Host.Cell) : State := l.foldl (fun s c => (s.lmWrite c.1 1 c.2.toNat).staleLocal c.1 1) s

/-- The chunk commits; its closing op is performed by the next step, and the order waits for it at the slot. A monwait whose
condition or timeout has come completes at once. -/
def State.commitChunk (s : State) (t : Nat) : State :=
  let c := (s.pawn t).chunk
  let up := s.roundsUp t c
  let s := ((s.commitWrites c).commitLocal c.lmWrites).healCells c.writes c.lmWrites
  let s := s.updPawn t fun p =>
    let q := { p with status := .running, detchk := p.detchk + 1 }
    { q with chunk := { Chunk.fresh q with src := c.src } }
  let s := s.updCore fun k => { k with moveHere := true, moveOpen := true }
  if c.closes 0x3B 1 then
    let d := c.field 19
    s.monComplete t (if d = 0 then .discard else .s d.toNat) true up
  else match c.closing with
    | some x => s.updCore fun k => { k with commitOp := some { x with commit := true, checked := true } }
    | none => s

/-- The visit passes. -/
def State.movePass (s : State) (t : Nat) : State :=
  (s.updPawn t fun p => { p with chunk := { p.chunk with passed := p.chunk.passed + 1 } }).moveOn

/-- The closing op of the committed chunk is complete. -/
def Pawn.closed (p : Pawn) : Bool :=
  match p.status with
  | .switching => false
  | .fencing _ => false
  | .exiting => false
  | .waking => false
  | .mailWait _ _ => false
  | .taskWait _ _ => false
  | .monWait _ _ _ => false
  | _ => p.quiet

/-- R336: the move order visits the slot of thread t. -/
def execMoveOrderVisit (t : Nat) (s : State) : Out :=
  .next (let p := s.pawn t
    if !s.movesRun || decide (s.core.moveNext ≠ t) || s.core.commitOp.isSome then s
    else if s.core.moveOpen then (if p.closed && !s.engParked t then s.moveOn else s)
    else if p.status = .absent ∨ p.status = .exited then s.moveOn
    else if p.chunk.full then
      (s.updCore fun c => { c with moveHere := true }).updPawn t fun p => { p with chunk := { p.chunk with full := false } }
    else if !p.quiet then s
    else if s.moveWaits t then s.movePass t
    else if p.chunk.ended then (if p.chunk.stale then s.squash t else s.commitChunk t)
    else s.updCore fun c => { c with moveHere := true })

/-- The visit at the slot that the order has reached has something to do. -/
def State.moveSteps (s : State) : List (Ctx × Instr) :=
  let t := s.core.moveNext
  let p := s.pawn t
  let go :=
    if s.core.moveOpen then p.closed && !s.engParked t
    else decide (p.status = .absent) || decide (p.status = .exited) ||
      p.chunk.full || (p.quiet && (p.chunk.ended || !s.core.moveHere))
  if s.movesRun && s.core.commitOp.isNone && go then [(({} : Ctx), .moveOrderVisit t)] else []

end Sys2Proof.Machine
end

