-- ==== Sys2Proof/Machine/Sha.lean ====
section
/-! DEFINITION. SHA-256 (25_trust R380, R383 to R386) as FIPS 180-4 states it, which the manual names without restating it
(log 8), and how a digest stands in registers. -/

namespace Sys2Proof.Machine

/-- The first half of the round constants. -/
def shaK0 : List Word32 := [
  0x428a2f98#32, 0x71374491#32, 0xb5c0fbcf#32, 0xe9b5dba5#32, 0x3956c25b#32, 0x59f111f1#32, 0x923f82a4#32, 0xab1c5ed5#32,
  0xd807aa98#32, 0x12835b01#32, 0x243185be#32, 0x550c7dc3#32, 0x72be5d74#32, 0x80deb1fe#32, 0x9bdc06a7#32, 0xc19bf174#32,
  0xe49b69c1#32, 0xefbe4786#32, 0x0fc19dc6#32, 0x240ca1cc#32, 0x2de92c6f#32, 0x4a7484aa#32, 0x5cb0a9dc#32, 0x76f988da#32,
  0x983e5152#32, 0xa831c66d#32, 0xb00327c8#32, 0xbf597fc7#32, 0xc6e00bf3#32, 0xd5a79147#32, 0x06ca6351#32, 0x14292967#32]

/-- The second half. -/
def shaK1 : List Word32 := [
  0x27b70a85#32, 0x2e1b2138#32, 0x4d2c6dfc#32, 0x53380d13#32, 0x650a7354#32, 0x766a0abb#32, 0x81c2c92e#32, 0x92722c85#32,
  0xa2bfe8a1#32, 0xa81a664b#32, 0xc24b8b70#32, 0xc76c51a3#32, 0xd192e819#32, 0xd6990624#32, 0xf40e3585#32, 0x106aa070#32,
  0x19a4c116#32, 0x1e376c08#32, 0x2748774c#32, 0x34b0bcb5#32, 0x391c0cb3#32, 0x4ed8aa4a#32, 0x5b9cca4f#32, 0x682e6ff3#32,
  0x748f82ee#32, 0x78a5636f#32, 0x84c87814#32, 0x8cc70208#32, 0x90befffa#32, 0xa4506ceb#32, 0xbef9a3f7#32, 0xc67178f2#32]

/-- The eight words of the running hash. -/
structure ShaState where
  a : Word32
  b : Word32
  c : Word32
  d : Word32
  e : Word32
  f : Word32
  g : Word32
  h : Word32
deriving DecidableEq, Repr

def shaInit : ShaState :=
  ⟨0x6a09e667#32, 0xbb67ae85#32, 0x3c6ef372#32, 0xa54ff53a#32, 0x510e527f#32, 0x9b05688c#32, 0x1f83d9ab#32, 0x5be0cd19#32⟩

/-- One round with its constant and schedule word. -/
def shaRound (s : ShaState) (kw : Word32 × Word32) : ShaState :=
  let s1 := s.e.rotateRight 6 ^^^ s.e.rotateRight 11 ^^^ s.e.rotateRight 25
  let ch := (s.e &&& s.f) ^^^ (~~~s.e &&& s.g)
  let t1 := s.h + s1 + ch + kw.1 + kw.2
  let s0 := s.a.rotateRight 2 ^^^ s.a.rotateRight 13 ^^^ s.a.rotateRight 22
  let maj := (s.a &&& s.b) ^^^ (s.a &&& s.c) ^^^ (s.b &&& s.c)
  ⟨t1 + (s0 + maj), s.a, s.b, s.c, s.d + t1, s.e, s.f, s.g⟩

/-- The schedule, the latest word first: n more words after those given. -/
def shaExtend : Nat → List Word32 → List Word32
  | 0, l => l
  | n + 1, l =>
    let w := fun i => l.getD i 0
    let x := w 14
    let y := w 1
    let s0 := x.rotateRight 7 ^^^ x.rotateRight 18 ^^^ (x >>> 3)
    let s1 := y.rotateRight 17 ^^^ y.rotateRight 19 ^^^ (y >>> 10)
    shaExtend n ((w 15 + s0 + w 6 + s1) :: l)

/-- Sixteen words of a block, big-endian. -/
def shaWords : Nat → List Byte → List Word32
  | 0, _ => []
  | n + 1, a :: b :: c :: d :: l => (a ++ b ++ c ++ d : BitVec 32) :: shaWords n l
  | _ + 1, _ => []

/-- One block of 64 bytes. -/
def shaBlock (s : ShaState) (block : List Byte) : ShaState :=
  let w := (shaExtend 48 (shaWords 16 block).reverse).reverse
  let t := ((shaK0 ++ shaK1).zip w).foldl shaRound s
  ⟨s.a + t.a, s.b + t.b, s.c + t.c, s.d + t.d, s.e + t.e, s.f + t.f, s.g + t.g, s.h + t.h⟩

/-- The blocks of a padded message; the number bounds them. -/
def shaBlocks : Nat → ShaState → List Byte → ShaState
  | 0, s, _ => s
  | n + 1, s, l => if l = [] then s else shaBlocks n (shaBlock s (l.take 64)) (l.drop 64)

/-- The bytes of a number, n of them, highest first. -/
def bytesBig (n x : Nat) : List Byte := ((List.range n).map fun i => BitVec.ofNat 8 (x / 256 ^ i)).reverse

/-- The bytes of a number, n of them, lowest first. -/
def bytesLittle (n x : Nat) : List Byte := (List.range n).map fun i => BitVec.ofNat 8 (x / 256 ^ i)

/-- The SHA-256 digest of a message, 32 bytes in digest order. -/
def sha256 (m : List Byte) : List Byte :=
  let zeros := (119 - m.length % 64) % 64
  let padded := m ++ [0x80#8] ++ List.replicate zeros 0#8 ++ bytesBig 8 (8 * m.length)
  let s := shaBlocks (padded.length / 64) shaInit padded
  [s.a, s.b, s.c, s.d, s.e, s.f, s.g, s.h].flatMap fun x => bytesBig 4 x.toNat

/-- The number whose lowest byte is the first of a list. -/
def ofBytes : List Byte → Nat
  | [] => 0
  | b :: l => b.toNat + 256 * ofBytes l

/-- A run of registers of 8 bytes takes a list of bytes, the first at the lowest offset. -/
def State.setRegBytes (s : State) (off : Nat) (l : List Byte) : State :=
  (List.range ((l.length + 7) / 8)).foldl (fun s i => s.setDevReg (off + 8 * i) (ofBytes ((l.drop (8 * i)).take 8))) s

/-- n bytes of a run of registers. -/
def State.regBytes (s : State) (off n : Nat) : List Byte :=
  ((List.range ((n + 7) / 8)).flatMap fun i => bytesLittle 8 (s.devReg (off + 8 * i))).take n

end Sys2Proof.Machine
end

