-- ==== Sys2Proof/WellFormed.lean ====
section
/-! DEFINITION. Which op words are assigned beyond the fixed bits of their row: the conditions on field values that the
entries state (R31, R42, R83, R159, R200, R273, R274, R278, R283, R296, R312). A step of another agent has no word and is
well-formed whatever its arguments. -/

namespace Sys2Proof

/-- The field values that the entry of the instruction assigns (R32, R46 subcause 0). -/
def Instr.wellFormed : Instr → Bool
  | .loop _ _ i => decide (i.toNat < 4096)
  | .calli _ _ a _ => decide (a.toNat ≠ 0)
  | .jr _ a _ => decide (a.toNat ≠ 0)
  | .fadd _ _ _ _ r => decide (r.toNat ≤ 4)
  | .fsub _ _ _ _ r => decide (r.toNat ≤ 4)
  | .fmul _ _ _ _ r => decide (r.toNat ≤ 4)
  | .fdiv _ _ _ _ r => decide (r.toNat ≤ 4)
  | .fsqrt _ _ _ r => decide (r.toNat ≤ 4)
  | .cvtFI _ _ _ r => decide (r.toNat ≤ 4)
  | .cvtFU _ _ _ r => decide (r.toNat ≤ 4)
  | .cvtIF _ _ _ r => decide (r.toNat ≤ 4)
  | .cvtUF _ _ _ r => decide (r.toNat ≤ 4)
  | .cvtBfF _ _ _ r => decide (r.toNat ≤ 4)
  | .cvtHF _ _ _ r => decide (r.toNat ≤ 4)
  | .zld _ _ _ n g => decide (g.toNat + n.toNat + 1 ≤ 8)
  | .zst _ _ n g => decide (g.toNat + n.toNat + 1 ≤ 8)
  | .zbind _ z _ => decide (z ≠ 0x20#6)
  | .zamax _ _ n g => decide (g.toNat + n.toNat + 1 ≤ 8)
  | .vadd _ _ _ _ r => decide (r.toNat ≤ 4)
  | .vsub _ _ _ _ r => decide (r.toNat ≤ 4)
  | .vmul _ _ _ _ r => decide (r.toNat ≤ 4)
  | .vdiv _ _ _ _ r => decide (r.toNat ≤ 4)
  | .vsqrt _ _ _ r => decide (r.toNat ≤ 4)
  | .vfma _ _ _ _ r => decide (r.toNat ≤ 4)
  | .vfms _ _ _ _ r => decide (r.toNat ≤ 4)
  | .vfnma _ _ _ _ r => decide (r.toNat ≤ 4)
  | .vquant _ d _ b _ => decide (d ≠ b)
  | .vquantRs _ d _ b _ => decide (d ≠ b)
  | .vcvtFI _ _ _ r => decide (r.toNat ≤ 4)
  | .vcvtIF _ _ _ r => decide (r.toNat ≤ 4)
  | .vcvtBfF _ _ _ r => decide (r.toNat ≤ 4)
  | .vcvtHF _ _ _ r => decide (r.toNat ≤ 4)
  | .vcompress _ _ _ m => decide (m.toNat ≤ 32)
  | .vexpand _ _ _ m => decide (m.toNat ≤ 32)
  | .vscanAdd _ _ _ m => decide (m.toNat ≤ 32)
  | .vscanMax _ _ _ m => decide (m.toNat ≤ 32)
  | .vscanIadd _ _ _ m => decide (m.toNat ≤ 32)
  | .vredAdd _ _ _ m => decide (m.toNat ≤ 32)
  | .vredMax _ _ _ m => decide (m.toNat ≤ 32)
  | .vredMin _ _ _ m => decide (m.toNat ≤ 32)
  | .vredIadd _ _ _ m => decide (m.toNat ≤ 32)
  | .vargmax _ _ _ m => decide (m.toNat ≤ 32)
  | .mma y _ _ _ f => decide (y.toNat ≤ 4 ∧ (y = 0 ∨ f = 0))
  | .mmaFwd y _ _ _ f => decide (y.toNat ≤ 4 ∧ (y = 0 ∨ f = 0))
  | .mmaSat y _ _ _ f => decide (y.toNat ≤ 4 ∧ (y = 0 ∨ f = 0))
  | .mmaFwdSat y _ _ _ f => decide (y.toNat ≤ 4 ∧ (y = 0 ∨ f = 0))
  | .ldacq _ _ _ _ s => decide (s.toNat ≤ 4)
  | .strel _ _ _ _ s => decide (s.toNat ≤ 4)
  | .monclr _ n => decide (n.toNat ≤ 4)
  | .nop _
  | .br _ _
  | .brT _ _ _
  | .brF _ _ _
  | .call _ _ _
  | .holdEq _ _
  | .holdNe _ _
  | .holdLt _ _
  | .holdGe _ _
  | .holdLtu _ _
  | .holdGeu _ _
  | .holdEqWp _ _
  | .holdNeWp _ _
  | .holdLtWp _ _
  | .holdGeWp _ _
  | .holdLtuWp _ _
  | .holdGeuWp _ _
  | .tempo _
  | .tempoAny
  | .eqw _ _ _
  | .eqr _ _ _
  | .eqcnt _ _ _
  | .trap _ _
  | .brk _
  | .sret _
  | .ibar
  | .exit _
  | .fenceCore _
  | .fenceClus _
  | .fenceDie _
  | .fencePkg _
  | .fenceSys _
  | .xfenceCore _
  | .xfenceClus _
  | .xfenceDie _
  | .xfencePkg _
  | .xfenceSys _
  | .csrr _ _ _
  | .csrw _ _ _
  | .add _ _ _ _
  | .sub _ _ _ _
  | .and _ _ _ _
  | .or _ _ _ _
  | .xor _ _ _ _
  | .andn _ _ _ _
  | .min _ _ _ _
  | .max _ _ _ _
  | .minu _ _ _ _
  | .maxu _ _ _ _
  | .addw _ _ _ _
  | .subw _ _ _ _
  | .mov _ _ _
  | .addi _ _ _ _
  | .andi _ _ _ _
  | .ori _ _ _ _
  | .lui _ _ _
  | .cmpEq _ _ _ _
  | .cmpNe _ _ _ _
  | .cmpLt _ _ _ _
  | .cmpGe _ _ _ _
  | .cmpLtu _ _ _ _
  | .cmpGeu _ _ _ _
  | .pand _ _ _ _
  | .por _ _ _ _
  | .pxor _ _ _ _
  | .pandn _ _ _ _
  | .pnot _ _ _
  | .cmpiEq _ _ _ _
  | .cmpiNe _ _ _ _
  | .cmpiLt _ _ _ _
  | .cmpiGe _ _ _ _
  | .shl _ _ _ _
  | .shr _ _ _ _
  | .sar _ _ _ _
  | .rotl _ _ _ _
  | .rotr _ _ _ _
  | .clz _ _ _
  | .ctz _ _ _
  | .popc _ _ _
  | .bswap _ _ _
  | .bfx _ _ _ _
  | .bfxu _ _ _ _
  | .bfi _ _ _ _
  | .shli _ _ _ _
  | .shri _ _ _ _
  | .sari _ _ _ _
  | .rotli _ _ _ _
  | .mul _ _ _ _
  | .mulh _ _ _ _
  | .mulhu _ _ _ _
  | .mulw _ _ _ _
  | .div _ _ _ _
  | .divu _ _ _ _
  | .rem _ _ _ _
  | .remu _ _ _ _
  | .fmin _ _ _ _
  | .fmax _ _ _ _
  | .fabs _ _ _
  | .fneg _ _ _
  | .fcmpEq _ _ _ _
  | .fcmpLt _ _ _ _
  | .fcmpLe _ _ _ _
  | .fcmpUn _ _ _ _
  | .cvtFBf _ _ _
  | .cvtFH _ _ _
  | .ibw _ _
  | .ibr _ _
  | .ppack _ _
  | .punpk _ _
  | .sel _ _ _ _ _
  | .cwld _ _ _
  | .ldb _ _ _ _
  | .ldbu _ _ _ _
  | .ldh _ _ _ _
  | .ldhu _ _ _ _
  | .ldw _ _ _ _
  | .ldwu _ _ _ _
  | .ld _ _ _ _
  | .stb _ _ _ _
  | .sth _ _ _ _
  | .stw _ _ _ _
  | .st _ _ _ _
  | .vld _ _ _
  | .vst _ _ _
  | .vldh _ _ _ _
  | .vsth _ _ _ _
  | .vldb _ _ _ _
  | .tld _ _
  | .tldBind _ _ _
  | .tst _ _
  | .vgathW _ _ _ _
  | .vgathH _ _ _ _
  | .vgathB _ _ _ _
  | .vscatW _ _ _ _
  | .vscatH _ _ _ _
  | .vscatB _ _ _ _
  | .lmadd _ _ _ _
  | .lmxchg _ _ _ _
  | .lmcas _ _ _ _
  | .lmmin _ _ _ _
  | .lmmax _ _ _ _
  | .lmand _ _ _ _
  | .lmor _ _ _ _
  | .flrel _ _ _
  | .flacq _ _ _
  | .rld _ _ _
  | .rst _ _ _
  | .rvld _ _ _
  | .rvst _ _ _
  | .rqput _ _
  | .zbindNone _
  | .zbindw _ _ _
  | .zgenZ _ _
  | .zgenT _ _
  | .zgenW _ _
  | .zmul _ _ _ _
  | .zadde _ _ _ _
  | .zmax _ _ _ _
  | .zcvt _ _ _ _
  | .zfill _ _ _ _
  | .zmov _ _ _
  | .vmin _ _ _ _
  | .vmax _ _ _ _
  | .vabs _ _ _
  | .vneg _ _ _
  | .viadd _ _ _ _
  | .visub _ _ _ _
  | .vimul _ _ _ _
  | .viand _ _ _ _
  | .vior _ _ _ _
  | .vixor _ _ _ _
  | .vishl _ _ _ _
  | .vishr _ _ _ _
  | .visar _ _ _ _
  | .vimin _ _ _ _
  | .vimax _ _ _ _
  | .viminu _ _ _ _
  | .vimaxu _ _ _ _
  | .vcmpEq _ _ _ _
  | .vcmpLt _ _ _ _
  | .vcmpLe _ _ _ _
  | .vcmpUn _ _ _ _
  | .vicmpEq _ _ _ _
  | .vicmpLt _ _ _ _
  | .vicmpLtu _ _ _ _
  | .vsel _ _ _ _ _
  | .mand _ _ _ _
  | .mor _ _ _ _
  | .mxor _ _ _ _
  | .mnot _ _ _
  | .mpop _ _ _
  | .mmovToMask _ _ _
  | .mmovFromMask _ _ _
  | .vpack _ _ _ _
  | .vunpack _ _ _ _
  | .vpackRs _ _ _ _
  | .vcvtFBf _ _ _
  | .vcvtFH _ _ _
  | .vnarrowI8 _ _ _
  | .vnarrowI4 _ _ _
  | .vwidenI8 _ _ _
  | .vwidenI4 _ _ _
  | .vperm _ _ _ _
  | .vbcl _ _ _ _
  | .vbcs _ _ _
  | .vrot _ _ _ _
  | .vext _ _ _ _
  | .vins _ _ _ _
  | .vcx _ _ _ _
  | .vcxD _ _ _ _
  | .vmrg _ _ _ _
  | .vmrgD _ _ _ _
  | .vdraw _ _ _ _
  | .vdrawF _ _ _ _
  | .vexp2 _ _ _
  | .vrcp _ _ _
  | .vrsqrt _ _ _
  | .vlog2 _ _ _
  | .mldw _ _ _ _
  | .mldwS _ _ _ _
  | .mrd _ _ _ _
  | .mclr _
  | .gldb _ _ _ _
  | .gldbu _ _ _ _
  | .gldh _ _ _ _
  | .gldhu _ _ _ _
  | .gldw _ _ _ _
  | .gldwu _ _ _ _
  | .gld _ _ _ _
  | .gstb _ _ _ _
  | .gsth _ _ _ _
  | .gstw _ _ _ _
  | .gst _ _ _ _
  | .gaadd _ _ _ _ _
  | .gaswap _ _ _ _ _
  | .gacas _ _ _ _ _
  | .gamin _ _ _ _ _
  | .gamax _ _ _ _ _
  | .gaminu _ _ _ _ _
  | .gamaxu _ _ _ _ _
  | .gaand _ _ _ _ _
  | .gaor _ _ _ _ _
  | .gaxor _ _ _ _ _
  | .gafadd _ _ _ _
  | .scadd _ _ _ _
  | .scswap _ _ _ _
  | .sccas _ _ _ _
  | .scld _ _ _
  | .scst _ _ _
  | .monarm _ _ _
  | .monarmLm _ _ _
  | .monwait _ _ _
  | .mbput _ _ _ _
  | .mbget _ _
  | .ringput _ _ _ _
  | .ringget _ _ _ _
  | .callat _ _ _ _
  | .twait _
  | .rqclm _ _ _
  | .resultLanding
  | .pawnSwitchRejoin _
  | .pawnLmGrant _
  | .pawnFetch _
  | .pawnPushRetry _
  | .remoteLoadReply
  | .remoteStorePerformed
  | .remoteStoreAck
  | .tileLoaderRow
  | .weightLoaderGranule
  | .watchdogExpiry
  | .trapEntry _
  | .pawnTrapEntry _
  | .doorbell _ _ _
  | .launch _
  | .launchPlacement _
  | .corePartComplete
  | .launchCompletion _
  | .queueCopy _
  | .queueCollective _
  | .hostNotification _
  | .eventWait _
  | .eventWaitRecheck _
  | .conditional _
  | .runGraph _
  | .graphNodeStart _ _
  | .graphNodeCompletion _
  | .hostRingTimeExpiry _
  | .hrptrWrite _ _
  | .loadLevelling
  | .featlockWrite _
  | .copy _
  | .copy2d _
  | .split _
  | .gather _
  | .scatter _
  | .fill _
  | .wpset _
  | .allReduce
  | .reduceScatter
  | .allGather
  | .broadcast
  | .engineCommandCompletion _
  | .completionRecordPush _
  | .collectiveIncompleteReply _
  | .pawnCacheFill _
  | .homeAtomic _
  | .atomicReply _
  | .scWindowClose
  | .monitorRegisterAck _ _
  | .monitorHit _ _
  | .monwaitTimeout _
  | .mailboxDeposit _ _ _
  | .ackLanding _ _
  | .ringOperation _
  | .taskEntryArrival _ _ _ _ _ _
  | .rowClaimReply _
  | .translationWalk _
  | .fqrespWalkAgain _ _
  | .fqrespDeliver _ _
  | .tlbinv _ _
  | .tlbinvFlush _ _
  | .tlbinvCompletion
  | .beatRaise
  | .beatArrival
  | .tickExchange _
  | .tickStamp _ _
  | .beatOverdue
  | .portDeposit _ _ _ _ _
  | .heartbeat _
  | .heartbeatLoss _
  | .moveOrderVisit _
  | .preemptionRequest _
  | .contextSave
  | .contextRestore _
  | .ctxslotWrite _ _
  | .ctxslotEvict _
  | .evictionCompletion _
  | .sintrWrite _ _
  | .accountingBoundary _ _
  | .acctclr _
  | .accountingReadout _ _
  | .getVersion
  | .getCapabilities
  | .negotiateAlgorithms
  | .getDigests
  | .getCertificate _ _
  | .challenge _
  | .getMeasurements _ _
  | .unsupportedSpdmRequest _
  | .quoteStart _
  | .quoteSigned
  | .patrolScrub _ _ _
  | .selfTestVerdict _ _ _ _
  | .linkRetrainTimeout _
  | .dbgHaltreq _
  | .dbgResume _
  | .breakpointHit _
  | .watchpointHit _ _ _ _
  | .crossTriggerHalt _
  | .dumpStart _
  | .dumpPageSend
  | .coldReset
  | .conventionalReset
  | .functionLevelReset
  | .inputUndervoltage
  | .registerWrite _ _
  | .hostApertureAccess _ _ _
  | .fabricWrite _ _
  | .planeMaskChange _
  | .inputVoltageChange _ => true

end Sys2Proof
end

