-- ==== Sys2Proof/Decode.lean ====
section
/-! DEFINITION. The decoder and the encoder of op words and bundles (02_encoding R26 to R46). The decoder is total:
a word that no row of the opcode map assigns is rejected by name. Lean compiles no function that builds a constructor past the
244th, so the decoder is marked noncomputable; it is structural all the same and the kernel evaluates it. Register ranges, places and modes are no matter of
decoding; Machine/Checks.lean holds them (R46 subcauses 1 and 3, R89). -/

namespace Sys2Proof

/-- Why a word or a bundle is refused (R46 subcauses 0 and 2). -/
inductive DecodeError where
  /-- A reserved or unassigned major (R40). -/
  | unassignedMajor
  /-- An unassigned function, kind, variant or condition of an assigned major, or a nonzero field that must be zero. -/
  | unassignedWord
  /-- A field value that the entry of the instruction does not assign (Instr.wellFormed). -/
  | unassignedField
  /-- Fewer bytes than an instruction needs. -/
  | tooShort
  /-- The bundle header breaks R28: bit 0 clear, bits [31:19] nonzero, SUR[0] set, or a misplaced IX flag. -/
  | header
  /-- A surrender that R34 forbids, with the slot that holds the op. -/
  | surrender (slot : Nat)
  /-- Slot `slot` holds a refused word. -/
  | slotWord (slot : Nat)
deriving DecidableEq, Repr

/-- The op word of R29: switch marker, major, d, a and bits [12:0]. -/
def mkWord (k : Bool) (mj d a : BitVec 6) (lo : BitVec 13) : BitVec 32 :=
  (BitVec.ofBool k ++ mj ++ d ++ a ++ lo : BitVec 32)

/-- The switch marker, bit 31 (R29). -/
def wordK (w : BitVec 32) : Bool := w.getLsbD 31
/-- The major opcode, bits [30:25] (R29). -/
def wordMajor (w : BitVec 32) : BitVec 6 := w.extractLsb' 25 6
/-- Field d, bits [24:19] (R29). -/
def wordD (w : BitVec 32) : BitVec 6 := w.extractLsb' 19 6
/-- Field a, bits [18:13] (R29). -/
def wordA (w : BitVec 32) : BitVec 6 := w.extractLsb' 13 6
/-- Bits [12:0] (R29). -/
def wordLo (w : BitVec 32) : BitVec 13 := w.extractLsb' 0 13

/-- Major 0x00 (R40): NOP. -/
def decodeMajor00 (k : Bool) (d a : BitVec 6) (lo : BitVec 13) : Option Instr :=
  if lo = 0x0#13 ∧ d = 0x0#6 ∧ a = 0x0#6 then some (.nop k)
  else none

/-- Major 0x01 (R40): BR, BR_T, BR_F. -/
def decodeMajor01 (k : Bool) (d a : BitVec 6) (lo : BitVec 13) : Option Instr :=
  if d = 0x0#6 ∧ a = 0x0#6 then some (.br k lo)
  else if d.extractLsb' 4 2 = 0x1#2 ∧ a = 0x0#6 then some (.brT k (d.extractLsb' 0 4) lo)
  else if d.extractLsb' 4 2 = 0x2#2 ∧ a = 0x0#6 then some (.brF k (d.extractLsb' 0 4) lo)
  else none

/-- Major 0x02 (R40): LOOP. -/
def decodeMajor02 (_k : Bool) (d a : BitVec 6) (lo : BitVec 13) : Option Instr :=
  if d.extractLsb' 1 5 = 0x0#5 then some (.loop (d.extractLsb' 0 1) a lo)
  else none

/-- Major 0x03 (R40): CALL, CALLI, JR. -/
def decodeMajor03 (k : Bool) (d a : BitVec 6) (lo : BitVec 13) : Option Instr :=
  if d.extractLsb' 5 1 = 0x1#1 ∧ a = 0x0#6 then some (.call k (d.extractLsb' 0 5) lo)
  else if d.extractLsb' 5 1 = 0x1#1 then some (.calli k (d.extractLsb' 0 5) a lo)
  else if d = 0x0#6 then some (.jr k a lo)
  else none

/-- Major 0x04 (R40): HOLD_EQ, HOLD_NE, HOLD_LT, HOLD_GE, HOLD_LTU, HOLD_GEU, HOLD_EQ_WP, HOLD_NE_WP, HOLD_LT_WP, HOLD_GE_WP, HOLD_LTU_WP, HOLD_GEU_WP, TEMPO, TEMPO_ANY. -/
def decodeMajor04 (_k : Bool) (d a : BitVec 6) (lo : BitVec 13) : Option Instr :=
  if lo.extractLsb' 0 7 = 0x0#7 ∧ d = 0x0#6 then some (.holdEq a (lo.extractLsb' 7 6))
  else if lo.extractLsb' 0 7 = 0x1#7 ∧ d = 0x0#6 then some (.holdNe a (lo.extractLsb' 7 6))
  else if lo.extractLsb' 0 7 = 0x2#7 ∧ d = 0x0#6 then some (.holdLt a (lo.extractLsb' 7 6))
  else if lo.extractLsb' 0 7 = 0x3#7 ∧ d = 0x0#6 then some (.holdGe a (lo.extractLsb' 7 6))
  else if lo.extractLsb' 0 7 = 0x4#7 ∧ d = 0x0#6 then some (.holdLtu a (lo.extractLsb' 7 6))
  else if lo.extractLsb' 0 7 = 0x5#7 ∧ d = 0x0#6 then some (.holdGeu a (lo.extractLsb' 7 6))
  else if lo.extractLsb' 0 7 = 0x0#7 ∧ d.extractLsb' 1 5 = 0x10#5 ∧ a = 0x0#6 then some (.holdEqWp (d.extractLsb' 0 1) (lo.extractLsb' 7 6))
  else if lo.extractLsb' 0 7 = 0x1#7 ∧ d.extractLsb' 1 5 = 0x10#5 ∧ a = 0x0#6 then some (.holdNeWp (d.extractLsb' 0 1) (lo.extractLsb' 7 6))
  else if lo.extractLsb' 0 7 = 0x2#7 ∧ d.extractLsb' 1 5 = 0x10#5 ∧ a = 0x0#6 then some (.holdLtWp (d.extractLsb' 0 1) (lo.extractLsb' 7 6))
  else if lo.extractLsb' 0 7 = 0x3#7 ∧ d.extractLsb' 1 5 = 0x10#5 ∧ a = 0x0#6 then some (.holdGeWp (d.extractLsb' 0 1) (lo.extractLsb' 7 6))
  else if lo.extractLsb' 0 7 = 0x4#7 ∧ d.extractLsb' 1 5 = 0x10#5 ∧ a = 0x0#6 then some (.holdLtuWp (d.extractLsb' 0 1) (lo.extractLsb' 7 6))
  else if lo.extractLsb' 0 7 = 0x5#7 ∧ d.extractLsb' 1 5 = 0x10#5 ∧ a = 0x0#6 then some (.holdGeuWp (d.extractLsb' 0 1) (lo.extractLsb' 7 6))
  else if lo = 0x8#13 ∧ d = 0x0#6 then some (.tempo a)
  else if lo = 0x9#13 ∧ d = 0x0#6 ∧ a = 0x0#6 then some (.tempoAny)
  else none

/-- Major 0x05 (R40): EQW, EQR, EQCNT. -/
def decodeMajor05 (k : Bool) (d a : BitVec 6) (lo : BitVec 13) : Option Instr :=
  if lo = 0x0#13 then some (.eqw k d a)
  else if lo = 0x1#13 then some (.eqr k d a)
  else if lo = 0x2#13 then some (.eqcnt k d a)
  else none

/-- Major 0x06 (R40): TRAP, BRK, SRET, IBAR, EXIT, FENCE_CORE, FENCE_CLUS, FENCE_DIE, FENCE_PKG, FENCE_SYS, XFENCE_CORE, XFENCE_CLUS, XFENCE_DIE, XFENCE_PKG, XFENCE_SYS. -/
def decodeMajor06 (k : Bool) (d a : BitVec 6) (lo : BitVec 13) : Option Instr :=
  if lo = 0x0#13 ∧ d = 0x0#6 then some (.trap k a)
  else if lo = 0x1#13 ∧ d = 0x0#6 ∧ a = 0x0#6 then some (.brk k)
  else if lo = 0x2#13 ∧ d = 0x0#6 ∧ a = 0x0#6 then some (.sret k)
  else if lo = 0x3#13 ∧ d = 0x0#6 ∧ a = 0x0#6 then some (.ibar)
  else if lo = 0x4#13 ∧ d = 0x0#6 ∧ a = 0x0#6 then some (.exit k)
  else if lo = 0x8#13 ∧ d = 0x0#6 ∧ a = 0x0#6 then some (.fenceCore k)
  else if lo = 0x9#13 ∧ d = 0x0#6 ∧ a = 0x0#6 then some (.fenceClus k)
  else if lo = 0xA#13 ∧ d = 0x0#6 ∧ a = 0x0#6 then some (.fenceDie k)
  else if lo = 0xB#13 ∧ d = 0x0#6 ∧ a = 0x0#6 then some (.fencePkg k)
  else if lo = 0xC#13 ∧ d = 0x0#6 ∧ a = 0x0#6 then some (.fenceSys k)
  else if lo = 0x10#13 ∧ d = 0x0#6 ∧ a = 0x0#6 then some (.xfenceCore k)
  else if lo = 0x11#13 ∧ d = 0x0#6 ∧ a = 0x0#6 then some (.xfenceClus k)
  else if lo = 0x12#13 ∧ d = 0x0#6 ∧ a = 0x0#6 then some (.xfenceDie k)
  else if lo = 0x13#13 ∧ d = 0x0#6 ∧ a = 0x0#6 then some (.xfencePkg k)
  else if lo = 0x14#13 ∧ d = 0x0#6 ∧ a = 0x0#6 then some (.xfenceSys k)
  else none

/-- Major 0x07 (R40): CSRR, CSRW. -/
def decodeMajor07 (k : Bool) (d a : BitVec 6) (lo : BitVec 13) : Option Instr :=
  if lo.extractLsb' 12 1 = 0x0#1 ∧ a = 0x0#6 then some (.csrr k d (lo.extractLsb' 0 12))
  else if lo.extractLsb' 12 1 = 0x1#1 ∧ d = 0x0#6 then some (.csrw k a (lo.extractLsb' 0 12))
  else none

/-- Major 0x08 (R40): ADD, SUB, AND, OR, XOR, ANDN, MIN, MAX, MINU, MAXU, ADDW, SUBW, MOV. -/
def decodeMajor08 (k : Bool) (d a : BitVec 6) (lo : BitVec 13) : Option Instr :=
  if lo.extractLsb' 0 7 = 0x0#7 then some (.add k d a (lo.extractLsb' 7 6))
  else if lo.extractLsb' 0 7 = 0x1#7 then some (.sub k d a (lo.extractLsb' 7 6))
  else if lo.extractLsb' 0 7 = 0x2#7 then some (.and k d a (lo.extractLsb' 7 6))
  else if lo.extractLsb' 0 7 = 0x3#7 then some (.or k d a (lo.extractLsb' 7 6))
  else if lo.extractLsb' 0 7 = 0x4#7 then some (.xor k d a (lo.extractLsb' 7 6))
  else if lo.extractLsb' 0 7 = 0x5#7 then some (.andn k d a (lo.extractLsb' 7 6))
  else if lo.extractLsb' 0 7 = 0x6#7 then some (.min k d a (lo.extractLsb' 7 6))
  else if lo.extractLsb' 0 7 = 0x7#7 then some (.max k d a (lo.extractLsb' 7 6))
  else if lo.extractLsb' 0 7 = 0x8#7 then some (.minu k d a (lo.extractLsb' 7 6))
  else if lo.extractLsb' 0 7 = 0x9#7 then some (.maxu k d a (lo.extractLsb' 7 6))
  else if lo.extractLsb' 0 7 = 0xA#7 then some (.addw k d a (lo.extractLsb' 7 6))
  else if lo.extractLsb' 0 7 = 0xB#7 then some (.subw k d a (lo.extractLsb' 7 6))
  else if lo = 0xC#13 then some (.mov k d a)
  else none

/-- Major 0x09 (R40): ADDI. -/
def decodeMajor09 (k : Bool) (d a : BitVec 6) (lo : BitVec 13) : Option Instr :=
  if True then some (.addi k d a lo)
  else none

/-- Major 0x0A (R40): ANDI. -/
def decodeMajor0A (k : Bool) (d a : BitVec 6) (lo : BitVec 13) : Option Instr :=
  if True then some (.andi k d a lo)
  else none

/-- Major 0x0B (R40): ORI. -/
def decodeMajor0B (k : Bool) (d a : BitVec 6) (lo : BitVec 13) : Option Instr :=
  if True then some (.ori k d a lo)
  else none

/-- Major 0x0C (R40): LUI. -/
def decodeMajor0C (k : Bool) (d a : BitVec 6) (lo : BitVec 13) : Option Instr :=
  if a = 0x0#6 then some (.lui k d lo)
  else none

/-- Major 0x0D (R40): CMP_EQ, CMP_NE, CMP_LT, CMP_GE, CMP_LTU, CMP_GEU, PAND, POR, PXOR, PANDN, PNOT. -/
def decodeMajor0D (k : Bool) (d a : BitVec 6) (lo : BitVec 13) : Option Instr :=
  if lo.extractLsb' 0 7 = 0x0#7 then some (.cmpEq k d a (lo.extractLsb' 7 6))
  else if lo.extractLsb' 0 7 = 0x1#7 then some (.cmpNe k d a (lo.extractLsb' 7 6))
  else if lo.extractLsb' 0 7 = 0x2#7 then some (.cmpLt k d a (lo.extractLsb' 7 6))
  else if lo.extractLsb' 0 7 = 0x3#7 then some (.cmpGe k d a (lo.extractLsb' 7 6))
  else if lo.extractLsb' 0 7 = 0x4#7 then some (.cmpLtu k d a (lo.extractLsb' 7 6))
  else if lo.extractLsb' 0 7 = 0x5#7 then some (.cmpGeu k d a (lo.extractLsb' 7 6))
  else if lo.extractLsb' 0 7 = 0x8#7 then some (.pand k d a (lo.extractLsb' 7 6))
  else if lo.extractLsb' 0 7 = 0x9#7 then some (.por k d a (lo.extractLsb' 7 6))
  else if lo.extractLsb' 0 7 = 0xA#7 then some (.pxor k d a (lo.extractLsb' 7 6))
  else if lo.extractLsb' 0 7 = 0xB#7 then some (.pandn k d a (lo.extractLsb' 7 6))
  else if lo = 0xC#13 then some (.pnot k d a)
  else none

/-- Major 0x0E (R40): CMPI_EQ, CMPI_NE, CMPI_LT, CMPI_GE. -/
def decodeMajor0E (k : Bool) (d a : BitVec 6) (lo : BitVec 13) : Option Instr :=
  if d.extractLsb' 4 2 = 0x0#2 then some (.cmpiEq k (d.extractLsb' 0 4) a lo)
  else if d.extractLsb' 4 2 = 0x1#2 then some (.cmpiNe k (d.extractLsb' 0 4) a lo)
  else if d.extractLsb' 4 2 = 0x2#2 then some (.cmpiLt k (d.extractLsb' 0 4) a lo)
  else if d.extractLsb' 4 2 = 0x3#2 then some (.cmpiGe k (d.extractLsb' 0 4) a lo)
  else none

/-- Major 0x0F (R40): SHL, SHR, SAR, ROTL, ROTR, CLZ, CTZ, POPC, BSWAP, BFX, BFXU, BFI. -/
def decodeMajor0F (k : Bool) (d a : BitVec 6) (lo : BitVec 13) : Option Instr :=
  if lo.extractLsb' 0 7 = 0x0#7 then some (.shl k d a (lo.extractLsb' 7 6))
  else if lo.extractLsb' 0 7 = 0x1#7 then some (.shr k d a (lo.extractLsb' 7 6))
  else if lo.extractLsb' 0 7 = 0x2#7 then some (.sar k d a (lo.extractLsb' 7 6))
  else if lo.extractLsb' 0 7 = 0x3#7 then some (.rotl k d a (lo.extractLsb' 7 6))
  else if lo.extractLsb' 0 7 = 0x4#7 then some (.rotr k d a (lo.extractLsb' 7 6))
  else if lo = 0x5#13 then some (.clz k d a)
  else if lo = 0x6#13 then some (.ctz k d a)
  else if lo = 0x7#13 then some (.popc k d a)
  else if lo = 0x8#13 then some (.bswap k d a)
  else if lo.extractLsb' 0 7 = 0x9#7 then some (.bfx k d a (lo.extractLsb' 7 6))
  else if lo.extractLsb' 0 7 = 0xA#7 then some (.bfxu k d a (lo.extractLsb' 7 6))
  else if lo.extractLsb' 0 7 = 0xB#7 then some (.bfi k d a (lo.extractLsb' 7 6))
  else none

/-- Major 0x10 (R40): SHLI, SHRI, SARI, ROTLI. -/
def decodeMajor10 (k : Bool) (d a : BitVec 6) (lo : BitVec 13) : Option Instr :=
  if lo.extractLsb' 0 7 = 0x0#7 then some (.shli k d a (lo.extractLsb' 7 6))
  else if lo.extractLsb' 0 7 = 0x1#7 then some (.shri k d a (lo.extractLsb' 7 6))
  else if lo.extractLsb' 0 7 = 0x2#7 then some (.sari k d a (lo.extractLsb' 7 6))
  else if lo.extractLsb' 0 7 = 0x3#7 then some (.rotli k d a (lo.extractLsb' 7 6))
  else none

/-- Major 0x11 (R40): MUL, MULH, MULHU, MULW, DIV, DIVU, REM, REMU. -/
def decodeMajor11 (k : Bool) (d a : BitVec 6) (lo : BitVec 13) : Option Instr :=
  if lo.extractLsb' 0 7 = 0x0#7 then some (.mul k d a (lo.extractLsb' 7 6))
  else if lo.extractLsb' 0 7 = 0x1#7 then some (.mulh k d a (lo.extractLsb' 7 6))
  else if lo.extractLsb' 0 7 = 0x2#7 then some (.mulhu k d a (lo.extractLsb' 7 6))
  else if lo.extractLsb' 0 7 = 0x3#7 then some (.mulw k d a (lo.extractLsb' 7 6))
  else if lo.extractLsb' 0 7 = 0x4#7 then some (.div k d a (lo.extractLsb' 7 6))
  else if lo.extractLsb' 0 7 = 0x5#7 then some (.divu k d a (lo.extractLsb' 7 6))
  else if lo.extractLsb' 0 7 = 0x6#7 then some (.rem k d a (lo.extractLsb' 7 6))
  else if lo.extractLsb' 0 7 = 0x7#7 then some (.remu k d a (lo.extractLsb' 7 6))
  else none

/-- Major 0x12 (R40): FADD, FSUB, FMUL, FDIV, FSQRT, FMIN, FMAX, FABS, FNEG, FCMP_EQ, FCMP_LT, FCMP_LE, FCMP_UN. -/
def decodeMajor12 (k : Bool) (d a : BitVec 6) (lo : BitVec 13) : Option Instr :=
  if lo.extractLsb' 0 4 = 0x0#4 then some (.fadd k d a (lo.extractLsb' 7 6) (lo.extractLsb' 4 3))
  else if lo.extractLsb' 0 4 = 0x1#4 then some (.fsub k d a (lo.extractLsb' 7 6) (lo.extractLsb' 4 3))
  else if lo.extractLsb' 0 4 = 0x2#4 then some (.fmul k d a (lo.extractLsb' 7 6) (lo.extractLsb' 4 3))
  else if lo.extractLsb' 0 4 = 0x3#4 then some (.fdiv k d a (lo.extractLsb' 7 6) (lo.extractLsb' 4 3))
  else if lo.extractLsb' 7 6 = 0x0#6 ∧ lo.extractLsb' 0 4 = 0x4#4 then some (.fsqrt k d a (lo.extractLsb' 4 3))
  else if lo.extractLsb' 0 7 = 0x5#7 then some (.fmin k d a (lo.extractLsb' 7 6))
  else if lo.extractLsb' 0 7 = 0x6#7 then some (.fmax k d a (lo.extractLsb' 7 6))
  else if lo = 0x7#13 then some (.fabs k d a)
  else if lo = 0x8#13 then some (.fneg k d a)
  else if lo.extractLsb' 0 7 = 0x9#7 then some (.fcmpEq k d a (lo.extractLsb' 7 6))
  else if lo.extractLsb' 0 7 = 0xA#7 then some (.fcmpLt k d a (lo.extractLsb' 7 6))
  else if lo.extractLsb' 0 7 = 0xB#7 then some (.fcmpLe k d a (lo.extractLsb' 7 6))
  else if lo.extractLsb' 0 7 = 0xC#7 then some (.fcmpUn k d a (lo.extractLsb' 7 6))
  else none

/-- Major 0x13 (R40): CVT_F_I, CVT_F_U, CVT_I_F, CVT_U_F, CVT_BF_F, CVT_H_F, CVT_F_BF, CVT_F_H. -/
def decodeMajor13 (k : Bool) (d a : BitVec 6) (lo : BitVec 13) : Option Instr :=
  if lo.extractLsb' 7 6 = 0x0#6 ∧ lo.extractLsb' 0 4 = 0x0#4 then some (.cvtFI k d a (lo.extractLsb' 4 3))
  else if lo.extractLsb' 7 6 = 0x0#6 ∧ lo.extractLsb' 0 4 = 0x1#4 then some (.cvtFU k d a (lo.extractLsb' 4 3))
  else if lo.extractLsb' 7 6 = 0x0#6 ∧ lo.extractLsb' 0 4 = 0x2#4 then some (.cvtIF k d a (lo.extractLsb' 4 3))
  else if lo.extractLsb' 7 6 = 0x0#6 ∧ lo.extractLsb' 0 4 = 0x3#4 then some (.cvtUF k d a (lo.extractLsb' 4 3))
  else if lo.extractLsb' 7 6 = 0x0#6 ∧ lo.extractLsb' 0 4 = 0x4#4 then some (.cvtBfF k d a (lo.extractLsb' 4 3))
  else if lo.extractLsb' 7 6 = 0x0#6 ∧ lo.extractLsb' 0 4 = 0x5#4 then some (.cvtHF k d a (lo.extractLsb' 4 3))
  else if lo = 0x6#13 then some (.cvtFBf k d a)
  else if lo = 0x7#13 then some (.cvtFH k d a)
  else none

/-- Major 0x14 (R40): IBW, IBR, PPACK, PUNPK, SEL. -/
def decodeMajor14 (k : Bool) (d a : BitVec 6) (lo : BitVec 13) : Option Instr :=
  if lo = 0x0#13 then some (.ibw d a)
  else if lo = 0x1#13 then some (.ibr d a)
  else if lo = 0x2#13 ∧ a = 0x0#6 then some (.ppack k d)
  else if lo = 0x3#13 ∧ d = 0x0#6 then some (.punpk k a)
  else if lo.extractLsb' 4 3 = 0x1#3 then some (.sel k d a (lo.extractLsb' 7 6) (lo.extractLsb' 0 4))
  else none

/-- Major 0x15 (R40): CWLD. -/
def decodeMajor15 (k : Bool) (d a : BitVec 6) (lo : BitVec 13) : Option Instr :=
  if lo.extractLsb' 8 5 = 0x0#5 ∧ a = 0x0#6 then some (.cwld k d (lo.extractLsb' 0 8))
  else none

/-- Major 0x16 (R40): LDB, LDBU, LDH, LDHU, LDW, LDWU, LD. -/
def decodeMajor16 (k : Bool) (d a : BitVec 6) (lo : BitVec 13) : Option Instr :=
  if lo.extractLsb' 10 3 = 0x0#3 then some (.ldb k d a (lo.extractLsb' 0 10))
  else if lo.extractLsb' 10 3 = 0x1#3 then some (.ldbu k d a (lo.extractLsb' 0 10))
  else if lo.extractLsb' 10 3 = 0x2#3 then some (.ldh k d a (lo.extractLsb' 0 10))
  else if lo.extractLsb' 10 3 = 0x3#3 then some (.ldhu k d a (lo.extractLsb' 0 10))
  else if lo.extractLsb' 10 3 = 0x4#3 then some (.ldw k d a (lo.extractLsb' 0 10))
  else if lo.extractLsb' 10 3 = 0x5#3 then some (.ldwu k d a (lo.extractLsb' 0 10))
  else if lo.extractLsb' 10 3 = 0x6#3 then some (.ld k d a (lo.extractLsb' 0 10))
  else none

/-- Major 0x17 (R40): STB, STH, STW, ST. -/
def decodeMajor17 (k : Bool) (d a : BitVec 6) (lo : BitVec 13) : Option Instr :=
  if lo.extractLsb' 10 3 = 0x0#3 then some (.stb k d a (lo.extractLsb' 0 10))
  else if lo.extractLsb' 10 3 = 0x2#3 then some (.sth k d a (lo.extractLsb' 0 10))
  else if lo.extractLsb' 10 3 = 0x4#3 then some (.stw k d a (lo.extractLsb' 0 10))
  else if lo.extractLsb' 10 3 = 0x6#3 then some (.st k d a (lo.extractLsb' 0 10))
  else none

/-- Major 0x18 (R40): VLD, VST, VLDH, VSTH, VLDB. -/
def decodeMajor18 (k : Bool) (d a : BitVec 6) (lo : BitVec 13) : Option Instr :=
  if lo.extractLsb' 10 3 = 0x0#3 then some (.vld d a (lo.extractLsb' 0 10))
  else if lo.extractLsb' 10 3 = 0x1#3 then some (.vst d a (lo.extractLsb' 0 10))
  else if lo.extractLsb' 10 3 = 0x2#3 then some (.vldh k d a (lo.extractLsb' 0 10))
  else if lo.extractLsb' 10 3 = 0x3#3 then some (.vsth k d a (lo.extractLsb' 0 10))
  else if lo.extractLsb' 10 3 = 0x4#3 then some (.vldb k d a (lo.extractLsb' 0 10))
  else none

/-- Major 0x19 (R40): TLD, TLD_BIND, TST. -/
def decodeMajor19 (_k : Bool) (d a : BitVec 6) (lo : BitVec 13) : Option Instr :=
  if lo = 0x0#13 ∧ d.extractLsb' 4 2 = 0x0#2 then some (.tld (d.extractLsb' 0 4) a)
  else if lo.extractLsb' 12 1 = 0x0#1 ∧ lo.extractLsb' 0 7 = 0x0#7 ∧ d.extractLsb' 4 2 = 0x2#2 then some (.tldBind (d.extractLsb' 0 4) a (lo.extractLsb' 7 5))
  else if lo = 0x1#13 ∧ d.extractLsb' 4 2 = 0x0#2 then some (.tst (d.extractLsb' 0 4) a)
  else none

/-- Major 0x1A (R40): VGATH_W, VGATH_H, VGATH_B, VSCAT_W, VSCAT_H, VSCAT_B. -/
def decodeMajor1A (k : Bool) (d a : BitVec 6) (lo : BitVec 13) : Option Instr :=
  if lo.extractLsb' 0 7 = 0x0#7 then some (.vgathW k d a (lo.extractLsb' 7 6))
  else if lo.extractLsb' 0 7 = 0x1#7 then some (.vgathH k d a (lo.extractLsb' 7 6))
  else if lo.extractLsb' 0 7 = 0x2#7 then some (.vgathB k d a (lo.extractLsb' 7 6))
  else if lo.extractLsb' 0 7 = 0x4#7 then some (.vscatW k d a (lo.extractLsb' 7 6))
  else if lo.extractLsb' 0 7 = 0x5#7 then some (.vscatH k d a (lo.extractLsb' 7 6))
  else if lo.extractLsb' 0 7 = 0x6#7 then some (.vscatB k d a (lo.extractLsb' 7 6))
  else none

/-- Major 0x1B (R40): LMADD, LMXCHG, LMCAS, LMMIN, LMMAX, LMAND, LMOR. -/
def decodeMajor1B (k : Bool) (d a : BitVec 6) (lo : BitVec 13) : Option Instr :=
  if lo.extractLsb' 0 7 = 0x0#7 then some (.lmadd k d a (lo.extractLsb' 7 6))
  else if lo.extractLsb' 0 7 = 0x1#7 then some (.lmxchg k d a (lo.extractLsb' 7 6))
  else if lo.extractLsb' 0 7 = 0x2#7 then some (.lmcas k d a (lo.extractLsb' 7 6))
  else if lo.extractLsb' 0 7 = 0x3#7 then some (.lmmin k d a (lo.extractLsb' 7 6))
  else if lo.extractLsb' 0 7 = 0x4#7 then some (.lmmax k d a (lo.extractLsb' 7 6))
  else if lo.extractLsb' 0 7 = 0x5#7 then some (.lmand k d a (lo.extractLsb' 7 6))
  else if lo.extractLsb' 0 7 = 0x6#7 then some (.lmor k d a (lo.extractLsb' 7 6))
  else none

/-- Major 0x1C (R40): FLREL, FLACQ. -/
def decodeMajor1C (k : Bool) (d a : BitVec 6) (lo : BitVec 13) : Option Instr :=
  if lo = 0x0#13 then some (.flrel k d a)
  else if lo = 0x1#13 then some (.flacq k d a)
  else none

/-- Major 0x1D (R40): RLD, RST, RVLD, RVST, RQPUT. -/
def decodeMajor1D (k : Bool) (d a : BitVec 6) (lo : BitVec 13) : Option Instr :=
  if lo = 0x0#13 then some (.rld k d a)
  else if lo = 0x1#13 then some (.rst k d a)
  else if lo = 0x2#13 then some (.rvld k d a)
  else if lo = 0x3#13 then some (.rvst k d a)
  else if lo = 0x4#13 ∧ d = 0x0#6 then some (.rqput k a)
  else none

/-- Major 0x1E (R40): ZLD, ZST. -/
noncomputable def decodeMajor1E (_k : Bool) (d a : BitVec 6) (lo : BitVec 13) : Option Instr :=
  if lo.extractLsb' 0 7 = 0x0#7 then some (.zld (d.extractLsb' 5 1) (d.extractLsb' 0 5) a (lo.extractLsb' 10 3) (lo.extractLsb' 7 3))
  else if lo.extractLsb' 0 7 = 0x1#7 ∧ d.extractLsb' 5 1 = 0x0#1 then some (.zst (d.extractLsb' 0 5) a (lo.extractLsb' 10 3) (lo.extractLsb' 7 3))
  else none

/-- Major 0x1F (R40): ZBIND, ZBIND_NONE, ZBINDW, ZGEN_Z, ZGEN_T, ZGEN_W. -/
noncomputable def decodeMajor1F (_k : Bool) (d a : BitVec 6) (lo : BitVec 13) : Option Instr :=
  if lo = 0x0#13 ∧ a = 0x20#6 then some (.zbindNone d)
  else if lo.extractLsb' 10 3 = 0x0#3 ∧ lo.extractLsb' 0 7 = 0x0#7 then some (.zbind d a (lo.extractLsb' 7 3))
  else if lo.extractLsb' 10 3 = 0x0#3 ∧ lo.extractLsb' 0 7 = 0x1#7 then some (.zbindw d a (lo.extractLsb' 7 3))
  else if lo = 0x2#13 then some (.zgenZ d a)
  else if lo = 0x82#13 then some (.zgenT d a)
  else if lo = 0x102#13 then some (.zgenW d a)
  else none

/-- Major 0x20 (R40): ZMUL, ZADDE, ZMAX, ZCVT, ZFILL, ZMOV, ZAMAX. -/
noncomputable def decodeMajor20 (_k : Bool) (d a : BitVec 6) (lo : BitVec 13) : Option Instr :=
  if lo.extractLsb' 0 6 = 0x0#6 ∧ d.extractLsb' 5 1 = 0x0#1 then some (.zmul (d.extractLsb' 0 5) a (lo.extractLsb' 7 6) (lo.extractLsb' 6 1))
  else if lo.extractLsb' 0 6 = 0x1#6 ∧ d.extractLsb' 5 1 = 0x0#1 then some (.zadde (d.extractLsb' 0 5) a (lo.extractLsb' 7 6) (lo.extractLsb' 6 1))
  else if lo.extractLsb' 0 6 = 0x2#6 ∧ d.extractLsb' 5 1 = 0x0#1 then some (.zmax (d.extractLsb' 0 5) a (lo.extractLsb' 7 6) (lo.extractLsb' 6 1))
  else if lo.extractLsb' 7 6 = 0x0#6 ∧ lo.extractLsb' 0 6 = 0x3#6 then some (.zcvt (d.extractLsb' 5 1) (d.extractLsb' 0 5) a (lo.extractLsb' 6 1))
  else if lo.extractLsb' 7 6 = 0x0#6 ∧ lo.extractLsb' 0 6 = 0x5#6 then some (.zfill (d.extractLsb' 5 1) (d.extractLsb' 0 5) a (lo.extractLsb' 6 1))
  else if lo.extractLsb' 7 6 = 0x0#6 ∧ lo.extractLsb' 0 6 = 0x6#6 ∧ d.extractLsb' 5 1 = 0x0#1 then some (.zmov (d.extractLsb' 0 5) a (lo.extractLsb' 6 1))
  else if lo.extractLsb' 0 7 = 0x4#7 then some (.zamax d a (lo.extractLsb' 10 3) (lo.extractLsb' 7 3))
  else none

/-- Major 0x22 (R40): VADD, VSUB, VMUL, VDIV, VMIN, VMAX, VABS, VNEG, VSQRT. -/
noncomputable def decodeMajor22 (k : Bool) (d a : BitVec 6) (lo : BitVec 13) : Option Instr :=
  if lo.extractLsb' 0 4 = 0x0#4 then some (.vadd k d a (lo.extractLsb' 7 6) (lo.extractLsb' 4 3))
  else if lo.extractLsb' 0 4 = 0x1#4 then some (.vsub k d a (lo.extractLsb' 7 6) (lo.extractLsb' 4 3))
  else if lo.extractLsb' 0 4 = 0x2#4 then some (.vmul k d a (lo.extractLsb' 7 6) (lo.extractLsb' 4 3))
  else if lo.extractLsb' 0 4 = 0x3#4 then some (.vdiv k d a (lo.extractLsb' 7 6) (lo.extractLsb' 4 3))
  else if lo.extractLsb' 0 7 = 0x4#7 then some (.vmin k d a (lo.extractLsb' 7 6))
  else if lo.extractLsb' 0 7 = 0x5#7 then some (.vmax k d a (lo.extractLsb' 7 6))
  else if lo = 0x6#13 then some (.vabs k d a)
  else if lo = 0x7#13 then some (.vneg k d a)
  else if lo.extractLsb' 7 6 = 0x0#6 ∧ lo.extractLsb' 0 4 = 0x8#4 then some (.vsqrt k d a (lo.extractLsb' 4 3))
  else none

/-- Major 0x23 (R40): VFMA, VFMS, VFNMA. -/
noncomputable def decodeMajor23 (k : Bool) (d a : BitVec 6) (lo : BitVec 13) : Option Instr :=
  if lo.extractLsb' 0 4 = 0x0#4 then some (.vfma k d a (lo.extractLsb' 7 6) (lo.extractLsb' 4 3))
  else if lo.extractLsb' 0 4 = 0x1#4 then some (.vfms k d a (lo.extractLsb' 7 6) (lo.extractLsb' 4 3))
  else if lo.extractLsb' 0 4 = 0x2#4 then some (.vfnma k d a (lo.extractLsb' 7 6) (lo.extractLsb' 4 3))
  else none

/-- Major 0x24 (R40): VIADD, VISUB, VIMUL, VIAND, VIOR, VIXOR, VISHL, VISHR, VISAR, VIMIN, VIMAX, VIMINU, VIMAXU. -/
noncomputable def decodeMajor24 (k : Bool) (d a : BitVec 6) (lo : BitVec 13) : Option Instr :=
  if lo.extractLsb' 0 7 = 0x0#7 then some (.viadd k d a (lo.extractLsb' 7 6))
  else if lo.extractLsb' 0 7 = 0x1#7 then some (.visub k d a (lo.extractLsb' 7 6))
  else if lo.extractLsb' 0 7 = 0x2#7 then some (.vimul k d a (lo.extractLsb' 7 6))
  else if lo.extractLsb' 0 7 = 0x3#7 then some (.viand k d a (lo.extractLsb' 7 6))
  else if lo.extractLsb' 0 7 = 0x4#7 then some (.vior k d a (lo.extractLsb' 7 6))
  else if lo.extractLsb' 0 7 = 0x5#7 then some (.vixor k d a (lo.extractLsb' 7 6))
  else if lo.extractLsb' 0 7 = 0x6#7 then some (.vishl k d a (lo.extractLsb' 7 6))
  else if lo.extractLsb' 0 7 = 0x7#7 then some (.vishr k d a (lo.extractLsb' 7 6))
  else if lo.extractLsb' 0 7 = 0x8#7 then some (.visar k d a (lo.extractLsb' 7 6))
  else if lo.extractLsb' 0 7 = 0x9#7 then some (.vimin k d a (lo.extractLsb' 7 6))
  else if lo.extractLsb' 0 7 = 0xA#7 then some (.vimax k d a (lo.extractLsb' 7 6))
  else if lo.extractLsb' 0 7 = 0xB#7 then some (.viminu k d a (lo.extractLsb' 7 6))
  else if lo.extractLsb' 0 7 = 0xC#7 then some (.vimaxu k d a (lo.extractLsb' 7 6))
  else none

/-- Major 0x25 (R40): VCMP_EQ, VCMP_LT, VCMP_LE, VCMP_UN, VICMP_EQ, VICMP_LT, VICMP_LTU. -/
noncomputable def decodeMajor25 (k : Bool) (d a : BitVec 6) (lo : BitVec 13) : Option Instr :=
  if lo.extractLsb' 0 7 = 0x0#7 then some (.vcmpEq k d a (lo.extractLsb' 7 6))
  else if lo.extractLsb' 0 7 = 0x1#7 then some (.vcmpLt k d a (lo.extractLsb' 7 6))
  else if lo.extractLsb' 0 7 = 0x2#7 then some (.vcmpLe k d a (lo.extractLsb' 7 6))
  else if lo.extractLsb' 0 7 = 0x3#7 then some (.vcmpUn k d a (lo.extractLsb' 7 6))
  else if lo.extractLsb' 0 7 = 0x8#7 then some (.vicmpEq k d a (lo.extractLsb' 7 6))
  else if lo.extractLsb' 0 7 = 0x9#7 then some (.vicmpLt k d a (lo.extractLsb' 7 6))
  else if lo.extractLsb' 0 7 = 0xA#7 then some (.vicmpLtu k d a (lo.extractLsb' 7 6))
  else none

/-- Major 0x26 (R40): VSEL, MAND, MOR, MXOR, MNOT, MPOP, MMOV_TO_MASK, MMOV_FROM_MASK. -/
noncomputable def decodeMajor26 (k : Bool) (d a : BitVec 6) (lo : BitVec 13) : Option Instr :=
  if lo.extractLsb' 3 4 = 0x0#4 then some (.vsel k d a (lo.extractLsb' 7 6) (lo.extractLsb' 0 3))
  else if lo.extractLsb' 0 7 = 0x8#7 then some (.mand k d a (lo.extractLsb' 7 6))
  else if lo.extractLsb' 0 7 = 0x9#7 then some (.mor k d a (lo.extractLsb' 7 6))
  else if lo.extractLsb' 0 7 = 0xA#7 then some (.mxor k d a (lo.extractLsb' 7 6))
  else if lo = 0xB#13 then some (.mnot k d a)
  else if lo = 0xC#13 then some (.mpop k d a)
  else if lo = 0xD#13 then some (.mmovToMask k d a)
  else if lo = 0x8D#13 then some (.mmovFromMask k d a)
  else none

/-- Major 0x27 (R40): VPACK, VUNPACK, VQUANT, VQUANT_RS, VPACK_RS. -/
noncomputable def decodeMajor27 (k : Bool) (d a : BitVec 6) (lo : BitVec 13) : Option Instr :=
  if lo.extractLsb' 7 6 = 0x0#6 ∧ lo.extractLsb' 0 3 = 0x0#3 then some (.vpack k d a (lo.extractLsb' 3 4))
  else if lo.extractLsb' 7 6 = 0x0#6 ∧ lo.extractLsb' 0 3 = 0x1#3 then some (.vunpack k d a (lo.extractLsb' 3 4))
  else if lo.extractLsb' 0 3 = 0x2#3 then some (.vquant k d a (lo.extractLsb' 7 6) (lo.extractLsb' 3 4))
  else if lo.extractLsb' 0 3 = 0x3#3 then some (.vquantRs k d a (lo.extractLsb' 7 6) (lo.extractLsb' 3 4))
  else if lo.extractLsb' 7 6 = 0x0#6 ∧ lo.extractLsb' 0 3 = 0x4#3 then some (.vpackRs k d a (lo.extractLsb' 3 4))
  else none

/-- Major 0x28 (R40): VCVT_F_I, VCVT_I_F, VCVT_BF_F, VCVT_H_F, VCVT_F_BF, VCVT_F_H, VNARROW_I8, VNARROW_I4, VWIDEN_I8, VWIDEN_I4. -/
noncomputable def decodeMajor28 (k : Bool) (d a : BitVec 6) (lo : BitVec 13) : Option Instr :=
  if lo.extractLsb' 7 6 = 0x0#6 ∧ lo.extractLsb' 0 4 = 0x0#4 then some (.vcvtFI k d a (lo.extractLsb' 4 3))
  else if lo.extractLsb' 7 6 = 0x0#6 ∧ lo.extractLsb' 0 4 = 0x1#4 then some (.vcvtIF k d a (lo.extractLsb' 4 3))
  else if lo.extractLsb' 7 6 = 0x0#6 ∧ lo.extractLsb' 0 4 = 0x2#4 then some (.vcvtBfF k d a (lo.extractLsb' 4 3))
  else if lo.extractLsb' 7 6 = 0x0#6 ∧ lo.extractLsb' 0 4 = 0x3#4 then some (.vcvtHF k d a (lo.extractLsb' 4 3))
  else if lo = 0x4#13 then some (.vcvtFBf k d a)
  else if lo = 0x5#13 then some (.vcvtFH k d a)
  else if lo = 0x6#13 then some (.vnarrowI8 k d a)
  else if lo = 0x7#13 then some (.vnarrowI4 k d a)
  else if lo = 0x8#13 then some (.vwidenI8 k d a)
  else if lo = 0x9#13 then some (.vwidenI4 k d a)
  else none

/-- Major 0x29 (R40): VPERM, VBCL, VBCS, VROT, VEXT, VINS, VCOMPRESS, VEXPAND. -/
noncomputable def decodeMajor29 (k : Bool) (d a : BitVec 6) (lo : BitVec 13) : Option Instr :=
  if lo.extractLsb' 0 7 = 0x0#7 then some (.vperm k d a (lo.extractLsb' 7 6))
  else if lo.extractLsb' 0 7 = 0x1#7 then some (.vbcl k d a (lo.extractLsb' 7 6))
  else if lo = 0x2#13 then some (.vbcs k d a)
  else if lo.extractLsb' 0 7 = 0x3#7 then some (.vrot k d a (lo.extractLsb' 7 6))
  else if lo.extractLsb' 0 7 = 0x4#7 then some (.vext k d a (lo.extractLsb' 7 6))
  else if lo.extractLsb' 0 7 = 0x5#7 then some (.vins k d a (lo.extractLsb' 7 6))
  else if lo.extractLsb' 0 7 = 0x6#7 then some (.vcompress k d a (lo.extractLsb' 7 6))
  else if lo.extractLsb' 0 7 = 0x7#7 then some (.vexpand k d a (lo.extractLsb' 7 6))
  else none

/-- Major 0x2A (R40): VSCAN_ADD, VSCAN_MAX, VSCAN_IADD, VRED_ADD, VRED_MAX, VRED_MIN, VRED_IADD, VARGMAX. -/
noncomputable def decodeMajor2A (k : Bool) (d a : BitVec 6) (lo : BitVec 13) : Option Instr :=
  if lo.extractLsb' 0 7 = 0x0#7 then some (.vscanAdd k d a (lo.extractLsb' 7 6))
  else if lo.extractLsb' 0 7 = 0x1#7 then some (.vscanMax k d a (lo.extractLsb' 7 6))
  else if lo.extractLsb' 0 7 = 0x2#7 then some (.vscanIadd k d a (lo.extractLsb' 7 6))
  else if lo.extractLsb' 0 7 = 0x8#7 then some (.vredAdd k d a (lo.extractLsb' 7 6))
  else if lo.extractLsb' 0 7 = 0x9#7 then some (.vredMax k d a (lo.extractLsb' 7 6))
  else if lo.extractLsb' 0 7 = 0xA#7 then some (.vredMin k d a (lo.extractLsb' 7 6))
  else if lo.extractLsb' 0 7 = 0xB#7 then some (.vredIadd k d a (lo.extractLsb' 7 6))
  else if lo.extractLsb' 0 7 = 0xC#7 then some (.vargmax k d a (lo.extractLsb' 7 6))
  else none

/-- Major 0x2B (R40): VCX, VCX_D, VMRG, VMRG_D. -/
noncomputable def decodeMajor2B (k : Bool) (d a : BitVec 6) (lo : BitVec 13) : Option Instr :=
  if lo.extractLsb' 0 7 = 0x0#7 then some (.vcx k d a (lo.extractLsb' 7 6))
  else if lo.extractLsb' 0 7 = 0x1#7 then some (.vcxD k d a (lo.extractLsb' 7 6))
  else if lo.extractLsb' 0 7 = 0x2#7 then some (.vmrg k d a (lo.extractLsb' 7 6))
  else if lo.extractLsb' 0 7 = 0x3#7 then some (.vmrgD k d a (lo.extractLsb' 7 6))
  else none

/-- Major 0x2C (R40): VDRAW, VDRAW_F. -/
noncomputable def decodeMajor2C (k : Bool) (d a : BitVec 6) (lo : BitVec 13) : Option Instr :=
  if lo.extractLsb' 0 7 = 0x0#7 then some (.vdraw k d a (lo.extractLsb' 7 6))
  else if lo.extractLsb' 0 7 = 0x1#7 then some (.vdrawF k d a (lo.extractLsb' 7 6))
  else none

/-- Major 0x2D (R40): VEXP2, VRCP, VRSQRT, VLOG2. -/
noncomputable def decodeMajor2D (k : Bool) (d a : BitVec 6) (lo : BitVec 13) : Option Instr :=
  if lo = 0x0#13 then some (.vexp2 k d a)
  else if lo = 0x1#13 then some (.vrcp k d a)
  else if lo = 0x2#13 then some (.vrsqrt k d a)
  else if lo = 0x3#13 then some (.vlog2 k d a)
  else none

/-- Major 0x32 (R40): MLDW, MLDW_S. -/
noncomputable def decodeMajor32 (_k : Bool) (d a : BitVec 6) (lo : BitVec 13) : Option Instr :=
  if lo.extractLsb' 0 3 = 0x0#3 ∧ d.extractLsb' 5 1 = 0x0#1 then some (.mldw (d.extractLsb' 0 5) a (lo.extractLsb' 7 6) (lo.extractLsb' 3 4))
  else if lo.extractLsb' 0 3 = 0x1#3 ∧ d.extractLsb' 5 1 = 0x0#1 then some (.mldwS (d.extractLsb' 0 5) a (lo.extractLsb' 7 6) (lo.extractLsb' 3 4))
  else none

/-- Major 0x33 (R40): MMA, MMA_FWD, MMA_SAT, MMA_FWD_SAT. -/
noncomputable def decodeMajor33 (_k : Bool) (d a : BitVec 6) (lo : BitVec 13) : Option Instr :=
  if lo.extractLsb' 12 1 = 0x0#1 ∧ lo.extractLsb' 0 3 = 0x0#3 ∧ a.extractLsb' 4 2 = 0x0#2 then some (.mma (d.extractLsb' 3 3) (d.extractLsb' 0 3) (a.extractLsb' 0 4) (lo.extractLsb' 7 5) (lo.extractLsb' 3 4))
  else if lo.extractLsb' 12 1 = 0x0#1 ∧ lo.extractLsb' 0 3 = 0x1#3 ∧ a.extractLsb' 4 2 = 0x0#2 then some (.mmaFwd (d.extractLsb' 3 3) (d.extractLsb' 0 3) (a.extractLsb' 0 4) (lo.extractLsb' 7 5) (lo.extractLsb' 3 4))
  else if lo.extractLsb' 12 1 = 0x0#1 ∧ lo.extractLsb' 0 3 = 0x2#3 ∧ a.extractLsb' 4 2 = 0x0#2 then some (.mmaSat (d.extractLsb' 3 3) (d.extractLsb' 0 3) (a.extractLsb' 0 4) (lo.extractLsb' 7 5) (lo.extractLsb' 3 4))
  else if lo.extractLsb' 12 1 = 0x0#1 ∧ lo.extractLsb' 0 3 = 0x3#3 ∧ a.extractLsb' 4 2 = 0x0#2 then some (.mmaFwdSat (d.extractLsb' 3 3) (d.extractLsb' 0 3) (a.extractLsb' 0 4) (lo.extractLsb' 7 5) (lo.extractLsb' 3 4))
  else none

/-- Major 0x34 (R40): MRD, MCLR. -/
noncomputable def decodeMajor34 (_k : Bool) (d a : BitVec 6) (lo : BitVec 13) : Option Instr :=
  if lo.extractLsb' 0 7 = 0x0#7 ∧ a.extractLsb' 3 3 = 0x0#3 then some (.mrd d (a.extractLsb' 0 3) (lo.extractLsb' 12 1) (lo.extractLsb' 7 5))
  else if lo = 0x1#13 ∧ d = 0x0#6 ∧ a.extractLsb' 3 3 = 0x0#3 then some (.mclr (a.extractLsb' 0 3))
  else none

/-- Major 0x36 (R40): GLDB, GLDBU, GLDH, GLDHU, GLDW, GLDWU, GLD. -/
noncomputable def decodeMajor36 (k : Bool) (d a : BitVec 6) (lo : BitVec 13) : Option Instr :=
  if lo.extractLsb' 10 3 = 0x0#3 then some (.gldb k d a (lo.extractLsb' 0 10))
  else if lo.extractLsb' 10 3 = 0x1#3 then some (.gldbu k d a (lo.extractLsb' 0 10))
  else if lo.extractLsb' 10 3 = 0x2#3 then some (.gldh k d a (lo.extractLsb' 0 10))
  else if lo.extractLsb' 10 3 = 0x3#3 then some (.gldhu k d a (lo.extractLsb' 0 10))
  else if lo.extractLsb' 10 3 = 0x4#3 then some (.gldw k d a (lo.extractLsb' 0 10))
  else if lo.extractLsb' 10 3 = 0x5#3 then some (.gldwu k d a (lo.extractLsb' 0 10))
  else if lo.extractLsb' 10 3 = 0x6#3 then some (.gld k d a (lo.extractLsb' 0 10))
  else none

/-- Major 0x37 (R40): GSTB, GSTH, GSTW, GST. -/
noncomputable def decodeMajor37 (k : Bool) (d a : BitVec 6) (lo : BitVec 13) : Option Instr :=
  if lo.extractLsb' 10 3 = 0x0#3 then some (.gstb k d a (lo.extractLsb' 0 10))
  else if lo.extractLsb' 10 3 = 0x2#3 then some (.gsth k d a (lo.extractLsb' 0 10))
  else if lo.extractLsb' 10 3 = 0x4#3 then some (.gstw k d a (lo.extractLsb' 0 10))
  else if lo.extractLsb' 10 3 = 0x6#3 then some (.gst k d a (lo.extractLsb' 0 10))
  else none

/-- Major 0x38 (R40): GAADD, GASWAP, GACAS, GAMIN, GAMAX, GAMINU, GAMAXU, GAAND, GAOR, GAXOR, GAFADD. -/
noncomputable def decodeMajor38 (k : Bool) (d a : BitVec 6) (lo : BitVec 13) : Option Instr :=
  if lo.extractLsb' 5 2 = 0x0#2 ∧ lo.extractLsb' 0 4 = 0x0#4 then some (.gaadd k d a (lo.extractLsb' 7 6) (lo.extractLsb' 4 1))
  else if lo.extractLsb' 5 2 = 0x0#2 ∧ lo.extractLsb' 0 4 = 0x1#4 then some (.gaswap k d a (lo.extractLsb' 7 6) (lo.extractLsb' 4 1))
  else if lo.extractLsb' 5 2 = 0x0#2 ∧ lo.extractLsb' 0 4 = 0x2#4 then some (.gacas k d a (lo.extractLsb' 7 6) (lo.extractLsb' 4 1))
  else if lo.extractLsb' 5 2 = 0x0#2 ∧ lo.extractLsb' 0 4 = 0x3#4 then some (.gamin k d a (lo.extractLsb' 7 6) (lo.extractLsb' 4 1))
  else if lo.extractLsb' 5 2 = 0x0#2 ∧ lo.extractLsb' 0 4 = 0x4#4 then some (.gamax k d a (lo.extractLsb' 7 6) (lo.extractLsb' 4 1))
  else if lo.extractLsb' 5 2 = 0x0#2 ∧ lo.extractLsb' 0 4 = 0x5#4 then some (.gaminu k d a (lo.extractLsb' 7 6) (lo.extractLsb' 4 1))
  else if lo.extractLsb' 5 2 = 0x0#2 ∧ lo.extractLsb' 0 4 = 0x6#4 then some (.gamaxu k d a (lo.extractLsb' 7 6) (lo.extractLsb' 4 1))
  else if lo.extractLsb' 5 2 = 0x0#2 ∧ lo.extractLsb' 0 4 = 0x7#4 then some (.gaand k d a (lo.extractLsb' 7 6) (lo.extractLsb' 4 1))
  else if lo.extractLsb' 5 2 = 0x0#2 ∧ lo.extractLsb' 0 4 = 0x8#4 then some (.gaor k d a (lo.extractLsb' 7 6) (lo.extractLsb' 4 1))
  else if lo.extractLsb' 5 2 = 0x0#2 ∧ lo.extractLsb' 0 4 = 0x9#4 then some (.gaxor k d a (lo.extractLsb' 7 6) (lo.extractLsb' 4 1))
  else if lo.extractLsb' 0 7 = 0x1A#7 then some (.gafadd k d a (lo.extractLsb' 7 6))
  else none

/-- Major 0x39 (R40): LDACQ, STREL. -/
noncomputable def decodeMajor39 (k : Bool) (d a : BitVec 6) (lo : BitVec 13) : Option Instr :=
  if lo.extractLsb' 5 8 = 0x0#8 ∧ lo.extractLsb' 3 1 = 0x0#1 then some (.ldacq k d a (lo.extractLsb' 4 1) (lo.extractLsb' 0 3))
  else if lo.extractLsb' 5 8 = 0x0#8 ∧ lo.extractLsb' 3 1 = 0x1#1 then some (.strel k d a (lo.extractLsb' 4 1) (lo.extractLsb' 0 3))
  else none

/-- Major 0x3A (R40): SCADD, SCSWAP, SCCAS, SCLD, SCST. -/
noncomputable def decodeMajor3A (k : Bool) (d a : BitVec 6) (lo : BitVec 13) : Option Instr :=
  if lo.extractLsb' 0 7 = 0x0#7 then some (.scadd k d a (lo.extractLsb' 7 6))
  else if lo.extractLsb' 0 7 = 0x1#7 then some (.scswap k d a (lo.extractLsb' 7 6))
  else if lo.extractLsb' 0 7 = 0x2#7 then some (.sccas k d a (lo.extractLsb' 7 6))
  else if lo = 0x3#13 then some (.scld k d a)
  else if lo = 0x4#13 then some (.scst k d a)
  else none

/-- Major 0x3B (R40): MONARM, MONARM_LM, MONWAIT, MONCLR. -/
noncomputable def decodeMajor3B (k : Bool) (d a : BitVec 6) (lo : BitVec 13) : Option Instr :=
  if lo = 0x0#13 ∧ d.extractLsb' 2 4 = 0x0#4 then some (.monarm k (d.extractLsb' 0 2) a)
  else if lo = 0x0#13 ∧ d.extractLsb' 2 4 = 0x8#4 then some (.monarmLm k (d.extractLsb' 0 2) a)
  else if lo.extractLsb' 0 7 = 0x1#7 ∧ a = 0x0#6 then some (.monwait k d (lo.extractLsb' 7 6))
  else if lo = 0x2#13 ∧ d.extractLsb' 3 3 = 0x0#3 ∧ a = 0x0#6 then some (.monclr k (d.extractLsb' 0 3))
  else none

/-- Major 0x3C (R40): MBPUT, MBGET, RINGPUT, RINGGET. -/
noncomputable def decodeMajor3C (k : Bool) (d a : BitVec 6) (lo : BitVec 13) : Option Instr :=
  if lo.extractLsb' 0 7 = 0x0#7 then some (.mbput k d a (lo.extractLsb' 7 6))
  else if lo = 0x1#13 ∧ a = 0x0#6 then some (.mbget k d)
  else if lo.extractLsb' 0 7 = 0x2#7 then some (.ringput k d a (lo.extractLsb' 7 6))
  else if lo.extractLsb' 0 7 = 0x3#7 then some (.ringget k d a (lo.extractLsb' 7 6))
  else none

/-- Major 0x3D (R40): CALLAT, TWAIT, RQCLM. -/
noncomputable def decodeMajor3D (k : Bool) (d a : BitVec 6) (lo : BitVec 13) : Option Instr :=
  if lo.extractLsb' 0 7 = 0x0#7 then some (.callat k d a (lo.extractLsb' 7 6))
  else if lo = 0x1#13 ∧ d = 0x0#6 ∧ a = 0x0#6 then some (.twait k)
  else if lo.extractLsb' 0 7 = 0x2#7 ∧ a = 0x0#6 then some (.rqclm k d (lo.extractLsb' 7 6))
  else none

/-- The row of the opcode map that holds the fields, if one does (R40). -/
noncomputable def decodeFields (k : Bool) (mj d a : BitVec 6) (lo : BitVec 13) : Option Instr :=
  match mj.toNat with
  | 0x00 => decodeMajor00 k d a lo
  | 0x01 => decodeMajor01 k d a lo
  | 0x02 => decodeMajor02 k d a lo
  | 0x03 => decodeMajor03 k d a lo
  | 0x04 => decodeMajor04 k d a lo
  | 0x05 => decodeMajor05 k d a lo
  | 0x06 => decodeMajor06 k d a lo
  | 0x07 => decodeMajor07 k d a lo
  | 0x08 => decodeMajor08 k d a lo
  | 0x09 => decodeMajor09 k d a lo
  | 0x0A => decodeMajor0A k d a lo
  | 0x0B => decodeMajor0B k d a lo
  | 0x0C => decodeMajor0C k d a lo
  | 0x0D => decodeMajor0D k d a lo
  | 0x0E => decodeMajor0E k d a lo
  | 0x0F => decodeMajor0F k d a lo
  | 0x10 => decodeMajor10 k d a lo
  | 0x11 => decodeMajor11 k d a lo
  | 0x12 => decodeMajor12 k d a lo
  | 0x13 => decodeMajor13 k d a lo
  | 0x14 => decodeMajor14 k d a lo
  | 0x15 => decodeMajor15 k d a lo
  | 0x16 => decodeMajor16 k d a lo
  | 0x17 => decodeMajor17 k d a lo
  | 0x18 => decodeMajor18 k d a lo
  | 0x19 => decodeMajor19 k d a lo
  | 0x1A => decodeMajor1A k d a lo
  | 0x1B => decodeMajor1B k d a lo
  | 0x1C => decodeMajor1C k d a lo
  | 0x1D => decodeMajor1D k d a lo
  | 0x1E => decodeMajor1E k d a lo
  | 0x1F => decodeMajor1F k d a lo
  | 0x20 => decodeMajor20 k d a lo
  | 0x22 => decodeMajor22 k d a lo
  | 0x23 => decodeMajor23 k d a lo
  | 0x24 => decodeMajor24 k d a lo
  | 0x25 => decodeMajor25 k d a lo
  | 0x26 => decodeMajor26 k d a lo
  | 0x27 => decodeMajor27 k d a lo
  | 0x28 => decodeMajor28 k d a lo
  | 0x29 => decodeMajor29 k d a lo
  | 0x2A => decodeMajor2A k d a lo
  | 0x2B => decodeMajor2B k d a lo
  | 0x2C => decodeMajor2C k d a lo
  | 0x2D => decodeMajor2D k d a lo
  | 0x32 => decodeMajor32 k d a lo
  | 0x33 => decodeMajor33 k d a lo
  | 0x34 => decodeMajor34 k d a lo
  | 0x36 => decodeMajor36 k d a lo
  | 0x37 => decodeMajor37 k d a lo
  | 0x38 => decodeMajor38 k d a lo
  | 0x39 => decodeMajor39 k d a lo
  | 0x3A => decodeMajor3A k d a lo
  | 0x3B => decodeMajor3B k d a lo
  | 0x3C => decodeMajor3C k d a lo
  | 0x3D => decodeMajor3D k d a lo
  | _ => none

/-- The majors that R40 assigns to some row. -/
def majorAssigned (mj : BitVec 6) : Bool :=
  decide (mj.toNat ∈ [0x00, 0x01, 0x02, 0x03, 0x04, 0x05, 0x06, 0x07, 0x08, 0x09, 0x0A, 0x0B, 0x0C, 0x0D, 0x0E, 0x0F, 0x10, 0x11, 0x12, 0x13, 0x14, 0x15, 0x16, 0x17, 0x18, 0x19, 0x1A, 0x1B, 0x1C, 0x1D, 0x1E, 0x1F, 0x20, 0x22, 0x23, 0x24, 0x25, 0x26, 0x27, 0x28, 0x29, 0x2A, 0x2B, 0x2C, 0x2D, 0x32, 0x33, 0x34, 0x36, 0x37, 0x38, 0x39, 0x3A, 0x3B, 0x3C, 0x3D])

/-- The instruction of an op word (R29, R40), total on every word. -/
noncomputable def decodeWord (w : BitVec 32) : Except DecodeError Instr :=
  match decodeFields (wordK w) (wordMajor w) (wordD w) (wordA w) (wordLo w) with
  | none => .error (if majorAssigned (wordMajor w) then .unassignedWord else .unassignedMajor)
  | some i => if i.wellFormed then .ok i else .error .unassignedField

/-- The four bytes of a little-endian op word at the head of a list (R7, R26), and the rest. -/
def takeWord : List (BitVec 8) → Option (BitVec 32 × List (BitVec 8))
  | b0 :: b1 :: b2 :: b3 :: rest => some ((b3 ++ b2 ++ b1 ++ b0 : BitVec 32), rest)
  | _ => none

/-- Decode one pawn op word from bytes (R36). -/
noncomputable def decodeBytes (bs : List (BitVec 8)) : Except DecodeError (Instr × List (BitVec 8)) :=
  match takeWord bs with
  | none => .error .tooShort
  | some (w, rest) =>
    match decodeWord w with
    | .error e => .error e
    | .ok i => .ok (i, rest)

/-- The bytes of an op word, lowest address first (R7). -/
def wordBytes (w : BitVec 32) : List (BitVec 8) :=
  [w.extractLsb' 0 8, w.extractLsb' 8 8, w.extractLsb' 16 8, w.extractLsb' 24 8]

/-- The instruction the decoder reads from an op word given as a number (bit 0 the least significant bit of the word):
an op of the Y6 is one 32-bit word; the bits above `nbits` are 0. -/
noncomputable def decodeTableWord (nbits w : Nat) : Option Instr :=
  if nbits ≤ 32 ∧ w < 2 ^ nbits then
    match decodeBytes (wordBytes (BitVec.ofNat 32 w)) with
    | .ok (i, _) => some i
    | .error _ => none
  else none

/-- One slot of a decoded bundle: what R27 and R34 let a slot hold. -/
inductive SlotOp (α : Type) where
  /-- The all-zero word (R33). -/
  | empty
  /-- The literal of the slot before (R34). -/
  | literal (w : BitVec 32)
  /-- An op, with the literal that the next slot surrenders to it and its index flag (R34, R35). -/
  | op (i : α) (w : BitVec 32) (lit : Option (BitVec 32)) (ix : Bool)
deriving DecidableEq, Repr

/-- The 32-bit word at byte offset 4n of a 320-bit bundle: word 0 is the header, word n + 1 is slot n (R26). -/
def bundleWord (b : BitVec 320) (n : Nat) : BitVec 32 := b.extractLsb' (32 * n) 32

/-- SUR[n], header bit n + 1 (R28). -/
def headerSur (h : BitVec 32) (n : Nat) : Bool := h.getLsbD (n + 1)

/-- IX[n], header bit 10 + n (R28). -/
def headerIx (h : BitVec 32) (n : Nat) : Bool := h.getLsbD (10 + n)

/-- The majors whose op takes a literal from the next slot (R34): 0x01 to 0x03, 0x09 to 0x0C, 0x0E and the memory-form
majors of a bundle. R34 names every memory form and R191 lets 0x36 and 0x37 take no literal: a surrender behind one of these two passes here, so that
their place is the fault that is reported (DESIGN CHOICE, log 73). -/
def takesLiteral (mj : BitVec 6) : Bool :=
  decide (mj.toNat ∈ [0x01, 0x02, 0x03, 0x09, 0x0A, 0x0B, 0x0C, 0x0E, 0x16, 0x17, 0x18, 0x36, 0x37])

/-- The memory-form majors (R40): a literal replaces off10 instead of imm13 (R34). -/
def isMemoryMajor (mj : BitVec 6) : Bool := decide (mj.toNat ∈ [0x16, 0x17, 0x18, 0x36, 0x37])

/-- The field that a literal replaces must be zero (R34, R46 subcause 0). -/
def literalFieldZero (w : BitVec 32) : Bool :=
  if isMemoryMajor (wordMajor w) then decide (w.extractLsb' 0 10 = 0) else decide (wordLo w = 0)

/-- The header checks of R47 step 1: bit 0, bits [31:19], SUR[0] and the IX flags. -/
def headerOk (b : BitVec 320) : Bool :=
  let h := bundleWord b 0
  h.getLsbD 0 && decide (h.extractLsb' 19 13 = 0) && !headerSur h 0 &&
    (List.range 9).all fun n =>
      !headerIx h n ||
        (decide (n ∈ [3, 4, 6, 7]) && !headerSur h n && decide (bundleWord b (n + 1) ≠ 0))

/-- The surrender check of R47 step 2 for one slot n ≥ 1 (R34). -/
def surrenderOk (b : BitVec 320) (n : Nat) : Bool :=
  let h := bundleWord b 0
  !headerSur h n ||
    (!headerSur h (n - 1) && decide (bundleWord b n ≠ 0) && takesLiteral (wordMajor (bundleWord b n)))

/-- The first slot whose surrender R34 forbids, by the slot that holds the op. -/
def badSurrender (b : BitVec 320) : Option Nat :=
  ((List.range 9).find? fun n => decide (1 ≤ n) && !surrenderOk b n).map (· - 1)

/-- The literal that slot n's op takes, if the next slot surrenders (R34). -/
def slotLiteral (b : BitVec 320) (n : Nat) : Option (BitVec 32) :=
  if n < 8 ∧ headerSur (bundleWord b 0) (n + 1) then some (bundleWord b (n + 2)) else none

/-- What slot n of a bundle holds under a decoder of op words, or the refusal of its word (R33, R34, R46 subcause 0). The
switch marker must be 0. -/
def decodeSlotWith {α : Type} (dec : BitVec 32 → Option α) (b : BitVec 320) (n : Nat) : Except DecodeError (SlotOp α) :=
  let w := bundleWord b (n + 1)
  if headerSur (bundleWord b 0) n then .ok (.literal w)
  else if w = 0 then .ok .empty
  else if wordK w then .error (.slotWord n)
  else
    match dec w with
    | none => .error (.slotWord n)
    | some i =>
      if (slotLiteral b n).isSome && !literalFieldZero w then .error (.slotWord n)
      else .ok (.op i w (slotLiteral b n) (headerIx (bundleWord b 0) n))

/-- The instruction of an op word, if it has one. -/
noncomputable def decodeOp (w : BitVec 32) : Option Instr :=
  match decodeWord w with
  | .ok i => some i
  | .error _ => none

/-- What slot n of a bundle holds. -/
noncomputable def decodeSlot (b : BitVec 320) (n : Nat) : Except DecodeError (SlotOp Instr) := decodeSlotWith decodeOp b n

/-- The nine slots of a bundle, in slot order. -/
noncomputable def decodeSlots (b : BitVec 320) : List Nat → Except DecodeError (List (SlotOp Instr))
  | [] => .ok []
  | n :: ns =>
    match decodeSlot b n with
    | .error e => .error e
    | .ok x =>
      match decodeSlots b ns with
      | .error e => .error e
      | .ok xs => .ok (x :: xs)

/-- Decode a bundle (R26 to R35, R47 steps 1 to 3 for subcauses 2 and 0), total on every 320 bits. -/
noncomputable def decodeBundle (b : BitVec 320) : Except DecodeError (List (SlotOp Instr)) :=
  if !headerOk b then .error .header
  else
    match badSurrender b with
    | some n => .error (.surrender n)
    | none => decodeSlots b (List.range 9)


/-- The op word of an instruction (the layouts of R29 to R44 and of its entry); a step of another agent has none. -/
def encodeWord : Instr → Option (BitVec 32)
  | .nop k => some (mkWord k 0x00#6 (0x0#6) (0x0#6) (0x0#13))
  | .br k i => some (mkWord k 0x01#6 (0x0#6) (0x0#6) (i))
  | .brT k p i => some (mkWord k 0x01#6 (0x1#2 ++ p) (0x0#6) (i))
  | .brF k p i => some (mkWord k 0x01#6 (0x2#2 ++ p) (0x0#6) (i))
  | .loop n a i => some (mkWord false 0x02#6 (0x0#5 ++ n) (a) (i))
  | .call k l i => some (mkWord k 0x03#6 (0x1#1 ++ l) (0x0#6) (i))
  | .calli k l a i => some (mkWord k 0x03#6 (0x1#1 ++ l) (a) (i))
  | .jr k a i => some (mkWord k 0x03#6 (0x0#6) (a) (i))
  | .holdEq a b => some (mkWord false 0x04#6 (0x0#6) (a) (b ++ 0x0#7))
  | .holdNe a b => some (mkWord false 0x04#6 (0x0#6) (a) (b ++ 0x1#7))
  | .holdLt a b => some (mkWord false 0x04#6 (0x0#6) (a) (b ++ 0x2#7))
  | .holdGe a b => some (mkWord false 0x04#6 (0x0#6) (a) (b ++ 0x3#7))
  | .holdLtu a b => some (mkWord false 0x04#6 (0x0#6) (a) (b ++ 0x4#7))
  | .holdGeu a b => some (mkWord false 0x04#6 (0x0#6) (a) (b ++ 0x5#7))
  | .holdEqWp w b => some (mkWord false 0x04#6 (0x10#5 ++ w) (0x0#6) (b ++ 0x0#7))
  | .holdNeWp w b => some (mkWord false 0x04#6 (0x10#5 ++ w) (0x0#6) (b ++ 0x1#7))
  | .holdLtWp w b => some (mkWord false 0x04#6 (0x10#5 ++ w) (0x0#6) (b ++ 0x2#7))
  | .holdGeWp w b => some (mkWord false 0x04#6 (0x10#5 ++ w) (0x0#6) (b ++ 0x3#7))
  | .holdLtuWp w b => some (mkWord false 0x04#6 (0x10#5 ++ w) (0x0#6) (b ++ 0x4#7))
  | .holdGeuWp w b => some (mkWord false 0x04#6 (0x10#5 ++ w) (0x0#6) (b ++ 0x5#7))
  | .tempo a => some (mkWord false 0x04#6 (0x0#6) (a) (0x8#13))
  | .tempoAny => some (mkWord false 0x04#6 (0x0#6) (0x0#6) (0x9#13))
  | .eqw k e a => some (mkWord k 0x05#6 (e) (a) (0x0#13))
  | .eqr k d e => some (mkWord k 0x05#6 (d) (e) (0x1#13))
  | .eqcnt k d e => some (mkWord k 0x05#6 (d) (e) (0x2#13))
  | .trap k a => some (mkWord k 0x06#6 (0x0#6) (a) (0x0#13))
  | .brk k => some (mkWord k 0x06#6 (0x0#6) (0x0#6) (0x1#13))
  | .sret k => some (mkWord k 0x06#6 (0x0#6) (0x0#6) (0x2#13))
  | .ibar => some (mkWord false 0x06#6 (0x0#6) (0x0#6) (0x3#13))
  | .exit k => some (mkWord k 0x06#6 (0x0#6) (0x0#6) (0x4#13))
  | .fenceCore k => some (mkWord k 0x06#6 (0x0#6) (0x0#6) (0x8#13))
  | .fenceClus k => some (mkWord k 0x06#6 (0x0#6) (0x0#6) (0x9#13))
  | .fenceDie k => some (mkWord k 0x06#6 (0x0#6) (0x0#6) (0xA#13))
  | .fencePkg k => some (mkWord k 0x06#6 (0x0#6) (0x0#6) (0xB#13))
  | .fenceSys k => some (mkWord k 0x06#6 (0x0#6) (0x0#6) (0xC#13))
  | .xfenceCore k => some (mkWord k 0x06#6 (0x0#6) (0x0#6) (0x10#13))
  | .xfenceClus k => some (mkWord k 0x06#6 (0x0#6) (0x0#6) (0x11#13))
  | .xfenceDie k => some (mkWord k 0x06#6 (0x0#6) (0x0#6) (0x12#13))
  | .xfencePkg k => some (mkWord k 0x06#6 (0x0#6) (0x0#6) (0x13#13))
  | .xfenceSys k => some (mkWord k 0x06#6 (0x0#6) (0x0#6) (0x14#13))
  | .csrr k d c => some (mkWord k 0x07#6 (d) (0x0#6) (0x0#1 ++ c))
  | .csrw k a c => some (mkWord k 0x07#6 (0x0#6) (a) (0x1#1 ++ c))
  | .add k d a b => some (mkWord k 0x08#6 (d) (a) (b ++ 0x0#7))
  | .sub k d a b => some (mkWord k 0x08#6 (d) (a) (b ++ 0x1#7))
  | .and k d a b => some (mkWord k 0x08#6 (d) (a) (b ++ 0x2#7))
  | .or k d a b => some (mkWord k 0x08#6 (d) (a) (b ++ 0x3#7))
  | .xor k d a b => some (mkWord k 0x08#6 (d) (a) (b ++ 0x4#7))
  | .andn k d a b => some (mkWord k 0x08#6 (d) (a) (b ++ 0x5#7))
  | .min k d a b => some (mkWord k 0x08#6 (d) (a) (b ++ 0x6#7))
  | .max k d a b => some (mkWord k 0x08#6 (d) (a) (b ++ 0x7#7))
  | .minu k d a b => some (mkWord k 0x08#6 (d) (a) (b ++ 0x8#7))
  | .maxu k d a b => some (mkWord k 0x08#6 (d) (a) (b ++ 0x9#7))
  | .addw k d a b => some (mkWord k 0x08#6 (d) (a) (b ++ 0xA#7))
  | .subw k d a b => some (mkWord k 0x08#6 (d) (a) (b ++ 0xB#7))
  | .mov k d a => some (mkWord k 0x08#6 (d) (a) (0xC#13))
  | .addi k d a i => some (mkWord k 0x09#6 (d) (a) (i))
  | .andi k d a i => some (mkWord k 0x0A#6 (d) (a) (i))
  | .ori k d a i => some (mkWord k 0x0B#6 (d) (a) (i))
  | .lui k d i => some (mkWord k 0x0C#6 (d) (0x0#6) (i))
  | .cmpEq k d a b => some (mkWord k 0x0D#6 (d) (a) (b ++ 0x0#7))
  | .cmpNe k d a b => some (mkWord k 0x0D#6 (d) (a) (b ++ 0x1#7))
  | .cmpLt k d a b => some (mkWord k 0x0D#6 (d) (a) (b ++ 0x2#7))
  | .cmpGe k d a b => some (mkWord k 0x0D#6 (d) (a) (b ++ 0x3#7))
  | .cmpLtu k d a b => some (mkWord k 0x0D#6 (d) (a) (b ++ 0x4#7))
  | .cmpGeu k d a b => some (mkWord k 0x0D#6 (d) (a) (b ++ 0x5#7))
  | .pand k d a b => some (mkWord k 0x0D#6 (d) (a) (b ++ 0x8#7))
  | .por k d a b => some (mkWord k 0x0D#6 (d) (a) (b ++ 0x9#7))
  | .pxor k d a b => some (mkWord k 0x0D#6 (d) (a) (b ++ 0xA#7))
  | .pandn k d a b => some (mkWord k 0x0D#6 (d) (a) (b ++ 0xB#7))
  | .pnot k d a => some (mkWord k 0x0D#6 (d) (a) (0xC#13))
  | .cmpiEq k p a i => some (mkWord k 0x0E#6 (0x0#2 ++ p) (a) (i))
  | .cmpiNe k p a i => some (mkWord k 0x0E#6 (0x1#2 ++ p) (a) (i))
  | .cmpiLt k p a i => some (mkWord k 0x0E#6 (0x2#2 ++ p) (a) (i))
  | .cmpiGe k p a i => some (mkWord k 0x0E#6 (0x3#2 ++ p) (a) (i))
  | .shl k d a b => some (mkWord k 0x0F#6 (d) (a) (b ++ 0x0#7))
  | .shr k d a b => some (mkWord k 0x0F#6 (d) (a) (b ++ 0x1#7))
  | .sar k d a b => some (mkWord k 0x0F#6 (d) (a) (b ++ 0x2#7))
  | .rotl k d a b => some (mkWord k 0x0F#6 (d) (a) (b ++ 0x3#7))
  | .rotr k d a b => some (mkWord k 0x0F#6 (d) (a) (b ++ 0x4#7))
  | .clz k d a => some (mkWord k 0x0F#6 (d) (a) (0x5#13))
  | .ctz k d a => some (mkWord k 0x0F#6 (d) (a) (0x6#13))
  | .popc k d a => some (mkWord k 0x0F#6 (d) (a) (0x7#13))
  | .bswap k d a => some (mkWord k 0x0F#6 (d) (a) (0x8#13))
  | .bfx k d a b => some (mkWord k 0x0F#6 (d) (a) (b ++ 0x9#7))
  | .bfxu k d a b => some (mkWord k 0x0F#6 (d) (a) (b ++ 0xA#7))
  | .bfi k d a b => some (mkWord k 0x0F#6 (d) (a) (b ++ 0xB#7))
  | .shli k d a n => some (mkWord k 0x10#6 (d) (a) (n ++ 0x0#7))
  | .shri k d a n => some (mkWord k 0x10#6 (d) (a) (n ++ 0x1#7))
  | .sari k d a n => some (mkWord k 0x10#6 (d) (a) (n ++ 0x2#7))
  | .rotli k d a n => some (mkWord k 0x10#6 (d) (a) (n ++ 0x3#7))
  | .mul k d a b => some (mkWord k 0x11#6 (d) (a) (b ++ 0x0#7))
  | .mulh k d a b => some (mkWord k 0x11#6 (d) (a) (b ++ 0x1#7))
  | .mulhu k d a b => some (mkWord k 0x11#6 (d) (a) (b ++ 0x2#7))
  | .mulw k d a b => some (mkWord k 0x11#6 (d) (a) (b ++ 0x3#7))
  | .div k d a b => some (mkWord k 0x11#6 (d) (a) (b ++ 0x4#7))
  | .divu k d a b => some (mkWord k 0x11#6 (d) (a) (b ++ 0x5#7))
  | .rem k d a b => some (mkWord k 0x11#6 (d) (a) (b ++ 0x6#7))
  | .remu k d a b => some (mkWord k 0x11#6 (d) (a) (b ++ 0x7#7))
  | .fadd k d a b r => some (mkWord k 0x12#6 (d) (a) (b ++ r ++ 0x0#4))
  | .fsub k d a b r => some (mkWord k 0x12#6 (d) (a) (b ++ r ++ 0x1#4))
  | .fmul k d a b r => some (mkWord k 0x12#6 (d) (a) (b ++ r ++ 0x2#4))
  | .fdiv k d a b r => some (mkWord k 0x12#6 (d) (a) (b ++ r ++ 0x3#4))
  | .fsqrt k d a r => some (mkWord k 0x12#6 (d) (a) (0x0#6 ++ r ++ 0x4#4))
  | .fmin k d a b => some (mkWord k 0x12#6 (d) (a) (b ++ 0x5#7))
  | .fmax k d a b => some (mkWord k 0x12#6 (d) (a) (b ++ 0x6#7))
  | .fabs k d a => some (mkWord k 0x12#6 (d) (a) (0x7#13))
  | .fneg k d a => some (mkWord k 0x12#6 (d) (a) (0x8#13))
  | .fcmpEq k d a b => some (mkWord k 0x12#6 (d) (a) (b ++ 0x9#7))
  | .fcmpLt k d a b => some (mkWord k 0x12#6 (d) (a) (b ++ 0xA#7))
  | .fcmpLe k d a b => some (mkWord k 0x12#6 (d) (a) (b ++ 0xB#7))
  | .fcmpUn k d a b => some (mkWord k 0x12#6 (d) (a) (b ++ 0xC#7))
  | .cvtFI k d a r => some (mkWord k 0x13#6 (d) (a) (0x0#6 ++ r ++ 0x0#4))
  | .cvtFU k d a r => some (mkWord k 0x13#6 (d) (a) (0x0#6 ++ r ++ 0x1#4))
  | .cvtIF k d a r => some (mkWord k 0x13#6 (d) (a) (0x0#6 ++ r ++ 0x2#4))
  | .cvtUF k d a r => some (mkWord k 0x13#6 (d) (a) (0x0#6 ++ r ++ 0x3#4))
  | .cvtBfF k d a r => some (mkWord k 0x13#6 (d) (a) (0x0#6 ++ r ++ 0x4#4))
  | .cvtHF k d a r => some (mkWord k 0x13#6 (d) (a) (0x0#6 ++ r ++ 0x5#4))
  | .cvtFBf k d a => some (mkWord k 0x13#6 (d) (a) (0x6#13))
  | .cvtFH k d a => some (mkWord k 0x13#6 (d) (a) (0x7#13))
  | .ibw d a => some (mkWord false 0x14#6 (d) (a) (0x0#13))
  | .ibr d a => some (mkWord false 0x14#6 (d) (a) (0x1#13))
  | .ppack k d => some (mkWord k 0x14#6 (d) (0x0#6) (0x2#13))
  | .punpk k a => some (mkWord k 0x14#6 (0x0#6) (a) (0x3#13))
  | .sel k d a b p => some (mkWord k 0x14#6 (d) (a) (b ++ 0x1#3 ++ p))
  | .cwld k d n => some (mkWord k 0x15#6 (d) (0x0#6) (0x0#5 ++ n))
  | .ldb k d a o => some (mkWord k 0x16#6 (d) (a) (0x0#3 ++ o))
  | .ldbu k d a o => some (mkWord k 0x16#6 (d) (a) (0x1#3 ++ o))
  | .ldh k d a o => some (mkWord k 0x16#6 (d) (a) (0x2#3 ++ o))
  | .ldhu k d a o => some (mkWord k 0x16#6 (d) (a) (0x3#3 ++ o))
  | .ldw k d a o => some (mkWord k 0x16#6 (d) (a) (0x4#3 ++ o))
  | .ldwu k d a o => some (mkWord k 0x16#6 (d) (a) (0x5#3 ++ o))
  | .ld k d a o => some (mkWord k 0x16#6 (d) (a) (0x6#3 ++ o))
  | .stb k d a o => some (mkWord k 0x17#6 (d) (a) (0x0#3 ++ o))
  | .sth k d a o => some (mkWord k 0x17#6 (d) (a) (0x2#3 ++ o))
  | .stw k d a o => some (mkWord k 0x17#6 (d) (a) (0x4#3 ++ o))
  | .st k d a o => some (mkWord k 0x17#6 (d) (a) (0x6#3 ++ o))
  | .vld d a o => some (mkWord false 0x18#6 (d) (a) (0x0#3 ++ o))
  | .vst d a o => some (mkWord false 0x18#6 (d) (a) (0x1#3 ++ o))
  | .vldh k d a o => some (mkWord k 0x18#6 (d) (a) (0x2#3 ++ o))
  | .vsth k d a o => some (mkWord k 0x18#6 (d) (a) (0x3#3 ++ o))
  | .vldb k d a o => some (mkWord k 0x18#6 (d) (a) (0x4#3 ++ o))
  | .tld t a => some (mkWord false 0x19#6 (0x0#2 ++ t) (a) (0x0#13))
  | .tldBind t a z => some (mkWord false 0x19#6 (0x2#2 ++ t) (a) (0x0#1 ++ z ++ 0x0#7))
  | .tst t a => some (mkWord false 0x19#6 (0x0#2 ++ t) (a) (0x1#13))
  | .vgathW k d a b => some (mkWord k 0x1A#6 (d) (a) (b ++ 0x0#7))
  | .vgathH k d a b => some (mkWord k 0x1A#6 (d) (a) (b ++ 0x1#7))
  | .vgathB k d a b => some (mkWord k 0x1A#6 (d) (a) (b ++ 0x2#7))
  | .vscatW k d a b => some (mkWord k 0x1A#6 (d) (a) (b ++ 0x4#7))
  | .vscatH k d a b => some (mkWord k 0x1A#6 (d) (a) (b ++ 0x5#7))
  | .vscatB k d a b => some (mkWord k 0x1A#6 (d) (a) (b ++ 0x6#7))
  | .lmadd k d a b => some (mkWord k 0x1B#6 (d) (a) (b ++ 0x0#7))
  | .lmxchg k d a b => some (mkWord k 0x1B#6 (d) (a) (b ++ 0x1#7))
  | .lmcas k d a b => some (mkWord k 0x1B#6 (d) (a) (b ++ 0x2#7))
  | .lmmin k d a b => some (mkWord k 0x1B#6 (d) (a) (b ++ 0x3#7))
  | .lmmax k d a b => some (mkWord k 0x1B#6 (d) (a) (b ++ 0x4#7))
  | .lmand k d a b => some (mkWord k 0x1B#6 (d) (a) (b ++ 0x5#7))
  | .lmor k d a b => some (mkWord k 0x1B#6 (d) (a) (b ++ 0x6#7))
  | .flrel k d a => some (mkWord k 0x1C#6 (d) (a) (0x0#13))
  | .flacq k d a => some (mkWord k 0x1C#6 (d) (a) (0x1#13))
  | .rld k d a => some (mkWord k 0x1D#6 (d) (a) (0x0#13))
  | .rst k d a => some (mkWord k 0x1D#6 (d) (a) (0x1#13))
  | .rvld k d a => some (mkWord k 0x1D#6 (d) (a) (0x2#13))
  | .rvst k d a => some (mkWord k 0x1D#6 (d) (a) (0x3#13))
  | .rqput k a => some (mkWord k 0x1D#6 (0x0#6) (a) (0x4#13))
  | .zld f z a n g => some (mkWord false 0x1E#6 (f ++ z) (a) (n ++ g ++ 0x0#7))
  | .zst z a n g => some (mkWord false 0x1E#6 (0x0#1 ++ z) (a) (n ++ g ++ 0x1#7))
  | .zbind t z g => some (mkWord false 0x1F#6 (t) (z) (0x0#3 ++ g ++ 0x0#7))
  | .zbindNone t => some (mkWord false 0x1F#6 (t) (0x20#6) (0x0#13))
  | .zbindw w z g => some (mkWord false 0x1F#6 (w) (z) (0x0#3 ++ g ++ 0x1#7))
  | .zgenZ d z => some (mkWord false 0x1F#6 (d) (z) (0x2#13))
  | .zgenT d t => some (mkWord false 0x1F#6 (d) (t) (0x82#13))
  | .zgenW d w => some (mkWord false 0x1F#6 (d) (w) (0x102#13))
  | .zmul z a b p => some (mkWord false 0x20#6 (0x0#1 ++ z) (a) (b ++ p ++ 0x0#6))
  | .zadde z a b p => some (mkWord false 0x20#6 (0x0#1 ++ z) (a) (b ++ p ++ 0x1#6))
  | .zmax z a b p => some (mkWord false 0x20#6 (0x0#1 ++ z) (a) (b ++ p ++ 0x2#6))
  | .zcvt f z a p => some (mkWord false 0x20#6 (f ++ z) (a) (0x0#6 ++ p ++ 0x3#6))
  | .zfill f z a p => some (mkWord false 0x20#6 (f ++ z) (a) (0x0#6 ++ p ++ 0x5#6))
  | .zmov z a p => some (mkWord false 0x20#6 (0x0#1 ++ z) (a) (0x0#6 ++ p ++ 0x6#6))
  | .zamax d a n g => some (mkWord false 0x20#6 (d) (a) (n ++ g ++ 0x4#7))
  | .vadd k d a b r => some (mkWord k 0x22#6 (d) (a) (b ++ r ++ 0x0#4))
  | .vsub k d a b r => some (mkWord k 0x22#6 (d) (a) (b ++ r ++ 0x1#4))
  | .vmul k d a b r => some (mkWord k 0x22#6 (d) (a) (b ++ r ++ 0x2#4))
  | .vdiv k d a b r => some (mkWord k 0x22#6 (d) (a) (b ++ r ++ 0x3#4))
  | .vmin k d a b => some (mkWord k 0x22#6 (d) (a) (b ++ 0x4#7))
  | .vmax k d a b => some (mkWord k 0x22#6 (d) (a) (b ++ 0x5#7))
  | .vabs k d a => some (mkWord k 0x22#6 (d) (a) (0x6#13))
  | .vneg k d a => some (mkWord k 0x22#6 (d) (a) (0x7#13))
  | .vsqrt k d a r => some (mkWord k 0x22#6 (d) (a) (0x0#6 ++ r ++ 0x8#4))
  | .vfma k d a b r => some (mkWord k 0x23#6 (d) (a) (b ++ r ++ 0x0#4))
  | .vfms k d a b r => some (mkWord k 0x23#6 (d) (a) (b ++ r ++ 0x1#4))
  | .vfnma k d a b r => some (mkWord k 0x23#6 (d) (a) (b ++ r ++ 0x2#4))
  | .viadd k d a b => some (mkWord k 0x24#6 (d) (a) (b ++ 0x0#7))
  | .visub k d a b => some (mkWord k 0x24#6 (d) (a) (b ++ 0x1#7))
  | .vimul k d a b => some (mkWord k 0x24#6 (d) (a) (b ++ 0x2#7))
  | .viand k d a b => some (mkWord k 0x24#6 (d) (a) (b ++ 0x3#7))
  | .vior k d a b => some (mkWord k 0x24#6 (d) (a) (b ++ 0x4#7))
  | .vixor k d a b => some (mkWord k 0x24#6 (d) (a) (b ++ 0x5#7))
  | .vishl k d a b => some (mkWord k 0x24#6 (d) (a) (b ++ 0x6#7))
  | .vishr k d a b => some (mkWord k 0x24#6 (d) (a) (b ++ 0x7#7))
  | .visar k d a b => some (mkWord k 0x24#6 (d) (a) (b ++ 0x8#7))
  | .vimin k d a b => some (mkWord k 0x24#6 (d) (a) (b ++ 0x9#7))
  | .vimax k d a b => some (mkWord k 0x24#6 (d) (a) (b ++ 0xA#7))
  | .viminu k d a b => some (mkWord k 0x24#6 (d) (a) (b ++ 0xB#7))
  | .vimaxu k d a b => some (mkWord k 0x24#6 (d) (a) (b ++ 0xC#7))
  | .vcmpEq k d a b => some (mkWord k 0x25#6 (d) (a) (b ++ 0x0#7))
  | .vcmpLt k d a b => some (mkWord k 0x25#6 (d) (a) (b ++ 0x1#7))
  | .vcmpLe k d a b => some (mkWord k 0x25#6 (d) (a) (b ++ 0x2#7))
  | .vcmpUn k d a b => some (mkWord k 0x25#6 (d) (a) (b ++ 0x3#7))
  | .vicmpEq k d a b => some (mkWord k 0x25#6 (d) (a) (b ++ 0x8#7))
  | .vicmpLt k d a b => some (mkWord k 0x25#6 (d) (a) (b ++ 0x9#7))
  | .vicmpLtu k d a b => some (mkWord k 0x25#6 (d) (a) (b ++ 0xA#7))
  | .vsel k d a b p => some (mkWord k 0x26#6 (d) (a) (b ++ 0x0#4 ++ p))
  | .mand k d a b => some (mkWord k 0x26#6 (d) (a) (b ++ 0x8#7))
  | .mor k d a b => some (mkWord k 0x26#6 (d) (a) (b ++ 0x9#7))
  | .mxor k d a b => some (mkWord k 0x26#6 (d) (a) (b ++ 0xA#7))
  | .mnot k d a => some (mkWord k 0x26#6 (d) (a) (0xB#13))
  | .mpop k d a => some (mkWord k 0x26#6 (d) (a) (0xC#13))
  | .mmovToMask k d a => some (mkWord k 0x26#6 (d) (a) (0xD#13))
  | .mmovFromMask k d a => some (mkWord k 0x26#6 (d) (a) (0x8D#13))
  | .vpack k d a f => some (mkWord k 0x27#6 (d) (a) (0x0#6 ++ f ++ 0x0#3))
  | .vunpack k d a f => some (mkWord k 0x27#6 (d) (a) (0x0#6 ++ f ++ 0x1#3))
  | .vquant k d a b f => some (mkWord k 0x27#6 (d) (a) (b ++ f ++ 0x2#3))
  | .vquantRs k d a b f => some (mkWord k 0x27#6 (d) (a) (b ++ f ++ 0x3#3))
  | .vpackRs k d a f => some (mkWord k 0x27#6 (d) (a) (0x0#6 ++ f ++ 0x4#3))
  | .vcvtFI k d a r => some (mkWord k 0x28#6 (d) (a) (0x0#6 ++ r ++ 0x0#4))
  | .vcvtIF k d a r => some (mkWord k 0x28#6 (d) (a) (0x0#6 ++ r ++ 0x1#4))
  | .vcvtBfF k d a r => some (mkWord k 0x28#6 (d) (a) (0x0#6 ++ r ++ 0x2#4))
  | .vcvtHF k d a r => some (mkWord k 0x28#6 (d) (a) (0x0#6 ++ r ++ 0x3#4))
  | .vcvtFBf k d a => some (mkWord k 0x28#6 (d) (a) (0x4#13))
  | .vcvtFH k d a => some (mkWord k 0x28#6 (d) (a) (0x5#13))
  | .vnarrowI8 k d a => some (mkWord k 0x28#6 (d) (a) (0x6#13))
  | .vnarrowI4 k d a => some (mkWord k 0x28#6 (d) (a) (0x7#13))
  | .vwidenI8 k d a => some (mkWord k 0x28#6 (d) (a) (0x8#13))
  | .vwidenI4 k d a => some (mkWord k 0x28#6 (d) (a) (0x9#13))
  | .vperm k d a b => some (mkWord k 0x29#6 (d) (a) (b ++ 0x0#7))
  | .vbcl k d a b => some (mkWord k 0x29#6 (d) (a) (b ++ 0x1#7))
  | .vbcs k d a => some (mkWord k 0x29#6 (d) (a) (0x2#13))
  | .vrot k d a b => some (mkWord k 0x29#6 (d) (a) (b ++ 0x3#7))
  | .vext k d a b => some (mkWord k 0x29#6 (d) (a) (b ++ 0x4#7))
  | .vins k d a b => some (mkWord k 0x29#6 (d) (a) (b ++ 0x5#7))
  | .vcompress k d a m => some (mkWord k 0x29#6 (d) (a) (m ++ 0x6#7))
  | .vexpand k d a m => some (mkWord k 0x29#6 (d) (a) (m ++ 0x7#7))
  | .vscanAdd k d a m => some (mkWord k 0x2A#6 (d) (a) (m ++ 0x0#7))
  | .vscanMax k d a m => some (mkWord k 0x2A#6 (d) (a) (m ++ 0x1#7))
  | .vscanIadd k d a m => some (mkWord k 0x2A#6 (d) (a) (m ++ 0x2#7))
  | .vredAdd k d a m => some (mkWord k 0x2A#6 (d) (a) (m ++ 0x8#7))
  | .vredMax k d a m => some (mkWord k 0x2A#6 (d) (a) (m ++ 0x9#7))
  | .vredMin k d a m => some (mkWord k 0x2A#6 (d) (a) (m ++ 0xA#7))
  | .vredIadd k d a m => some (mkWord k 0x2A#6 (d) (a) (m ++ 0xB#7))
  | .vargmax k d a m => some (mkWord k 0x2A#6 (d) (a) (m ++ 0xC#7))
  | .vcx k d a b => some (mkWord k 0x2B#6 (d) (a) (b ++ 0x0#7))
  | .vcxD k d a b => some (mkWord k 0x2B#6 (d) (a) (b ++ 0x1#7))
  | .vmrg k d a b => some (mkWord k 0x2B#6 (d) (a) (b ++ 0x2#7))
  | .vmrgD k d a b => some (mkWord k 0x2B#6 (d) (a) (b ++ 0x3#7))
  | .vdraw k d a b => some (mkWord k 0x2C#6 (d) (a) (b ++ 0x0#7))
  | .vdrawF k d a b => some (mkWord k 0x2C#6 (d) (a) (b ++ 0x1#7))
  | .vexp2 k d a => some (mkWord k 0x2D#6 (d) (a) (0x0#13))
  | .vrcp k d a => some (mkWord k 0x2D#6 (d) (a) (0x1#13))
  | .vrsqrt k d a => some (mkWord k 0x2D#6 (d) (a) (0x2#13))
  | .vlog2 k d a => some (mkWord k 0x2D#6 (d) (a) (0x3#13))
  | .mldw w a b f => some (mkWord false 0x32#6 (0x0#1 ++ w) (a) (b ++ f ++ 0x0#3))
  | .mldwS w a b f => some (mkWord false 0x32#6 (0x0#1 ++ w) (a) (b ++ f ++ 0x1#3))
  | .mma y d t w f => some (mkWord false 0x33#6 (y ++ d) (0x0#2 ++ t) (0x0#1 ++ w ++ f ++ 0x0#3))
  | .mmaFwd y d t w f => some (mkWord false 0x33#6 (y ++ d) (0x0#2 ++ t) (0x0#1 ++ w ++ f ++ 0x1#3))
  | .mmaSat y d t w f => some (mkWord false 0x33#6 (y ++ d) (0x0#2 ++ t) (0x0#1 ++ w ++ f ++ 0x2#3))
  | .mmaFwdSat y d t w f => some (mkWord false 0x33#6 (y ++ d) (0x0#2 ++ t) (0x0#1 ++ w ++ f ++ 0x3#3))
  | .mrd d a h r => some (mkWord false 0x34#6 (d) (0x0#3 ++ a) (h ++ r ++ 0x0#7))
  | .mclr a => some (mkWord false 0x34#6 (0x0#6) (0x0#3 ++ a) (0x1#13))
  | .gldb k d a o => some (mkWord k 0x36#6 (d) (a) (0x0#3 ++ o))
  | .gldbu k d a o => some (mkWord k 0x36#6 (d) (a) (0x1#3 ++ o))
  | .gldh k d a o => some (mkWord k 0x36#6 (d) (a) (0x2#3 ++ o))
  | .gldhu k d a o => some (mkWord k 0x36#6 (d) (a) (0x3#3 ++ o))
  | .gldw k d a o => some (mkWord k 0x36#6 (d) (a) (0x4#3 ++ o))
  | .gldwu k d a o => some (mkWord k 0x36#6 (d) (a) (0x5#3 ++ o))
  | .gld k d a o => some (mkWord k 0x36#6 (d) (a) (0x6#3 ++ o))
  | .gstb k d a o => some (mkWord k 0x37#6 (d) (a) (0x0#3 ++ o))
  | .gsth k d a o => some (mkWord k 0x37#6 (d) (a) (0x2#3 ++ o))
  | .gstw k d a o => some (mkWord k 0x37#6 (d) (a) (0x4#3 ++ o))
  | .gst k d a o => some (mkWord k 0x37#6 (d) (a) (0x6#3 ++ o))
  | .gaadd k d a b w => some (mkWord k 0x38#6 (d) (a) (b ++ 0x0#2 ++ w ++ 0x0#4))
  | .gaswap k d a b w => some (mkWord k 0x38#6 (d) (a) (b ++ 0x0#2 ++ w ++ 0x1#4))
  | .gacas k d a b w => some (mkWord k 0x38#6 (d) (a) (b ++ 0x0#2 ++ w ++ 0x2#4))
  | .gamin k d a b w => some (mkWord k 0x38#6 (d) (a) (b ++ 0x0#2 ++ w ++ 0x3#4))
  | .gamax k d a b w => some (mkWord k 0x38#6 (d) (a) (b ++ 0x0#2 ++ w ++ 0x4#4))
  | .gaminu k d a b w => some (mkWord k 0x38#6 (d) (a) (b ++ 0x0#2 ++ w ++ 0x5#4))
  | .gamaxu k d a b w => some (mkWord k 0x38#6 (d) (a) (b ++ 0x0#2 ++ w ++ 0x6#4))
  | .gaand k d a b w => some (mkWord k 0x38#6 (d) (a) (b ++ 0x0#2 ++ w ++ 0x7#4))
  | .gaor k d a b w => some (mkWord k 0x38#6 (d) (a) (b ++ 0x0#2 ++ w ++ 0x8#4))
  | .gaxor k d a b w => some (mkWord k 0x38#6 (d) (a) (b ++ 0x0#2 ++ w ++ 0x9#4))
  | .gafadd k d a b => some (mkWord k 0x38#6 (d) (a) (b ++ 0x1A#7))
  | .ldacq k d a w s => some (mkWord k 0x39#6 (d) (a) (0x0#8 ++ w ++ 0x0#1 ++ s))
  | .strel k d a w s => some (mkWord k 0x39#6 (d) (a) (0x0#8 ++ w ++ 0x1#1 ++ s))
  | .scadd k d a b => some (mkWord k 0x3A#6 (d) (a) (b ++ 0x0#7))
  | .scswap k d a b => some (mkWord k 0x3A#6 (d) (a) (b ++ 0x1#7))
  | .sccas k d a b => some (mkWord k 0x3A#6 (d) (a) (b ++ 0x2#7))
  | .scld k d a => some (mkWord k 0x3A#6 (d) (a) (0x3#13))
  | .scst k d a => some (mkWord k 0x3A#6 (d) (a) (0x4#13))
  | .monarm k n a => some (mkWord k 0x3B#6 (0x0#4 ++ n) (a) (0x0#13))
  | .monarmLm k n a => some (mkWord k 0x3B#6 (0x8#4 ++ n) (a) (0x0#13))
  | .monwait k d b => some (mkWord k 0x3B#6 (d) (0x0#6) (b ++ 0x1#7))
  | .monclr k n => some (mkWord k 0x3B#6 (0x0#3 ++ n) (0x0#6) (0x2#13))
  | .mbput k d a b => some (mkWord k 0x3C#6 (d) (a) (b ++ 0x0#7))
  | .mbget k d => some (mkWord k 0x3C#6 (d) (0x0#6) (0x1#13))
  | .ringput k d a b => some (mkWord k 0x3C#6 (d) (a) (b ++ 0x2#7))
  | .ringget k d a b => some (mkWord k 0x3C#6 (d) (a) (b ++ 0x3#7))
  | .callat k d a b => some (mkWord k 0x3D#6 (d) (a) (b ++ 0x0#7))
  | .twait k => some (mkWord k 0x3D#6 (0x0#6) (0x0#6) (0x1#13))
  | .rqclm k d b => some (mkWord k 0x3D#6 (d) (0x0#6) (b ++ 0x2#7))
  | .resultLanding
  | .pawnSwitchRejoin _
  | .pawnLmGrant _
  | .pawnFetch _
  | .pawnPushRetry _
  | .remoteLoadReply
  | .remoteStorePerformed
  | .remoteStoreAck
  | .tileLoaderRow
  | .weightLoaderGranule
  | .watchdogExpiry
  | .trapEntry _
  | .pawnTrapEntry _
  | .doorbell _ _ _
  | .launch _
  | .launchPlacement _
  | .corePartComplete
  | .launchCompletion _
  | .queueCopy _
  | .queueCollective _
  | .hostNotification _
  | .eventWait _
  | .eventWaitRecheck _
  | .conditional _
  | .runGraph _
  | .graphNodeStart _ _
  | .graphNodeCompletion _
  | .hostRingTimeExpiry _
  | .hrptrWrite _ _
  | .loadLevelling
  | .featlockWrite _
  | .copy _
  | .copy2d _
  | .split _
  | .gather _
  | .scatter _
  | .fill _
  | .wpset _
  | .allReduce
  | .reduceScatter
  | .allGather
  | .broadcast
  | .engineCommandCompletion _
  | .completionRecordPush _
  | .collectiveIncompleteReply _
  | .pawnCacheFill _
  | .homeAtomic _
  | .atomicReply _
  | .scWindowClose
  | .monitorRegisterAck _ _
  | .monitorHit _ _
  | .monwaitTimeout _
  | .mailboxDeposit _ _ _
  | .ackLanding _ _
  | .ringOperation _
  | .taskEntryArrival _ _ _ _ _ _
  | .rowClaimReply _
  | .translationWalk _
  | .fqrespWalkAgain _ _
  | .fqrespDeliver _ _
  | .tlbinv _ _
  | .tlbinvFlush _ _
  | .tlbinvCompletion
  | .beatRaise
  | .beatArrival
  | .tickExchange _
  | .tickStamp _ _
  | .beatOverdue
  | .portDeposit _ _ _ _ _
  | .heartbeat _
  | .heartbeatLoss _
  | .moveOrderVisit _
  | .preemptionRequest _
  | .contextSave
  | .contextRestore _
  | .ctxslotWrite _ _
  | .ctxslotEvict _
  | .evictionCompletion _
  | .sintrWrite _ _
  | .accountingBoundary _ _
  | .acctclr _
  | .accountingReadout _ _
  | .getVersion
  | .getCapabilities
  | .negotiateAlgorithms
  | .getDigests
  | .getCertificate _ _
  | .challenge _
  | .getMeasurements _ _
  | .unsupportedSpdmRequest _
  | .quoteStart _
  | .quoteSigned
  | .patrolScrub _ _ _
  | .selfTestVerdict _ _ _ _
  | .linkRetrainTimeout _
  | .dbgHaltreq _
  | .dbgResume _
  | .breakpointHit _
  | .watchpointHit _ _ _ _
  | .crossTriggerHalt _
  | .dumpStart _
  | .dumpPageSend
  | .coldReset
  | .conventionalReset
  | .functionLevelReset
  | .inputUndervoltage
  | .registerWrite _ _
  | .hostApertureAccess _ _ _
  | .fabricWrite _ _
  | .planeMaskChange _
  | .inputVoltageChange _ => none

/-- The bundle whose slot n holds word w and whose other slots are empty (R26, R28): header 0x0000_0001. -/
def bundleOf (n : Nat) (w : BitVec 32) : BitVec 320 :=
  (1 : BitVec 320) ||| ((w.setWidth 320) <<< (32 * (n + 1)))

end Sys2Proof
end

