-- ==== Sys2Proof/Machine/Control.lean ====
section
/-! DEFINITION. The instructions of control: no-operation, transfers, loops, hold, tempo, control registers, trap, brk, sret,
ibar and exit (04_control_scalar R80 to R94, 10_tempo R219, 26_traps R392). The engine queues and the fences stand in
Engines.lean and Order.lean. -/

namespace Sys2Proof.Machine

/-! ### Transfers (R60, R66, R80 to R82) -/

/-- Control goes to a target: after the delay bundle on the primary, at once for a pawn. -/
def State.redirect (s : State) (a : Word64) : State :=
  match s.ctx.agent with
  | .primary => s.updPrim fun p => { p with xfer := some a }
  | .pawn t => s.updPawn t fun p => { p with pc := a, buf := [] }

/-- A branch's predicate in the field of six bits. -/
def specBr (k : Bool) (p : Option (BitVec 4)) : OpSpec where
  cls := .c
  k := k
  regs := match p with
    | none => []
    | some n => [srcU .b (narrow n)]

/-- The link value: the primary's skips the delay bundle (R81). -/
def State.linkValue (s : State) : Word64 := s.ctx.pc + (if s.isPawn then 4 else 80)

/-- R33, R38: nothing but the next op. -/
def execNop (k : Bool) (s : State) : Out := issue { cls := .any, k := k } s fun s => s

/-- R80: always taken. -/
def execBr (k : Bool) (i : BitVec 13) (s : State) : Out :=
  issue (specBr k none) s fun s => s.redirect (s.relTarget i)

/-- R80: taken when the predicate is 1. -/
def execBrT (k : Bool) (p : BitVec 4) (i : BitVec 13) (s : State) : Out :=
  issue (specBr k (some p)) s fun s => if s.readB p.toNat then s.redirect (s.relTarget i) else s

/-- R80: taken when the predicate is 0. -/
def execBrF (k : Bool) (p : BitVec 4) (i : BitVec 13) (s : State) : Out :=
  issue (specBr k (some p)) s fun s => if s.readB p.toNat then s else s.redirect (s.relTarget i)

/-- R81: link, then to PC + imm × unit. -/
def execCall (k : Bool) (l : BitVec 5) (i : BitVec 13) (s : State) : Out :=
  issue { cls := .c, k := k, regs := [dstU .s (narrow l) 1] } s fun s =>
    (s.landS 1 (narrow l) s.linkValue).redirect (s.relTarget i)

/-- R81: link, then to register A + imm × unit; the old value of A when the link replaces it. -/
def execCalli (k : Bool) (l : BitVec 5) (a : Field6) (i : BitVec 13) (s : State) : Out :=
  issue { cls := .c, k := k, regs := [dstU .s (narrow l) 1, srcU .s a] } s fun s =>
    (s.landS 1 (narrow l) s.linkValue).redirect (s.readS a + s.imm i * s.unitBytes)

/-- R81: to register A + imm × unit. -/
def execJr (k : Bool) (a : Field6) (i : BitVec 13) (s : State) : Out :=
  issue { cls := .c, k := k, regs := [srcU .s a] } s fun s => s.redirect (s.readS a + s.imm i * s.unitBytes)

/-! ### Loops (R83) -/

/-- What loop needs: an end at least one bundle on, and a count from s0 to s59. -/
def specLoop (a : Field6) (i : BitVec 13) : OpSpec where
  cls := .c
  who := .prim
  regs := [srcU .sNoPort a]
  checks := [(.enc, fun s => if (s.imm i).toInt < 1 then some (s.encTrap 0) else none)]

/-- R83: set up level N, or skip the body when the count is zero. -/
def execLoop (n : BitVec 1) (a : Field6) (i : BitVec 13) (s : State) : Out :=
  issue (specLoop a i) s fun s =>
    let cnt : Word32 := (s.readS a).setWidth 32
    if cnt = 0 then s.redirect (s.ctx.pc + (s.imm i + 1) * 40)
    else
      let l : LoopLevel := ⟨cnt, (s.ctx.pc + 40).setWidth 21, (s.ctx.pc + s.imm i * 40).setWidth 21, true⟩
      s.updPrim fun p => { p with loopSet := some (n.toNat, l) }

/-! ### hold (R86, R87) -/

/-- The comparisons of hold. -/
inductive HoldCmp where
  | eq | ne | lt | ge | ltu | geu
deriving DecidableEq, Repr

def HoldCmp.holds (c : HoldCmp) (a b : Word64) : Bool :=
  match c with
  | .eq => decide (a = b)
  | .ne => decide (a ≠ b)
  | .lt => decide (a.toInt < b.toInt)
  | .ge => decide (a.toInt ≥ b.toInt)
  | .ltu => decide (a.toNat < b.toNat)
  | .geu => decide (a.toNat ≥ b.toNat)

/-- The watched doubleword (R87). -/
def State.watched (s : State) (a : Field6) : Word64 :=
  BitVec.ofNat 64 (memRead s.lm (s.core.lmBase + (s.readS a).toNat) 8)

/-- The check of a watched address, made when the bundle is first presented. -/
def State.holdCheck (s : State) (a : Field6) : Option TrapRec :=
  if s.prim.presented then none else s.lmCheck (s.readS a) 8 8 false

/-- What a hold on local memory needs: an address that an ld could read; it waits with cause 0. -/
def specHold (c : HoldCmp) (a b : Field6) : OpSpec where
  cls := .c
  who := .prim
  regs := [srcU .sNoPort a, srcU .sNoPort b]
  checks := [(.lm, fun s => s.holdCheck a)]
  port := fun s => [(s.core.lmBase + (s.readS a).toNat) / 8]
  freeze := fun s => if (s.holdCheck a).isSome || c.holds (s.watched a) (s.readS b) then [] else [0]
  guardPoint := true

/-- What a hold on a write pointer needs. -/
def specHoldWp (c : HoldCmp) (w : BitVec 1) (b : Field6) : OpSpec where
  cls := .c
  who := .prim
  regs := [srcU .sNoPort b]
  freeze := fun s => if c.holds ((vget s.core.wptr w.toNat 0).setWidth 64) (s.readS b) then [] else [0]
  guardPoint := true

/-- R86: wait for eq on a doubleword. -/
def execHoldEq (a b : Field6) (s : State) : Out := issue (specHold .eq a b) s fun s => s

/-- R86: wait for ne on a doubleword. -/
def execHoldNe (a b : Field6) (s : State) : Out := issue (specHold .ne a b) s fun s => s

/-- R86: wait for lt on a doubleword. -/
def execHoldLt (a b : Field6) (s : State) : Out := issue (specHold .lt a b) s fun s => s

/-- R86: wait for ge on a doubleword. -/
def execHoldGe (a b : Field6) (s : State) : Out := issue (specHold .ge a b) s fun s => s

/-- R86: wait for ltu on a doubleword. -/
def execHoldLtu (a b : Field6) (s : State) : Out := issue (specHold .ltu a b) s fun s => s

/-- R86: wait for geu on a doubleword. -/
def execHoldGeu (a b : Field6) (s : State) : Out := issue (specHold .geu a b) s fun s => s

/-- R86: wait for eq on a write pointer. -/
def execHoldEqWp (w : BitVec 1) (b : Field6) (s : State) : Out := issue (specHoldWp .eq w b) s fun s => s

/-- R86: wait for ne on a write pointer. -/
def execHoldNeWp (w : BitVec 1) (b : Field6) (s : State) : Out := issue (specHoldWp .ne w b) s fun s => s

/-- R86: wait for lt on a write pointer. -/
def execHoldLtWp (w : BitVec 1) (b : Field6) (s : State) : Out := issue (specHoldWp .lt w b) s fun s => s

/-- R86: wait for ge on a write pointer. -/
def execHoldGeWp (w : BitVec 1) (b : Field6) (s : State) : Out := issue (specHoldWp .ge w b) s fun s => s

/-- R86: wait for ltu on a write pointer. -/
def execHoldLtuWp (w : BitVec 1) (b : Field6) (s : State) : Out := issue (specHoldWp .ltu w b) s fun s => s

/-- R86: wait for geu on a write pointer. -/
def execHoldGeuWp (w : BitVec 1) (b : Field6) (s : State) : Out := issue (specHoldWp .geu w b) s fun s => s

/-! ### tempo (R219 to R221) -/

/-- The target in force: kept since the bundle was first presented, else read now. -/
def State.tempoTarget (s : State) (any : Bool) (a : Field6) : Word64 :=
  s.prim.tempoTgt.getD (if any then s.die.beat + 1 else s.readS a)

/-- The target has passed: a later beat, or a later phase of its own beat. -/
def State.tempoPassed (s : State) (tgt : Word64) : Bool :=
  decide (tgt < s.die.beat) || (decide (s.die.beat = tgt) && decide (3 < s.die.phase))

/-- The bundle may issue in this tick. -/
def State.tempoReady (s : State) (tgt : Word64) : Bool :=
  decide (s.die.beat = tgt) && decide (s.die.phase = 3) && !s.die.excursion

/-- The target for the next tick: tempo.any that has missed phase 3 waits for the following beat. -/
def State.tempoNext (s : State) (any : Bool) (a : Field6) : Word64 :=
  let tgt := s.tempoTarget any a
  if any && s.tempoPassed tgt then s.die.beat + 1 else tgt

/-- TEMPOREC of a late tempo (R220, R222): the port fields keep their values. -/
def State.lateRec (s : State) (tgt : Word64) : Word64 :=
  let x := s.prim.tempoRec.toNat
  let behind := min (s.die.beat.toNat - tgt.toNat) (2 ^ 32 - 1)
  let uns := decide (tgt ∈ s.die.unsettled3) || (decide (tgt = s.die.beat) && decide (s.die.phase = 3) && s.die.excursion)
  BitVec.ofNat 64 (setBits (setBits (setBits x 0 32 behind) 32 17 (min s.die.phase 131071)) 49 1 (b2n uns))

/-- What tempo needs; it waits with cause 1, and a tempo whose target has passed is late. -/
def specTempo (any : Bool) (a : Field6) : OpSpec where
  cls := .c
  who := .prim
  regs := if any then [] else [srcU .sNoPort a]
  checks := [(.tempo, fun s =>
    let tgt := s.tempoTarget any a
    if !any && s.tempoPassed tgt && !s.tempoReady tgt then some (s.trapAt 0x140 s.ctx.pc (s.lateRec tgt)) else none)]
  freeze := fun s =>
    let tgt := s.tempoTarget any a
    if s.tempoReady tgt || (!any && s.tempoPassed tgt) then [] else [1]
  guardPoint := true
  tempo := some (any, a)

/-- The core becomes phase-valid (R221). -/
def State.setPhv (s : State) : State := s.updPrim fun p => { p with phv := true, tempoTgt := none }

/-- R219: issue at phase 3 of the beat in s[A]. -/
def execTempo (a : Field6) (s : State) : Out := issue (specTempo false a) s fun s => s.setPhv

/-- R219: issue at phase 3 of the next beat. -/
def execTempoAny (s : State) : Out := issue (specTempo true 0) s fun s => s.setPhv

/-! ### Control registers (R89) -/

/-- The descriptor that a csrr reads (R89, R413). -/
def csrReads (c : BitVec 12) : List (RFile × Nat) := if 0x100 ≤ c.toNat ∧ c.toNat ≤ 0x10F then [(.fd, c.toNat - 0x100)] else []

/-- The encoding and privilege checks of a control-register access. -/
def csrChecks (write : Bool) (c : BitVec 12) : List (Stage × (State → Option TrapRec)) :=
  [(.enc, fun s => if csrAssigned s.isPawn write c.toNat then none else some (s.encTrap 0)),
    (.priv, fun s => if s.userMode && csrPrivileged write c.toNat then some (s.encTrap 4) else none)]

/-- R89: s[D] := the register as of the issue cycle, at c + 2. -/
def execCsrr (k : Bool) (d : Field6) (c : BitVec 12) (s : State) : Out :=
  issue { cls := .c, k := k, regs := [dstU .s d 2], checks := csrChecks false c, reads := fun _ => csrReads c } s fun s =>
    s.landS 2 d (s.csrRead c.toNat)

/-- R89: the register := s[A], from c + 2. -/
def execCsrw (k : Bool) (a : Field6) (c : BitVec 12) (s : State) : Out :=
  issue { cls := .c, k := k, regs := [srcU .s a], checks := csrChecks true c } s fun s => s.emit 2 (.csr c (s.readS a))

/-! ### trap, brk, sret, ibar, exit (R91 to R94, R392, R422) -/

/-- The trap of a trap or brk: at the boundary after the bundle on the primary, precisely for a pawn, with the next op as
resume point (R92). -/
def State.trapAfter (s : State) (r : TrapRec) : State :=
  match s.ctx.agent with
  | .primary => s.updPrim fun p => { p with trapPend := some r }
  | .pawn t => s.pawnTrap t r (s.ctx.pc + 4)

/-- R92: the trap to supervisor code with s[A] as its argument. -/
def execTrap (k : Bool) (a : Field6) (s : State) : Out :=
  issue { cls := .c, k := k, sync := true, regs := [srcU .s a] } s fun s => s.trapAfter (s.trapAt (0x1F0 + s.unit) s.ctx.pc (s.readS a))

/-- R92, R422: a debug event when breaks are enabled, else a trap. -/
def execBrk (k : Bool) (s : State) : Out :=
  issue { cls := .c, k := k, sync := true } s fun s =>
    if !s.breaksOn then s.trapAfter (s.trapAt (0x1F8 + s.unit) s.ctx.pc 0)
    else if s.dbgRoute then s.trapAfter (s.trapAt (0x1E0 + s.unit) s.ctx.pc 0)
    else
      match s.ctx.agent with
      | .primary => s.debugHalt 3 0 false 0 s.ctx.pc.toNat
      | .pawn t => (s.debugHalt 3 0 true t s.ctx.pc.toNat).updPawn t fun p => { p with status := .halted }

/-- The fates of sret (R392). -/
def sretCheck (s : State) : Option TrapRec :=
  if s.userMode then some (s.encTrap 4)
  else if !s.th.valid then some (s.encTrap 5)
  else if s.th.pmode ≠ 0 then some (s.encTrap 6)
  else none

/-- R392, R395: return from a trap. -/
def execSret (k : Bool) (s : State) : Out :=
  issue { cls := .c, k := k, checks := [(.priv, sretCheck)] } s fun s =>
    match s.ctx.agent with
    | .primary => s.primReturn
    | .pawn t => s.pawnReturn t

/-- R93: the fetch window is emptied, and four implicit empty bundles issue. -/
def execIbar (s : State) : Out :=
  issue { cls := .c, who := .prim } s fun s => s.updPrim fun p => { p with empties := 4 }

/-- R94: the thread ends. -/
def execExit (k : Bool) (s : State) : Out :=
  issue { cls := .c, k := k, sync := true, guardPoint := true } s fun s =>
    match s.ctx.agent with
    | .primary => s.updPrim fun p => { p.dropPhv 5 with exited := true }
    | .pawn t => s.updPawn t fun p => { p with status := .exiting }

end Sys2Proof.Machine
end

