-- ==== Sys2Proof/Machine/Present.lean ====
section
/-! DEFINITION. The primary in one tick: fetch (R26, R82, R146), the checks of a bundle in their order (R47, R396), the freeze
causes of R63, pending events (R396), issue, and the successor of a bundle (R60, R84, R93). The ops come from a table, so
that the same presenter serves whatever decodes them. -/

namespace Sys2Proof.Machine

/-- How op words decode, what an op needs, and what it does. -/
structure OpTable (α : Type) where
  decode : Word32 → Option α
  spec : α → OpSpec
  run : α → State → Out

/-! ### Fetch -/

/-- The program counter is refused, or some byte of the bundle lies where the map gives the thread no fetch (R26, R82, R138). -/
def State.fetchRefused (s : State) : Bool :=
  let a := s.prim.pc.toNat
  decide (a % 8 ≠ 0) || decide (a < 0x800) || decide (0x200000 < a + 40) || (decide (s.prim.th.mode = 0) && decide (0x1F0000 < a + 40))

/-- Cycles since the tick in which the bundle at the program counter was read (R93, R146). -/
def Primary.fetchAge (p : Primary) : Nat := if p.winCount < 4 then p.winBase + p.winCount else 4

/-- Local memory as the fetch of the bundle at the program counter saw it. -/
def State.fetchView (s : State) : Memory := (s.prim.past[s.prim.fetchAge - 1]?).getD s.lm

/-- The bundle at the program counter. -/
def State.bundle (s : State) : BitVec 320 := BitVec.ofNat 320 (memRead s.fetchView (s.core.lmBase + s.prim.pc.toNat) 40)

/-- A slot's op in hand. -/
structure SlotIn (α : Type) where
  n : Nat
  op : α
  word : Word32
  lit : Option Word32
  ix : Bool

/-- The state in which a slot's op is checked. -/
def State.atSlot {α : Type} (s : State) (x : SlotIn α) : State :=
  s.setCtx { agent := .primary, slot := x.n, lit := x.lit, ix := x.ix, pc := s.prim.pc, word := x.word }

/-- A trap that no slot raises: the fetch cause, whose detail names no word, so that it is a free value (R394). -/
def State.fetchTrap (s : State) (code : Nat) (pc : Word64) : TrapRec :=
  ⟨BitVec.ofNat 9 code, pc, Config.fetchArg s.free, 15⟩

/-- Steps 1 and 2 of R47. -/
def State.frameTrap (s : State) (b : BitVec 320) : Option TrapRec :=
  if !headerOk b then some ⟨0x017, s.prim.pc, (bundleWord b 0).setWidth 64, 15⟩
  else (badSurrender b).map fun n =>
    let s := s.setCtx { slot := n, pc := s.prim.pc, word := bundleWord b (n + 1) }
    s.encTrap 2

/-- Step 3 of R47 for the slots from a list on: the ops, or the first trap. -/
def State.slotOps {α : Type} (s : State) (tb : OpTable α) (b : BitVec 320) : List Nat → Except TrapRec (List (SlotIn α))
  | [] => .ok []
  | n :: ns =>
    match decodeSlotWith tb.decode b n with
    | .error _ => .error ((s.setCtx { slot := n, pc := s.prim.pc, word := bundleWord b (n + 1) }).encTrap 0)
    | .ok (.op i w lit ix) =>
      let x : SlotIn α := ⟨n, i, w, lit, ix⟩
      match (s.atSlot x).encodingTrap (tb.spec i) with
      | some r => .error r
      | none =>
        match s.slotOps tb b ns with
        | .ok l => .ok (x :: l)
        | .error r => .error r
    | .ok _ => s.slotOps tb b ns

/-- The ops of the bundle at the program counter, or the trap of its fetch or encoding (R47). -/
def State.bundleOps {α : Type} (s : State) (tb : OpTable α) : Except TrapRec (List (SlotIn α)) :=
  if s.fetchRefused then .error (s.fetchTrap 0x087 s.prim.pc)
  else
    match s.frameTrap s.bundle with
    | some r => .error r
    | none => s.slotOps tb s.bundle (List.range 9)

/-! ### Checks after the encoding (R396) -/

/-- The first trap of a stage over the slots, with the sends of the slots before (R227). -/
def State.stageOver {α : Type} (s : State) (tb : OpTable α) (st : Stage) : List (Bool × Nat × Nat) → List (SlotIn α) → Option (TrapRec × OpSpec)
  | _, [] => none
  | sent, x :: l =>
    let sp := tb.spec x.op
    match (s.atSlot x).lateTrap sp st sent with
    | some r => some (r, sp)
    | none => s.stageOver tb st (sent ++ (s.atSlot x).sends sp) l

/-- The tiles that the bundle's own matrix op streams are in use in its cycle (R313). -/
def State.withStreams {α : Type} (s : State) (tb : OpTable α) (l : List (SlotIn α)) : State :=
  let ts := l.flatMap fun x => (tb.spec x.op).streams (s.atSlot x)
  s.updPrim fun p => { p with fl := { p.fl with uses := p.fl.uses ++ ts.map fun t => (1, Res.tile t) } }

/-- The first check that fails, with the op's needs. -/
def State.bundleTrap {α : Type} (s : State) (tb : OpTable α) (l : List (SlotIn α)) : Option (TrapRec × OpSpec) :=
  lateStages.findSome? fun st => (s.withStreams tb l).stageOver tb st [] l

/-- The first slot that consumes a struck word, with the word (R413, R415). -/
def State.bundleStruck {α : Type} (s : State) (tb : OpTable α) (l : List (SlotIn α)) : Option (SlotIn α × ErrLoc) :=
  l.findSome? fun x => ((s.atSlot x).struckOp (tb.spec x.op)).map fun e => (x, e)

/-- The first slot that a watchpoint stops (R422). -/
def State.bundleWatch {α : Type} (s : State) (tb : OpTable α) (l : List (SlotIn α)) : Option (SlotIn α × Nat × Nat) :=
  l.findSome? fun x => ((s.atSlot x).opWatch (tb.spec x.op)).map fun w => (x, w)

/-! ### Freeze causes (R63, R64, R69) -/

/-- Bank words that the bundle's accesses need. -/
def State.bundleWords {α : Type} (s : State) (tb : OpTable α) (l : List (SlotIn α)) : List Nat :=
  l.flatMap fun x => (tb.spec x.op).words (s.atSlot x)

/-- How often the bank needed most is needed (R69). -/
def worstBank (l : List Nat) : Nat := l.foldl (fun m w => max m (l.filter fun x => x % 64 = w % 64).length) 0

/-- The banks needed more than once. -/
def sharedBanks (l : List Nat) : BitVec 64 :=
  l.foldl (fun m w => if 1 < (l.filter fun x => x % 64 = w % 64).length then m ||| (1#64 <<< (w % 64)) else m) 0

/-- Ticks of a bank conflict that the bundle has still to wait (R69). -/
def State.bankTicks (s : State) (k : Nat) : Nat :=
  if s.prim.bankDone then 0 else if s.prim.bankWait = 0 then k - 1 else s.prim.bankWait

/-- A reply that lands in this cycle has not arrived (R67). -/
def State.replyLate (s : State) : Bool :=
  s.prim.fl.pend.any fun e => decide (e.count = 1) && s.awaitsReply e

/-- A source of the op lands in the cycle with a reply that has not arrived (R67). -/
def State.hangs {α : Type} (s : State) (tb : OpTable α) (x : SlotIn α) : Bool :=
  s.prim.fl.pend.any fun e => decide (e.count = 1) && s.awaitsReply e && match e.eff with
    | .remote _ d => (tb.spec x.op).regs.any fun u => !u.dst && (decide (d = .s u.num.toNat ∧ (u.file = .s ∨ u.file = .sNoPort)) ||
        decide (d = .v ((s.atSlot x).vfield u.num) ∧ (u.file = .v ∨ u.file = .vRw)))
    | _ => false

/-- The causes of the bundle's ops. -/
def State.opFreezes {α : Type} (s : State) (tb : OpTable α) (l : List (SlotIn α)) : List Nat :=
  (l.flatMap fun x => (tb.spec x.op).causes (s.atSlot x)) ++ (if 0 < s.bankTicks (worstBank (s.bundleWords tb l)) then [4] else []) ++
    (if s.core.tokens = some 0 then [7] else [])

/-! ### Pending events (R396 to R398) -/

/-- The pending event that comes first; `gp` says that the bundle reports a guard touch (R141). In supervisor mode flags and
interrupts wait (R398). An overrun is reported at the bundle that it takes the place of (R230). -/
def State.primEvent (s : State) (gp : Bool) : Option TrapRec :=
  let p := s.prim
  let user := decide (p.th.mode = 0)
  p.th.mcheck <|> p.trapPend <|> (p.overrun.map fun r => { r with addr := p.pc }) <|> (if user then p.th.flagTrap else none) <|>
    (if gp && p.th.guardPending then some p.th.guardTrap else none) <|>
    (if user && decide (p.sintr ≠ 0) then some ⟨0x1EF, 0, p.sintr, 15⟩ else none)

/-- The event that `primEvent` names goes. -/
def State.clearEvent (s : State) (gp : Bool) : State :=
  s.updPrim fun p =>
    if p.th.mcheck.isSome then { p with th := { p.th with mcheck := none } }
    else if p.trapPend.isSome then { p with trapPend := none }
    else if p.overrun.isSome then { p with overrun := none }
    else if p.th.mode = 0 ∧ p.th.flagTrap.isSome then { p with th := { p.th with flagTrap := none } }
    else if gp && p.th.guardPending then { p with th := p.th.clearGuard }
    else if p.th.mode = 0 then { p with sintr := 0 }
    else p

/-- The primary takes a trap, and the trace unit records it (R391, R425). -/
def State.enterTrap (s : State) (r : TrapRec) : State :=
  let s' := s.primTrap r
  if s'.prim.th.mode = s.prim.th.mode then s' else s'.traceTrap none s'.prim.th

/-- R391, R396: the primary enters its handler for a pending event of the cause. -/
def execTrapEntry (c : BitVec 9) (s : State) : Out :=
  let gp := decide (c.toNat / 8 = 0x13)
  .next (match s.primEvent gp with
    | some r => if r.code = c then (s.clearEvent gp).enterTrap r else s
    | none => s)

/-! ### Breakpoints (R422) -/

/-- The first breakpoint that matches the bundle at the program counter. -/
def State.breakpoint (s : State) : Option Nat :=
  if s.dbgOwned && !s.prim.th.exempt then
    (List.range 4).find? fun n =>
      let b := s.dbg (0x10 + 8 * n)
      bit b 21 && bit b (22 + s.core.cfg.coreInClus) && decide (bits b 3 18 = s.prim.pc.toNat / 8)
  else none

/-- R422: a breakpoint halts the cluster, or traps; the bundle is the resume point. -/
def execBreakpointHit (n : Nat) (s : State) : Out :=
  .next (if s.dbgRoute then s.enterTrap ⟨0x1E7, s.prim.pc, 0, 15⟩ else s.debugHalt 1 n false 0 s.prim.pc.toNat)

/-! ### Vacancy (R70) -/

/-- No operation holds the slot in the tick in hand: in a frozen tick one whose last held cycle has gone by holds it no longer (R70). -/
def State.slotFree (s : State) (n : Nat) : Bool :=
  if s.prim.frzClus then
    decide (vget s.prim.fl.held n 0 ≤ 1) && match s.prim.flUser with
      | none => true
      | some f => decide (vget f.held n 0 = 0)
  else !s.slotHeld n

/-- The slots that pawns use and no earlier operation holds; all six once the primary has exited (R94). -/
def State.freeSlots (s : State) : List Nat := [1, 2, 3, 4, 6, 7].filter fun n => s.prim.exited || s.slotFree n

/-- The slots that a bundle advertises. -/
def State.advertised (s : State) (b : BitVec 320) : List Nat :=
  s.freeSlots.filter fun n => headerSur (bundleWord b 0) n || decide (bundleWord b (n + 1) = 0)

def State.setVacant (s : State) (l : List Nat) : State := s.updCore fun c => { c with vacant := l }

/-! ### The end of a cycle -/

/-- The cycle issues a bundle, implicit empty bundles included: ISSUED counts, the watchdog clears, and the fetch window has
seen local memory as it stood (R72, R74, R146). -/
def State.cycleDone (s : State) : State :=
  ((s.bump 0 1).updCore fun c => { c with wdogElapsed := 0 }).updPrim fun p => { p with past := s.lm :: p.past.take (max 7 (p.winBase + 4)) }

/-- An implicit empty bundle (R93, R390 to R392). -/
def State.emptyBundle (s : State) : State := s.cycleDone.setVacant s.freeSlots

/-- What each level decides at the end of the bundle at P: its next state, and the wrap (R84). -/
def LoopLevel.atEnd (l : LoopLevel) (p : BitVec 21) : LoopLevel × Option Word64 :=
  if l.active && decide (l.stop = p) then
    if 1 < l.cnt.toNat then ({ l with cnt := l.cnt - 1 }, some (l.start.setWidth 64)) else ({ l with cnt := 0, active := false }, none)
  else (l, none)

/-- The successor of a bundle under the loops (R84): the loops, and the address with whether it is a wrap. -/
def nextInLoops (ls : Vector LoopLevel 2) (p : Word64) : Vector LoopLevel 2 × Word64 × Bool :=
  let l1 := (vget ls 1 LoopLevel.idle).atEnd (p.setWidth 21)
  let ls := vset ls 1 l1.1
  match l1.2 with
  | some a => (ls, a, true)
  | none =>
    let l0 := (vget ls 0 LoopLevel.idle).atEnd (p.setWidth 21)
    let ls := vset ls 0 l0.1
    match l0.2 with
    | some a => (ls, a, true)
    | none => (ls, p + 40, false)

/-- The loops and the address after the bundle at an address, and whether it is a wrap: the delay bundle of a taken transfer makes no
decision (R60, R84). -/
def Primary.successor (p : Primary) (pc : Word64) : Vector LoopLevel 2 × Word64 × Bool :=
  match p.target with
  | some a => (p.loops, a, false)
  | none => nextInLoops p.loops pc

/-- The level that a loop has set stands from the next cycle on: a csrw of it that issued a cycle earlier and is still to take effect
issued before it (R57, R83). -/
def PEntry.setsLoop (e : PEntry) (n : Nat) : Bool :=
  match e.eff with
  | .csr i _ => decide (e.count = 1) && decide (i.toNat = 0x10 + 2 * n ∨ i.toNat = 0x11 + 2 * n)
  | _ => false

/-- The loop of the bundle takes effect. -/
def Primary.applyLoop (p : Primary) : Primary :=
  match p.loopSet with
  | some (n, l) => { p with loops := vset p.loops n l, fl := { p.fl with pend := p.fl.pend.filter fun e => !e.setsLoop n } }
  | none => p

/-- What every bundle that has issued leaves behind. -/
def Primary.afterBundle (p : Primary) : Primary :=
  { p with
    xfer := none
    loopSet := none
    presented := false
    tempoTgt := none
    bankWait := 0
    bankDone := false
    opCount := (p.opCount + 15) / 16 * 16
    th := { p.th with exempt := false } }

/-- The bundle that held an sret has issued: empty bundles until every supervisor entry has landed, then the resume bundle (R392). -/
def Primary.afterSret (p : Primary) (pc : Word64) : Primary :=
  { p.afterBundle.resumeAt with loops := (p.successor pc).1, empties := max 1 (lastLanding p.fl.pend - 1) }

/-- Any other bundle has issued: its successor, its transfer and its loop stand (R60, R83, R84), and the window moves on (R146). -/
def Primary.afterOther (p : Primary) (pc : Word64) : Primary :=
  let x := p.successor pc
  ({ p with
    loops := x.1
    pc := x.2.1
    target := p.xfer
    winCount := if p.empties ≠ 0 ∨ p.target.isSome then 0 else min 4 (p.winCount + 1)
    winBase := if p.empties ≠ 0 then 4 else if p.target.isSome then 1 else p.winBase }).applyLoop.afterBundle

/-- The bundle has issued: the command that it pushes enters its command side, after the bundle's own stores (R169). -/
def State.endBundle (s : State) (wasResuming : Bool) (pc : Word64) : State :=
  let s := s.submitPush.cycleDone
  let p := s.prim
  if p.resuming && !wasResuming then (s.updPrim fun q => q.afterSret pc).traceReturn none (p.afterSret pc).pc
  else
    let u := s.updPrim fun q => q.afterOther pc
    match p.xfer with
    | some a => u.traceJump pc.toNat a.toNat
    | none => if (p.successor pc).2.2 then u.traceJump pc.toNat u.prim.pc.toNat else u

/-! ### Issue -/

/-- The ops of a bundle have their effects, in slot order. -/
def runSlots {α : Type} (tb : OpTable α) : List (SlotIn α) → State → Out
  | [], s => .next s
  | x :: l, s =>
    let s := s.setCtx { agent := .primary, slot := x.n, lit := x.lit, ix := x.ix, pc := s.prim.pc, word := x.word, checked := true }
    match tb.run x.op s with
    | .next s' => runSlots tb l { s' with ctx := {} }
    | .fault f => .fault f
    | .refused r => .refused r

/-- Entries of the pending-write queue in use (R390). -/
def Primary.queued (p : Primary) : Nat :=
  pwqEntries p.fl.pend + match p.flUser with
    | some f => pwqEntries f.pend
    | none => 0

/-- The tick in which the bundle presented traps: an implicit empty bundle, with what the bundle advertised vacant (R70, R391). It is no longer the
first after a resume (R423). -/
def State.trapTick (s : State) (vacant : List Nat) (r : TrapRec) : State :=
  ((s.cycleDone.setVacant vacant).updPrim fun p => { p with th := { p.th with exempt := false } }).enterTrap r

/-- A cycle passes in which the bundle at hand stays: the windows that were read after a refill are one cycle older (R146). -/
def Primary.stallWindow (p : Primary) : Primary := if p.winCount < 4 then { p with winBase := p.winBase + 1 } else p

/-- The bundle issues whole, and takes its token (R68); a supervisor bundle that would need more entries than are free waits behind an empty one
(R390). The last check of all is that of a pushed command whose index list the bundle's own stores may complete (R169, R177); a command that it
refuses is discarded with its assembly. -/
def State.issueBundle {α : Type} (s : State) (tb : OpTable α) (l : List (SlotIn α)) : Out :=
  match runSlots tb l (s.spendToken.setVacant (s.advertised s.bundle)) with
  | .next t =>
    if s.prim.th.mode ≠ 0 ∧ 64 < t.prim.queued then .next (s.emptyBundle.updPrim Primary.stallWindow)
    else
      match t.pushTrap s.prim.pc with
      | some (e, r) => .next ((s.updPrim fun p => { p with th := { p.th with asm := vset p.th.asm e [] } }).trapTick (s.advertised s.bundle) r)
      | none => .next (t.endBundle s.prim.resuming s.prim.pc)
  | .fault f => .fault f
  | .refused r => .refused r

/-- The primary's part of an unfrozen tick in which it is to issue. -/
def State.presentBundle {α : Type} (s : State) (tb : OpTable α) : Out :=
  match s.bundleOps tb with
  | .error r =>
    .next ((if s.fetchRefused then s.bumpFree else s).trapTick (if s.fetchRefused then s.freeSlots else s.advertised s.bundle) r)
  | .ok l =>
    match s.bundleTrap tb l with
    | some (r, sp) => .next ((s.discardFor sp r).trapTick (s.advertised s.bundle) r)
    | none =>
      match s.bundleWatch tb l with
      | some (x, _, _) => .next (s.trapTick (s.advertised s.bundle) ((s.atSlot x).trapAt (0x1E0 + (s.atSlot x).unit) s.prim.pc 0))
      | none =>
        match s.bundleStruck tb l with
        | some (x, e) => .next (s.emptyBundle.strikeUse (0x1D8 + (s.atSlot x).unit) e)
        | none => s.issueBundle tb l

/-- A bundle that reports a guard touch stands at the program counter, whatever its other slots hold (R141). -/
def State.atGuardPoint {α : Type} (s : State) (tb : OpTable α) : Bool :=
  !s.fetchRefused && (List.range 9).any fun n => match decodeSlotWith tb.decode s.bundle n with
    | .ok (.op i _ _ _) => (tb.spec i).guardPoint
    | _ => false

/-- The bank words of the bundle at the program counter. -/
def State.bundleBanks (s : State) : List Nat := if s.fetchRefused then [] else bankWords [s.core.lmBase + s.prim.pc.toNat] 40

/-- The barrel stands still: under a debug halt, and while the context is saved (R61). -/
def State.barrelHalted (s : State) : Bool := s.prim.halted || s.core.saving || !s.core.cfg.running

/-- The scan follows the primary's turn; between the two the pushes that wait in the push buffer are tried (R68, R88). -/
def State.presentStart (s : State) : State :=
  let s := (s.setCtx {}).setTurn (.scan 1 0 none)
  if s.barrelHalted then s else s.setAgenda (s.agenda ++ s.pushOrder.map fun t => (({} : Ctx), Instr.pawnPushRetry t))

/-- The primary's turn (R64, R94, R391). -/
def State.presentTurn {α : Type} (s : State) (tb : OpTable α) : Out :=
  let s := s.presentStart
  if !s.core.cfg.running || s.prim.exited || s.prim.frzClus then .next (s.setVacant s.freeSlots)
  else if s.prim.empties ≠ 0 then .next (s.emptyBundle.updPrim fun p => { p with empties := p.empties - 1 })
  else
    match s.primEvent (s.atGuardPoint tb) with
    | some r => .next (s.emptyBundle.due {} (.trapEntry r.code))
    | none =>
      match s.breakpoint with
      | some n => .next (s.emptyBundle.due {} (.breakpointHit n))
      | none => if s.lmBad s.bundleBanks then .next (s.emptyBundle.useLm 0x1DF s.bundleBanks) else s.presentBundle tb

/-! ### The start of a tick (R56, R64) -/

/-- The causes of an op that waits for a register: those that no register decides, an engine queue, a busy tile or slot, a tempo.any (R67, log 71). -/
def State.blindFreezes {α : Type} (s : State) (tb : OpTable α) (x : SlotIn α) : List Nat :=
  let sp := tb.spec x.op
  (sp.causes (s.atSlot x)).filter fun n => decide (n = 2) || decide (n = 5) || (sp.tempo.map fun y => y.1).getD false

/-- The causes of the core's own for the tick, on the state as it is landed to (R63, R64): `s` before the landings, `t` after. An op that waits for
the register of a late reply has those that do not hang on it (R67).
A bundle that has been presented keeps its causes when an event turns up (R396). -/
def State.ownCauses {α : Type} (s t : State) (tb : OpTable α) : List Nat × List (SlotIn α) :=
  let base := (if s.replyLate then [3] else []) ++ (if s.cause6 then [6] else [])
  if t.prim.empties ≠ 0 ∨ (!t.prim.presented ∧ (t.primEvent (t.atGuardPoint tb)).isSome) ∨ t.breakpoint.isSome then (base, [])
  else
    match t.bundleOps tb with
    | .ok l => (base ++ t.opFreezes tb (l.filter fun x => !s.hangs tb x) ++ (l.filter (s.hangs tb)).flatMap (t.blindFreezes tb), l)
    | .error _ => (base, [])

/-- What a frozen tick leaves behind on the primary: a bundle that waits for a cause of its own has been presented, once its
local-memory checks have passed (R86, R396); a tempo keeps its target, and a tick of a bank conflict has passed (R64, R69, R219). While an op that is
checked against local memory waits for the register of a late reply, its checks and its banks are not known, and only the targets that are known
stay (R67, log 71). -/
def State.frozenBundle {α : Type} (s t : State) (tb : OpTable α) (l : List (SlotIn α)) : State :=
  if t.prim.empties ≠ 0 ∨ (!t.prim.presented ∧ (t.primEvent (t.atGuardPoint tb)).isSome) then s
  else
    let free := l.filter fun x => !s.hangs tb x
    let waits := decide (t.opFreezes tb free ≠ []) && (t.stageOver tb .lm [] free).isNone
    let words := t.bundleWords tb free
    let n := t.bankTicks (worstBank words)
    let tgt := l.findSome? fun x => match (tb.spec x.op).tempo with
      | some y => if y.1 || !s.hangs tb x then some ((t.atSlot x).tempoNext y.1 y.2) else none
      | none => none
    let s := (s.updCore fun c => { c with awaits := l.flatMap fun x => ((tb.spec x.op).loads (t.atSlot x)).filter t.loading }).updPrim fun p =>
      { p with tempoTgt := tgt }
    if l.any fun x => s.hangs tb x && (tb.spec x.op).checks.any fun c => decide (c.1 = .lm) then s
    else
      let s := if n = 0 then s else s.updCore fun c => { c with banks := c.banks ||| sharedBanks words }
      s.updPrim fun p => { p with
        presented := p.presented || waits
        bankWait := if n = 0 then p.bankWait else n - 1
        bankDone := p.bankDone || decide (n = 1) }

/-- One more frozen tick on the watchdog (R74): none under cause 8 or once the primary has exited. -/
def State.watchdogTick (s : State) (causes : List Nat) : State :=
  if s.prim.exited ∨ 8 ∈ causes then s
  else
    let us := Config.microsecondPasses s.free
    let n := s.core.wdogElapsed.toNat + b2n us
    let limit := if s.core.wdogLimit = 0 then 65536 else s.core.wdogLimit.toNat
    let s := s.bumpFree.updCore fun c => { c with wdogElapsed := BitVec.ofNat 16 (min n 65535) }
    if us && decide (limit ≤ n) then s.due {} .watchdogExpiry else s

/-- R74: the watchdog requests pre-emption. -/
def execWatchdogExpiry (s : State) : Out := .next (s.request 0x1CF 0)

/-- A tick in which the cluster is frozen (R62, R63, R72, R221, R426). Where a beat arrives in the same tick PHVWHY keeps the beat's 2, of which order
R221 says nothing (DESIGN CHOICE, log 73). -/
def State.freezeTick (s : State) (causes : List Nat) : State :=
  let l := if causes = [] then [9] else causes
  let low := l.foldl min 9
  let s := s.updPrim fun p => { p.dropPhv 1 with frz := causeMask l, frzClus := true, frzLast := BitVec.ofNat 11 (causeMask l).toNat ||| 0x400#11 }
  ((s.bump 1 1).bumpFrz low).watchdogTick l

/-- The banks that the primary's accesses of the cycle serve (R68 rank 1). -/
def State.dueBanks (s : State) : BitVec 64 :=
  s.prim.fl.pend.foldl (fun m e => if e.count = 1 then
    match e.eff with
    | .bank a => m ||| a.banks
    | _ => m
    else m) 0

/-- The steps of the pawns at the start of a barrel cycle: landings, and threads that come back, end or enter their handler
(R61, R65, R395). -/
def State.pawnStarts (s : State) : List (Ctx × Instr) :=
  (List.range 16).flatMap fun t =>
    let p := s.pawn t
    (if p.pend.isEmpty then [] else [(agentCtx (.pawn t), Instr.resultLanding)]) ++
      match p.status with
      | .switching => [({}, .pawnSwitchRejoin t)]
      | .fencing _ => [({}, .pawnSwitchRejoin t)]
      | .exiting => [({}, .pawnSwitchRejoin t)]
      | .waking => [({}, .pawnSwitchRejoin t)]
      | .trapping _ _ => [({}, .pawnTrapEntry t)]
      | _ => []

/-- R422: a watchpoint stops the op in hand of the primary, or of pawn t: the event halts the cluster and a pawn parks, or the thread traps. -/
def execWatchpointHit (n : Nat) (pawn : Bool) (t addr : Nat) (s : State) : Out :=
  .next (if s.dbgRoute then
    (if pawn then s.pawnTrap t ⟨0x1E6, (s.pawn t).pc, 0, 15⟩ (s.pawn t).pc
    else s.primTrap ((s.setCtx { s.ctx with agent := .primary }).trapAt (0x1E0 + (s.setCtx { s.ctx with agent := .primary }).unit) s.prim.pc 0))
  else if pawn then (s.debugHalt 2 n true t addr).updPawn t fun p => { p with status := .halted }
  else s.debugHalt 2 n false 0 addr)

/-- The breakpoint or watchpoint at which the bundle to issue halts the cluster (R422): `own` holds the core's causes. -/
def State.haltHit {α : Type} (s t : State) (tb : OpTable α) (own : List Nat × List (SlotIn α)) : Option Instr :=
  if s.dbgRoute || s.prim.halted || decide (t.prim.empties ≠ 0) || (t.primEvent (t.atGuardPoint tb)).isSome then none
  else
    match t.breakpoint with
    | some n => some (.breakpointHit n)
    | none =>
      if own.1 ≠ [] || s.core.peerFreeze || (t.bundleTrap tb own.2).isSome then none
      else (t.bundleWatch tb own.2).map fun w => .watchpointHit w.2.1 false 0 w.2.2

/-- The start of a tick: the primary's causes are formed, and what is due lands. A debug event halts the cluster before the
bundle issues. -/
def State.landTurn {α : Type} (s : State) (tb : OpTable α) : Out :=
  let s := (s.setCtx {}).updPrim Primary.beginHalt
  if s.core.saving ∨ !s.core.cfg.running then
    let land := (List.range 16).filterMap fun t => if (s.pawn t).pend.isEmpty then none else some (agentCtx (.pawn t), Instr.resultLanding)
    .next ((((s.setTurn (.back none)).setVacant []).updCore fun c => { c with banks := 0, banksFar := [] }).setAgenda (s.agenda ++ land))
  else
    let t := s.landPrimary
    let own := if s.prim.exited then ([], []) else s.ownCauses t tb
    match if s.prim.exited then none else s.haltHit t tb own with
    | some i => .next (s.due {} i)
    | none =>
      let causes := own.1 ++ (if s.prim.halted then [8] else [])
      let pawns := if s.barrelHalted then [] else s.pawnStarts
      let s := s.agentUse 0x1D8 ((own.2.filter fun x => !s.hangs tb x).flatMap fun x => (tb.spec x.op).port (t.atSlot x))
      let s := (s.setTurn .present).updCore fun c => { c with banks := 0, banksFar := [], awaits := [] }
      if causes ≠ [] ∨ s.core.peerFreeze then
        let s := (s.freezeTick causes).frozenBundle t tb own.2
        .next (s.setAgenda (s.agenda ++ pawns))
      else
        let s := s.updCore fun c => { c with banks := s.dueBanks }
        let s := s.updPrim fun p => { p with frz := 0, frzClus := false }
        .next (s.setAgenda (s.agenda ++ (agentCtx .primary, .resultLanding) :: pawns))

end Sys2Proof.Machine
end

