-- ==== Sys2Proof/Machine/Barrel.lean ====
section
/-! DEFINITION. The barrel (03_issue R61, R65 to R72, R77): which thread is considered, what makes it ready, the checks of R48,
the front end, issue into vacant slots, grants of banks and fetches, trap entry of a pawn (R395), and the profile counters
(R426). -/

namespace Sys2Proof.Machine

/-! ### Threads -/

/-- The thread is in the rotation (R70); an engine submission of its own may park it (R178), and so does a pawn cache without room (R335). -/
def State.inRotation (s : State) (t : Nat) : Bool := decide ((s.pawn t).status = .running) && !s.engParked t && !(s.pawn t).chunk.full

/-- The event taken goes. -/
def Pawn.clearEvent (p : Pawn) : Pawn :=
  if p.th.mcheck.isSome then { p with th := { p.th with mcheck := none } } else { p with th := { p.th with flagTrap := none } }

/-- The program counter of a pawn is refused (R36, R82, R138). -/
def Pawn.fetchRefused (p : Pawn) : Bool :=
  decide (p.pc.toNat % 4 ≠ 0) || decide (p.pc.toNat < 0x800) || decide (0x200000 ≤ p.pc.toNat) || (decide (p.th.mode = 0) && decide (0x1F0000 ≤ p.pc.toNat))

/-- The op is resolved in the front end (R66). -/
def frontEnd (sp : OpSpec) (w : Word32) : Bool :=
  decide (sp.cls = .any) || decide (bits w.toNat 25 6 = 1) || decide (bits w.toNat 25 6 = 3)

/-- The slots that take a pawn op of a class, in order (R37). -/
def OpClass.pawnSlots : OpClass → List Nat
  | .any => []
  | .c => [1, 2]
  | .s => [1, 2]
  | .l => [3, 4]
  | .g => [3, 4]
  | .v => [6, 7]
  | .z => []
  | .m => []

/-- The context of a pawn's next op. -/
def Pawn.opCtx (p : Pawn) (t slot : Nat) : Ctx := { agent := .pawn t, slot := slot, pc := p.pc, word := p.buf.headD 0 }

/-- The thread is ready (R70). -/
def State.threadReady {α : Type} (s : State) (tb : OpTable α) (t : Nat) : Bool :=
  let p := s.pawn t
  s.inRotation t &&
    match p.buf with
    | [] => false
    | w :: _ =>
      match tb.decode w with
      | none => true
      | some i => !frontEnd (tb.spec i) w && !((tb.spec i).iter && decide (s.core.iter ≠ 0))

/-- The chunk's closing op is a wait of R337: a monwait, an mbget, a twait, or a ringget. -/
def Chunk.waits (c : Chunk) : Bool := c.closes 0x3B 1 || c.closes 0x3C 1 || c.closes 0x3C 3 || c.closes 0x3D 1

/-- The class of a thread's barrel cycle when it did not issue (R426): none where it has ended or is parked under a trap or a
debug halt. `message` says that it waits for a ring operation, or in a wait of R337. -/
def PStatus.profile (ready message : Bool) : PStatus → Option Nat
  | .absent => none
  | .exited => none
  | .trapping _ _ => none
  | .halted => none
  | .running => some (if ready then 3 else 1)
  | .switching => some (if message then 2 else 1)
  | .fencing _ => some 1
  | .exiting => some 1
  | .xlateWait _ => some 1
  | .waking => some 1
  | .monWait _ _ _ => some 2
  | .mailWait _ _ => some 2
  | .taskWait _ _ => some 2
  | .moveWait => some (if message then 2 else 1)

/-- A thread out of the rotation waits for a ring operation, or its chunk has ended with a wait (R426). -/
def Pawn.inMessage (p : Pawn) : Bool := (p.reqs.any fun r => r.kind.isRing) || (decide (p.status = .moveWait) && p.chunk.waits)

/-! ### One thread of the scan (R48, R70) -/

/-- The scan goes on with the next thread. -/
def State.scanOn (s : State) (n count : Nat) (first : Option Nat) : State := (s.setCtx {}).setTurn (.scan (n + 1) count first)

/-- A thread that does not issue in the cycle. -/
def State.idleThread (s : State) (t : Nat) (ready : Bool) : State :=
  match (s.pawn t).status.profile ready (s.pawn t).inMessage with
  | some k => s.bumpRot t k
  | none => s

/-- The op of a pawn runs; the trace unit samples it if it has issued, and records a return from a trap (R425). One that would consume a struck
word takes the machine check in its place (R415). -/
def State.runPawn {α : Type} (s : State) (tb : OpTable α) (t slot : Nat) (i : α) (after : State → State) : Out :=
  let p := s.pawn t
  match (s.setCtx (p.opCtx t slot)).struckOp (tb.spec i) with
  | some e => .next (after ((s.setCtx (p.opCtx t slot)).strikeUse 0x1DE e))
  | none =>
  match tb.run i (s.setCtx (p.opCtx t slot)) with
  | .next u =>
    let u := if (u.pawn t).opCount = p.opCount then u else u.traceSample t (p.buf.headD 0) p.pc
    .next (after (if p.th.mode ≠ 0 ∧ (u.pawn t).th.mode = 0 then u.traceReturn (some t) (u.pawn t).pc else u))
  | .fault f => .fault f
  | .refused r => .refused r

/-- The thread's op has taken a slot, also one that then traps, or the front end has dealt with it (R70, R426). -/
def State.countIssue (s : State) (t : Nat) : State := s.bumpRot t 0

/-- A pawn op passes or fails its turn in the scan: `n`, `count` and `first` are those of R70. After two issues no ready thread is
considered, so that its op is not checked. An op that the front end resolves is resolved and checked whatever `count` is, and its trap
leaves `first` (log 66). A guard report takes the slot and the token of the op, and counts as its issue (log 66). An op that a watchpoint stops
issues nothing: it takes no slot and no token (R422). A ready thread that traps without a slot counts as one that received none (R426, log 66). -/
def State.considerOp {α : Type} (s : State) (tb : OpTable α) (t n count : Nat) (first : Option Nat) (w : Word32) : Out :=
  let p := s.pawn t
  let at0 := s.setCtx (p.opCtx t 15)
  match tb.decode w with
  | none =>
    if 2 ≤ count then .next ((s.idleThread t true).scanOn n count first)
    else .next (((s.idleThread t true).pawnTrap t (at0.encTrap 0) p.pc).scanOn n count (first <|> some t))
  | some i =>
    let sp := tb.spec i
    if frontEnd sp w then
      match at0.encodingTrap sp with
      | some r => .next (((s.countIssue t).pawnTrap t r p.pc).scanOn n count first)
      | none => s.runPawn tb t 15 i fun u => (u.countIssue t).scanOn n count first
    else if sp.iter && decide (s.core.iter ≠ 0) then .next ((s.idleThread t false).scanOn n count first)
    else if 2 ≤ count then .next ((s.idleThread t true).scanOn n count first)
    else
      match at0.encodingTrap sp with
      | some r => .next (((s.idleThread t true).pawnTrap t r p.pc).scanOn n count (first <|> some t))
      | none =>
        match s.core.vacant.find? fun k => decide (k ∈ sp.cls.pawnSlots) with
        | none => .next ((s.idleThread t true).scanOn n count first)
        | some slot =>
          if s.core.tokens = some 0 then .next (((s.withhold.bump 7 1).idleThread t true).scanOn n count first)
          else
            let at1 := s.setCtx (p.opCtx t slot)
            match if (at1.firstTrap sp).isNone && !(sp.guardPoint && p.th.guardPending) then at1.opWatch sp else none with
            | some (m, addr) => .next (((at1.idleThread t true).watchStop m addr).scanOn n count first)
            | none =>
            let s := (s.spendToken.updCore fun c => { c with vacant := c.vacant.filter fun k => k ≠ slot }).bump 3 1
            let s := s.acctAdd s.core.cfg.cx 4 1
            if sp.guardPoint && p.th.guardPending then
              .next ((((s.countIssue t).pawnTrap t p.th.guardTrap p.pc).updPawn t fun q => { q with th := q.th.clearGuard }).scanOn n (count + 1)
                (first <|> some t))
            else s.runPawn tb t slot i fun u => (u.countIssue t).scanOn n (count + 1) (first <|> some t)

/-- Thread t in the scan: an event or a refused fetch, which it takes whatever `count` is and without becoming `first` (log 66), or
its next op. -/
def State.scanThread {α : Type} (s : State) (tb : OpTable α) (t n count : Nat) (first : Option Nat) : Out :=
  let p := s.pawn t
  if !s.inRotation t then .next ((s.idleThread t false).scanOn n count first)
  else
    match p.event with
    | some r => .next ((((s.idleThread t (s.threadReady tb t)).pawnTrap t r p.pc).updPawn t Pawn.clearEvent).scanOn n count first)
    | none =>
      match p.buf with
      | [] =>
        if p.fetchRefused then .next (((s.idleThread t false).bumpFree.pawnTrap t (s.fetchTrap 0x086 p.pc) p.pc).scanOn n count first)
        else .next ((s.idleThread t false).scanOn n count first)
      | w :: _ => s.considerOp tb t n count first w

/-- The agents of rank 3 that have work: copy channels with a command in their command side, and loaders (R68). -/
def State.rank3 (s : State) : Nat :=
  ((List.range 2).filter fun ch => !(s.engineQ ch).cmds.isEmpty).length + b2n (!s.core.wQ.isEmpty) + b2n (!s.core.tileQ.isEmpty)

/-- The tokens of rank 3 are set aside before those of the pawn ops (R68). -/
def State.shareTokens (s : State) : State :=
  s.updCore fun c => { c with tokens3 := c.tokens.map fun n => min n s.rank3, tokens := c.tokens.map fun n => n - s.rank3 }

/-- The counts that the barrel makes as its cycle begins. -/
def State.scanStart {α : Type} (s : State) (tb : OpTable α) : State :=
  (s.bump 2 s.core.vacant.length).bumpRdy ((List.range s.core.cfg.nthreads).filter fun t => s.threadReady tb t).length

/-- One step of the scan: the n-th thread after `last`, or its end (R70, R72). A barrel that stands still counts no vacancy
(log 66). -/
def State.scanTurn {α : Type} (s : State) (tb : OpTable α) (n count : Nat) (first : Option Nat) : Out :=
  let nt := s.core.cfg.nthreads
  let s := if n = 1 then s.shareTokens else s
  if s.barrelHalted then .next (s.setTurn (.back none))
  else
    let s := if n = 1 then s.scanStart tb else s
    if n ≤ nt then s.scanThread tb ((s.core.last + n) % nt) n count first
    else .next ((s.bump 4 s.core.vacant.length).setTurn (.back first))

/-! ### Trap entry of a pawn (R395) -/

/-- R395: a trapped pawn enters supervisor mode when nothing of it is outstanding. -/
def execPawnTrapEntry (t : Nat) (s : State) : Out :=
  .next (match (s.pawn t).status with
    | .trapping r resume =>
      if s.pawnQuiet t then
        let s := s.updPawn t fun p =>
          { p with th := p.th.enter r resume none, pc := p.th.tvec.setWidth 64, buf := [], status := .running }
        s.traceTrap (some t) (s.pawn t).th
      else s
    | _ => s)

/-! ### Grants at rank 4 (R61, R68, R147) -/

/-- The first waiting access of a thread may go: two barrel cycles after its issue; after earlier acquires, and, for flrel,
after every earlier access (R154); after its earlier remote accesses to its own core (R157, R168). While the context is saved an engine delivers no
record, and what waits behind an eqr goes on (R213, log 22). -/
def State.mayAccess (s : State) (t : Nat) (w : Waiting) : Bool :=
  let p := s.pawn t
  decide (2 ≤ w.age) &&
    !(p.reqs.any fun r => decide (r.seq < w.op) && !(s.core.saving && r.kind.isEqr) && (r.kind.isAcquire || (w.rel && r.holdsRelease))) &&
    !(s.core.remotes.any fun r => decide (r.agent = .pawn t) && decide (r.op < w.op) && decide (coreBase r.addr = s.core.lmBase))

/-- The bytes that an access reads. -/
def BankAccess.reads : BankAccess → List Nat
  | .read as n _ _ _ _ => as.flatMap fun a => (List.range n).map fun i => a + i
  | .write _ _ _ => []
  | .rmw a _ _ _ _ _ => (List.range 8).map fun i => a + i

/-- An access of a deterministic thread runs against buffered state (R335, log 72): not that of a flag, which closes its chunk and is performed at the
visit (R336). -/
def State.buffers (s : State) (w : Waiting) : Bool := s.core.cfg.det && !w.rel && !w.acq

/-- Bytes join the uncommitted ones of a chunk. -/
def putCells (l : List Host.Cell) (key n v : Nat) : List Host.Cell :=
  (List.range n).foldl (fun l i => (key + i, BitVec.ofNat 8 (v / 256 ^ i)) :: l.filter fun c => c.1 ≠ key + i) l

/-- Local memory as the thread sees it: with the uncommitted bytes of its chunk (R335, log 72). -/
def State.chunkLm (s : State) (t : Nat) : Memory := (s.pawn t).chunk.lmWrites.foldl (fun m c => memSet m c.1 c.2) s.lm

/-- Local memory as an access of the thread finds it: as the thread sees it, and with the words that banks have already served as they stood in
their ticks (R68). -/
def State.seenLm (s : State) (t : Nat) (w : Waiting) : Memory :=
  w.got.foldl (fun m x => memWrite m (8 * x.1) 8 x.2) (if s.buffers w then s.chunkLm t else s.lm)

/-- What banks serve of an access reads committed state, which joins the read set of the chunk in that tick (R336, log 72). -/
def State.noteReads (s : State) (t : Nat) (w : Waiting) (served : List Nat) : State :=
  if s.buffers w then
    s.updPawn t fun p => { p with chunk := { p.chunk with
      lmReads := (w.acc.reads.filter fun k => decide (k / 8 ∈ served) && !p.chunk.lmWrites.any fun c => decide (c.1 = k)) ++ p.chunk.lmReads } }
  else s

/-- Elements of a thread's write: to memory, or to the thread's chunk (R335, log 72). -/
def State.storeElems (s : State) (t : Nat) (w : Waiting) (n : Nat) (as vs : List Nat) : State :=
  if s.buffers w then
    s.updPawn t fun p => { p with chunk := { p.chunk with lmWrites := (as.zip vs).foldl (fun l x => putCells l x.1 n x.2) p.chunk.lmWrites } }
  else
    let s := s.lmStore n as vs
    as.foldl (fun s a => s.staleLocal a n) s

/-- An access is performed: what it reads lands later, what it writes is written (R61, R153). -/
def State.performAccess (s : State) (t : Nat) (w : Waiting) : State :=
  let m := s.seenLm t w
  let s := s.noteReads t w (w.acc.words.filter fun x => x ∉ w.got.map fun g => g.1)
  let s := match w.acc with
    | .write _ _ _ => s
    | a => if s.badLm.isEmpty then s else ((s.setCtx (agentCtx (.pawn t))).useLm 0x1DE a.words).setCtx s.ctx
  let sup := decide ((s.pawn t).th.mode ≠ 0)
  let entry := fun d v lat => ({ count := lat, op := w.op, unit := 6, slot := 15, pc := 0, sup := sup, eff := .reg d v } : PEntry)
  let back := fun (s : State) (e : PEntry) => s.updPawn t fun p => { p with pend := p.pend ++ [e] }
  match w.acc with
  | .read as n wd sg d lat => back s (entry d (BitVec.ofNat 4096 (bankValue m as n wd sg)) lat)
  | .write as n vs => s.storeElems t w n as vs
  | .rmw a op v c d lat =>
    let old := BitVec.ofNat 64 (memRead m a 8)
    let u := back s (entry d (old.setWidth 4096) lat)
    match op.apply old v c with
    | some x => u.storeElems t w 8 [a] [x.toNat]
    | none => u

/-- Of bank words, one for each bank: what the banks serve of an access in one tick (R68). -/
def onePerBank (ws : List Nat) : List Nat := ws.foldl (fun l w => if l.any fun x => x % 64 = w % 64 then l else l ++ [w]) []

/-- The first waiting access after a change. -/
def Pawn.setWaiting (p : Pawn) (f : Waiting → Waiting) : Pawn :=
  { p with waiting := match p.waiting with
      | [] => []
      | w :: l => f w :: l }

/-- The elements of a write that lie in some bank words: an element never spans two (R148, R152). -/
def BankAccess.within (ws : List Nat) : BankAccess → BankAccess
  | .write as n vs =>
    let l := (as.zip vs).filter fun x => x.1 / 8 ∈ ws
    .write (l.map fun x => x.1) n (l.map fun x => x.2)
  | a => a

/-- Banks serve some words of an access, but not the last of them: a read keeps what it finds there, a write is made (R68, R168). -/
def State.partAccess (s : State) (t : Nat) (w : Waiting) (now : List Nat) : State :=
  let m := s.seenLm t w
  let s := match w.acc.within now with
    | .write as n vs => s.storeElems t w n as vs
    | _ => s.noteReads t w now
  s.updPawn t fun p => p.setWaiting fun w => { w with got := w.got ++ now.map fun x => (x, memRead m (8 * x) 8) }

/-- R61, R68: the first waiting local-memory access of the thread is granted its banks, or counts a refusal, once a tick (R72). An access
with several words in one bank takes a tick for each, and is complete with the last of them. -/
def execPawnLmGrant (t : Nat) (s : State) : Out :=
  .next (match (s.pawn t).waiting with
    | [] => s
    | w :: rest =>
      if !s.mayAccess t w then s
      else
        let left := w.acc.words.filter fun x => x ∉ w.got.map fun g => g.1
        let now := onePerBank left
        if !(now.all s.wordFree) then
          if w.counted then s else (s.bump 5 1).updPawn t fun p => p.setWaiting fun w => { w with counted := true }
        else if now.length < left.length then
          (s.takeWords now).partAccess t w now
        else ((s.takeWords now).updPawn t fun p => { p with waiting := rest }).performAccess t
          (if w.got = [] then w else { w with acc := w.acc.within left }))

/-- Op words that one fetch reads: four, none past local memory nor, in user mode, from the reserved top (R138, R147). -/
def fetchCount (user : Bool) (pc : Nat) : Nat := min 4 (((if user then 0x1F0000 else 0x200000) - pc) / 4)

/-- The keys of the words that the thread fetches. -/
def State.fetchKeys (s : State) (t : Nat) : List Nat :=
  let p := s.pawn t
  (List.range (fetchCount (decide (p.th.mode = 0)) p.pc.toNat)).map fun i => s.core.lmBase + p.pc.toNat + 4 * i

/-- The thread asks for a fetch (R147). -/
def Pawn.wantsFetch (p : Pawn) : Bool := decide (p.status = .running) && p.buf.isEmpty && !p.fetchRefused && !p.chunk.full

/-- R147: the fetch of four op words is granted; a deterministic thread finds what its chunk has stored there (R335). In barrel cycle 0 that of every
thread is (R342). -/
def execPawnFetch (t : Nat) (s : State) : Out :=
  .next (let keys := s.fetchKeys t
    let ws := bankWords keys 4
    if !(s.pawn t).wantsFetch || s.barrelHalted || !(decide (s.core.barrelCycle = 0) || ws.all s.wordFree) then s
    else ((((s.setCtx (agentCtx (.pawn t))).useLm 0x1DE ws).setCtx s.ctx).takeWords ws).updPawn t fun p =>
      { p with buf := keys.map fun k => BitVec.ofNat 32 (memRead (s.chunkLm t) k 4) })

end Sys2Proof.Machine
end

