-- ==== Sys2Proof/Machine/Remote.lean ====
section
/-! DEFINITION. Remote accesses (R67, R155) and deposits into the receive latches (R223, R226, R228): the events that perform
what the core has sent to other cores of its cluster, and what arrives for it. -/

namespace Sys2Proof.Machine

/-! ### Remote accesses -/

/-- The bank words of a remote access. -/
def Remote.words (r : Remote) : List Nat := bankWords [r.addr] r.bytes

/-- An access of the issuer to the same target that issued before r and is not performed. -/
def State.remoteBefore (s : State) (r : Remote) : Bool :=
  s.core.remotes.any fun q =>
    decide (q.id < r.id) && decide (q.agent = r.agent) && decide (coreBase q.addr = coreBase r.addr) && !q.performed

/-- A store of the primary to its own banks that issued before r is still to be written. -/
def State.localBefore (s : State) (r : Remote) : Bool :=
  s.prim.fl.pend.any fun e => decide (e.op < r.op) && match e.eff with
    | .bank _ => true
    | _ => false

/-- A flacq of the primary that issued before r has still to read its bank (R154). -/
def State.acquireBefore (s : State) (r : Remote) : Bool :=
  s.prim.fl.pend.any fun e => decide (e.op < r.op) && e.acq && match e.eff with
    | .bank _ => true
    | _ => false

/-- The thread that issued the access lets it go: nothing of it holds it (R154, R160). -/
def State.remoteFree (s : State) (r : Remote) : Bool :=
  match r.agent with
  | .primary => !s.acquireBefore r && !(decide (coreBase r.addr = s.core.lmBase) && s.localBefore r)
  | .pawn t =>
    !(decide (coreBase r.addr = s.core.lmBase) && (s.pawn t).waiting.any fun w => decide (w.op < r.op)) &&
      match (s.pawn t).reqs.find? fun q => decide (q.id = r.id) with
      | some q => s.reqReady t q
      | none => true

/-- The access asks for its banks: it has crossed the mesh, and it is its issuer's first to the target (R68, R155). -/
def State.remoteDue (s : State) (r : Remote) : Bool :=
  !r.performed && decide (2 ≤ r.age) && !s.remoteBefore r && s.remoteFree r

/-- The access can be performed in the tick: its banks are free. -/
def State.remoteReady (s : State) (r : Remote) : Bool := s.remoteDue r && r.words.all s.wordFree

/-- The banks that the access takes, and the watchpoints that it meets at its target. -/
def State.remoteBank (s : State) (r : Remote) : State :=
  (s.takeWords r.words).watchOther (lmSpan r.addr r.bytes r.write)

/-- Change one remote access. -/
def State.updRemote (s : State) (id : Nat) (f : Remote → Remote) : State :=
  s.updCore fun c => { c with remotes := c.remotes.map fun r => if r.id = id then f r else r }

/-- A pawn's access that its banks refuse counts, once a tick (R72). -/
def State.remoteRefused (s : State) (write : Bool) : State :=
  if s.ctx.agent = .primary then s
  else
    match s.core.remotes.find? fun r => decide (r.agent = s.ctx.agent) && decide (r.write = write) && !r.counted && s.remoteDue r with
    | some r => (s.bump 5 1).updRemote r.id fun q => { q with counted := true }
    | none => s

/-- The reply of a load: a pawn's value lands with it; the primary's waits for its cycle. -/
def State.remoteLoad (s : State) (r : Remote) : State :=
  let v : Wide := BitVec.ofNat 4096 (memRead s.lm r.addr r.bytes)
  let code := match r.agent with
    | .primary => 0x1DA
    | .pawn _ => 0x1DE
  let s := (((s.remoteBank r).setCtx (agentCtx r.agent)).useLm code (bankWords [r.addr] r.bytes)).setCtx s.ctx
  match r.agent with
  | .primary => s.updRemote r.id fun q => { q with data := v, performed := true, replied := true }
  | .pawn t => match (s.pawn t).reqs.find? fun q => decide (q.id = r.id) with
    | some q => (s.landReq t q v false).dropRemote r.id
    | none => s.dropRemote r.id

/-- R67, R155: the reply to the agent's first rld or rvld that can be performed arrives. -/
def execRemoteLoadReply (s : State) : Out :=
  .next (match s.core.remotes.find? fun r => decide (r.agent = s.ctx.agent) && !r.write && s.remoteReady r with
    | some r => s.remoteLoad r
    | none => s.remoteRefused false)

/-- A store at its target: a pawn's is complete, the primary's waits for its acknowledgement. -/
def State.remoteStore (s : State) (r : Remote) : State :=
  let s := (s.lmWrite r.addr r.bytes r.data.toNat).remoteBank r
  match r.agent with
  | .primary => s.updRemote r.id fun q => { q with performed := true }
  | .pawn t => ((s.staleLocal r.addr r.bytes).dropReq t r.id).dropRemote r.id

/-- R155: the agent's first remote store that its banks grant is performed. -/
def execRemoteStorePerformed (s : State) : Out :=
  .next (match s.core.remotes.find? fun r => decide (r.agent = s.ctx.agent) && r.write && s.remoteReady r with
    | some r => s.remoteStore r
    | none => s.remoteRefused true)

/-- R155: the acknowledgement of the primary's first performed remote store returns. -/
def execRemoteStoreAck (s : State) : Out :=
  .next (match s.core.remotes.find? fun r => r.write && r.performed with
    | some r => s.dropRemote r.id
    | none => s)

/-- What the remote accesses have due, in order of issue; the primary's at rank 2, before the engines, and the pawns' at rank
4, after the pawns' own (R68). -/
def State.remoteSteps (s : State) (prim : Bool) : List (Ctx × Instr) :=
  s.core.remotes.filterMap fun r =>
    if decide (r.agent = .primary) = prim then
      if r.performed then (if r.write then some ({}, .remoteStoreAck) else none)
      else if s.remoteDue r then some (agentCtx r.agent, if r.write then .remoteStorePerformed else .remoteLoadReply)
      else none
    else none

/-! ### Deposits (R223, R226, R230) -/

/-- A refused deposit (R230): PORT, VEC and SRCFAR of TEMPOREC, and the trap that takes the place of the next bundle; of
several, the first is the one taken. -/
def Primary.refuse (p : Primary) (vec : Bool) (port : Nat) (far : Bool) : Primary :=
  { p with
    tempoRec := BitVec.ofNat 54 (setBits p.tempoRec.toNat 50 4 (port % 4 + b2n vec * 4 + b2n far * 8))
    overrun := p.overrun <|> some ⟨if vec then 0x15C else 0x159, 0, BitVec.ofNat 64 (port % 4 + b2n vec * 4), 15⟩ }

/-- A deposit at a latch: it fills one that is not fresh, and is refused at a fresh one. -/
def Primary.deposit (p : Primary) (vec : Bool) (port : Nat) (v : VecWord) (far : Bool) : Primary :=
  if vec then
    if vget p.vqFresh port false then p.refuse vec port far
    else { p with vq := vset p.vq port v, vqFresh := vset p.vqFresh port true }
  else if vget p.qFresh port false then p.refuse vec port far
  else { p with q := vset p.q port (v.setWidth 64), qFresh := vset p.qFresh port true }

/-- R223: a value sent to the core arrives at a receive latch. -/
def execPortDeposit (vec : Bool) (port : Nat) (value : VecWord) (_sender : Nat) (far : Bool) (s : State) : Out :=
  .next (if port < 4 then s.updPrim fun p => p.deposit vec port value far else s)

/-- Deposits in the order in which those of one tick are taken: by logical core index of the sender (R223). -/
def insertDeposit (d : Deposit) : List Deposit → List Deposit
  | [] => [d]
  | x :: l => if d.sender < x.sender then d :: x :: l else x :: insertDeposit d l

/-- One tick of the deposits on their way: those that arrive become due, by sender. A value from the own cluster stands still in a frozen
tick, one from farther does not (R226). -/
def State.depositStep (s : State) (frozen : Bool) : State :=
  let l := s.prim.deposits.map fun d => if frozen && !d.far then d else { d with count := d.count - 1 }
  let due := (l.filter fun d => d.count = 0).foldl (fun acc d => insertDeposit d acc) []
  let s := s.updPrim fun p => { p with deposits := l.filter fun d => d.count ≠ 0 }
  s.setAgenda (s.agenda ++ due.map fun d => (({} : Ctx), Instr.portDeposit d.vec d.port d.value d.sender d.far))

end Sys2Proof.Machine
end

