-- ==== Sys2Proof/Machine/Tempo.lean ====
section
/-! DEFINITION. The tick exchange, the beat and excursions of the die (10_tempo R214 to R217). -/

namespace Sys2Proof.Machine

/-- The allowance of R215: ⌈BEATPERIOD / 1024⌉ + 4. -/
def Die.slack (d : Die) : Nat := (d.beatPeriod + 1023) / 1024 + 4

/-- The phase lies within the bound for a beat (R215). -/
def Die.inBound (d : Die) : Bool := decide (d.beatPeriod - d.slack ≤ d.phase) && decide (d.phase < d.beatPeriod + d.slack)

/-- EXCCNT of a die counts an entry (R216, R420). -/
def State.countExc (s : State) (d : Nat) : State := s.setDevReg (0x790 + 8 * d) ((s.devReg (0x790 + 8 * d) + 1) % 2 ^ 32)

/-- Another die enters excursion, unless it is in it. -/
def State.enterFar (s : State) (d : Nat) : State :=
  if d ∈ s.dev.excDies then s else (s.countExc d).updDev fun x => { x with excDies := d :: x.excDies }

/-- The die enters excursion, or goes on in it, for what a link or else a beat has shown: phase-valid clears with its reason, and EXCCNT counts
an entry; the other die of the link is in excursion as well (R215). What it has so far to settle by stands for the other links (R216). -/
def State.enterExcursion (s : State) (link : Option Nat) : State :=
  let new := !s.die.excursion
  let s := if new then s.countExc s.core.cfg.die else s
  let s := match link with
    | some l => s.enterFar l
    | none => s
  (s.updDie fun d => { d with
    excursion := true
    goodExch := if new then [] else match link with
      | some l => assocErase d.goodExch l
      | none => d.goodExch
    goodBeat := !new && d.goodBeat }).updPrim fun p => p.dropPhv 3

/-- The dies that share a link with a die (R214). -/
def linksOf (d : Nat) : List Nat := (List.range 6).filter fun e => linked d e

/-- The die settles once every link has had 16 exchanges in a row within the bound, and a beat has been (R216). -/
def State.settleDie (s : State) : State :=
  s.updDie fun d =>
    if d.excursion && d.goodBeat && ((linksOf s.core.cfg.die).all fun l => decide (16 ≤ assocGet d.goodExch l 0)) then
      { d with excursion := false }
    else d

/-- R214: in a tick whose count is a multiple of 256 the die sends its count on a link. -/
def execTickExchange (l : Nat) (s : State) : Out :=
  .next (if linked s.core.cfg.die l ∧ s.die.tick.toNat % 256 = 0 then
    s.updDie fun d => { d with sentTicks := assocSet d.sentTicks l d.tick.toNat }
  else s)

/-- An exchange on a link that no other puts out of the bound; one that has no exchange 16 before it is such a one (log 11). -/
def State.goodStamp (s : State) (l : Nat) : State :=
  (s.updDie fun d => { d with goodExch := assocSet d.goodExch l (assocGet d.goodExch l 0 + 1) }).settleDie

/-- R215: a neighbour's count arrives and is stamped; the stamps of exchanges k and k + 16 are 4,096 of the neighbour's ticks
apart, whatever the counts say. -/
def execTickStamp (l : Nat) (_count : Word64) (s : State) : Out :=
  .next (if linked s.core.cfg.die l then
    let old := assocGet s.die.stamps l []
    let s' := s.updDie fun d => { d with stamps := assocSet d.stamps l (d.tick :: old.take 15) }
    match old[15]? with
    | none => s'.goodStamp l
    | some first => if 4 < absDiff (s.die.tick - first).toNat 4096 then s'.enterExcursion (some l) else s'.goodStamp l
  else s)

/-- R217: the tempo master raises a beat; it reaches the die within two ticks. -/
def execBeatRaise (s : State) : Out :=
  .next (if s.dev.master = s.core.cfg.die ∧ s.die.beatPeriod ≤ s.die.sinceRaised then
    let n := Config.freeChoice s.free % 3
    let s := s.bumpFree.updDie fun d => { d with sinceRaised := 0, beatDue := if n = 0 then none else some (n - 1) }
    if n = 0 then s.due {} .beatArrival else s
  else s)

/-- R217, R215, R221: the beat arrives. -/
def execBeatArrival (s : State) : Out :=
  let d := s.die
  let good := d.inBound
  let s := if !d.exempt && decide (d.phase < d.beatPeriod - d.slack) then s.enterExcursion none else s
  let s := s.updDie fun e => { e with
    beat := e.beat + 1
    phase := 0
    beatDue := none
    sinceRaised := if s.dev.master = s.core.cfg.die then e.sinceRaised else 0
    beatPeriod := e.nextPeriod.getD e.beatPeriod
    exempt := e.nextPeriod.isSome
    nextPeriod := none
    goodBeat := e.goodBeat || (e.excursion && good) }
  .next (s.updPrim fun p => p.dropPhv 2).settleDie

/-- R215: the phase has passed the late bound without a beat. -/
def execBeatOverdue (s : State) : Out :=
  .next (if !s.die.exempt ∧ s.die.beatPeriod + s.die.slack ≤ s.die.phase then s.enterExcursion none else s)

/-- The clock of the die goes on to the next tick (R5, R214, R218, R220). -/
def Die.advance (d : Die) : Die :=
  { d with
    tick := d.tick + 1
    phase := d.phase + 1
    sinceRaised := d.sinceRaised + 1
    unsettled3 := if d.phase = 3 ∧ d.excursion then d.beat :: d.unsettled3 else d.unsettled3 }

/-- What the clock has due at the start of a tick: exchanges, a beat raised or arriving, an overdue beat. -/
def State.clockSteps (s : State) : State :=
  let d := s.die
  let at0 := fun (i : Instr) => (({} : Ctx), i)
  let l := (if d.tick.toNat % 256 = 0 then (linksOf s.core.cfg.die).map fun l => at0 (.tickExchange l) else []) ++
    (if s.dev.master = s.core.cfg.die ∧ d.beatPeriod ≤ d.sinceRaised ∧ d.beatDue.isNone then [at0 .beatRaise] else []) ++
    (if d.beatDue = some 0 then [at0 .beatArrival] else []) ++
    (if d.phase = d.beatPeriod + d.slack ∧ !d.exempt ∧ d.beatDue.isNone then [at0 .beatOverdue] else [])
  (s.updDie fun d => { d with beatDue := d.beatDue.map fun n => n - 1 }).setAgenda (s.agenda ++ l)

end Sys2Proof.Machine
end

