-- ==== Sys2Proof/Machine/Queues.lean ====
section
/-! DEFINITION. The master distributor's command queues and what it reaches through page tables (05_launch R113 to R117, R128,
R434, 24_tenancy R371): descriptors, doorbells, jobs, and the pages that a job waits for. -/

namespace Sys2Proof.Machine

/-! ### Descriptors (R114) -/

/-- The physical address of a queue's descriptor. -/
def State.descAt (s : State) (cx q : Nat) : Nat := bits (s.devReg (0x100020 + 64 * cx)) 12 40 * 4096 + 64 * q

def State.queueOf (s : State) (cx q : Nat) : Option CmdQueue := s.dev.queues.find? fun x => decide (x.cx = cx) && decide (x.q = q)

/-- A queue's entry takes a value; queues stand in order of context and number. -/
def putQueue (x : CmdQueue) : List CmdQueue → List CmdQueue
  | [] => [x]
  | y :: l =>
    if x.cx = y.cx ∧ x.q = y.q then x :: l
    else if x.cx < y.cx ∨ (x.cx = y.cx ∧ x.q < y.q) then x :: y :: l
    else y :: putQueue x l

/-- The device's own fields of a descriptor are written: HEAD, TAIL and DONE. -/
def State.setQueue (s : State) (x : CmdQueue) : State :=
  let a := s.descAt x.cx x.q
  (((s.updDev fun d => { d with queues := putQueue x d.queues }).writeFor x.cx (a + 0x10) 4 x.head).writeFor x.cx (a + 0x14) 4
    x.tail).writeFor x.cx (a + 0x18) 8 x.done

/-- STATUS of a queue: a status, or none to keep it, with STOPPED. Where the word that is there is bad nothing of it is used (R415). -/
def State.setStatus (s : State) (cx q : Nat) (st : Option Nat) (stop : Bool) : State :=
  let a := s.descAt cx q + 0x20
  let old := s.homeRead a 4
  if s.pmBad a 4 then (s.pmError cx a).ctxCheck cx
  else s.writeFor cx a 4 (st.getD (bits old 0 8) + b2n (stop || bit old 31) * 2 ^ 31)

/-- A status that is a context error (R128). -/
def ctxError (st : Nat) : Bool := decide (5 ≤ st)

/-- The descriptor as the device reads it at a doorbell; a queue that turns enabled starts its counts anew, and runs
again if a context error had stopped it, while STOPPED stays in its descriptor (R114, log 14). -/
def State.readDesc (s : State) (cx q : Nat) : CmdQueue :=
  let a := s.descAt cx q
  let base := s.homeRead a 8
  let b8 := s.homeRead (a + 8) 1
  let b9 := s.homeRead (a + 9) 1
  let en := bit b9 7
  let old := s.queueOf cx q
  let keep := match old with
    | some x => x.en
    | none => false
  let live := match old with
    | some x => if keep then x else { x with head := 0, tail := 0, done := 0, stopped := false }
    | none => ⟨cx, q, 0, 6, 0, false, true, 0, 0, 0, false, false⟩
  { live with
    base := base
    log2 := bits b8 0 5
    prio := bits b9 0 2
    en := en
    ok := decide (base % 4096 = 0) && decide (base < 2 ^ 56) && decide (6 ≤ bits b8 0 5) && decide (bits b8 0 5 ≤ 16) &&
      decide (bits b8 5 3 = 0) && decide (bits b9 2 5 = 0) && decide (s.homeRead (a + 10) 6 = 0) && decide (s.homeRead (a + 0x24) 28 = 0) }

/-- The context that a resident slot holds (R371). -/
def State.slotCtx (s : State) (slot : Nat) : Option Nat :=
  let r := s.devReg (0x400 + 8 * slot)
  if slot < 64 ∧ bit r 12 then some (bits r 0 12) else none

/-- A queue whose descriptor cannot be read starts nothing more (R415, log 14). -/
def State.closeQueue (s : State) (cx q : Nat) : State :=
  s.updDev fun d => { d with queues := d.queues.map fun x => if x.cx = cx ∧ x.q = q then { x with refused := true, stopped := true } else x }

/-- R114: the driver rings a queue's doorbell: the tail advances, or the ring refuses it. Of a descriptor that is bad or fenced nothing is used: the
record is written, and the queue stops (R415, R419). -/
def execDoorbell (slot q : Nat) (value : Word32) (s : State) : Out :=
  .next (match s.slotCtx slot with
    | none => s
    | some cx =>
      if 64 ≤ q then s
      else
        if s.pmBad (s.descAt cx q) 64 then (s.pmError cx (s.descAt cx q)).closeQueue cx q else
        let x := s.readDesc cx q
        let v := value.toNat
        if 2 ^ x.log2 < subMod 32 v x.head then (s.setQueue { x with refused := true }).setStatus cx q (some 2) x.stopped
        else s.setQueue { x with tail := v, refused := false })

/-! ### Jobs -/

def State.job (s : State) (id : Nat) : Option Job := s.dev.jobs.find? fun j => j.id = id

def State.updJob (s : State) (id : Nat) (f : Job → Job) : State :=
  s.updDev fun d => { d with jobs := d.jobs.map fun j => if j.id = id then f j else j }

def State.dropJob (s : State) (id : Nat) : State := s.updDev fun d => { d with jobs := d.jobs.filter fun j => j.id ≠ id }

/-- Word i of a job's record. -/
def Job.w (j : Job) (i : Nat) : Nat := ((j.words.getD []).getD i 0).toNat
def Job.kind (j : Job) : Nat := bits (j.w 0) 0 8
def Job.conc (j : Job) : Bool := bit (j.w 0) 8

/-- The pages that a job's engine command has pinned in the master die's table are released (R185). -/
def State.unpinJob (s : State) (j : Job) : State :=
  match j.cmd with
  | some c => s.unpinAll s.dev.master c
  | none => s

/-- A context has been terminated while it is dumped (R427). -/
def State.endedDump (s : State) (cx : Nat) : State :=
  s.updDev fun d => { d with dump := d.dump.map fun x => if x.cx = cx then { x with ended := true } else x }

/-- A queue of a context stops: one that has been rung, or that its descriptor enables. A descriptor that cannot be read is an error (R415, R419). -/
def State.haltQueue (s : State) (cx q : Nat) (st : Option Nat) : State :=
  let stop := fun (x : CmdQueue) => (s.setStatus cx q st true).updDev fun d => { d with queues := putQueue { x with stopped := true } d.queues }
  match s.queueOf cx q with
  | some x => stop x
  | none =>
    if s.pmBad (s.descAt cx q) 64 then s.pmError cx (s.descAt cx q)
    else if bit (s.homeRead (s.descAt cx q + 9) 1) 7 then stop (s.readDesc cx q)
    else s

/-- Every queue of a context stops, also one that is enabled and has not been rung: what has not started of its commands starts no more
(R128). A status that is given is theirs from then on. -/
def State.haltQueues (s : State) (cx : Nat) (st : Option Nat) : State :=
  let open_ := fun (j : Job) => decide (j.cx = cx) && j.node.isNone && decide (j.clusters = []) && (decide (j.phase = .head) || decide (j.phase = .placing))
  let s := ((s.dev.jobs.filter open_).foldl State.unpinJob s).updDev fun d => { d with jobs := d.jobs.filter fun j => !open_ j }
  (List.range 64).foldl (fun s q => s.haltQueue cx q st) s

/-- A context error stops the context's queues, whose statuses stay (R128). -/
def State.stopQueues (s : State) (cx : Nat) : State := s.haltQueues cx none

/-- A command or node is finished with a status: a queue's command counts in DONE, a node waits for its graph's step; a
context error stops the context's queues, and status 7 is that of a terminated context, which ends a dump of it (R127, R128, R427). -/
def State.finishJob (s : State) (j : Job) (st : Nat) : State :=
  let s := (s.unpinJob j).clearHalts j.clusters
  match j.node with
  | some _ => s.updJob j.id fun j => { j with phase := .over st, todo := [], fault := none, blocked := false, cmd := none, clusters := [] }
  | none =>
    let s := s.dropJob j.id
    let s := match s.queueOf j.cx j.queue with
      | some x => s.setQueue { x with done := addMod 64 x.done 1 }
      | none => s
    let s := if st = 0 then s else s.setStatus j.cx j.queue (some st) false
    if ctxError st then (if st = 7 then s.endedDump j.cx else s).stopQueues j.cx else s

/-- The head record of the job's queue has started: HEAD moves past it (R113). -/
def State.started (s : State) (j : Job) : State :=
  match j.node with
  | some _ => s
  | none => match s.queueOf j.cx j.queue with
    | some x => s.setQueue { x with head := addMod 32 x.head 1 }
    | none => s

/-- A command that fails as it starts. -/
def State.failStart (s : State) (j : Job) (st : Nat) : State := (s.started j).finishJob j st

/-- A command fails: one that has not started, a launch that waits for its clusters among them, as it starts (R117, R434). -/
def State.failJob (s : State) (j : Job) (st : Nat) : State :=
  if j.phase = .head ∨ (j.phase = .placing ∧ j.clusters = []) then s.failStart j st else s.finishJob j st

/-! ### Memory of a context, as the distributor reaches it (R434) -/

/-- Pieces of a run of bytes, page by page: address and length. -/
def runPieces (va n : Nat) : List (Nat × Nat) :=
  (runPages va n).map fun p => (max p va, min (p + 65536) (va + n) - max p va)

/-- The physical address of a byte whose page translates. -/
def State.ctxPa (s : State) (cx va : Nat) : Nat :=
  match (s.pageWalk cx va).1 with
  | .leaf _ level e => ptePa e + va % 2 ^ levelShift level
  | .fail _ _ _ => 0

/-- n bytes of a context's memory, as one little-endian number. -/
def State.ctxRead (s : State) (cx va n : Nat) : Nat :=
  (runPieces va n).foldr (fun x acc => s.homeRead (s.ctxPa cx x.1) x.2 + 2 ^ (8 * x.2) * acc) 0

/-- n bytes of a context's memory as a list. -/
def State.ctxBytes (s : State) (cx va n : Nat) : List Byte :=
  (runPieces va n).flatMap fun x => memBytes s.pm (s.ctxPa cx x.1) x.2

/-- The class of a context's page. -/
def State.ctxClass (s : State) (cx va : Nat) : Nat :=
  match (s.pageWalk cx va).1 with
  | .leaf _ _ e => pteClass e
  | .fail _ _ _ => 0

/-- The bytes that the distributor's requests for a run of a context's memory bring to a memory are charged to the context (R377). -/
def State.chargeRun (s : State) (cx va n : Nat) : State :=
  (runPieces va n).foldl (fun s x =>
    let pa := s.ctxPa cx x.1
    (List.range ((pa + x.2 + 63) / 64 - pa / 64)).foldl (fun s i => s.chargeLine cx (some (s.ctxClass cx x.1)) (64 * (pa / 64 + i))) s) s

/-- The verdict on a page for the distributor. -/
def State.jobVerdict (s : State) (cx va acc : Nat) : Verdict := s.verdict (s.pageWalk cx va).1 cx va acc true

/-- The page translates for the access, and no entry that its walk reads is bad (R415). -/
def State.pageOk (s : State) (cx : Nat) (p : Nat × Nat) : Bool :=
  !s.walkBad (s.pageWalk cx p.1).2 &&
    match s.jobVerdict cx p.1 p.2 with
    | .fill _ _ _ => true
    | _ => false

/-- The effects of a successful walk of a page, whose entries the master's walker has at hand; a page that a dump is still to send is copied before it is
written (R427). -/
def State.touchPage (s : State) (cx : Nat) (p : Nat × Nat) : State :=
  (s.walkEffects (s.pageWalk cx p.1).2 (s.jobVerdict cx p.1 p.2) cx s.dev.master 0).cowCopy cx p.1 p.2

/-- A job goes on once every page it needs translates; otherwise it waits for the first that does not. -/
def State.withPages (s : State) (j : Job) (pages : List (Nat × Nat)) (k : State → State) : State :=
  match pages.find? fun p => !s.pageOk j.cx p with
  | some p => s.updJob j.id fun j => { j with todo := [p] }
  | none => k (pages.foldl (fun s p => s.touchPage j.cx p) s)

/-- Some byte of a run in a context's memory is bad (R415). -/
def State.ctxBad (s : State) (cx va n : Nat) : Bool := (runPieces va n).any fun x => s.pmBad (s.ctxPa cx x.1) x.2

/-- The distributor consumes a bad word for a command: the command fails with status 7 (R415, R128). -/
def State.checkJob (s : State) (j : Job) (pa : Nat) : State :=
  (s.pmError j.cx pa).failJob j 7

/-- The pages of a run for an access. -/
def needRun (va n acc : Nat) : List (Nat × Nat) := (runPages va n).map fun p => (max p va, acc)

/-- A job goes on with a run of bytes that it may access and that can be read. -/
def State.withRun (s : State) (j : Job) (va n acc : Nat) (k : State → State) : State :=
  s.withPages j (needRun va n acc) fun s =>
    if s.ctxBad j.cx va n then s.checkJob j (s.ctxPa j.cx va) else k (s.chargeRun j.cx va n)

/-! ### Serving the queues (R115, R117) -/

/-- The virtual address of a queue's record. -/
def CmdQueue.recordAt (x : CmdQueue) (i : Nat) : Nat := x.base + 64 * (i % 2 ^ x.log2)

/-- The eight words of a record. -/
def State.readRecord (s : State) (cx va : Nat) : List Word64 :=
  (unpackElems 64 8 (s.ctxRead cx va 64)).map fun v => BitVec.ofNat 64 v

/-- The job for the head of a queue. -/
def newJob (id slot : Nat) (x : CmdQueue) : Job where
  id := id
  cx := x.cx
  slot := slot
  queue := x.q
  index := x.head
  prio := x.prio
  words := none
  node := none
  phase := .head
  todo := []
  fault := none
  blocked := false
  hdr := 0
  clusters := []
  ownIdx := none
  launchNo := 0
  startBeat := 0
  cmd := none
  graph := none
  chose := false

/-- The queue's head has a job of its own already. -/
def State.headJob (s : State) (x : CmdQueue) : Bool :=
  s.dev.jobs.any fun j => j.node.isNone && decide (j.cx = x.cx) && decide (j.queue = x.q) && (decide (j.phase = .head) || decide (j.phase = .placing))

/-- The queue is served: its context is resident and not being evicted, and a record waits (R113, R114, R372). -/
def State.served (s : State) (x : CmdQueue) : Bool :=
  match s.slotOf x.cx with
  | none => false
  | some n => !bit (s.devReg (0x400 + 8 * n)) 13 && x.en && !x.refused && !x.stopped && decide (x.head ≠ x.tail) && !s.headJob x

/-- The device's copy of a queue is struck: the queue stops, with the machine check of its context (R413, R415). -/
def State.strikeQueue (s : State) (x : CmdQueue) : State :=
  (((s.errRecord 0 true 0 s.dev.master 0 0 x.cx (ErrLoc.index (.queue x.cx x.q))).closeQueue x.cx x.q).ctxCheck x.cx).heal fun l =>
    decide (l = .queue x.cx x.q)

/-- Jobs for the heads of the queues that are served. -/
def State.openHeads (s : State) : State :=
  (s.dev.queues.filter fun x => s.served x).foldl (fun s x =>
    if ErrLoc.queue x.cx x.q ∈ s.core.struck then s.strikeQueue x else
    let id := s.dev.nextJob
    s.updDev fun d => { d with nextJob := id + 1, jobs := d.jobs ++ [newJob id ((s.slotOf x.cx).getD 0) x] }) s

/-- Where the record of a job stands: in its queue's ring, or in its graph's array (R114, R121). A queue whose descriptor breaks
its limits has none, and its command fails. -/
def State.recordOf? (s : State) (j : Job) : Option Nat :=
  match j.node with
  | some (g, n) => ((s.job g).bind fun k => k.graph).map fun r => r.base + 64 * n
  | none => match s.queueOf j.cx j.queue with
    | some x => if x.ok then some (x.recordAt j.index) else none
    | none => none

/-- The record of a head or node is read once its page translates. -/
def State.loadHead (s : State) (j : Job) : State :=
  if j.phase = .head ∧ j.words.isNone ∧ j.todo = [] then
    match s.recordOf? j with
    | none => s.updJob j.id fun j => { j with words := some [] }
    | some a => s.withRun j a 64 0 fun s => s.updJob j.id fun j => { j with words := some (s.readRecord j.cx a) }
  else s

/-- Every head record that can be read is read. -/
def State.loadHeads (s : State) : State := s.dev.jobs.foldl State.loadHead s

/-- The job's queue starts nothing more: its last doorbell was refused, or the descriptor read with it no longer enables it (R114). -/
def State.queueHeld (s : State) (j : Job) : Bool :=
  j.node.isNone && match s.queueOf j.cx j.queue with
    | some x => x.refused || !x.en
    | none => false

/-- The command before the job's has come far enough: it has completed, or, under CONC, started (R115). -/
def State.inTurn (s : State) (j : Job) : Bool :=
  j.conc || j.node.isSome ||
    !(s.dev.jobs.any fun k => k.node.isNone && decide (k.cx = j.cx) && decide (k.queue = j.queue) &&
      decide (addMod 32 k.index 1 = j.index))

/-- Order of service: level first, then the queues after the one served last at the level (R117). -/
def State.serviceKey (s : State) (j : Job) : List Nat :=
  let n := 64 * j.cx + j.queue
  let last := assocGet s.dev.served j.prio 0
  let had := s.dev.served.any fun x => decide (x.1 = j.prio)
  [3 - j.prio, if had && decide (n ≤ last) then 1 else 0, n, j.id]

/-- The context is resident and not being evicted (R372). -/
def State.ctxServed (s : State) (cx : Nat) : Bool :=
  match s.slotOf cx with
  | some n => !bit (s.devReg (0x400 + 8 * n)) 13
  | none => false

/-- Firmware runs and the features have been locked (R136, R380). -/
def State.launchesRun (s : State) : Bool := decide (bits (s.devReg 0x600) 0 2 = 2) && s.dev.featRo

/-- A launch could be placed now, if its clusters were free: its pages are translated, its context is served, and its queue still starts commands
(R114, R117, R372, R434). -/
def State.canStart (s : State) (k : Job) : Bool := decide (k.todo = []) && s.launchesRun && s.ctxServed k.cx && !s.queueHeld k

/-- Insert a job by its key. -/
def insertJob (s : State) (j : Job) : List Job → List Job
  | [] => [j]
  | k :: l => if keyLt (s.serviceKey j) (s.serviceKey k) then j :: k :: l else k :: insertJob s j l

/-- Jobs in the order of service. -/
def State.jobsInOrder (s : State) : List Job := s.dev.jobs.foldl (fun l j => insertJob s j l) []

/-- The queue has been served. -/
def State.markServed (s : State) (j : Job) : State :=
  if j.node.isNone then s.updDev fun d => { d with served := assocSet d.served j.prio (64 * j.cx + j.queue) } else s

end Sys2Proof.Machine
end

