-- ==== Sys2Proof/Machine/Walks.lean ====
section
/-! DEFINITION. Walks for engines and for the distributor, the driver's answers to fault records, and invalidation
(22_translation R358 to R361, 23_program_migration R364 to R367, 08_engines R178, R185, 05_launch R434). A walk is numbered: below 16 it is a
pawn's, 16 + e is that of channel e, and from 32 on that of a job. -/

namespace Sys2Proof.Machine

/-! ### Engines -/

/-- The access of a page: a source is read, a destination written. -/
def pageAcc (dst : Bool) : Nat := if dst then 1 else 0

/-- A command of a channel changes. -/
def State.updCmd (s : State) (ch id : Nat) (f : EngCmd → EngCmd) : State :=
  s.updEngine ch fun q => { q with cmds := q.cmds.map fun c => if c.id = id then f c else c }

/-- A page of a command is translated and pinned in a die's table; none while the table has no room. -/
def State.pinPage (s : State) (die : Nat) (c : EngCmd) (va : Nat) (t : TlbEntry) : Option (State × EngCmd) :=
  let page := va / 65536 * 65536
  let pa := t.pa page
  (s.pin die (pa / 65536)).map fun s =>
    (s, { c with todo := c.todo.drop 1, fault := none, failed := false, pages := c.pages ++ [(page, pteClass t.attrs.toNat, pa)] })

/-- A page that has been translated for a command of channel ch is pinned, or waits for room in the pin table. -/
def State.pinFor (s : State) (ch : Nat) (c : EngCmd) (va : Nat) (t : TlbEntry) : State :=
  let s := s.agentStrike [.pin (pinKey s.core.cfg.die (t.pa (va / 65536 * 65536) / 65536))]
  match s.pinPage s.core.cfg.die c va t with
  | some (s, c') => s.updCmd ch c.id fun _ => c'
  | none => s.updCmd ch c.id fun c => { c with fault := none, failed := false }

/-- The next page of a command of channel ch is translated through the cluster's TLB or, on a miss, by a walk (R357): it is pinned, or refused, or
waits with a record or without one (R178, R359, R365). KIND 4 stands for a migration lock, which has no record. Of a bad entry nothing is used
(R415). -/
def State.engineWalk (s : State) (ch : Nat) (c : EngCmd) : State :=
  match c.todo with
  | [] => s
  | (va, dst) :: _ =>
    let acc := pageAcc dst
    match if s.cowPage c.cx va acc then none else s.tlbHit s.core.tlb2 c.cx va acc with
    | some t => if decide (t.loc ∈ s.core.struck) then s.agentStrike [t.loc] else s.pinFor ch c va t
    | none =>
      let w := s.coreWalk c.cx va c.waited
      if s.walkBad w.2.1 then (s.bumpFree.walkCheck w.2.1).updCmd ch c.id fun c => { c with fault := none, waited := 0 }
      else
      let v := s.verdict w.1 c.cx va acc true
      let s := (s.keepPtrs w.2.2).walkEffects w.2.1 v c.cx s.core.cfg.die c.waited
      match v with
      | .fill t _ _ => ((s.cowCopy c.cx va acc).tlbFill t false).pinFor ch c va t
      | .block => s.updCmd ch c.id fun c => { c with fault := some (va, 4, none), failed := true }
      | .hostOff => s.updCmd ch c.id fun c => { c with fault := none, failed := false, todo := [], status := some 2, atOnce := true }
      | .fault kind level e =>
        match s.faultRecord c.cx va kind acc level ch s.core.cfg.coreIdx e true with
        | some (s, id) => s.updCmd ch c.id fun c => { c with fault := some (va, kind, some id), failed := true }
        | none => s.updCmd ch c.id fun c => { c with fault := some (va, kind, none), failed := true }

/-- The fault queue of a context has room for a record (R359). -/
def State.faultRoom (s : State) (cx : Nat) : Bool :=
  let ctl := s.devReg (0x100010 + 64 * cx)
  decide (subMod 16 (bits ctl 32 16) (bits ctl 16 16) < 2 ^ (min (bits ctl 0 4) 8 + 4))

/-- A command whose next walk can be made. -/
def State.wantsWalk (s : State) (c : EngCmd) : Bool :=
  decide (c.todo ≠ []) && c.status.isNone && match c.fault with
    | none => true
    | some (_, kind, none) => decide (kind ≠ 4) && s.faultRoom c.cx
    | some (_, _, some _) => false

/-- The command of a channel that walks next. -/
def State.walkCmd (s : State) (ch : Nat) : Option EngCmd := (s.engineQ ch).cmds.find? s.wantsWalk

/-! ### The distributor -/

/-- The walk for the next page of a job (R434); the pages of its engine command are pinned in the master die's table (R185). -/
def State.jobWalk (s : State) (j : Job) : State :=
  match j.todo with
  | [] => s
  | (va, acc) :: rest =>
    let w := s.pageWalk j.cx va
    let v := s.jobVerdict j.cx va acc
    if s.walkBad w.2 then s.checkJob j (w.2.headD 0)
    else
    let s := s.walkEffects w.2 v j.cx s.dev.master j.waited
    match v with
    | .fill t _ _ =>
      let s := s.cowCopy j.cx va acc
      let go := fun (s : State) (c : Option EngCmd) => s.updJob j.id fun j => { j with todo := rest, fault := none, blocked := false, cmd := c }
      (match j.cmd with
        | none => go s none
        | some c =>
          if c.todo = [] then go s (some c)
          else match s.pinPage s.dev.master c va t with
            | some (s, c') => go s (some c')
            | none => s)
    | .block => s.updJob j.id fun j => { j with blocked := true, fault := none }
    | .hostOff => s.failJob j 2
    | .fault kind level e =>
      match s.faultRecord j.cx va kind acc level 15 0xFFFF e true with
      | some (s, id) => s.updJob j.id fun j => { j with fault := some (va, acc, kind, some id) }
      | none => s.updJob j.id fun j => { j with fault := some (va, acc, kind, none) }

/-- A job whose next walk can be made. -/
def State.jobWants (s : State) (j : Job) : Bool :=
  decide (j.todo ≠ []) && !j.blocked && match j.fault with
    | none => true
    | some (_, _, _, none) => s.faultRoom j.cx
    | some (_, _, _, some _) => false

/-- A job's walk has had the time that its reads need (R23). -/
def State.jobWalkDue (s : State) (j : Job) : Bool :=
  match j.todo with
  | (va, _) :: _ => decide (s.walkTicks s.dev.master j.cx (s.pageWalk j.cx va).2 ≤ j.waited)
  | [] => false

/-- R358: a walker completes a walk. -/
def execTranslationWalk (w : Nat) (s : State) : Out :=
  .next (if w < 16 then
    match (s.pawn w).status with
    | .xlateWait k => if k.blocked || k.fault.isSome then s else s.pawnWalk w k
    | _ => s
  else if w < 32 then
    match s.walkCmd (w - 16) with
    | some c => s.engineWalk (w - 16) c
    | none => s
  else
    match s.job (w - 32) with
    | some j => if s.jobWants j then s.jobWalk j else s
    | none => s)

/-- Walks of engines and jobs that are ready. -/
def State.walkSteps (s : State) : List (Ctx × Instr) :=
  (((List.range 3).filter fun ch => match s.walkCmd ch with
    | some c => match c.todo with
      | (va, dst) :: _ => s.walkDue c.cx va (pageAcc dst) c.waited
      | [] => false
    | none => false).map fun ch => (({} : Ctx), Instr.translationWalk (16 + ch))) ++
    ((s.dev.jobs.filter fun j => s.jobWants j && s.jobWalkDue j).map fun j => (({} : Ctx), Instr.translationWalk (32 + j.id)))

/-! ### FQRESP (R360) -/

/-- A thread of a saved launch. -/
def SavedLaunch.pawn (x : SavedLaunch) (t : Nat) : Pawn := vget x.pawns t Pawn.initial
def SavedLaunch.setPawn (x : SavedLaunch) (t : Nat) (p : Pawn) : SavedLaunch := { x with pawns := vset x.pawns t p }
def SavedLaunch.setPark (x : SavedLaunch) (t : Nat) (k : Park) : SavedLaunch := x.setPawn t { x.pawn t with status := .xlateWait k }

/-- A trap of a thread that is out with its launch: it is taken at the thread's next boundary, at the op that it stands at. -/
def Pawn.trapSaved (p : Pawn) (r : TrapRec) : Pawn := { p with status := .running, th := { p.th with mcheck := p.th.mcheck <|> some r } }

/-- A saved launch changes. -/
def State.updSaved (s : State) (j : Nat) (f : SavedLaunch → SavedLaunch) : State :=
  s.updDev fun d => { d with saved := d.saved.map fun x => if x.job.id = j then f x else x }

/-- What waits for a record of a context. -/
inductive Waiter where
  | pawn (t : Nat) (k : Park) (kind : Nat)
  | engine (ch : Nat) (c : EngCmd)
  | job (j : Job)
  /-- A thread of a saved launch that is still in its fault wait (R213). -/
  | saved (j t : Nat) (k : Park) (kind : Nat)

/-- The access that a record names. -/
def State.waiter (s : State) (cx : Nat) (id : Word32) : Option Waiter :=
  let pawns := (List.range 16).findSome? fun t => match (s.pawn t).status with
    | .xlateWait k => (match k.fault with
      | some (i, kind) => if i = id ∧ cx = s.core.cfg.cx then some (Waiter.pawn t k kind) else none
      | none => none)
    | _ => none
  let engines := (List.range 3).findSome? fun ch => (s.engineQ ch).cmds.findSome? fun c => match c.fault with
    | some (_, _, some i) => if i = id ∧ cx = c.cx then some (Waiter.engine ch c) else none
    | _ => none
  let jobs := s.dev.jobs.findSome? fun j => match j.fault with
    | some (_, _, _, some i) => if i = id ∧ cx = j.cx then some (Waiter.job j) else none
    | _ => none
  let saved := s.dev.saved.findSome? fun x => if x.own then (List.range 16).findSome? fun t => match (x.pawn t).status with
    | .xlateWait k => (match k.fault with
      | some (i, kind) => if i = id ∧ cx = x.job.cx then some (Waiter.saved x.job.id t k kind) else none
      | none => none)
    | _ => none else none
  pawns <|> engines <|> jobs <|> saved

/-- R360: the driver has the device walk again for the access that a record names: the walk takes its time (R23), and what waits for it waits on until it
has succeeded (R178). -/
def execFqrespWalkAgain (cx : Nat) (id : Word32) (s : State) : Out :=
  .next (match s.waiter cx id with
    | none => s
    | some (.pawn t k _) => s.updPawn t fun p => { p with status := .xlateWait { k with fault := none, waited := 0 } }
    | some (.engine ch c) => s.updCmd ch c.id fun c => { c with fault := none, waited := 0 }
    | some (.job j) => s.updJob j.id fun j => { j with fault := none, waited := 0 }
    | some (.saved j t k _) => s.updSaved j fun x => x.setPark t { k with fault := none, waited := 0 })

/-- R360: the driver delivers the fault: the pawn traps at its op, a command completes with STATUS 2, a job fails. -/
def execFqrespDeliver (cx : Nat) (id : Word32) (s : State) : Out :=
  .next (match s.waiter cx id with
    | none => s
    | some (.pawn t k kind) => s.parkTrap t (kindCause kind) k.va id
    | some (.engine ch c) => s.updCmd ch c.id fun c => { c with fault := none, failed := false, todo := [], status := some 2 }
    | some (.job j) => s.failJob j 2
    | some (.saved j t k kind) => s.updSaved j fun x =>
      let p := x.pawn t
      x.setPawn t (p.trapSaved ⟨BitVec.ofNat 9 (kindCause kind), k.va, id.setWidth 64, 15⟩))

/-! ### Invalidation (R361) -/

/-- The range of an invalidation: bits of a page of its size. -/
def invShift (c : Nat) : Nat := 16 + 10 * bits c 12 2

/-- The invalidation in TLBINVA and TLBINVC takes in a page of 2^sh bytes at a virtual address. -/
def inRange (va c page sh : Nat) : Bool :=
  decide (bits c 12 2 = 3) || decide (page / 2 ^ max sh (invShift c) = va / 2 ^ max sh (invShift c))

/-- The invalidation takes in an entry. -/
def TlbEntry.invalid (t : TlbEntry) (va c : Nat) : Bool :=
  (if pteG t.attrs.toNat then bit c 15 else decide (t.cx = bits c 0 12)) &&
    inRange va c (t.vpn * 2 ^ levelShift t.level) (levelShift t.level)

/-- The invalidation takes in an address of a context. -/
def invHits (va c cx a : Nat) : Bool := (bit c 15 || decide (cx = bits c 0 12)) && inRange va c a 16

/-- BUSY. -/
def State.invBusy (s : State) : Bool := bit (s.devReg 0x328) 31

/-- The driver starts an invalidation; while one is in progress the registers keep what they hold. -/
def State.startInv (s : State) (va : Word64) (c : Nat) : State :=
  if s.invBusy then s
  else (s.setDevReg 0x320 (bits va.toNat 16 40 * 65536)).setDevReg 0x328 (c % 2 ^ 16 + 2 ^ 31)

/-- R361: an invalidation starts. -/
def execTlbinv (va : Word64) (c : Word32) (s : State) : Out := .next (s.startInv va (setBits c.toNat 14 1 0))

/-- R361: an invalidation starts that also flushes the pawn caches. -/
def execTlbinvFlush (va : Word64) (c : Word32) (s : State) : Out := .next (s.startInv va (setBits c.toNat 14 1 1))

/-- The invalidation in progress takes in an access of the core that went through an entry of a level. -/
def State.invUsed (s : State) (va c : Nat) (page level : Nat) : Bool :=
  (bit c 15 || decide (s.core.cfg.cx = bits c 0 12)) && inRange va c page (levelShift level)

/-- An access that R361 waits for: of memory, or the registration of a monitor. -/
def GKind.waitsInv : GKind → Bool
  | .monarm _ => true
  | k => k.isMemory

/-- Every access that used an entry in the range has been performed (R361). What a deterministic chunk holds is not waited for: it is run again
(log 69). -/
def State.invDrained (s : State) : Bool :=
  s.pawns.toList.all fun p => p.reqs.all fun r =>
    !(r.kind.waitsInv && r.done.isNone && s.invUsed (s.devReg 0x320) (s.devReg 0x328) r.va.toNat r.level)

/-- What waits on a write-block or a migration lock in the range walks again; a thread rejoins with its op as the next (R361, R365, R367). -/
def State.wakeBlocked (s : State) (va c : Nat) : State :=
  let s := s.setPawns (vmap (fun (p : Pawn) => match p.status with
    | .xlateWait k => if k.blocked && invHits va c s.core.cfg.cx k.va.toNat then { p with status := .running } else p
    | _ => p) s.pawns)
  let eng := fun (x : EngCmd) => match x.fault with
    | some (page, kind, _) => if 3 ≤ kind ∧ invHits va c x.cx page then { x with fault := none } else x
    | none => x
  let s := s.updCore fun k => { k with engQ := vmap (fun (q : EngQueue) => { q with cmds := q.cmds.map eng }) k.engQ }
  s.updDev fun d => { d with jobs := d.jobs.map fun j =>
    match j.todo with
    | (page, _) :: _ =>
      let held := j.blocked || (match j.fault with
        | some (_, _, kind, _) => decide (kind = 3)
        | none => false)
      if held && invHits va c j.cx page then { j with blocked := false, fault := none } else j
    | [] => j }

/-- A chunk that went through an entry that has gone is run again at its visit, with the translations as they then stand (R336, R361, R364). -/
def State.staleChunks (s : State) (va c : Nat) : State :=
  s.setPawns (vmap (fun p => { p with
    chunk := { p.chunk with stale := p.chunk.stale || p.chunk.pages.any fun x => s.invUsed va c x.1 x.2 } }) s.pawns)

/-- The entries of the range go, and with the whole context its cached pointers; with FLUSH the lines that the context reached through pages of the
range, and those of the pages that the entries mapped, are written back and go too (R241, R361). -/
def State.invalidate (s : State) (va c : Nat) : State :=
  let gone := (s.core.tlb ++ s.core.tlb2).filter fun t => t.invalid va c
  let s := if bit c 14 then
      s.flushLines fun l => (decide (s.core.cfg.cx = bits c 0 12) && l.pages.any fun page => inRange va c page 16) ||
        gone.any fun t => decide (t.ppn ≤ 64 * l.line) && decide (64 * l.line < t.ppn + 2 ^ levelShift t.level)
    else s
  (s.staleChunks va c).updCore fun k => { k with
    tlb := k.tlb.filter fun t => !t.invalid va c
    tlb2 := k.tlb2.filter fun t => !t.invalid va c
    ptrs := k.ptrs.filter fun x => !(decide (bits c 12 2 = 3) && decide (x.cx = bits c 0 12)) }

/-- R361: the invalidation completes. -/
def execTlbinvCompletion (s : State) : Out :=
  .next (if s.invBusy && s.invDrained then
    let va := s.devReg 0x320
    let c := s.devReg 0x328
    ((s.invalidate va c).wakeBlocked va c).setDevReg 0x328 (setBits c 31 1 0)
  else s)

end Sys2Proof.Machine
end

