-- ==== Sys2Proof/Machine/Launch.lean ====
section
/-! DEFINITION. Launches (05_launch R109 to R120, R127, R131, 24_tenancy R373, R375, 25_trust R384, R385, 26_traps R389): the
header and its checks, placement, the clearing of clusters, what the launch logic writes, the manifest, and completion. -/

namespace Sys2Proof.Machine

/-! ### The kernel header (R110, R111) -/

/-- The field of n bytes at an offset of a header. -/
def hdrField (h : BitVec 512) (off n : Nat) : Nat := bits h.toNat (8 * off) (8 * n)

def hdrDet (h : BitVec 512) : Bool := bit (hdrField h 0x05 1) 0
def hdrIdem (h : BitVec 512) : Bool := bit (hdrField h 0x05 1) 1
/-- The register cap: 16, 32, 48 or 64. -/
def hdrCap (h : BitVec 512) : Nat := 16 * (bits (hdrField h 0x06 2) 0 2 + 1)
def hdrThreads (h : BitVec 512) : Nat := bits (hdrField h 0x06 2) 2 5
def hdrRole (h : BitVec 512) (n : Nat) : Nat := hdrField h (0x08 + n) 1
def hdrCodeEnd (h : BitVec 512) : Nat := bits (hdrField h 0x0C 4) 0 9
def hdrDataEnd (h : BitVec 512) : Nat := bits (hdrField h 0x0C 4) 9 9
def hdrStackEnd (h : BitVec 512) : Nat := bits (hdrField h 0x0C 4) 18 9
def hdrEntry (h : BitVec 512) (n : Nat) : Nat := hdrField h (0x10 + 8 * n) 4
def hdrPawn (h : BitVec 512) (n : Nat) : Nat := hdrField h (0x14 + 8 * n) 4
def hdrConstHi (h : BitVec 512) : Nat := hdrField h 0x36 1
def hdrBeat (h : BitVec 512) : Nat := hdrField h 0x38 2
def hdrStack (h : BitVec 512) : Nat := hdrField h 0x3A 2
/-- Bytes of the image (R109). -/
def hdrImage (h : BitVec 512) : Nat := hdrDataEnd h * 4096 - 0x800

/-- The role of a core by its number in the cluster. -/
def hdrRoleOf (h : BitVec 512) (core : Nat) : Option Nat := (List.range 4).find? fun n => bit (hdrRole h n) core

/-- Pawn threads of a core (R112). -/
def hdrThreadsOf (h : BitVec 512) (core : Nat) : Nat :=
  match hdrRoleOf h core with
  | none => 0
  | some n => if hdrPawn h n = 0xFFFFFFFF then 0 else hdrThreads h

/-- A role with cores has entries within the code. -/
def hdrRoleOk (h : BitVec 512) (n : Nat) : Bool :=
  let top := hdrCodeEnd h * 4096
  let e := hdrEntry h n
  let p := hdrPawn h n
  decide (hdrRole h n = 0) ||
    (decide (e % 8 = 0) && decide (0x800 ≤ e) && decide (e < top) &&
      (decide (p = 0xFFFFFFFF) || (decide (p % 4 = 0) && decide (0x800 ≤ p) && decide (p < top))))

/-- The fields of a header keep their limits (R110, R111). -/
def hdrFieldsOk (h : BitVec 512) : Bool :=
  let most : Nat := match bits (hdrField h 0x06 2) 0 2 with
    | 0 => 16
    | 1 => 16
    | 2 => 10
    | _ => 8
  let beat := hdrBeat h
  let hi := hdrConstHi h
  decide (bits (hdrField h 0x05 1) 2 6 = 0) && decide (bits (hdrField h 0x06 2) 7 9 = 0) && decide (hdrThreads h ≤ most) &&
    decide (bits (hdrField h 0x0C 4) 27 5 = 0) && decide (1 ≤ hdrCodeEnd h) && decide (hdrCodeEnd h ≤ hdrDataEnd h) &&
    decide (hdrDataEnd h ≤ hdrStackEnd h) && decide (hdrStackEnd h ≤ 496) &&
    ((List.range 8).all fun c => decide (((List.range 4).filter fun n => bit (hdrRole h n) c).length ≤ 1)) &&
    ((List.range 4).all fun n => hdrRoleOk h n) && decide (bits (hdrField h 0x34 2) 6 10 = 0) &&
    (decide (hi = 0) || decide (16 ≤ hi)) && decide (hdrField h 0x37 1 ≤ 1) && (decide (beat = 0) || decide (1023 ≤ beat)) &&
    decide (hdrStack h ≤ 1024) && (decide (1 ≤ hdrStack h) || decide (hdrThreads h = 0))

/-- The launch status of a header; 0 where it is valid (R111, R128). -/
def State.hdrStatus (s : State) (h : BitVec 512) : Nat :=
  if hdrField h 0x00 4 ≠ 0x4B365956 ∨ hdrField h 0x04 1 ≠ 1 then 1
  else if !hdrFieldsOk h then 2
  else if (List.range 32).any fun n => bit (hdrField h 0x3C 4) n && !s.feature n then 3
  else if hdrDet h && !s.feature 0 then 3
  else 0

/-! ### The launch record (R116) -/

def Job.hdrVa (j : Job) : Nat := j.w 1
def Job.nclus (j : Job) : Nat := bits (j.w 2) 0 16
def Job.fixed (j : Job) : Bool := bit (j.w 0) 9
def Job.baseClus (j : Job) : Nat := bits (j.w 2) 16 16
def Job.consts (j : Job) : Nat := j.w 3
/-- The EVENT word of a launch, a copy or a collective (R116, R185). -/
def Job.event (j : Job) : Nat := if j.kind = 1 then j.w 4 else if j.kind = 2 ∨ j.kind = 3 then j.w 2 else 0

/-- Words of a record from one on are zero; a node's graph fields in words 6 and 7 are not looked at (R121). -/
def Job.zeroFrom (j : Job) (n : Nat) : Bool :=
  (List.range 8).all fun i => decide (i < n) || (j.node.isSome && decide (6 ≤ i)) || decide (j.w i = 0)

/-- An address has no bits beyond the virtual address space. -/
def vaOk (a : Nat) : Bool := decide (a < 2 ^ 56)

/-- A launch record keeps its limits. -/
def Job.launchOk (j : Job) : Bool :=
  decide (bits (j.w 0) 10 54 = 0) && decide (bits (j.w 2) 32 32 = 0) && decide (1 ≤ j.nclus) && j.zeroFrom 5 &&
    vaOk j.hdrVa && vaOk j.consts && vaOk j.event

/-! ### Clusters (R118, R375) -/

/-- A global cluster number is one of a live cluster. -/
def State.clusterLive (s : State) (g : Nat) : Bool :=
  let per := s.part.clustersPerDie
  let d := g / per
  decide (d < 6) && !bit (s.devReg 0x728) d && !bit (s.devReg (0x730 + 8 * d)) (physCluster (s.part.fused.getD d 0) (g % per))

/-- The clusters that a context may use, by global number (R374). -/
def State.clusterMask (s : State) (cx : Nat) : BitVec 96 :=
  BitVec.ofNat 96 (bits (s.devReg (0x140000 + 32 * cx)) 0 64 + bits (s.devReg (0x140008 + 32 * cx)) 0 32 * 2 ^ 64)

/-- The context may use the cluster. -/
def State.clusterAllowed (s : State) (cx g : Nat) : Bool := (s.clusterMask cx).getLsbD g

/-- Global cluster numbers of the package. -/
def State.allClusters (s : State) : List Nat := List.range (6 * s.part.clustersPerDie)

/-- Some launch holds the cluster. -/
def State.clusterHeld (s : State) (g : Nat) : Bool := s.dev.jobs.any fun j => decide (g ∈ j.clusters)

/-- The cluster is free for a context. -/
def State.clusterFree (s : State) (cx g : Nat) : Bool := s.clusterLive g && s.clusterAllowed cx g && !s.clusterHeld g

/-- The clusters that a launch would be placed on, by launch cluster index, where it fits; `free` says which are free. -/
def State.chooseClusters (s : State) (j : Job) (free : Nat → Bool) : Option (List Nat) :=
  if j.fixed then
    let l := (List.range j.nclus).map fun i => j.baseClus + i
    if l.all free then some l else none
  else
    let l := s.allClusters.filter free
    if j.nclus ≤ l.length then some (l.take j.nclus) else none

/-- The status of a launch that can never be placed; 0 where it can (R118, R375). -/
def State.placeStatus (s : State) (j : Job) : Nat :=
  if (s.allClusters.filter s.clusterLive).length < j.nclus then 4
  else if j.fixed then
    if 6 * s.part.clustersPerDie < j.baseClus + j.nclus then 5
    else if (List.range j.nclus).all fun i => s.clusterAllowed j.cx (j.baseClus + i) then 0
    else 5
  else if (s.allClusters.filter fun g => s.clusterLive g && s.clusterAllowed j.cx g).length < j.nclus then 4
  else 0

/-- Pages that placing a launch reads: header, image, constants. -/
def launchPages (j : Job) (h : BitVec 512) : List (Nat × Nat) :=
  needRun j.hdrVa (64 + hdrImage h) 0 ++
    (if j.consts = 0 ∨ hdrConstHi h = 0 then [] else needRun j.consts (8 * (hdrConstHi h - 15)) 0)

/-- The launch goes on once header, image and constants can be read. -/
def State.withLaunch (s : State) (j : Job) (h : BitVec 512) (k : State → State) : State :=
  s.withPages j (launchPages j h) fun s =>
    if s.ctxBad j.cx j.hdrVa (64 + hdrImage h) then s.checkJob j (s.ctxPa j.cx j.hdrVa)
    else if j.consts ≠ 0 && decide (hdrConstHi h ≠ 0) && s.ctxBad j.cx j.consts (8 * (hdrConstHi h - 15)) then
      s.checkJob j (s.ctxPa j.cx j.consts)
    else k ((s.chargeRun j.cx j.hdrVa (64 + hdrImage h)).chargeRun j.cx j.consts (if j.consts = 0 ∨ hdrConstHi h = 0 then 0 else 8 * (hdrConstHi h - 15)))

/-! ### Graph fields (R121) -/

/-- The graph fields of a node's record (R121). -/
def Job.setA (j : Job) : List Nat := [bits (j.w 6) 16 16, bits (j.w 6) 32 16, bits (j.w 6) 48 16]
def Job.setB (j : Job) : List Nat := [bits (j.w 7) 0 16, bits (j.w 7) 16 16, bits (j.w 7) 32 16]

/-- The graph that a node belongs to. -/
def State.graphOf (s : State) (j : Job) : Option GraphRun :=
  match j.node with
  | some (g, _) => (s.job g).bind fun k => k.graph
  | none => none

/-- A node's successors are nodes of its graph, empty entries or REARM, and its other graph bytes are zero. -/
def State.nodeOk (s : State) (j : Job) : Bool :=
  match s.graphOf j with
  | none => true
  | some r => decide (bits (j.w 6) 8 8 = 0) && decide (bits (j.w 7) 48 16 = 0) &&
      (j.setA ++ j.setB).all fun n => decide (n < r.n) || decide (n = 0xFFFF) || decide (n = 0xFFFE)

/-- R116: a launch command's record and header are checked; it then waits for its clusters. -/
def execLaunch (j : Nat) (s : State) : Out :=
  .next (match s.job j with
    | none => s
    | some j =>
      if j.kind ≠ 1 ∨ j.phase ≠ .head ∨ j.words.isNone ∨ j.todo ≠ [] ∨ !s.launchesRun then s
      else if !(j.launchOk && s.nodeOk j) then s.failStart j 2
      else
        s.withRun j j.hdrVa 64 0 fun s =>
          let h := BitVec.ofNat 512 (s.ctxRead j.cx j.hdrVa 64)
          let st := if s.hdrStatus h ≠ 0 then s.hdrStatus h else s.placeStatus j
          if st ≠ 0 then s.failStart j st
          else s.withLaunch j h fun s => s.updJob j.id fun j => { j with phase := .placing, hdr := h })

/-! ### What the launch logic writes (R19, R21, R112, R389, R409) -/

/-- The key of offset 0 of a core of a global cluster. -/
def State.coreKey (s : State) (g core : Nat) : Nat :=
  let per := s.part.clustersPerDie
  g / per * 2 ^ 28 + g % per * 2 ^ 24 + core * 2 ^ 21

/-- Dies that hold a cluster of the list. -/
def State.diesOf (s : State) (l : List Nat) : Nat :=
  ((List.range 6).filter fun d => l.any fun g => decide (g / s.part.clustersPerDie = d)).length

/-- Words 0 to 15 of a core. -/
def State.identity (s : State) (j : Job) (idx core : Nat) : List Nat :=
  let per := s.part.clustersPerDie
  let g := j.clusters.getD idx 0
  [8 * idx + core, idx, core, g / per, g % per, 8 * j.clusters.length, j.clusters.length, s.diesOf j.clusters, j.launchNo, j.startBeat,
    j.cx, s.die.beatPeriod, hdrThreadsOf j.hdr core + hdrCap j.hdr * 2 ^ 8, b2n (hdrDet j.hdr) + 2 * b2n (hdrIdem j.hdr), 0, 0]

/-- Words 16 to 255: the launch constants. -/
def State.constants (s : State) (j : Job) : List Nat :=
  let hi := hdrConstHi j.hdr
  let n := if hi = 0 ∨ j.consts = 0 then 0 else hi - 15
  unpackElems 64 n (s.ctxRead j.cx j.consts (8 * n)) ++ List.replicate (240 - n) 0

/-- Bytes into a memory. -/
def memPut (m : Memory) (a : Nat) (l : List Byte) : Memory := (l.zipIdx).foldl (fun m x => memSet m (a + x.2) x.1) m

/-- Words into a memory. -/
def memPutWords (m : Memory) (a : Nat) (l : List Nat) : Memory := (l.zipIdx).foldl (fun m x => memWrite m (a + 8 * x.2) 8 x.1) m

/-- The supervisor image of a context. -/
def State.supImage (s : State) (cx : Nat) : List Byte :=
  (((s.dev.sup.find? fun x => x.1 = cx).map fun x => x.2).getD []).take 0x8000

/-- TVEC from a word of the supervisor image; 0 without an image or entry. -/
def tvecOf (sup : List Byte) (n : Nat) : BitVec 21 :=
  let w := ofBytes ((sup.drop (4 * n)).take 4)
  if sup.length < 8 ∨ w = 0xFFFFFFFF then 0 else BitVec.ofNat 21 (0x1F0000 + w)

/-- The format descriptors that the kernel's directives name. -/
def State.launchFds (s : State) (j : Job) : List Word32 :=
  ((s.dev.fmts.find? fun x => decide (x.1 = (j.cx, j.hdrVa))).map fun x => x.2).getD []

/-- The local memory of one core at its launch. -/
def State.fillCore (s : State) (m : Memory) (j : Job) (idx core : Nat) (image : List Byte) : Memory :=
  let a := s.coreKey (j.clusters.getD idx 0) core
  let m := memPutWords m a (s.identity j idx core ++ s.constants j)
  let m := memPut m (a + 0x800) image
  let m := memZero m (a + hdrDataEnd j.hdr * 4096) ((hdrStackEnd j.hdr - hdrDataEnd j.hdr) * 4096)
  memPut m (a + 0x1F0000) (s.supImage j.cx)

/-- The bank words that the filling of a core covers whole are good again: the constants, the image, the stacks and the supervisor image (R415). -/
def State.healFilled (s : State) (j : Job) (idx core n : Nat) : State :=
  let a := s.coreKey (j.clusters.getD idx 0) core
  let spans := [(0, 8 * (s.identity j idx core ++ s.constants j).length), (0x800, n),
    (hdrDataEnd j.hdr * 4096, (hdrStackEnd j.hdr - hdrDataEnd j.hdr) * 4096), (0x1F0000, (s.supImage j.cx).length)]
  { s with badLm := s.badLm.filter fun w => !(spans.any fun x => decide (a + x.1 ≤ 8 * w) && decide (8 * w + 8 ≤ a + x.1 + x.2)) }

/-- A cluster last ran another context, or has not run since device reset (R373). -/
def State.mustClear (s : State) (cx g : Nat) : Bool := !(s.dev.lastCtx.any fun x => decide (x = (g, cx)))

/-- The local memory of a cluster is cleared. -/
def State.clearLm (s : State) (g : Nat) : State :=
  let a := s.coreKey g 0
  { s.setLm (memZero s.lm a (8 * 2 ^ 21)) with badLm := s.badLm.filter fun w => decide (8 * w < a) || decide (a + 8 * 2 ^ 21 ≤ 8 * w) }

/-- The registers of a pawn thread of a core at launch. -/
def State.launchPawn (s : State) (j : Job) (idx core t : Nat) : Pawn :=
  let h := j.hdr
  if hdrThreadsOf h core ≤ t then Pawn.initial
  else
    let lo : Word64 := (Config.stackBase j.cx j.launchNo (8 * idx + core) t).setWidth 64 <<< 4
    let top : Word64 := lo + BitVec.ofNat 64 (1024 * hdrStack h)
    { Pawn.initial with
      pc := BitVec.ofNat 64 (hdrPawn h ((hdrRoleOf h core).getD 0))
      x := vset (vset Pawn.initial.x 2 top) 3 lo
      th := { Thread.initial with slim := lo, tvec := tvecOf (s.supImage j.cx) 1 }
      status := .running }

/-- What a launch gives a core: its place, its limits and its clusters. -/
def State.launchCfg (s : State) (j : Job) (idx core : Nat) : LaunchCfg :=
  let per := s.part.clustersPerDie
  let g := j.clusters.getD idx 0
  let h := j.hdr
  { running := (hdrRoleOf h core).isSome
    cx := j.cx
    coreIdx := 8 * idx + core
    clusIdx := idx
    coreInClus := core
    die := g / per
    dieClus := g % per
    nclus := j.clusters.length
    nthreads := hdrThreadsOf h core
    cap := hdrCap h
    det := hdrDet h
    idem := hdrIdem h
    guard := decide (hdrField h 0x37 1 = 1)
    codeEnd := hdrCodeEnd h
    dataEnd := hdrDataEnd h
    stackEnd := hdrStackEnd h
    trapen := BitVec.ofNat 16 (hdrField h 0x34 2)
    clusters := j.clusters
    threads := (List.range (8 * j.clusters.length)).map fun i => hdrThreadsOf h (i % 8)
    cycle := 0 }

/-- The modelled core starts as a core of the launch: every register at its launch value. -/
def State.startCore (s : State) (j : Job) (idx : Nat) : State :=
  let core := s.core.cfg.coreInClus
  let h := j.hdr
  let old := s.core
  let n := hdrThreadsOf h core
  let prim : Primary := { Primary.initial with
    pc := BitVec.ofNat 64 (hdrEntry h ((hdrRoleOf h core).getD 0))
    s := vset Primary.initial.s 2 (BitVec.ofNat 64 (hdrStackEnd h * 4096))
    th := { Thread.initial with slim := BitVec.ofNat 64 (hdrDataEnd h * 4096), tvec := tvecOf (s.supImage j.cx) 0 }
    phvwhy := 4
    past := [s.lm]
    winBase := 1
    exited := (hdrRoleOf h core).isNone }
  let c : CoreState := { CoreState.initial with
    cfg := s.launchCfg j idx core
    fd := ⟨⟨(List.range 16).map fun i => fdWritable (((s.launchFds j).getD i 0).setWidth 64)⟩, by simp⟩
    last := n - 1
    nextId := old.nextId
    fresh := true }
  { s with
    prim := prim
    pawns := ⟨⟨(List.range 16).map fun t => s.launchPawn j idx core t⟩, by simp⟩
    core := c.inWorld old }

/-- Launch clusters, by index, are cleared where they must be, and filled; the modelled core starts with its own. -/
def State.fillClusters (s : State) (j : Job) (idxs : List Nat) : State :=
  let image := s.ctxBytes j.cx (j.hdrVa + 64) (hdrImage j.hdr)
  let own := s.clusterNo
  idxs.foldl (fun s idx =>
    let g := j.clusters.getD idx 0
    let s := if s.mustClear j.cx g then s.clearLm g else s
    let s := s.setLm ((List.range 8).foldl (fun m core => s.fillCore m j idx core image) s.lm)
    let s := (List.range 8).foldl (fun s core => s.healFilled j idx core image.length) s
    let s := s.updDev fun d => { d with lastCtx := assocSet d.lastCtx g j.cx }
    if g = own then (s.startCore j idx).updJob j.id fun k => { k with ownIdx := some idx } else s) s

/-! ### The manifest (R384, R385) -/

/-- MODE. -/
def State.manMode (s : State) (h : BitVec 512) : Nat :=
  b2n (hdrDet h) + 2 * b2n (hdrIdem h) + bits (hdrField h 0x34 2) 0 6 * 2 ^ 2 + bits (hdrField h 0x37 1) 0 1 * 2 ^ 8 +
    s.devReg 0x44 % 2 ^ 32 * 2 ^ 16

/-- TREEID as the part writes it. -/
def treeId : Nat := 0x0000000100010001

/-- The manifest block of the slot that holds the launch's context describes the launch. -/
def State.writeManifest (s : State) (j : Job) : State :=
  let o := 0x170000 + 256 * (s.slotOf j.cx).getD j.slot
  let h := j.hdr
  let khash := sha256 (s.ctxBytes j.cx j.hdrVa (64 + hdrImage h))
  let mode := s.manMode h
  let fds := (List.range 16).flatMap fun i => bytesLittle 4 (fdWritable (((s.launchFds j).getD i 0).setWidth 64)).toNat
  let fdhash := sha256 fds
  let wq := (List.range 6).flatMap fun d => bytesLittle 4 (if bit (s.devReg 0x728) d then 0xFFFFFFFF else s.devReg (0x1090 + 0x100 * d))
  let wqhash := sha256 wq
  let n := if hdrConstHi h = 0 then 0 else hdrConstHi h - 15
  let chash := sha256 (((s.constants j).take n).flatMap fun w => bytesLittle 8 w)
  let ncores := 8 * j.clusters.length
  let mhash := sha256 (khash ++ bytesLittle 8 mode ++ fdhash ++ wqhash ++ chash ++ bytesLittle 8 treeId ++ bytesLittle 8 ncores)
  let s := ((s.setDevReg o j.launchNo).setDevReg (o + 8) (j.cx + 2 ^ 12)).setRegBytes (o + 0x10) khash
  let s := ((s.setDevReg (o + 0x30) mode).setRegBytes (o + 0x38) fdhash).setRegBytes (o + 0x58) wqhash
  let s := ((s.setRegBytes (o + 0x78) chash).setDevReg (o + 0x98) treeId).setDevReg (o + 0xA0) ncores
  s.setRegBytes (o + 0xA8) mhash

/-! ### Placement (R117 to R120) -/

/-- A saved launch of the job's own level that can resume goes before it (R117). -/
def State.resumeWaits (s : State) (j : Job) : Bool :=
  s.dev.saved.any fun x => decide (j.prio = x.job.prio) && s.ctxServed x.job.cx && decide (x.cause.toNat / 8 ≠ 7)

/-- The launch's clusters hold the modelled core. -/
def State.holdsOwn (s : State) (j : Job) : Bool := decide (s.clusterNo ∈ j.clusters) && j.ownIdx.isSome

/-- The job whose launch runs on the modelled core. -/
def State.ownJob (s : State) : Option Job := if s.core.cfg.running ∨ s.core.saving then s.dev.jobs.find? s.holdsOwn else none

/-- A region of the context's save pool: the lowest that fits (R404). -/
def State.saveRegion (s : State) (cx ncores : Nat) : Option (Nat × Nat) :=
  let base := s.devReg (0x50000 + 16 * cx)
  let top := base + s.devReg (0x50008 + 16 * cx)
  let size := 0x10000 + ncores * 0x300000
  let used := (s.dev.saved.filter fun x => x.job.cx = cx).map fun x => (x.base, x.base + x.size)
  let starts := base :: used.map fun u => u.2
  (starts.foldl (fun best a =>
    let ok := decide (base ≤ a) && decide (a + size ≤ top) && used.all fun u => decide (u.2 ≤ a) || decide (a + size ≤ u.1)
    if ok then
      match best with
      | none => some a
      | some b => some (min a b)
    else best) none).map fun a => (a, size)

/-- A launch leaves its clusters and waits, saved (R404): `cause` ended its run. The traffic of the save is charged to its context (R377). -/
def State.saveJob (s : State) (j : Job) (own : Bool) (cause : Cause) (region : Nat × Nat) (col : Option EngCmd) : State :=
  let x : SavedLaunch := {
    job := j
    prim := s.prim
    pawns := s.pawns
    core := s.core
    col := col
    own := own
    base := region.1
    size := region.2
    cause := cause }
  let s := ((s.clearHalts j.clusters).updDev fun d => { d with saved := d.saved ++ [x] }).updJob j.id fun j => { j with clusters := [], phase := .running }
  let s := match s.part.tierOf region.1 with
    | some t => s.acctAdd j.cx (5 + t) region.2
    | none => s
  s.acctAdd j.cx 12 1

/-- Launches that the master may pre-empt for a level, lowest level first, the youngest first within a level (R117, R404). -/
def State.victims (s : State) (level : Nat) : List Job :=
  let l := s.dev.jobs.reverse.filter fun j => decide (j.kind = 1) && decide (j.clusters ≠ []) && decide (j.phase = .running) &&
    decide (j.prio < level) && (s.saveRegion j.cx (8 * j.clusters.length)).isSome
  (List.range level).flatMap fun p => l.filter fun j => j.prio = p

/-- The launch fits once the launches already asked to halt have left. -/
def State.fitsSoon (s : State) (j : Job) : Bool :=
  (s.chooseClusters j fun g => s.clusterLive g && s.clusterAllowed j.cx g &&
    (!s.clusterHeld g || (s.core.preempt.isSome && match s.ownJob with
      | some o => decide (g ∈ o.clusters)
      | none => false))).isSome

/-- R120: a launch that wants another beat period than the one in effect waits for it; the result says whether it may go on. -/
def State.beatFor (s : State) (j : Job) : Bool × State :=
  let want := hdrBeat j.hdr + 1
  if hdrBeat j.hdr = 0 ∨ want = s.die.beatPeriod then (true, s)
  else if s.dev.jobs.any fun k => decide (k.clusters ≠ []) && decide (hdrBeat k.hdr ≠ 0) && decide (hdrBeat k.hdr ≠ hdrBeat j.hdr) then
    (false, s)
  else (false, s.updDie fun d => { d with nextPeriod := some want })

/-- The launch fits in the free clusters and waits for a beat period alone (R120). -/
def State.waitsBeat (s : State) (k : Job) : Bool :=
  decide (k.clusters = []) && (s.chooseClusters k (s.clusterFree k.cx)).isSome && decide (hdrBeat k.hdr ≠ 0) && decide (hdrBeat k.hdr + 1 ≠ s.die.beatPeriod)

/-- A launch that could be placed now stands before others: not one that waits for a beat period alone (R117). -/
def State.standsBefore (s : State) (k : Job) : Bool := decide (k.phase = .placing) && s.canStart k && !s.waitsBeat k

/-- A launch of the level or above that is to be served first stands in the way of the job: one of a higher level, one of its level that has been
served and waits for clusters, or else one that the order of service puts first (R117). -/
def State.launchWaits (s : State) (j : Job) : Bool :=
  s.dev.jobs.any fun k => decide (k.id ≠ j.id) && s.standsBefore k &&
    (decide (j.prio < k.prio) || (decide (k.prio = j.prio) &&
      ((k.waits && !j.waits) || (decide (k.waits = j.waits) && keyLt (s.serviceKey k) (s.serviceKey j)))))

/-- The launch number of a new launch: unique per context, increasing (R19). -/
def State.takeNo (s : State) (cx : Nat) : Nat × State :=
  let n := assocGet s.dev.launchNos cx 1
  (n, s.updDev fun d => { d with launchNos := assocSet d.launchNos cx (n + 1) })

/-- The master die's beat register: on another die than the modelled one the beat arrives within two ticks before or after it (R19, R217). -/
def State.masterBeat (s : State) : Nat :=
  let d := s.die
  let b := d.beat.toNat
  if s.dev.master = s.core.cfg.die then b
  else
    let n := Config.freeChoice s.free % 3
    if n = 1 ∧ d.phase ≤ 2 then (b + 2 ^ 64 - 1) % 2 ^ 64
    else if n = 2 ∧ d.beatPeriod - d.slack ≤ d.phase then (b + 1) % 2 ^ 64
    else b

/-- A launch stands on its clusters. -/
def State.placeAtClusters (s : State) (j : Job) (l : List Nat) : State :=
  let x := s.takeNo j.cx
  let j := { j with clusters := l, ownIdx := none, launchNo := x.1, startBeat := s.masterBeat, phase := .running, waits := false, mask := s.clusterMask j.cx }
  let s := (x.2.bumpFree.started j).markServed j
  let s := s.updDev fun d => { d with jobs := (d.jobs.filter fun k => k.id ≠ j.id) ++ [j] }
  (s.writeManifest j).fillClusters j (List.range l.length)

/-- The modelled core follows its launch cluster index to another cluster (R119). -/
def State.moveCore (s : State) (g : Nat) : State :=
  let per := s.part.clustersPerDie
  s.updCore fun c => { c with cfg := { c.cfg with die := g / per, dieClus := g % per } }

/-- The place that a launch cluster index on a fenced cluster takes: the lowest free one (R119, R131). 255 marks an index to be
placed again. -/
def State.replaceLost (s : State) (j : Job) : State :=
  let lost := (List.range j.clusters.length).filter fun i => decide (j.clusters.getD i 0 = 255)
  let free := s.allClusters.filter fun g => s.clusterLive g && j.mask.getLsbD g && !s.clusterHeld g
  if free.length < lost.length then s
  else
    let clusters := (lost.zip free).foldl (fun l x => listSet l x.1 x.2) j.clusters
    let j := { j with clusters := clusters, phase := .running }
    let s := s.updJob j.id fun _ => j
    let s := s.updCore fun c => if c.cfg.running ∧ s.holdsOwn j then { c with cfg := { c.cfg with clusters := clusters } } else c
    let s := match j.ownIdx with
      | some i => if i ∈ lost then s.moveCore (clusters.getD i 0) else s
      | none => s
    s.fillClusters j lost

/-! ### Completion (R94, R127) -/

/-- The core's part is complete. -/
def State.partDone (s : State) : Bool :=
  s.core.cfg.running && s.prim.exited && s.prim.fl.pend.isEmpty && s.enginesIdle &&
    (s.pawns.toList.all fun p => decide (p.status = .exited) || decide (p.status = .absent))

/-- R94: the core's part of its launch completes. -/
def execCorePartComplete (s : State) : Out :=
  .next (if s.partDone then s.updCore fun c => { c with cfg := { c.cfg with running := false } } else s)

/-- A number written into a context's memory, page by page. -/
def State.ctxWrite (s : State) (cx va n v : Nat) : State :=
  (runPieces va n).foldl (fun s x => s.homeWriteRun (s.ctxPa cx x.1) x.2 (bits v (8 * (x.1 - va)) (8 * x.2))) s

/-- The last steps of a command: EVENT is incremented, then the command counts as complete (R127, R185, R434). -/
def State.endJob (s : State) (j : Job) (st : Nat) : State :=
  if j.event = 0 ∨ st ≠ 0 then s.finishJob j st
  else s.withRun j j.event 8 2 fun s =>
    (s.ctxWrite j.cx j.event 8 ((s.ctxRead j.cx j.event 8 + 1) % 2 ^ 64)).finishJob j 0

/-- R127: every core of the launch is complete: dirty lines are written back, and the command completes. A core other than the
modelled one completes when its agents let it (log 4). -/
def execLaunchCompletion (j : Nat) (s : State) : Out :=
  .next (match s.job j with
    | none => s
    | some j =>
      if j.kind ≠ 1 ∨ j.todo ≠ [] then s
      else if j.phase = .running ∧ j.clusters ≠ [] ∧ !(s.holdsOwn j && s.core.cfg.running) then
        let s := (if s.holdsOwn j then s.writeBackAll else s).clearHalts j.clusters
        let j' := { j with phase := .ending, clusters := [] }
        (s.updJob j.id fun _ => j').endJob j' 0
      else if j.phase = .ending then s.endJob j 0
      else s)

end Sys2Proof.Machine
end

