-- ==== Sys2Proof/Machine/Commands.lean ====
section
/-! DEFINITION. The commands of the queues other than launches, graphs, host rings and the feature lock (05_launch R115, R121 to
R126, R136, 08_engines R185). -/

namespace Sys2Proof.Machine

/-! ### Records -/

/-- The bits above CONC are zero, and so are the words from one on. -/
def Job.plainOk (j : Job) (n : Nat) : Bool := decide (bits (j.w 0) 9 55 = 0) && j.zeroFrom n

/-- The limits of a record of kinds 2 to 7. A graph's length is in bytes, 64 a node, as the graph of 21_program_generation gives it. -/
def State.recordOk (s : State) (j : Job) : Bool :=
  s.nodeOk j &&
    match j.kind with
    | 2 => j.plainOk 3 && vaOk (j.w 1) && decide (j.w 1 % 64 = 0) && vaOk (j.w 2)
    | 3 => j.plainOk 3 && vaOk (j.w 1) && decide (j.w 1 % 64 = 0) && vaOk (j.w 2)
    | 4 => j.plainOk 3 && decide (j.w 1 < 1024)
    | 5 => j.plainOk 3 && vaOk (j.w 1)
    | 6 => j.plainOk 4 && vaOk (j.w 1) && decide (j.w 3 ≤ 5)
    | 7 => j.plainOk 3 && vaOk (j.w 1) && decide (j.w 2 % 64 = 0) && decide (j.w 2 ≤ 64 * 4096) && j.node.isNone
    | _ => false

/-- The command starts: HEAD moves on, and its queue has been served. -/
def State.startJob (s : State) (j : Job) : State := (s.started j).markServed j

/-- The phase of a job. -/
def State.setPhase (s : State) (j : Job) (p : JobPhase) : State := s.updJob j.id fun j => { j with phase := p }

/-- What a job at its head does once its record has been read and keeps its limits; otherwise it fails. -/
def State.atHead (s : State) (j : Job) (kind : Nat) (k : State → State) : State :=
  if j.kind ≠ kind ∨ j.phase ≠ .head ∨ j.words.isNone ∨ j.todo ≠ [] then s
  else if !s.recordOk j then s.failStart j 2
  else k s

/-! ### Copies and collectives (R185) -/

/-- The engine command of a record. -/
def queueCmd (j : Job) (w : List Word64) (idx : List Nat) (todo : List (Nat × Bool)) : EngCmd where
  id := j.id
  after := 0
  words := w
  byPawn := none
  cx := j.cx
  started := false
  pos := 0
  bytes := 0
  idx := idx
  todo := todo
  pages := []
  fault := none
  status := none
  tries := 0

/-- A copy that a queue may give (R185). -/
def queueCopyOk (w : List Word64) : Bool :=
  copyFieldsOk w && decide (cmdOp w ∈ [0, 1, 5]) && !cmdSlm w && !cmdDlm w && !cmdWpadv w && !cmdRec w &&
    globalOk w [] .src && globalOk w [] .dst

/-- The job takes an engine command whose pages are to be translated and pinned. -/
def State.setJobCmd (s : State) (j : Job) (c : EngCmd) : State :=
  s.updJob j.id fun j => { j with cmd := some c, todo := c.todo.map fun p => (p.1, pageAcc p.2) }

/-- The engine command of a record is read. -/
def State.readCmd (s : State) (j : Job) (k : State → List Word64 → State) : State :=
  s.withRun j (j.w 1) 64 0 fun s => k s (s.readRecord j.cx (j.w 1))

/-- A copy of a command queue runs on the distributor's channel. -/
def State.distributorBusy (s : State) : Bool := s.dev.jobs.any fun j => decide (j.phase = .running) && decide (j.kind = 2)

/-- The next word that a queue's copy reads is bad (R415). -/
def State.jobBad (s : State) (c : EngCmd) : Option Nat :=
  match if c.flight.length < aheadWords then s.move c (c.pos + c.flight.length) else none with
  | some (.va a, _, _, _) => if s.placeBad c (.va a) then some (c.paOf a) else none
  | _ => none

/-- The word that a queue's copy writes next may be written: a page that a dump is still to send has been copied first (R427). -/
def State.stageWord (s : State) (c : EngCmd) : Place → State × Bool
  | .va a => s.stageRun c a 8
  | _ => (s, true)

/-- The word that a queue's copy writes next lies in a fenced range (R419). -/
def State.putFenced (s : State) (c : EngCmd) : Place → Option Nat
  | .va a => if s.rangeFenced (c.paOf a) 8 then some (c.paOf a) else none
  | _ => none

/-- A tick of a queue's copy: the word that is here is written, and the next is read ahead. -/
def State.jobWord (s : State) (j : Job) (c : EngCmd) : State :=
  match s.move c c.pos with
  | none => (s.unpinJob j).updJob j.id fun j => { j with phase := .ending, cmd := none }
  | some (src, dst, _, row) =>
    let put := fun (s : State) (v : Nat) =>
      let g := s.stageWord c dst
      if g.2 then (g.1.writePlace c row v dst, { c with pos := c.pos + 1, bytes := c.bytes + 8, flight := c.flight.drop 1 }) else (g.1, c)
    match s.putFenced c dst with
    | some pa => s.checkJob j pa
    | none =>
    match src with
    | .val v => let x := put s v; x.1.updJob j.id fun j => { j with cmd := some x.2 }
    | _ =>
      let x := match c.landed with
        | some v => put s v
        | none => (s, c)
      match s.jobBad x.2 with
      | some pa => x.1.checkJob j pa
      | none =>
        let y := (x.1.readAhead s.dev.master x.2).getD x
        y.1.updJob j.id fun j => { j with cmd := some y.2 }

/-- R185: a kind-2 command: its engine command is read and its pages pinned; it starts when the channel is free, moves word by
word, and completes. -/
def execQueueCopy (j : Nat) (s : State) : Out :=
  .next (match s.job j with
    | none => s
    | some j =>
      if j.todo ≠ [] ∨ j.kind ≠ 2 then s
      else
        match j.phase, j.cmd with
        | .head, none => s.atHead j 2 fun s => s.readCmd j fun s w =>
            if queueCopyOk w then s.setJobCmd j (queueCmd j w [] (copyPages w [])) else s.failStart j 2
        | .head, some c => if s.distributorBusy then s
            else (s.startJob j).updJob j.id fun j => { j with phase := .running, cmd := some { c with started := true } }
        | .running, some c => s.jobWord j c
        | .ending, _ => s.endJob j 0
        | _, _ => s)

/-- The group of a collective, once its descriptor's pages are translated. -/
def State.joinGroup (s : State) (j : Job) (c : EngCmd) : State :=
  match s.groupBad j.cx (wd c.words 1) with
  | some pa => s.checkJob j pa
  | none =>
  match s.groupAt j.cx (wd c.words 1) with
  | some g =>
    if groupFits s c.words g then
      (s.countGroup j.cx (wd c.words 1)).setJobCmd j { c with idx := g, todo := (colPages c.words g.length).filter fun p => c.pages.all fun q => q.1 ≠ p.1 }
    else (s.countGroup j.cx (wd c.words 1)).failStart j 2
  | none => if s.groupPages c = [] then s.failStart j 2 else s.setJobCmd j { c with todo := s.groupPages c }

/-- R185: a kind-3 command runs on the collective engine. -/
def execQueueCollective (j : Nat) (s : State) : Out :=
  .next (match s.job j with
    | none => s
    | some j =>
      if j.todo ≠ [] ∨ j.kind ≠ 3 then s
      else
        match j.phase, j.cmd with
        | .head, none => s.atHead j 3 fun s => s.readCmd j fun s w =>
            if colFieldsOk w then s.setJobCmd j (queueCmd j w [] (colPages w 0)) else s.failStart j 2
        | .head, some c =>
          if c.idx = [] then s.joinGroup j c
          else if s.colBusy || s.colJob.isSome then s
          else if s.seqFresh c.idx (wd c.words 5) then
            let x := ((s.acceptSeq c.idx (wd c.words 5)).startJob j).beginCol s.dev.master c
            x.1.updJob j.id fun j => { j with phase := .running, cmd := some x.2 }
          else s.failStart j 3
        | .running, some c =>
          match c.status with
          | some st => s.finishJob j st.toNat
          | none => match s.sendChunk c with
            | some (s, c) => s.updJob j.id fun j => { j with cmd := some c }
            | none => match s.colCheck c with
              | some pa => (s.endStreams c).checkJob j pa
              | none =>
                let x := s.stageRun c (wd c.words 3) (colDst c.words c.idx.length * colSize c.words)
                if x.2 then ((x.1.runCollective c).unpinJob j).updJob j.id fun j => { j with phase := .ending, cmd := none } else x.1
        | .ending, _ => s.endJob j 0
        | _, _ => s)

/-! ### Host rings (R125, R126, R350) -/

/-- Registers of a host ring's block. -/
def hrBase (h : Nat) : Nat := 0x1B0000 + 32 * h

/-- Entries that a ring holds. -/
def State.hrSize (s : State) (h : Nat) : Nat := 2 ^ (min (bits (s.devReg (hrBase h + 8)) 0 4) 11 + 4)
def State.hrHead (s : State) (h : Nat) : Nat := bits (s.devReg (hrBase h + 0x10)) 0 32
def State.hrTail (s : State) (h : Nat) : Nat := bits (s.devReg (hrBase h + 0x10)) 32 32

/-- The ring is full, or does not accept entries. -/
def State.hrFull (s : State) (h : Nat) : Bool :=
  !bit (s.devReg (hrBase h + 8)) 63 || decide (s.hrSize h ≤ subMod 32 (s.hrTail h) (s.hrHead h))

/-- Every written entry becomes signalled, and the ring's vector is raised where VECTOR names one. -/
def State.hrSignal (s : State) (h : Nat) : State :=
  let v := bits (s.devReg (hrBase h + 8)) 32 11
  let s := s.updDev fun d => { d with rings := assocErase d.rings h }
  if 66 ≤ v then s.raiseVector v else s

/-- One entry more in a ring that is not full. -/
def State.hrPut (s : State) (h payload cx queue : Nat) : State :=
  let o := hrBase h
  let tail := s.hrTail h
  let seq := bits (s.devReg (o + 0x18)) 0 32
  let a := bits (s.devReg o) 12 52 * 4096 + 16 * (tail % s.hrSize h)
  let w1 := cx % 4096 + queue % 256 * 2 ^ 16 + seq * 2 ^ 32
  let s := { s with hm := memWrite (memWrite s.hm a 8 payload) (a + 8) 8 w1 }
  let s := (s.setDevReg (o + 0x10) (setBits (s.devReg (o + 0x10)) 32 32 (addMod 32 tail 1))).setDevReg (o + 0x18) (addMod 32 seq 1)
  let old := assocGet s.dev.rings h (0, 0)
  let s := s.updDev fun d => { d with rings := assocSet d.rings h (old.1 + 1, old.2) }
  if bits (s.devReg (o + 8)) 8 8 + 1 ≤ old.1 + 1 then s.hrSignal h else s

/-- R125: a host notification starts, and writes its entry once its ring has room. -/
def execHostNotification (j : Nat) (s : State) : Out :=
  .next (match s.job j with
    | none => s
    | some j =>
      let put := fun (s : State) => if s.hrFull (j.w 1) then s else (s.hrPut (j.w 1) (j.w 2) j.cx j.queue).finishJob j 0
      if j.phase = .running ∧ j.kind = 4 then put s
      else s.atHead j 4 fun s => put ((s.startJob j).setPhase j .running))

/-- Microseconds for which the oldest unsignalled entry may wait. -/
def State.hrTime (s : State) (h : Nat) : Nat := max 1 (min 1000 (bits (s.devReg (hrBase h + 8)) 16 10))

/-- R125: the oldest unsignalled entry of a ring has waited TIME. -/
def execHostRingTimeExpiry (h : Nat) (s : State) : Out :=
  .next (let r := assocGet s.dev.rings h (0, 0)
    if 0 < r.1 ∧ s.hrTime h ≤ r.2 then s.hrSignal h else s)

/-- R126: the host consumes entries; a HEAD beyond TAIL is ignored. -/
def execHrptrWrite (h : Nat) (head : Word32) (s : State) : Out :=
  .next (if h < 1024 ∧ subMod 32 head.toNat (s.hrHead h) ≤ subMod 32 (s.hrTail h) (s.hrHead h) then
    s.setDevReg (hrBase h + 0x10) (setBits (s.devReg (hrBase h + 0x10)) 0 32 head.toNat)
  else s)

/-! ### Event waits and conditionals (R123, R124) -/

/-- The word of an event wait is read; the command completes when it has come far enough, or had at a write to its line. Otherwise the distributor looks
at the writes to the line from here on (R124). -/
def State.waitCheck (s : State) (j : Job) : State :=
  if j.w 2 ≤ s.ctxRead j.cx (j.w 1) 8 ∨ j.reached then s.finishJob j 0
  else s.updJob j.id fun k => { k with watch := some (s.ctxPa j.cx (j.w 1)) }

/-- R124: an event wait starts. -/
def execEventWait (j : Nat) (s : State) : Out :=
  .next (match s.job j with
    | none => s
    | some j => s.atHead j 5 fun s => s.withRun j (j.w 1) 8 0 fun s => ((s.startJob j).setPhase j .running).waitCheck j)

/-- R124: the distributor reads the word again. -/
def execEventWaitRecheck (j : Nat) (s : State) : Out :=
  .next (match s.job j with
    | none => s
    | some j => if j.phase = .running ∧ j.kind = 5 ∧ j.todo = [] then s.withRun j (j.w 1) 8 0 fun s => s.waitCheck j else s)

/-- The conditions of R123. -/
def condHolds (c x y : Nat) : Bool :=
  match c with
  | 0 => decide (x = y)
  | 1 => decide (x ≠ y)
  | 2 => decide (signedOf 64 x < signedOf 64 y)
  | 3 => decide (signedOf 64 y ≤ signedOf 64 x)
  | 4 => decide (x < y)
  | _ => decide (y ≤ x)

/-- R123: a conditional node reads its word and chooses a set. -/
def execConditional (j : Nat) (s : State) : Out :=
  .next (match s.job j with
    | none => s
    | some j => s.atHead j 6 fun s => s.withRun j (j.w 1) 8 0 fun s =>
        ((s.startJob j).updJob j.id fun j => { j with chose := condHolds (j.w 3) (s.ctxRead j.cx (j.w 1) 8) (j.w 2) }).finishJob j 0)

/-! ### Graphs (R121 to R123) -/

/-- NPRED of a node as its record stands; what the graph found as it started, where the record's page no longer translates (R349). -/
def State.npred (s : State) (cx : Nat) (r : GraphRun) (n : Nat) : Nat :=
  let a := r.base + 64 * n + 0x30
  if s.pageOk cx (a, 0) then s.ctxRead cx a 1 else r.npreds.getD n 0

/-- The node can start: its predecessors have completed, and no node of the graph has failed. -/
def State.startable (s : State) (cx : Nat) (r : GraphRun) (n : Nat) : Bool :=
  r.failed.isNone && decide (n < r.n) && decide (n ∉ r.started) && decide (s.npred cx r n ≤ r.counts.getD n 0)

/-- A graph armed anew. -/
def GraphRun.armed (r : GraphRun) : GraphRun := { r with counts := List.replicate r.n 0, started := [], rearm := false }

/-- A node of the graph is running. -/
def State.nodeRuns (s : State) (g : Nat) : Bool := s.dev.jobs.any fun j => match j.node with
  | some (k, _) => decide (k = g)
  | none => false

/-- When no node runs and none can start, the graph re-arms or completes (R122, R123). -/
def State.settleGraph (s : State) (g : Nat) : State :=
  match s.job g with
  | none => s
  | some j =>
    match j.graph with
    | none => s
    | some r =>
      if s.nodeRuns g || (List.range r.n).any fun n => s.startable j.cx r n then s
      else
        match r.failed with
        | some st => s.finishJob j st
        | none => if r.rearm then s.updJob g fun j => { j with graph := some r.armed } else s.finishJob j 0

/-- R121: a kind-7 command starts its graph. -/
def execRunGraph (j : Nat) (s : State) : Out :=
  .next (match s.job j with
    | none => s
    | some j => s.atHead j 7 fun s => s.withRun j (j.w 1) (j.w 2) 0 fun s =>
        let n := j.w 2 / 64
        let preds := (List.range n).map fun i => s.ctxRead j.cx (j.w 1 + 64 * i + 0x30) 1
        let r : GraphRun := ⟨j.w 1, n, preds, List.replicate n 0, [], none, false⟩
        ((s.startJob j).updJob j.id fun j => { j with phase := .running, graph := some r }).settleGraph j.id)

/-- R122: a node starts: its record is read next. -/
def execGraphNodeStart (g n : Nat) (s : State) : Out :=
  .next (match s.job g with
    | none => s
    | some j =>
      match j.graph with
      | none => s
      | some r =>
        if s.startable j.cx r n then
          let k : Job := { j with
            id := s.dev.nextJob
            words := none
            node := some (g, n)
            phase := .head
            graph := none }
          let s := s.updJob g fun j => { j with graph := some { r with started := n :: r.started } }
          s.updDev fun d => { d with nextJob := d.nextJob + 1, jobs := d.jobs ++ [k] }
        else s)

/-- A node counts towards its successors. -/
def GraphRun.complete (r : GraphRun) (j : Job) : GraphRun :=
  let set := if j.kind = 6 ∧ !j.chose then j.setB else j.setA
  { r with
    counts := set.foldl (fun l n => if n < r.n then listSet l n (l.getD n 0 + 1) else l) r.counts
    rearm := r.rearm || (decide (j.kind = 6) && decide (0xFFFE ∈ set)) }

/-- R122: a node has completed or failed; the graph goes on, re-arms, or completes. -/
def execGraphNodeCompletion (j : Nat) (s : State) : Out :=
  .next (match s.job j with
    | none => s
    | some k =>
      match k.node, k.phase with
      | some (g, _), .over st =>
        let f := fun (r : GraphRun) => if st = 0 then r.complete k else { r with failed := r.failed <|> some st }
        ((s.dropJob j).updJob g fun x => { x with graph := x.graph.map f }).settleGraph g
      | _, _ => s)

/-! ### The feature lock (R136) -/

/-- R136: the driver writes FEATLOCK, which reads as written: the first write of 1 makes FEATACC read-only until device reset, whatever LOCK holds
afterwards, and lets launches go on (log 41). -/
def execFeatlockWrite (v : Word32) (s : State) : Out :=
  .next ((s.setDevReg 0x48 (b2n (v.getLsbD 0))).updDev fun d => { d with featRo := d.featRo || v.getLsbD 0 })

/-! ### Steps of the distributor that are ready -/

/-- The record of the job is of no assigned kind: the command fails as it starts (R115). -/
def State.failUnassigned (s : State) (j : Job) : State :=
  if j.phase = .head ∧ j.words.isSome ∧ s.inTurn j && s.ctxServed j.cx && !s.queueHeld j && (decide (j.kind = 0) || decide (7 < j.kind)) then s.failStart j 2 else s

/-- Queues are looked at: heads get jobs, records are read (R113, R115). -/
def State.serveQueues (s : State) : State :=
  let s := s.openHeads.loadHeads
  s.dev.jobs.foldl State.failUnassigned s

/-- The step of a job that is ready. -/
def State.jobSteps (s : State) (j : Job) : List (Ctx × Instr) :=
  let at0 := fun (i : Instr) => [(({} : Ctx), i)]
  if j.todo ≠ [] ∨ j.words.isNone then []
  else
    match j.phase with
    | .head =>
      if s.inTurn j && s.ctxServed j.cx && !s.queueHeld j then
        match j.kind with
        | 1 => if s.launchesRun then at0 (.launch j.id) else []
        | 2 => at0 (.queueCopy j.id)
        | 3 => at0 (.queueCollective j.id)
        | 4 => at0 (.hostNotification j.id)
        | 5 => at0 (.eventWait j.id)
        | 6 => at0 (.conditional j.id)
        | 7 => at0 (.runGraph j.id)
        | _ => []
      else []
    | .placing => if s.ctxServed j.cx then at0 (.launchPlacement j.id) else []
    | .running =>
      match j.kind with
      | 1 => if j.clusters ≠ [] ∧ !(s.holdsOwn j && s.core.cfg.running) then at0 (.launchCompletion j.id) else []
      | 2 => if j.cmd.all s.wordDue then at0 (.queueCopy j.id) else []
      | 3 => if j.cmd.all EngCmd.colDue then at0 (.queueCollective j.id) else []
      | 4 => if s.hrFull (j.w 1) then [] else at0 (.hostNotification j.id)
      | 5 => if j.reached || Config.microsecondPasses s.free then at0 (.eventWaitRecheck j.id) else []
      | _ =>
        match j.graph with
        | some r => if s.ctxServed j.cx then ((List.range r.n).filter fun n => s.startable j.cx r n).flatMap fun n => at0 (.graphNodeStart j.id n) else []
        | none => []
    | .ending =>
      match j.kind with
      | 1 => at0 (.launchCompletion j.id)
      | 2 => at0 (.queueCopy j.id)
      | _ => at0 (.queueCollective j.id)
    | .over _ => []

/-- Completed nodes, in the order of their indices (R122). -/
def State.overSteps (s : State) : List (Ctx × Instr) :=
  let l := s.dev.jobs.filterMap fun j => match j.node, j.phase with
    | some (_, n), .over _ => some (n, j.id)
    | _, _ => none
  let sorted := l.foldl (fun (r : List (Nat × Nat)) x => (r.takeWhile fun y => y.1 ≤ x.1) ++ x :: (r.dropWhile fun y => y.1 ≤ x.1)) []
  sorted.map fun x => (({} : Ctx), Instr.graphNodeCompletion x.2)

/-- What the distributor has ready, in the order of service. -/
def State.commandSteps (s : State) : List (Ctx × Instr) := s.overSteps ++ s.jobsInOrder.flatMap s.jobSteps

end Sys2Proof.Machine
end

