-- ==== Sys2Proof/Machine/Record.lean ====
section
/-! DEFINITION. The core record (27_preemption R405 to R407, 14_scales R279): what a save writes and the halt window shows, word by
word. The places of the words within the areas for the primary's registers, the pawn threads and the channels are the model's choice, since no rule
gives them (log 9). -/

namespace Sys2Proof.Machine

/-! ### Held entries (R390, R401, R406, R407) -/

/-- The cycles, with their effects, in which an effect that would come j cycles on takes an entry: an atomic writes its bank and lands later, and
a write of the cycle in hand is over. -/
def PEntry.held (j : Nat) (e : PEntry) : List (Nat × PEntry) :=
  match e.eff with
  | .bank (.read _ _ _ _ _ l) => [(j + l, e)]
  | .bank (.rmw a _ _ _ d l) => [(j, { e with eff := .bank (.write [a] 8 [0]) }), (j + l, { e with eff := .reg d 0 })]
  | .bank (.write _ _ _) => if e.count = 0 then [] else [(j, e)]
  | _ => [(j, e)]

/-- The held effects, each with j of R401: the pipelines have a cycle to go to c_h, and user operations that a handler holds stand as they are, but
for the empty bundles of an sret. -/
def Primary.heldAll (p : Primary) : List (Nat × PEntry) :=
  (match p.flUser with
    | some f => f.pend.flatMap fun e => e.held (e.count + if p.resuming then p.empties else 0)
    | none => []) ++ p.fl.pend.flatMap fun e => e.held (e.count - 1)

/-- The cycles from c_h on for which slot n is still held. -/
def Primary.heldSlot (p : Primary) (n : Nat) : Nat :=
  let user := match p.flUser with
    | some f => vget f.held n 0
    | none => 0
  max (vget p.fl.held n 0 - 1) (if user ≠ 0 ∧ p.resuming then user + p.empties else user)

/-- An effect that has no entry of its own: a row presentation. -/
def Eff.isRow : Eff → Bool
  | .mx _ => true
  | _ => false

def Eff.isFlags : Eff → Bool
  | .flags _ => true
  | _ => false

/-- Two effects share an entry: those of one op in one cycle (R390). -/
def sameEntry (x y : Nat × PEntry) : Bool := decide (x.2.op = y.2.op) && decide (x.1 = y.1)

/-- The effects of the queue but flags with a landing of their op, and rows, which stand in the entry of their accumulator. -/
def Primary.landings (p : Primary) : List (Nat × PEntry) :=
  p.heldAll.filter fun x => !x.2.eff.isRow && !(x.2.eff.isFlags && p.heldAll.any fun y => sameEntry x y && !y.2.eff.isFlags && !y.2.eff.isRow)

/-- The entries of the queue, each by the first effect of its op in its cycle (R390). -/
def Primary.entries (p : Primary) : List (Nat × PEntry) :=
  p.landings.foldl (fun l x => if l.any (sameEntry x) then l else l ++ [x]) []

/-- The second effect of an entry: the second destination of a vquant. -/
def Primary.second (p : Primary) (x : Nat × PEntry) : Option PEntry := (((p.landings.filter (sameEntry x)).drop 1).map fun y => y.2).head?

/-- KIND, REG and SIZE of a destination. -/
def Dst.layout : Dst → Nat × Nat × Nat
  | .s r => (0, r, 8)
  | .v r => (1, r, 256)
  | .b r => (0, r, 1)
  | .bAll => (0, 0, 2)
  | .m r => (0, r, 8)
  | .ib r => (0, r, 1)
  | .sport p _ => (2, p, 8)
  | .vport p _ => (2, p + 4, 256)
  | .z r _ n _ _ => (5, r, n)
  | .discard => (0, 0, 0)

/-- Addresses that follow one another at the size of an element. -/
def inRow (n : Nat) (as : List Nat) : Bool := as.zipIdx.all fun x => decide (x.1 = as.headD 0 + n * x.2)

/-- A binding as a payload: Z, BASE and BOUND at the places of a tag record (R279, log 9). -/
def bindWord (z base : Nat) (bound : Bool) : Nat := z + base * 2 ^ 5 + b2n bound * 2 ^ 8

/-- Fields of an entry: KIND, REG, SIZE, ADDR and the payload. A scatter's payload holds its values, then its bank offsets, 4 bytes each; a binding of
a weight slot has the number that its tag record has (log 9). -/
def Eff.layout (e : Eff) : Nat × Nat × Nat × Nat × Nat :=
  match e with
  | .reg d v => (d.layout.1, d.layout.2.1, d.layout.2.2, (match d with
      | .z _ f _ _ _ => f
      | _ => 0), v.toNat)
  | .bank (.read as _ _ _ d _) => (d.layout.1, d.layout.2.1, d.layout.2.2, as.headD 0 % 2 ^ 21, 0)
  | .bank (.rmw a _ _ _ d _) => (d.layout.1, d.layout.2.1, d.layout.2.2, a % 2 ^ 21, 0)
  | .bank (.write as n vs) =>
    let v := packElems (8 * n) vs
    if inRow n as then (3, 0, n * as.length, as.headD 0 % 2 ^ 21, v)
    else (3, 0, (n + 4) * as.length, as.headD 0 % 2 ^ 21, v + packElems 32 (as.map fun a => a % 2 ^ 21) * 2 ^ (8 * n * as.length))
  | .csr i v => (0, 0, 8, i.toNat, v.toNat)
  | .flags _ => (4, 0, 0, 0, 0)
  | .mx _ => (1, 56, 512, 0, 0)
  | .acc a _ k => (if k = 2 then 8 else 7, a, if k = 2 then 32 else 0, 0, 0)
  | .bindTile t (some (z, b)) => (6, t, 2, 0, bindWord z b true)
  | .bindTile t none => (6, t, 2, 0, 0)
  | .bindSlot w z b => (6, 16 + w, 2, 0, bindWord z b true)
  | .remote _ d => (d.layout.1, d.layout.2.1, d.layout.2.2, 0, 0)

/-- The .keep of an entry (R272). -/
def Eff.keeps : Eff → Bool
  | .reg (.z _ _ _ _ k) _ => k
  | _ => false

def Eff.isAcc : Eff → Bool
  | .acc _ _ _ => true
  | _ => false

/-- The landing of an mma, which has a matrix image: that of an mclr is zero. -/
def Eff.isStep : Eff → Bool
  | .acc _ _ k => decide (k ≠ 0)
  | _ => false

/-- The flags that are raised with an entry. -/
def Primary.flagsWith (p : Primary) (j : Nat) (e : PEntry) : Nat :=
  (p.heldAll.foldl (fun f x => match x.2.eff with
    | .flags g => if x.2.op = e.op ∧ x.1 = j then f ||| g else f
    | _ => f) (0 : BitVec 6)).toNat

/-- Counts of the rows that the op of an entry is still to present: rows 0 to 31, 0 for a row that has been presented. -/
def Primary.rowCounts (p : Primary) (e : PEntry) : List Nat :=
  let l := (p.heldAll.filter fun x => x.2.eff.isRow && decide (x.2.op = e.op)).map fun x => x.1
  List.replicate (32 - l.length) 0 ++ l

/-- The number of the matrix image of an accumulator entry: its place among the mma ops in flight (R403); 2 for an mclr, which needs none (log 9). -/
def Primary.imageOf (p : Primary) (i : Nat) (e : PEntry) : Nat := if e.eff.isStep then ((p.entries.take i).filter fun x => x.2.eff.isStep).length else 2

/-- The values of the matrix images (R403). -/
def Primary.images (p : Primary) : List (BitVec 131072) := p.entries.filterMap fun x => match x.2.eff with
  | .acc _ v k => if k = 0 then none else some v
  | _ => none

/-- The value that an entry carries; that of a remote load has arrived. -/
def State.payload (s : State) (e : PEntry) : Nat :=
  match e.eff with
  | .remote id _ => match s.remote id with
    | some r => r.data.toNat
    | none => 0
  | x => x.layout.2.2.2.2

/-- The issue rank of an entry: the entries of ops that issued before it (R407). -/
def Primary.rank (p : Primary) (e : PEntry) : Nat := (p.entries.filter fun x => decide (x.2.op < e.op)).length

/-- Word w of the i-th pending-write entry. Of a vquant's two destinations the first is the entry's, the register of the second stands in ADDR, and its
value behind the first's (log 9). -/
def State.entryWord (s : State) (i w : Nat) : Nat :=
  match s.prim.entries[i]? with
  | none => 0
  | some (j, e) =>
    let x := e.eff.layout
    let more := match s.prim.second (j, e) with
      | some y => y.eff.layout
      | none => (0, 0, 0, 0, 0)
    let value := if x.1 = 8 then packElems 8 (s.prim.rowCounts e) else s.payload e % 2 ^ (8 * x.2.2.1) + more.2.2.2.2 * 2 ^ (8 * x.2.2.1)
    match w with
    | 0 => x.1 + x.2.1 % 256 * 2 ^ 8 + j % 256 * 2 ^ 16 + b2n e.sup * 2 ^ 24 + b2n e.eff.keeps * 2 ^ 25 +
        s.prim.rank e * 2 ^ 32
    | 1 => if e.eff.isAcc then s.prim.imageOf i e else if more.2.2.1 ≠ 0 then more.2.1 else x.2.2.2.1
    | 2 => (x.2.2.1 + more.2.2.1) % 2 ^ 16 + s.prim.flagsWith j e * 2 ^ 16
    | 3 => 0
    | w => bits value (64 * (w - 4)) 64

/-- Word w of the head record. -/
def State.headWord (s : State) (cause inner : Cause) (w : Nat) : Nat :=
  let p := s.prim
  let held := packElems 8 ((List.range 9).map p.heldSlot)
  match w with
  | 0 => cause.toNat + b2n (decide (p.th.mode ≠ 0)) * 2 ^ 9 + p.entries.length * 2 ^ 16 + p.empties % 256 * 2 ^ 24 +
      p.pc.toNat % 2 ^ 21 * 2 ^ 32 + b2n p.target.isSome * 2 ^ 63
  | 1 => (match p.target with
      | some a => a.toNat % 2 ^ 21
      | none => 0) + bits held 0 32 * 2 ^ 32
  | 2 => bits held 32 40
  | 3 => s.core.haltTick.toNat
  | 4 => s.core.haltBeat.toNat
  | 5 => if cause.toNat / 8 = 7 then inner.toNat else 0
  | _ => 0

/-! ### The record by words (R405) -/

/-- Where a word of a record lies: its part, the number within the part, and the word within that. -/
inductive RecPart where
  | lm | wvals | widx | acc | image | tile | zrec | tag | wrec | prim | entry | pawn | chan | head | zero
deriving DecidableEq, Repr

/-- The part, item and word of an offset that is a multiple of 8. -/
def recPart (o : Nat) : RecPart × Nat × Nat :=
  if o < 0x200000 then (.lm, 0, o / 8)
  else if o < 0x240000 then (.wvals, (o - 0x200000) / 0x2000, (o - 0x200000) % 0x2000 / 8)
  else if o < 0x260000 then (.widx, (o - 0x240000) / 0x1000, (o - 0x240000) % 0x1000 / 8)
  else if o < 0x280000 then (.acc, (o - 0x260000) / 0x4000, (o - 0x260000) % 0x4000 / 8)
  else if o < 0x288000 then (.image, (o - 0x280000) / 0x4000, (o - 0x280000) % 0x4000 / 8)
  else if o < 0x290000 then (.tile, (o - 0x288000) / 0x800, (o - 0x288000) % 0x800 / 8)
  else if o < 0x294100 then (.zrec, (o - 0x290000) / 520, (o - 0x290000) % 520 / 8)
  else if o < 0x294280 then (.tag, (o - 0x294100) / 8, 0)
  else if o < 0x294480 then (.wrec, (o - 0x294280) / 16, (o - 0x294280) % 16 / 8)
  else if o < 0x298000 then (.zero, 0, 0)
  else if o < 0x2A0000 then (.prim, 0, (o - 0x298000) / 8)
  else if o < 0x2A9000 then (.entry, (o - 0x2A0000) / 576, (o - 0x2A0000) % 576 / 8)
  else if o < 0x2B0000 then (.zero, 0, 0)
  else if o < 0x2C0000 then (.pawn, (o - 0x2B0000) / 0x1000, (o - 0x2B0000) % 0x1000 / 8)
  else if o < 0x2C1000 then (.chan, 0, (o - 0x2C0000) / 8)
  else if o < 0x2C1100 then (.head, 0, (o - 0x2C1000) / 8)
  else (.zero, 0, 0)

/-- The tag of a tile (0 to 15) or of a weight slot (16 to 47). -/
def State.tagNo (s : State) (n : Nat) : Tag := if n < 16 then (s.tile n).tag else (s.wslot (n - 16)).tag

/-- The word of a tag record. -/
def State.tagWord (s : State) (t : Tag) : Nat := t.z + t.base * 2 ^ 5 + b2n t.bound * 2 ^ 8 + b2n (s.live t) * 2 ^ 9

/-! ### Registers, threads and channels (R405; the places are of log 9) -/

/-- Bits as a number, the first lowest. -/
def packBools (l : List Bool) : Nat := packElems 1 (l.map b2n)

/-- Control register i as its thread reads it; FRZSTAT is that of the last frozen tick (R74). -/
def State.csrWord (s : State) (a : Agent) (i : Nat) : Nat :=
  if i = 0xC0 then s.prim.frzLast.toNat else ((s.setCtx (agentCtx a)).csrRead i).toNat

/-- Word w of the primary's registers: s, v with mx0 and mx1, m, b, ib, fd, latches with their freshness, routes, control registers. -/
def State.primWord (s : State) (w : Nat) : Nat :=
  let p := s.prim
  if w < 60 then (vget p.s w 0).toNat
  else if 64 ≤ w ∧ w < 1920 then bits (vget p.v ((w - 64) / 32) 0).toNat (64 * ((w - 64) % 32)) 64
  else if 1920 ≤ w ∧ w < 1928 then (vget p.m (w - 1920) 0).toNat
  else if w = 1928 then packBools p.b.toList
  else if w = 1929 then packElems 8 (p.ib.toList.map fun x => x.toNat)
  else if 1936 ≤ w ∧ w < 1952 then (vget s.core.fd (w - 1936) 0).toNat
  else if 1952 ≤ w ∧ w < 1956 then (vget p.q (w - 1952) 0).toNat
  else if w = 1956 then packBools (p.qFresh.toList ++ p.vqFresh.toList)
  else if 1984 ≤ w ∧ w < 2112 then bits (vget p.vq ((w - 1984) / 32) 0).toNat (64 * ((w - 1984) % 32)) 64
  else if 2112 ≤ w ∧ w < 2120 then (vget p.route (w - 2112) 0).toNat
  else if 2560 ≤ w ∧ w < 3072 then s.csrWord .primary (w - 2560)
  else 0

/-- The control registers that a pawn has of its own. -/
def pawnCsrs : List Nat :=
  [0x18, 0x19, 0x1A, 0x20, 0x28, 0x29, 0x2A, 0x2B, 0x2C, 0x30, 0x31, 0x32, 0x33, 0x34, 0x35, 0x36, 0x37, 0x38, 0x39, 0xD0, 0xD8, 0xD9, 0xDA, 0xDB, 0xDC]

/-- The registers of a set: x, y, m, b and the program counter. -/
def PawnRegs.word (r : PawnRegs) (w : Nat) : Nat :=
  if w < 64 then (vget r.x w 0).toNat
  else if w < 192 then bits (vget r.y ((w - 64) / 16) 0).toNat (64 * ((w - 64) % 16)) 64
  else if w < 196 then (vget r.m (w - 192) 0).toNat
  else if w = 196 then packBools r.b.toList
  else if w = 197 then r.pc.toNat
  else 0

/-- The wait state of a thread: a number of its kind, and what it waits for, seven words in all (R213). -/
def PStatus.words : PStatus → List Nat
  | .absent => [0]
  | .running => [1]
  | .switching => [2]
  | .trapping r resume => [3, r.code.toNat, resume.toNat, r.addr.toNat, r.arg.toNat, r.slot]
  | .exiting => [4]
  | .exited => [5]
  | .monWait d left marked => [6, d.layout.2.1, b2n marked, (left.map fun n => n + 1).getD 0]
  | .mailWait d marked => [7, d.layout.2.1, b2n marked]
  | .fencing scope => [8, scope]
  | .taskWait since marked => [9, b2n marked, since]
  | .xlateWait k => [10, k.va.toNat, k.acc, b2n k.blocked, (k.fault.map fun f => f.1.toNat + 2 ^ 32 + f.2 * 2 ^ 33).getD 0, k.waited]
  | .waking => [11]
  | .halted => [12]
  | .moveWait => [13]

/-- The wait state that such words give. -/
def PStatus.ofWords (l : List Nat) : PStatus :=
  let w := fun i => l.getD i 0
  let x := fun i => BitVec.ofNat 64 (w i)
  let d := if w 1 % 64 = 0 then Dst.discard else .s (w 1 % 64)
  match w 0 with
  | 1 => .running
  | 2 => .switching
  | 3 => .trapping ⟨BitVec.ofNat 9 (w 1), x 3, x 4, w 5⟩ (x 2)
  | 4 => .exiting
  | 5 => .exited
  | 6 => .monWait d (if w 3 = 0 then none else some (w 3 - 1)) (bit (w 2) 0)
  | 7 => .mailWait d (bit (w 2) 0)
  | 8 => .fencing (w 1)
  | 9 => .taskWait (w 2) (bit (w 1) 0)
  | 10 => .xlateWait ⟨x 1, w 2, if bit (w 4) 32 then some (BitVec.ofNat 32 (w 4), bits (w 4) 33 31) else none, bit (w 3) 0, w 5⟩
  | 11 => .waking
  | 12 => .halted
  | 13 => .moveWait
  | _ => .absent

/-- The i-th word of a list is another. -/
def putWord (l : List Nat) (n i v : Nat) : List Nat := listSet ((List.range n).map fun k => l.getD k 0) i v

/-- A monitor: [0] armed, [1] hit, [2] local, and its line (R213). -/
def Monitor.word (m : Monitor) : Nat := b2n m.armed + b2n m.hit * 2 + b2n m.isLocal * 4 + m.line * 2 ^ 6

/-- The eqrs of a thread that wait for a record, the oldest first: their number, then of each its queue, its register and its place among the core's
(R88). -/
def Pawn.eqrWords (p : Pawn) : List Nat :=
  let l := p.reqs.filterMap fun r => match r.kind with
    | .eqr e => some (e + r.d.layout.2.1 * 2 ^ 2 + r.id * 2 ^ 16)
    | _ => none
  l.length :: l

/-- The pushes of a thread that wait for room, the oldest first: of each its queue, its length and its place among the core's, then its words (R88). -/
def Pawn.pushWords (p : Pawn) : List Nat := p.pushes.flatMap fun x => (x.2.1 + x.2.2.length * 2 ^ 2 + x.1 * 2 ^ 16) :: x.2.2.map fun w => w.toNat

/-- How far the chunk of a thread has come: its ops, whether it has ended, and the rounds that have passed it (R337, R339). -/
def Chunk.place (c : Chunk) : Nat := c.ops + b2n c.ended * 2 ^ 16 + c.passed * 2 ^ 32

/-- The state with the thread at the start of its chunk: its control registers of the checkpoint are read and written there. -/
def State.atStart (s : State) (t : Nat) : State := s.updPawn t fun p => { p with toPawnRegs := p.chunk.start }

/-- Word w of a pawn thread: registers, what ended its run (0x1D6 where the launch was asked to leave, R400), mailbox, monitors, wait state, waiting eqrs,
control registers, the checkpoint of its chunk's start with its control registers, and the waiting pushes as far as the area reaches (log 9). -/
def State.pawnWord (s : State) (cause : Cause) (t w : Nat) : Nat :=
  let p := s.pawn t
  if w < 198 then p.toPawnRegs.word w
  else if w = 198 then (if cause = 0x1D7 then 0x1D6 else cause.toNat)
  else if w = 199 then p.mbox.toNat
  else if w = 200 then b2n p.mboxFull
  else if 201 ≤ w ∧ w < 205 then (vget p.mon (w - 201) ⟨false, false, false, 0, false⟩).word
  else if 205 ≤ w ∧ w < 212 then p.status.words.getD (w - 205) 0
  else if 224 ≤ w ∧ w < 256 then (match pawnCsrs[w - 224]? with
    | some i => s.csrWord (.pawn t) i
    | none => 0)
  else if 212 ≤ w ∧ w < 224 then p.eqrWords.getD (w - 212) 0
  else if 256 ≤ w ∧ w < 454 then p.chunk.start.word (w - 256)
  else if w = 454 then p.chunk.place
  else if 456 ≤ w ∧ w < 482 then (match pawnCsrs[w - 456]? with
    | some i => (s.atStart t).csrWord (.pawn t) i
    | none => 0)
  else if 482 ≤ w then p.pushWords.getD (w - 482) 0
  else 0

/-- A command: its length, whether a pawn pushed it and which, whether it has started, its status plus 1 and its progress in bytes in one word, then its
words (log 9). -/
def EngCmd.record (c : EngCmd) : List Nat :=
  (c.words.length + b2n c.byPawn.isSome * 2 ^ 4 + c.byPawn.getD 0 * 2 ^ 5 + b2n c.started * 2 ^ 9 +
    (c.status.map fun x => x.toNat + 1).getD 0 * 2 ^ 10 + c.bytes * 2 ^ 16) :: c.words.map fun w => w.toNat

/-- A command with the words of another record: those of its length. -/
def EngCmd.withRecord (c : EngCmd) (l : List Nat) : EngCmd :=
  let h := l.headD 0
  { c with
    words := (l.drop 1).map (BitVec.ofNat 64)
    byPawn := if bit h 4 then some (bits h 5 4) else none
    started := bit h 9
    status := if bits h 10 5 = 0 then none else some (BitVec.ofNat 4 (bits h 10 5 - 1))
    bytes := h / 2 ^ 16
    pos := if h / 2 ^ 16 = c.bytes then c.pos else h / 2 ^ 16 / 8 }

/-- The numbers of what a queue register holds: records of the primary and of the pawns, which have been lost, and blocked records with their parts. -/
def EngQueue.counts (q : EngQueue) : Nat :=
  q.recsPrim.length + q.recsPawn.length * 2 ^ 8 + b2n q.lostPrim * 2 ^ 16 + b2n q.lostPawn * 2 ^ 17 + q.blocked.length * 2 ^ 24 +
    packBools (q.blocked.map fun x => x.1) * 2 ^ 32

/-- The completion records of a queue register: the primary's, the pawns', and those that found their part full (R181). -/
def EngQueue.records (q : EngQueue) : List Word64 := q.recsPrim ++ q.recsPawn ++ q.blocked.map fun x => x.2

/-- A queue register with other records, as many as it holds. -/
def EngQueue.withRecords (q : EngQueue) (h : Nat) (l : List Word64) : EngQueue :=
  let n := q.recsPrim.length
  let m := n + q.recsPawn.length
  { q with
    recsPrim := l.take n
    recsPawn := (l.drop n).take (m - n)
    lostPrim := bit h 16
    lostPawn := bit h 17
    blocked := q.blocked.zipIdx.map fun x => (bit h (32 + x.2), l.getD (m + x.2) 0) }

/-- The words of a thread in assembly, behind their numbers (R173). -/
def asmWords (v : Vector (List Word64) 4) : List Nat := packElems 8 (v.toList.map List.length) :: v.toList.flatMap fun l => l.map fun w => w.toNat

/-- Other words in their place, as many as there are. -/
def setAsm (v : Vector (List Word64) 4) (l : List Nat) : Vector (List Word64) 4 :=
  (List.range 4).foldl (fun u i =>
    let from_ := ((List.range i).map fun k => (vget v k []).length).foldl (· + ·) 1
    vset u i ((List.range (vget v i []).length).map fun k => BitVec.ofNat 64 (l.getD (from_ + k) 0))) v

/-- What the record holds of the engines: the write pointers, the numbers of what the queues hold, their commands, their completion records, and the words in
assembly of the primary and of the pawns (R173), as far as the area of R405 reaches (log 9). -/
def State.chanWords (s : State) : List Nat :=
  let q := fun n => s.engineQ n
  [(vget s.core.wptr 0 0).toNat, (vget s.core.wptr 1 0).toNat, packElems 8 ((List.range 3).map fun n => (q n).cmds.length)] ++
    ((List.range 4).map fun n => (q n).counts) ++ ((List.range 3).flatMap fun n => (q n).cmds.flatMap EngCmd.record) ++
    ((List.range 4).flatMap fun n => (q n).records.map fun w => w.toNat) ++
    asmWords s.prim.th.asm ++ s.pawns.toList.flatMap fun p => asmWords p.th.asm

/-- Each element of a list takes its words, as many as it has, from a list of words; with the words that are left. -/
def takeWith {α : Type} (len : α → Nat) (set : α → List Nat → α) : List α → List Nat → List α × List Nat
  | [], ws => ([], ws)
  | x :: l, ws =>
    let r := takeWith len set l (ws.drop (len x))
    (set x (ws.take (len x)) :: r.1, r.2)

/-- The words of the channels' area are written. How many commands, records and words there are does not change, and what lies past the area stays
(log 9). -/
def State.setChan (s : State) (ws : List Nat) : State :=
  let ws := ws ++ s.chanWords.drop ws.length
  let s := s.updCore fun c => { c with wptr := vset (vset c.wptr 0 (BitVec.ofNat 21 (ws.getD 0 0))) 1 (BitVec.ofNat 21 (ws.getD 1 0)) }
  let r := (List.range 3).foldl (fun (r : State × List Nat) e =>
    let x := takeWith (fun c => c.words.length + 1) EngCmd.withRecord (r.1.engineQ e).cmds r.2
    (r.1.updEngine e fun q => { q with cmds := x.1 }, x.2)) (s, ws.drop 7)
  let r := (List.range 4).foldl (fun (r : State × List Nat) e =>
    let n := (r.1.engineQ e).records.length
    (r.1.updEngine e fun q => q.withRecords (ws.getD (3 + e) 0) ((r.2.take n).map (BitVec.ofNat 64)), r.2.drop n)) r
  let len := fun (v : Vector (List Word64) 4) => (asmWords v).length
  let s := r.1.updPrim fun p => { p with th := { p.th with asm := setAsm p.th.asm (r.2.take (len p.th.asm)) } }
  ((List.range 16).foldl (fun (r : State × List Nat) t =>
    let v := (r.1.pawn t).th.asm
    (r.1.updPawn t fun p => { p with th := { p.th with asm := setAsm v (r.2.take (len v)) } }, r.2.drop (len v)))
    (s, r.2.drop (len s.prim.th.asm))).1

/-- A word of the channels' area is written. -/
def State.setChanWord (s : State) (w v : Nat) : State :=
  if w < s.chanWords.length then s.setChan (listSet s.chanWords w v) else s

/-- A matrix image is another: the value with which its accumulator entry lands (R403). -/
def State.setImage (s : State) (i w v : Nat) : State :=
  match (s.prim.entries.filter fun x => x.2.eff.isStep)[i]? with
  | none => s
  | some (_, e) =>
    let f := fun (l : List PEntry) => l.map fun y => match y.eff with
      | .acc a x k => if y.op = e.op ∧ k ≠ 0 then { y with eff := .acc a (BitVec.ofNat 131072 (setBits x.toNat (64 * w) 64 v)) k } else y
      | _ => y
    s.updPrim fun p => { p with fl := { p.fl with pend := f p.fl.pend }, flUser := p.flUser.map fun u => { u with pend := f u.pend } }

/-- A monitor as its word gives it. -/
def Monitor.withWord (m : Monitor) (v : Nat) : Monitor := { m with armed := bit v 0, hit := bit v 1, isLocal := bit v 2, line := v / 2 ^ 6 }

/-- The waiting eqrs take another word: that of the i-th its queue and its register. -/
def Pawn.setEqr (p : Pawn) (i v : Nat) : Pawn :=
  let ids := (p.reqs.filter fun r => r.kind.isEqr).map fun r => r.id
  match ids[i]? with
  | none => p
  | some id => { p with reqs := p.reqs.map fun r => if r.id = id then { r with
      kind := .eqr (bits v 0 2)
      d := if bits v 2 6 = 0 then .discard else .s (bits v 2 6) } else r }

/-- The waiting pushes take another word. -/
def Pawn.setPush (p : Pawn) (w v : Nat) : Pawn :=
  if w < p.pushWords.length then
    { p with pushes := (takeWith (fun x => x.2.2.length + 1)
        (fun (x : Nat × Nat × List Word64) l => (x.1, bits (l.headD 0) 0 2, (l.drop 1).map (BitVec.ofNat 64))) p.pushes (listSet p.pushWords w v)).1 }
  else p

/-- The word of the core's record at an offset. -/
def State.recWord (s : State) (cause inner : Cause) (o : Nat) : Nat :=
  let x := recPart o
  let i := x.2.1
  let w := x.2.2
  match x.1 with
  | .lm => memRead s.lm (s.core.lmBase + 8 * w) 8
  | .wvals => bits (s.wslot i).vals.toNat (64 * w) 64
  | .widx => bits (s.wslot i).idx.toNat (64 * w) 64
  | .acc => bits (vget s.core.acc i 0).toNat (64 * w) 64
  | .image => bits ((s.prim.images[i]?).getD 0).toNat (64 * w) 64
  | .tile => bits (s.tile i).data.toNat (64 * w) 64
  | .zrec => if w = 0 then b2n (s.zreg i).fmt else bits (s.zreg i).e.toNat (64 * (w - 1)) 64
  | .tag => s.tagWord (s.tagNo i)
  | .wrec =>
    let r := s.wslot i
    if w = 0 then b2n r.loaded + r.ty.toNat * 2 + b2n r.sparse * 2 ^ 4 + r.fd.toNat * 2 ^ 32 else 0
  | .prim => s.primWord w
  | .entry => s.entryWord i w
  | .pawn => s.pawnWord cause i w
  | .chan => s.chanWords.getD w 0
  | .head => s.headWord cause inner w
  | .zero => 0

/-- A tag as its record gives it (R280): a live one takes the generation that its register has. -/
def State.tagOf (s : State) (w : Nat) : Tag :=
  if bits w 10 54 ≠ 0 ∨ (bit w 8 = false ∧ w ≠ 0) then Tag.unbound
  else if bit w 8 then ⟨true, bits w 0 5, bits w 5 3, if bit w 9 then (s.zreg (bits w 0 5)).gen else 0⟩
  else Tag.unbound

/-- A word of a value of n bits. -/
def setWord {n : Nat} (v : BitVec n) (w x : Nat) : BitVec n := BitVec.ofNat n (setBits v.toNat (64 * w) 64 x)

/-- The slots from n on take their held cycles from the bytes of a number; a slot that a handler's user operations hold keeps them. -/
def Primary.setHeld (p : Primary) (n count v : Nat) : Primary :=
  { p with fl := { p.fl with held := (List.range count).foldl (fun h i =>
    vset h (n + i) (if bits v (8 * i) 8 = 0 then 0 else bits v (8 * i) 8 + 1)) p.fl.held } }

/-- A word of the primary's registers is written: of a control register as csrw would, but for the bit of TSTAT that clears another. -/
def State.setPrimWord (s : State) (w v : Nat) : State :=
  let x := BitVec.ofNat 64 v
  if w < 60 then s.updPrim fun p => { p with s := vset p.s w x }
  else if 64 ≤ w ∧ w < 1920 then s.updPrim fun p => { p with v := vset p.v ((w - 64) / 32) (setWord (vget p.v ((w - 64) / 32) 0) ((w - 64) % 32) v) }
  else if 1920 ≤ w ∧ w < 1928 then s.updPrim fun p => { p with m := vset p.m (w - 1920) x }
  else if w = 1928 then s.updPrim fun p => { p with b := boolsOf 16 v }
  else if w = 1929 then s.updPrim fun p => { p with ib := ⟨⟨(List.range 4).map fun i => BitVec.ofNat 6 (bits v (8 * i) 6)⟩, by simp⟩ }
  else if 1936 ≤ w ∧ w < 1952 then s.updCore fun c => { c with fd := vset c.fd (w - 1936) (fdWritable x) }
  else if 1952 ≤ w ∧ w < 1956 then s.updPrim fun p => { p with q := vset p.q (w - 1952) x }
  else if w = 1956 then s.updPrim fun p => { p with qFresh := boolsOf 4 v, vqFresh := boolsOf 4 (v / 16) }
  else if 1984 ≤ w ∧ w < 2112 then s.updPrim fun p => { p with vq := vset p.vq ((w - 1984) / 32) (setWord (vget p.vq ((w - 1984) / 32) 0) ((w - 1984) % 32) v) }
  else if 2112 ≤ w ∧ w < 2120 then s.updPrim fun p => { p with route := vset p.route (w - 2112) x }
  else if 2560 ≤ w ∧ w < 2800 ∧ w ≠ 2560 + 0xF3 then ((s.setCtx (agentCtx .primary)).csrWrite (w - 2560) x).setCtx s.ctx
  else s

/-- A word of a set of pawn registers is written. -/
def PawnRegs.setWord (r : PawnRegs) (w v : Nat) : PawnRegs :=
  let x := BitVec.ofNat 64 v
  if w < 64 then { r with x := vset r.x w (if w = 0 then 0 else x) }
  else if w < 192 then { r with y := vset r.y ((w - 64) / 16) (Machine.setWord (vget r.y ((w - 64) / 16) 0) ((w - 64) % 16) v) }
  else if w < 196 then { r with m := vset r.m (w - 192) (BitVec.ofNat 32 v) }
  else if w = 196 then { r with b := boolsOf 8 v }
  else if w = 197 then { r with pc := x }
  else r

/-- A word of a pawn thread is written: its registers, mailbox, monitors, wait state, waiting eqrs and pushes, control registers, and its chunk's start;
of the control registers as csrw would. -/
def State.setPawnWord (s : State) (t w v : Nat) : State :=
  let csr := fun (s : State) (k : Nat) => match pawnCsrs[k]? with
    | some i => ((s.setCtx (agentCtx (.pawn t))).csrWrite i (BitVec.ofNat 64 v)).setCtx s.ctx
    | none => s
  if w < 198 then s.updPawn t fun p => { p with toPawnRegs := p.toPawnRegs.setWord w v }
  else if w = 199 then s.updPawn t fun p => { p with mbox := BitVec.ofNat 64 v }
  else if w = 200 then s.updPawn t fun p => { p with mboxFull := bit v 0 }
  else if 201 ≤ w ∧ w < 205 then s.updPawn t fun p =>
    { p with mon := vset p.mon (w - 201) ((vget p.mon (w - 201) ⟨false, false, false, 0, false⟩).withWord v) }
  else if 205 ≤ w ∧ w < 212 then s.updPawn t fun p => { p with status := PStatus.ofWords (putWord p.status.words 7 (w - 205) v) }
  else if 213 ≤ w ∧ w < 224 then s.updPawn t fun p => p.setEqr (w - 213) v
  else if 224 ≤ w ∧ w < 256 then csr s (w - 224)
  else if 256 ≤ w ∧ w < 454 then s.updPawn t fun p => { p with chunk := { p.chunk with start := p.chunk.start.setWord (w - 256) v } }
  else if w = 454 then s.updPawn t fun p => { p with chunk := { p.chunk with ops := bits v 0 16, ended := bit v 16, passed := v / 2 ^ 32 } }
  else if 456 ≤ w ∧ w < 482 then
    let u := csr (s.atStart t) (w - 456)
    s.updPawn t fun p => { p with chunk := { p.chunk with start := (u.pawn t).toPawnRegs } }
  else if 482 ≤ w then s.updPawn t fun p => p.setPush (w - 482) v
  else s

/-- A word of the record is written into the core: none of a pending entry, and no number of what a list holds (log 9). -/
def State.setRecWord (s : State) (o v : Nat) : State :=
  let x := recPart o
  let i := x.2.1
  let w := x.2.2
  let upW := fun (f : WSlot → WSlot) => s.updCore fun c => { c with w := vset c.w i (f (s.wslot i)) }
  match x.1 with
  | .lm => s.lmWrite (s.core.lmBase + 8 * w) 8 v
  | .wvals => upW fun r => { r with vals := setWord r.vals w v }
  | .widx => upW fun r => { r with idx := setWord r.idx w v }
  | .acc => s.updCore fun c => { c with acc := vset c.acc i (setWord (vget c.acc i 0) w v) }
  | .tile => s.updCore fun c => { c with t := vset c.t i { s.tile i with data := setWord (s.tile i).data w v } }
  | .zrec =>
    let z := if w = 0 then { s.zreg i with fmt := bit v 0 } else { s.zreg i with e := setWord (s.zreg i).e (w - 1) v }
    s.updCore fun c => { c with z := vset c.z i z }
  | .tag =>
    let t := s.tagOf v
    if i < 16 then s.updCore fun c => { c with t := vset c.t i { s.tile i with tag := t } }
    else s.updCore fun c => { c with w := vset c.w (i - 16) { s.wslot (i - 16) with tag := t } }
  | .wrec =>
    if w = 0 then upW fun r =>
      { r with loaded := bit v 0, ty := BitVec.ofNat 3 (bits v 1 3), sparse := bit v 4, fd := BitVec.ofNat 32 (bits v 32 32) }
    else s
  | .prim => s.setPrimWord w v
  | .pawn => if i < 16 then s.setPawnWord i w v else s
  | .image => s.setImage i w v
  | .chan => s.setChanWord w v
  | .head => s.updPrim fun p => match w with
    | 0 => { p with
        pc := BitVec.ofNat 64 (bits v 32 21)
        empties := bits v 24 8
        target := if bit v 63 then some (p.target.getD 0) else none }
    | 1 => { p.setHeld 0 4 (bits v 32 32) with target := p.target.map fun _ => BitVec.ofNat 64 (bits v 0 21) }
    | 2 => p.setHeld 4 5 (bits v 0 40)
    | _ => p
  | _ => s

/-- What the driver has written into registers through the halt window takes effect (R423). -/
def State.applyWindow (s : State) : State :=
  s.core.winWrites.foldl (fun s x => s.setRecWord x.1 x.2) (s.updCore fun c => { c with winWrites := [] })

/-- The word of the core's record that the halt window shows: what the driver has written stands there, also before it takes effect (R424). -/
def State.windowWord (s : State) (o : Nat) : Nat :=
  match s.core.winWrites.find? fun x => x.1 = o with
  | some x => x.2
  | none => s.recWord 0 0 o

/-- A word of the record is written through the halt window: local memory at once, all else from the resume on; pending entries are read-only, and what is
zero stays so (R405, R423). -/
def State.windowWrite (s : State) (o v : Nat) : State :=
  match (recPart o).1 with
  | .lm => s.setRecWord o v
  | .entry => s
  | .zero => s
  | _ => s.updCore fun c => { c with winWrites := c.winWrites.filter (fun x => x.1 ≠ o) ++ [(o, v)] }

end Sys2Proof.Machine
end

