-- ==== Sys2Proof/Machine/Preempt.lean ====
section
/-! DEFINITION. Pre-emption, save and restore (27_preemption R400 to R408, 09_pawn_memory R213, 10_tempo R231, 14_scales R279, R280,
05_launch R119, 18_determinism R339). -/

namespace Sys2Proof.Machine

/-! ### The halt (R400, R401) -/

/-- A collective command that has been accepted: it runs on, or has completed since the halt, and its record is kept (R402). -/
def State.runningCol (s : State) : Option EngCmd := (s.headCmd 2).filter fun c => c.started

/-- The core holds no launch; its place, its inputs and the translations it caches stay. -/
def State.stopCore (s : State) : State :=
  let s := (s.runningCol.map s.endStreams).getD s
  let s := (List.range 4).foldl (fun s e => (s.engineQ e).cmds.foldl (fun s c => s.unpinAll s.core.cfg.die c) s) s
  let old := s.core
  { s with
    prim := Primary.initial
    pawns := Vector.replicate 16 Pawn.initial
    core := CoreState.inWorld { CoreState.initial with
      cfg := { LaunchCfg.noLaunch with die := old.cfg.die, dieClus := old.cfg.dieClus, coreInClus := old.cfg.coreInClus }
      nextId := old.nextId } old }

/-- The launch of the core ends with a status. -/
def State.endOwn (s : State) (st : Nat) : State :=
  match s.ownJob with
  | some j => (s.finishJob j st).stopCore
  | none => s.stopCore

/-- The primary halts at the boundary: the bundle at its program counter has not issued, and every freeze is over. -/
def Primary.halt (p : Primary) : Primary :=
  { p.dropPhv 4 with
    presented := false
    bankWait := 0
    bankDone := false
    tempoTgt := none
    xfer := none
    loopSet := none
    frz := 0
    frzClus := false
    halted := false
    haltNext := false }

/-- The entries that are due land in the halt tick, and the bank accesses of its cycle are made, as trap entry has them; all others keep their counts
(R391, R401). An entry whose reply is late keeps its count (R402). -/
def State.landHalt (s : State) : State :=
  let due := sortEntries ((s.prim.fl.pend.filter fun e => decide (e.count = 1) && !s.awaitsReply e).map fun e => { e with count := 0 })
  let s := s.updPrim fun p => { p with fl := { p.fl with pend := p.fl.pend.filter fun e => decide (e.count ≠ 1) || s.awaitsReply e } }
  let s := (s.landAll due)
  let s := if s.badLm.isEmpty then s else due.foldl State.useEntry s
  let l := bankStep s.lm [] (due.map s.spareWord)
  let s := (l.filter fun e => decide (e.count = 0)).foldl State.bankWrite s
  s.updPrim fun p => { p with fl := { p.fl with
    pend := p.fl.pend ++ (l.filter fun e => decide (e.count ≠ 0)).map fun e => { e with count := e.count + 1 } } }

/-- R400: a request reaches the core, which halts at the boundary; the chip delivers one within 600 ticks. A machine check halts the core like any other
request, with its code for the cause, and ends the launch once it is saved (R415). -/
def execPreemptionRequest (c : BitVec 9) (s : State) : Out :=
  .next (if !s.core.cfg.running || s.core.saving then s
    else
      let s := s.request c 0
      match s.core.preempt with
      | none => s
      | some _ =>
        let s := (s.clearHalted s.clusterNo).applyWindow
        (s.landHalt.markHalt.updPrim Primary.halt).updCore fun k => { k with saving := true })

/-! ### Draining (R402) -/

/-- Cycles from the halt to the landing of an mma that has issued (R403). -/
def Flight.mmaLeft (f : Flight) : Nat :=
  f.pend.foldl (fun n e => match e.eff with
    | .acc _ _ (_ + 1) => max n e.count
    | _ => n) 0

/-- The array has had the time to complete every mma that has issued (R402, R403). -/
def State.arrayDone (s : State) : Bool :=
  decide (max s.prim.fl.mmaLeft ((s.prim.flUser.map Flight.mmaLeft).getD 0) ≤ s.core.streamed)

/-- Every operation of a pawn has landed, been accepted or been acknowledged. -/
def Pawn.drained (p : Pawn) : Bool :=
  p.pend.isEmpty && p.waiting.isEmpty && p.reqs.all fun r => r.kind.isEqr

/-- Each copy channel has stopped after a whole word. -/
def State.wordsWhole (s : State) : Bool := (List.range 2).all fun ch => (s.engineQ ch).cmds.all fun c => !s.wordInHand c

/-- The save can begin. -/
def State.drained (s : State) : Bool :=
  (s.core.remotes.all fun r => !r.write && r.replied) && s.core.tileQ.isEmpty && s.core.wQ.isEmpty &&
    (s.pawns.toList.all Pawn.drained) && s.prim.deposits.isEmpty && s.core.outbox.isEmpty && s.core.commitOp.isNone && s.wordsWhole && s.arrayDone

/-! ### The save region (R404, R405) -/

/-- A memory with the bytes of another in n places from b on: what stood there goes. -/
def memMove (src : Memory) (a n : Nat) (dst : Memory) (b : Nat) : Memory :=
  (src.filter fun c => decide (a ≤ c.1) && decide (c.1 < a + n)).foldl (fun m c => memSet m (c.1 - a + b) c.2) (memZero dst b n)

/-- Words of a record beyond the local memory. -/
def recWords : List Nat := (List.range 0x18220).map fun i => 0x200000 + 8 * i

/-- The launch record: NCORES, NCLUS, round and slot of the move order, the record of the kept collective that is over behind their number, and from word 16 on the global
cluster numbers (R404); the places are the model's choice (log 9). -/
def State.launchRecord (s : State) (j : Job) (col : Option EngCmd) (m : Memory) (base : Nat) : Memory :=
  let kept := match col with
    | some c => if c.status.isSome then [1, (recordOf c (c.status.getD 0).toNat 0 c.bytes false).toNat] else [0, 0]
    | none => [0, 0]
  let words := [8 * j.clusters.length, j.clusters.length, s.core.moveRound, s.core.moveNext] ++ kept ++ List.replicate 10 0 ++ j.clusters
  (words.zipIdx).foldl (fun m x => memWrite m (base + 8 * x.2) 8 x.1) (memZero m base 65536)

/-- The record of core i of the launch: whole for the modelled core; of another core the model knows its local memory (log 4). -/
def State.coreRecord (s : State) (j : Job) (cause inner : Cause) (m : Memory) (base i : Nat) : Memory :=
  let a := base + 0x10000 + i * 0x300000
  let key := s.coreKey (j.clusters.getD (i / 8) 0) (i % 8)
  let m := memMove s.lm key 0x200000 (memZero m a 0x300000) a
  let own := decide (key = s.core.lmBase) && s.holdsOwn j
  recWords.foldl (fun m o =>
    let v := if own then s.recWord cause inner o
      else if (recPart o).1 = .zero then 0 else (Config.recordWord (s.free + 1 + i) (o / 8)).toNat
    memWrite m (a + o) 8 v) m

/-- The region of a launch is written. -/
def State.writeRegion (s : State) (j : Job) (cause inner : Cause) (region : Nat × Nat) (col : Option EngCmd) : State :=
  let m := s.launchRecord j col s.pm region.1
  let m := (List.range (8 * j.clusters.length)).foldl (fun m i => s.coreRecord j cause inner m region.1 i) m
  let s := (s.setPm m).healPm region.1 region.2
  { s with free := s.free + 1 + 8 * j.clusters.length }

/-- A bad word of a launch's local memory (R415). -/
def State.launchBad (s : State) (j : Job) : Bool :=
  s.badLm.any fun w => (List.range (8 * j.clusters.length)).any fun i =>
    let key := s.coreKey (j.clusters.getD (i / 8) 0) (i % 8)
    decide (key ≤ 8 * w) && decide (8 * w < key + 0x200000)

/-- The first struck word of the core that its record would read (R413, R415). -/
def State.recordStruck (s : State) : Option ErrLoc := s.core.struck.find? ErrLoc.recorded

/-- The record of what a save meets: a bad word of the launch's local memory, or, where the launch is the modelled core's, a struck word of the core (R415). -/
def State.saveBad (s : State) (j : Job) : Option State :=
  if s.launchBad j then some (s.lmError j.cx s.badLm)
  else if s.holdsOwn j then s.recordStruck.map fun l => s.coreError j.cx l.index
  else none

/-- The pages of a channel's commands are unpinned (R178). -/
def State.unpinCore (s : State) : State :=
  (List.range 3).foldl (fun s e => (s.engineQ e).cmds.foldl (fun s c => s.unpinAll s.core.cfg.die c) s) s

/-- A launch that does not run on the modelled core is saved in a region, unless that is fenced, or the save meets a bad word, which ends it (R415, R419); where the core has completed its part of it, its dirty lines are written back
(R213, R402). -/
def State.saveAway (s : State) (j : Job) (cause : Cause) (region : Nat × Nat) : State :=
  match s.saveBad j with
  | some t => t.finishJob j 7
  | none =>
  if s.rangeFenced region.1 region.2 then (s.pmError j.cx region.1).finishJob j 7
  else ((if s.holdsOwn j then s.writeBackAll else s).writeRegion j cause 0 region none).saveJob j false cause region none

/-- What is saved of a launch goes; a collective of its that still runs is abandoned. -/
def State.dropSaved (s : State) (id : Nat) : State :=
  let s := (s.dev.saved.filter fun x => x.job.id = id).foldl (fun s x => match x.col with
    | some c => (s.endStreams c).unpinAll x.core.cfg.die c
    | none => s) s
  s.updDev fun d => { d with saved := d.saved.filter fun x => x.job.id ≠ id }

/-- The modelled core's launch is saved in a region, and its core is free; a collective that was accepted runs on, its pages pinned (R402). The
launch that the watchdog or a machine check has stopped fails (R128, R415). -/
def State.saveOwn (s : State) (j : Job) (cause inner : Cause) (region : Nat × Nat) : State :=
  let ended := (s.runningCol.filter fun c => c.status.isSome)
  let s := (ended.map (s.unpinAll s.core.cfg.die)).getD s
  let col := s.runningCol.map fun c => if c.status.isSome then { c with pages := [] } else c
  let s := s.updEngine 2 fun q => { q with cmds := if col.isSome then q.cmds.drop 1 else q.cmds }
  let s := (if s.core.cfg.det then s.updCore fun c => { c with cache := [] } else s.writeBackAll).unpinCore
  let s := s.updCore fun c => { c with engQ := vmap (fun (q : EngQueue) => { q with cmds := q.cmds.map fun k => { k with pages := [] } }) c.engQ }
  let s := ((s.writeRegion j cause inner region col).saveJob j true cause region col).stopCore
  if cause = 0x1CF ∨ cause.toNat / 8 = 0x3B then
    let s := s.dropSaved j.id
    match s.job j.id with
    | some j => s.finishJob j 7
    | none => s
  else s

/-- R402 to R407: once drained, the launch is written to its save region. Without a region that fits, a request of the master
or an eviction waits, and any other source ends the launch. -/
def execContextSave (s : State) : Out :=
  .next (if !s.core.saving || !s.drained then s
    else
      match s.ownJob, s.core.preempt with
      | some j, some (cause, inner) =>
        match s.saveBad j with
        | some t => t.endOwn 7
        | none => match s.saveRegion j.cx (8 * j.clusters.length) with
          | some r => if s.rangeFenced r.1 r.2 then (s.pmError j.cx r.1).endOwn 7 else s.saveOwn j cause inner r
          | none => if cause = 0x1D7 ∨ cause = 0x1D6 then s else s.endOwn 7
      | _, _ => s.stopCore)

/-! ### Restore (R408) -/

/-- The clusters of a launch that resumes, by launch cluster index (R119): the same ones in deterministic mode, but for fenced
ones; otherwise free ones under its PLACE rule, of those that its context might use when it was placed (R374). -/
def State.restorePlace (s : State) (x : SavedLaunch) : Option (List Nat) :=
  let j := x.job
  let old := j.clusters
  let free := fun g => s.clusterLive g && !s.clusterHeld g && j.mask.getLsbD g
  if hdrDet j.hdr then
    if (old.filter s.clusterLive).all free then
      let lost := (List.range old.length).filter fun i => !s.clusterLive (old.getD i 0)
      let open_ := s.allClusters.filter fun g => free g && decide (g ∉ old)
      if open_.length < lost.length then none else some ((lost.zip open_).foldl (fun l y => listSet l y.1 y.2) old)
    else none
  else s.chooseClusters j free

/-- A command is submitted again: its pages are translated and pinned afresh, and it goes on from its progress. -/
def EngCmd.resubmit (e : Nat) (c : EngCmd) : EngCmd :=
  if c.status.isSome then c
  else { c with pages := [], fault := none, flight := [], waited := 0, todo := if e = 2 then colPages c.words c.idx.length else copyPages c.words c.idx }

/-- The engine queues of a restored core. -/
def resubmitAll (v : Vector EngQueue 4) : Vector EngQueue 4 :=
  let f := fun e => let q := vget v e EngQueue.empty; { q with cmds := q.cmds.map (EngCmd.resubmit e) }
  ⟨⟨[f 0, f 1, f 2, f 3]⟩, rfl⟩

/-- A tag after a restore: a live one holds generation 1, the generation of every scale register (R280). -/
def Tag.restored (z : Vector ZReg 32) (t : Tag) : Tag :=
  if t.bound then { t with gen := if t.gen = (vget z t.z ⟨0, false, 1⟩).gen then 1 else 0 } else t

/-- What a thread that a restore brings back goes on as: a park on a write-block or a migration lock walks again (R367); one that halted without a
handler stays where it is (R423). -/
def PStatus.restored (keep : Bool) : PStatus → PStatus
  | .halted => if keep then .halted else .running
  | .xlateWait k => .xlateWait { k with blocked := false }
  | s => s

/-- A pawn after a restore, once its record has been read back (R213, R339): monitors are registered again, a monitor wait sees RESUMED, and a chunk that has
not been committed runs again from its start. -/
def Pawn.resumed (det keep : Bool) (p : Pawn) : Pawn :=
  let p := { p with
    restored := true
    mon := vmap (fun (m : Monitor) => if m.armed && !m.isLocal then { m with acked := true } else m) p.mon
    status := p.status.restored keep }
  let q := if det && (decide (p.chunk.ops ≠ 0) || p.chunk.ended) then p.rerun else { p with buf := [] }
  if det then { q with chunk := { Chunk.fresh q with passed := q.chunk.passed } } else q

/-- The pawns go on as R213 and R339 say. -/
def State.resumePawns (s : State) (x : SavedLaunch) : State :=
  s.setPawns (vmap (fun p => p.resumed x.core.cfg.det (decide (x.cause.toNat / 8 = 7))) s.pawns)

/-! ### Local memory that has moved (R119) -/

/-- The key of a byte of the launch's local memory on its new clusters. -/
def State.rebase (s : State) (old new : List Nat) (k : Nat) : Nat :=
  match (old.zip new).find? fun y => decide (s.coreKey y.1 0 ≤ k) && decide (k < s.coreKey y.1 0 + 2 ^ 24) with
  | some y => k - s.coreKey y.1 0 + s.coreKey y.2 0
  | none => k

def BankAccess.rebase (f : Nat → Nat) : BankAccess → BankAccess
  | .read as n w sg d l => .read (as.map f) n w sg d l
  | .write as n vs => .write (as.map f) n vs
  | .rmw a op v c d l => .rmw (f a) op v c d l

def PEntry.rebase (f : Nat → Nat) (e : PEntry) : PEntry :=
  match e.eff with
  | .bank a => { e with eff := .bank (a.rebase f) }
  | _ => e

def Flight.rebase (f : Nat → Nat) (x : Flight) : Flight := { x with pend := x.pend.map (PEntry.rebase f) }

def GKind.rebase (f : Nat → Nat) : GKind → GKind
  | .ringput desc src len => .ringput (f desc) (f src) len
  | .ringget desc dst cap => .ringget (f desc) (f dst) cap
  | k => k

def Pawn.rebase (f : Nat → Nat) (p : Pawn) : Pawn :=
  { p with
    waiting := p.waiting.map fun w => { w with acc := w.acc.rebase f }
    reqs := p.reqs.map fun r => { r with kind := r.kind.rebase f }
    mon := vmap (fun (m : Monitor) => if m.isLocal then { m with line := f (64 * m.line) / 64 } else m) p.mon }

/-- The keys that the core holds follow the clusters. -/
def State.rebaseAll (s : State) (f : Nat → Nat) : State :=
  { s with
    prim := { s.prim with fl := s.prim.fl.rebase f, flUser := s.prim.flUser.map (Flight.rebase f) }
    pawns := vmap (Pawn.rebase f) s.pawns
    core := { s.core with
      locks := s.core.locks.map fun l => if l.lm then { l with
        lo := f l.lo
        hi := f l.hi
        scaleOf := l.scaleOf.map fun y => (f y.1, y.2) } else l
      wptrOther := s.core.wptrOther.map fun y => (2 * f (y.1 / 2) + y.1 % 2, y.2) } }

/-- The modelled core takes up the launch on its cluster. Whether HOPS and PATH of its routes follow the new place the spec does not say: the saved
ones stay (DESIGN CHOICE, log 73). -/
def State.resumeCore (s : State) (x : SavedLaunch) (j : Job) : State :=
  let here := s.core
  let z := x.core.z
  let core : CoreState := { x.core with
    cfg := { x.core.cfg with running := true, die := here.cfg.die, dieClus := here.cfg.dieClus, clusters := j.clusters }
    z := vmap (fun r => { r with gen := 1 }) z
    t := vmap (fun r => { r with tag := r.tag.restored z }) x.core.t
    w := vmap (fun r => { r with tag := r.tag.restored z }) x.core.w
    nextId := max here.nextId x.core.nextId
    cache := []
    banks := 0
    banksFar := []
    vacant := []
    wdogElapsed := 0
    preempt := none
    fresh := true
    saving := false
    streamed := min x.core.streamed (x.prim.heldSlot 8) }
  { s with
    prim := { x.prim with phv := false, phvwhy := 4, winCount := 0, winBase := 1, past := [s.lm], halted := false, haltNext := false }
    pawns := x.pawns
    core := core.inWorld here }

/-- The words of a record that a restore reads back one by one: what the head record says of the resume bundle, its empties and its slots as well. Pending
entries, and the numbers of what the queues hold, come from the launch as it was saved, of which their words are a function (log 9). -/
def recLoaded (o : Nat) : Bool :=
  match (recPart o).1 with
  | .wvals => true
  | .widx => true
  | .acc => true
  | .image => true
  | .tile => true
  | .zrec => true
  | .tag => true
  | .wrec => true
  | .prim => true
  | .pawn => true
  | .head => decide ((recPart o).2.2 < 3)
  | _ => false

/-- The record of the modelled core is read back: scale registers before the tags on them, and the channels' area whole. -/
def State.loadRecord (s : State) (a : Nat) : State :=
  let s := (recWords.filter recLoaded).foldl (fun s o => s.setRecWord o (memRead s.pm (a + o) 8)) s
  s.setChan ((List.range 512).map fun i => memRead s.pm (a + 0x2C0000 + 8 * i) 8)

/-- Local memory of the launch's cores, with the identity words that follow the clusters (R119). -/
def State.loadLm (s : State) (x : SavedLaunch) (j : Job) : State :=
  let per := s.part.clustersPerDie
  (List.range (8 * j.clusters.length)).foldl (fun s i =>
    let g := j.clusters.getD (i / 8) 0
    let s := if i % 8 = 0 ∧ s.mustClear j.cx g then s.clearLm g else s
    let key := s.coreKey g (i % 8)
    let m := memMove s.pm (x.base + 0x10000 + i * 0x300000) 0x200000 s.lm key
    let m := memWrite (memWrite (memWrite m (key + 24) 8 (g / per)) (key + 32) 8 (g % per)) (key + 56) 8 (s.diesOf j.clusters)
    { s.setLm m with
      badLm := s.badLm.filter fun w => decide (8 * w < key) || decide (key + 0x200000 ≤ 8 * w)
      dev := { s.dev with lastCtx := assocSet s.dev.lastCtx g j.cx } }) s

/-- Pins of a command's pages move to another die's table. -/
def State.movePins (s : State) (a b : Nat) (c : EngCmd) : State :=
  if a = b then s else c.pages.foldl (fun s p => (((s.unpin a (p.2.2 / 65536)).pin b (p.2.2 / 65536)).getD s)) s

/-- The collective that ran on comes back: at the head of its channel, where one that has completed meanwhile gives its record (R402). -/
def State.resumeCol (s : State) (x : SavedLaunch) : State :=
  match x.col with
  | none => s
  | some c =>
    let s := (s.movePins x.core.cfg.die s.core.cfg.die c).updEngine 2 fun q => { q with cmds := c :: q.cmds }
    if c.status.isSome ∧ (s.engineQ 2).blocked.isEmpty then s.completeCmd 2 c else s

/-- A saved launch stands on clusters again. Where the modelled core has been placed for another launch meanwhile, the restored launch runs on
cores that the model does not hold (log 4). The cores of an index that a die's loss had left without a cluster start afresh (R131). -/
def State.restoreAt (s : State) (x : SavedLaunch) (l : List Nat) : State :=
  let idx := if x.own ∧ !s.core.cfg.running ∧ !s.dev.jobs.any s.holdsOwn then x.job.ownIdx else none
  let j := { x.job with clusters := l, ownIdx := idx, phase := .running }
  let s := s.updDev fun d => { d with saved := d.saved.filter fun y => y.job.id ≠ j.id }
  let s := (s.updJob j.id fun _ => j).loadLm x j
  let s := match s.part.tierOf x.base with
    | some t => s.acctAdd j.cx (5 + t) x.size
    | none => s
  let lost := (List.range l.length).filter fun i => decide (x.job.clusters.getD i 0 = 255)
  match idx with
  | none => s.fillClusters j lost
  | some i =>
    let s := (s.fillClusters j lost).moveCore (l.getD i 0)
    let s := (s.resumeCore x j).loadRecord (x.base + 0x10000 + x.core.cfg.coreIdx * 0x300000)
    (((s.resumePawns x).rebaseAll (s.rebase x.job.clusters l)).updCore fun c => { c with engQ := resubmitAll c.engQ }).resumeCol x

/-- A saved launch is not ready to resume: its collective still runs where its core is taken, its context is not served, a dump of the context has not marked its pages (R427), or a
launch of a higher level waits (R117). -/
def State.restoreWaits (s : State) (x : SavedLaunch) : Bool :=
  !s.launchesRun || !s.ctxServed x.job.cx || (s.core.cfg.running && x.col.any fun c => c.status.isNone) ||
    (match s.dev.dump with
      | some d => decide (d.cx = x.job.cx) && !d.marked
      | none => false) ||
    s.dev.jobs.any fun k => s.standsBefore k && decide (x.job.prio < k.prio)

/-- R408: firmware restores a saved launch; a bad word in its region, or one that its collective has met, ends it (R415). -/
def execContextRestore (j : Nat) (s : State) : Out :=
  .next (match s.dev.saved.find? fun x => x.job.id = j with
    | none => s
    | some x =>
      if x.cause = 0x1DF then (s.dropSaved j).finishJob x.job 7
      else if s.restoreWaits x then s
      else match s.restorePlace x with
        | none => s
        | some l =>
          if s.pmBad x.base x.size then
            ((s.pmError x.job.cx x.base).dropSaved j).finishJob x.job 7
          else
            let b := s.beatFor x.job
            if b.1 then b.2.restoreAt x l else b.2)

/-! ### Placement (R117, R118) -/

/-- The master pre-empts the next launch for one that does not fit (R117): its own core is asked to halt; a launch that does not
run on the modelled core is saved in the step. -/
def State.preemptFor (s : State) (j : Job) : State :=
  match (s.victims j.prio).find? fun v => !(s.holdsOwn v && s.core.preempt.isSome) with
  | none => s
  | some v =>
    if s.holdsOwn v && s.core.cfg.running then s.request 0x1D7 0
    else
      match s.saveRegion v.cx (8 * v.clusters.length) with
      | some r => s.saveAway v 0x1D7 r
      | none => s

/-- R118: the master places a launch on free clusters, or makes room for it. -/
def execLaunchPlacement (j : Nat) (s : State) : Out :=
  .next (match s.job j with
    | none => s
    | some j =>
      if j.phase ≠ .placing ∨ j.todo ≠ [] ∨ !s.launchesRun then s
      else if s.queueHeld j && decide (j.clusters = []) then s
      else if 255 ∈ j.clusters then s.withLaunch j j.hdr fun s => s.replaceLost j
      else if s.launchWaits j || s.resumeWaits j then s
      else if s.placeStatus j ≠ 0 then s.failStart j (s.placeStatus j)
      else
        let held := fun (s : State) => s.updJob j.id fun j => { j with waits := true }
        match s.chooseClusters j (s.clusterFree j.cx) with
        | some l =>
          let b := s.beatFor j
          if b.1 then s.withLaunch j j.hdr fun s => s.placeAtClusters j l else b.2
        | none => if s.fitsSoon j then held s else held (s.preemptFor j))

/-- The steps of save and restore that are ready. Of the order in which several saved launches resume the spec says nothing: each that may is ready,
and they stand in the order of their saves (DESIGN CHOICE, log 73). A launch that a double trap or a trap without a handler ended resumes only when
the runtime has it restored (R398). -/
def State.preemptSteps (s : State) : List (Ctx × Instr) :=
  let at0 := fun (i : Instr) => (({} : Ctx), i)
  let fits := match s.ownJob with
    | some j => (s.saveRegion j.cx (8 * j.clusters.length)).isSome ||
      (match s.core.preempt with
        | some (c, _) => decide (c ≠ 0x1D7) && decide (c ≠ 0x1D6)
        | none => true)
    | none => true
  (if s.core.saving && s.drained && fits then [at0 .contextSave] else []) ++
    (s.dev.saved.filter fun x => decide (x.cause = 0x1DF) ||
      (decide (x.cause.toNat / 8 ≠ 7) && !s.restoreWaits x && (s.restorePlace x).isSome)).map
      fun x => at0 (.contextRestore x.job.id)

end Sys2Proof.Machine
end

