-- ==== Sys2Proof/Machine/Fence.lean ====
section
/-! DEFINITION. Scrubbing, verdicts and fences (29_errors R414 to R420), the loss of a die and the election of a master (05_launch
R129 to R131). -/

namespace Sys2Proof.Machine

/-- Bits of a register are set. -/
def State.orReg (s : State) (off v : Nat) : State := s.setDevReg off (s.devReg off ||| v)

/-- Clusters are lost to a launch (R131, R419): an idempotent one has each lost index placed again, with its cores started afresh;
another ends with the status. An index all of whose cores are complete is not run again. -/
def State.loseFor (s : State) (lost : Nat → Bool) (st : Nat) (j : Job) : State :=
  if j.kind ≠ 1 ∨ !(j.clusters.any lost) then s
  else
    let own := s.holdsOwn j && (s.core.cfg.running || s.core.saving)
    let ownLost := own && lost s.clusterNo
    if hdrIdem j.hdr then
      let done := fun g i => decide ((j.id, i) ∈ s.dev.doneClus) && (!own || decide (g ≠ s.clusterNo))
      let clusters := j.clusters.zipIdx.map fun x => if lost x.1 && !done x.1 x.2 then 255 else x.1
      let s := (s.clearHalts (j.clusters.filter lost)).updJob j.id fun j => { j with clusters := clusters, phase := if 255 ∈ clusters then .placing else j.phase }
      if ownLost then s.stopCore else s
    else
      let s := s.finishJob j st
      if own then s.stopCore else s

/-- Clusters are lost to every launch that holds one of them. -/
def State.loseClusters (s : State) (lost : Nat → Bool) (st : Nat) : State :=
  s.dev.jobs.foldl (fun s j => match s.job j.id with
    | some k => s.loseFor lost st k
    | none => s) s

/-- A cluster of a die is fenced, by its physical number (R419, R420). -/
def State.fenceCluster (s : State) (d c : Nat) : State :=
  let per := s.part.clustersPerDie
  (s.orReg (0x730 + 8 * d) (2 ^ c)).loseClusters (fun g => decide (g / per = d) && decide (physCluster (s.part.fused.getD d 0) (g % per) = c)) 7

/-- A slice of a die is fenced, and its die is remapped over the live ones: no line stays in any slice of the die, nor a bad word of one (R233). -/
def State.fenceSlice (s : State) (d i : Nat) : State :=
  ((s.orReg (0x760 + 8 * d) (2 ^ i)).updDev fun x => { x with l2 := x.l2.filter fun line => s.part.homeDie (64 * line) ≠ d }).heal fun l => match l with
    | .l2 w => decide (s.part.homeDie (8 * w) = d)
    | _ => false

/-- A stack is fenced: every access to its range meets a machine check. -/
def State.fenceStack (s : State) (i : Nat) : State := s.orReg 0x728 (2 ^ (6 + i))

/-- Dies that are not fenced. -/
def State.liveDies (s : State) : List Nat := (List.range 6).filter fun d => !bit (s.devReg 0x728) d

/-- When the master's die is lost, the lowest live die is master; its first beat comes at its own time (R130, R215). -/
def State.electMaster (s : State) : State :=
  if s.dev.master ∈ s.liveDies then s
  else match s.liveDies with
    | [] => s
    | d :: _ => (s.updDev fun x => { x with master := d }).updDie fun x => { x with exempt := true, beatDue := none }

/-- A die is fenced with its slices, clusters and stacks (R419). -/
def State.fenceDie (s : State) (d : Nat) : State :=
  if bit (s.devReg 0x728) d ∨ 6 ≤ d then s
  else
    let per := s.part.clustersPerDie
    let s := s.orReg 0x728 (2 ^ d + 2 ^ (6 + 2 * d) + 2 ^ (7 + 2 * d))
    let s := (s.orReg (0x730 + 8 * d) 0xFFFF).orReg (0x760 + 8 * d) (2 ^ 64 - 1)
    (s.electMaster).loseClusters (fun g => decide (g / per = d)) 6

/-- R130: a heartbeat of a die's distributor arrives. -/
def execHeartbeat (die : Nat) (s : State) : Out := .next (s.updDev fun d => { d with missed := assocErase d.missed die })

/-- R130: a die's distributor misses a heartbeat; with the third in a row the die is fenced. -/
def execHeartbeatLoss (die : Nat) (s : State) : Out :=
  .next (
    let n := assocGet s.dev.missed die 0 + 1
    let s := s.updDev fun d => { d with missed := assocSet d.missed die n }
    if 3 ≤ n then s.fenceDie die else s)

/-- The dies of a link (R214). -/
def linkPair (l : Nat) : Nat × Nat := [(0, 1), (1, 2), (3, 4), (4, 5), (0, 3), (1, 4), (2, 5)].getD l (6, 6)

/-- The number of the link between two dies. -/
def linkNo (a b : Nat) : Nat := ((List.range 7).find? fun l => decide (linkPair l = (min a b, max a b))).getD 7

/-- R237, R418: a link does not retrain within 100 µs: the higher-numbered die of its pair is fenced, and the lasting fault is reported (R420). -/
def execLinkRetrainTimeout (l : Nat) (s : State) : Out :=
  .next (if 7 ≤ l then s else (s.fenceDie (linkPair l).2).errRecord 4 false 3 (linkPair l).2 l 0 0xFFF 0)

/-- The patrol of a store reads an address: L2 slices the lines of both tiers, the base dies the HBM, the controllers the second tier (R413, R416). -/
def State.patrols (s : State) (store addr : Nat) : Bool :=
  match store with
  | 1 => decide (s.part.homeDie addr < 6)
  | 2 => decide (s.part.tierOf addr = some 0)
  | 3 => decide (s.part.tierOf addr = some 1)
  | _ => false

/-- The word of a store at an address is bad. -/
def State.storeBad (s : State) (store addr : Nat) : Bool :=
  if store = 1 then decide (ErrLoc.l2 (addr / 8) ∈ s.core.struck) else decide (addr / 32 ∈ s.badPm)

/-- The word of a store at an address turns bad. -/
def State.markBad (s : State) (store addr : Nat) : State :=
  if s.storeBad store addr then s
  else if store = 1 then s.updCore fun c => { c with struck := c.struck ++ [.l2 (addr / 8)] }
  else { s with badPm := s.badPm ++ [addr / 32] }

/-- The unit of a store at an address in the sense of R420 (log 59). -/
def State.patrolUnit (s : State) (store addr : Nat) : Nat :=
  if store = 1 then s.sliceGroup addr else if store = 2 then addr / 4096 % 12 else Config.channelOf (addr / 64)

/-- R416: the patrol reads a codeword of a store: `uncorr` says that it finds an error that it cannot correct. Such a word, and one that was bad
before, is recorded, with a record that names no context; a correctable error changes nothing that can be seen (R414, R415, R420). -/
def execPatrolScrub (store addr : Nat) (uncorr : Bool) (s : State) : Out :=
  .next (if s.patrols store addr && (uncorr || s.storeBad store addr) then
    (s.markBad store addr).errRecord store true 0 (s.part.homeDie addr) (s.patrolUnit store addr) 0 0xFFF addr
  else s)

/-- The smallest unit that holds a lasting fault is fenced (R418): a cluster by its physical number, a slice, a stack, a channel,
or the higher-numbered die of a link. -/
def State.fenceUnit (s : State) (store die unit : Nat) : State :=
  match store with
  | 0 => if die < 6 ∧ unit < 16 then s.fenceCluster die unit else s
  | 1 => if die < 6 ∧ unit < 64 then s.fenceSlice die unit else s
  | 2 => if unit < 12 then s.fenceStack unit else s
  | 3 => if unit ∈ s.dev.fencedCh then s else s.updDev fun d => { d with fencedCh := d.fencedCh ++ [unit] }
  | 4 => s.fenceDie (linkPair unit).2
  | _ => s

/-- A cluster, by its physical number on a die, holds a launch. -/
def State.holdsLaunch (s : State) (die c : Nat) : Bool :=
  s.dev.jobs.any fun j => j.clusters.any fun g =>
    decide (g / s.part.clustersPerDie = die) && decide (physCluster (s.part.fused.getD die 0) (g % s.part.clustersPerDie) = c)

/-- The test that may come to its end in a unit of a store, for L2 a slice: that of a core SRAM only while its cluster holds no launch (R417). -/
def State.testAt (s : State) (store die unit : Nat) : Option ErrTest :=
  s.dev.tests.find? fun t => decide (t.store = store) && decide (t.die = die) && decide (t.unit = unit) &&
    !(decide (store = 0) && s.holdsLaunch die unit)

/-- The verdict that a test reaches: a lasting fault of a core SRAM or of an L2 slice has no spare, and a link goes on with its spare lanes; a row of
the memories is repaired as long as one is left, of which the model holds no number (R418, log 59). -/
def verdictOf (store verdict : Nat) : Nat := if verdict = 1 then 1 else if store ≤ 1 then 3 else if 4 ≤ store then 2 else verdict

/-- R417, R418: a test reaches its verdict: 1 a soft error, which is counted; 2 a lasting fault that is repaired; 3 one that is
fenced. The record names the tested location (R420). -/
def execSelfTestVerdict (store die unit verdict : Nat) (s : State) : Out :=
  .next (match s.testAt store die unit with
    | none => s
    | some t =>
      if verdict = 1 ∨ verdict = 2 ∨ verdict = 3 then
        let v := verdictOf store verdict
        let s := s.updDev fun d => { d with tests := d.tests.erase t }
        let s := if v = 1 then s.setDevReg 0x718 ((s.devReg 0x718 + 1) % 2 ^ 64)
          else if v = 3 then s.fenceUnit store die unit
          else s
        s.errRecord store t.uncorr v die (if store = 1 then unit / 4 else unit) t.core 0xFFF t.idx
      else s)

/-- The words that the next patrol of the memories and of L2 finds bad, once its period is over (R416). -/
def State.scrubTick (s : State) : State :=
  if Config.microsecondPasses s.free then
    let hours := max 1 (bits (s.devReg 0x720) 0 16)
    if s.dev.scrubUs + 1 < hours * 3600000000 then s.updDev fun d => { d with scrubUs := d.scrubUs + 1 }
    else
      let l2 := s.core.struck.filterMap fun l => match l with
        | .l2 w => some (({} : Ctx), Instr.patrolScrub 1 (8 * w) false)
        | _ => none
      let pm := s.badPm.map fun w => (({} : Ctx), Instr.patrolScrub (if s.part.tierOf (32 * w) = some 0 then 2 else 3) (32 * w) false)
      (s.updDev fun d => { d with scrubUs := 0 }).setAgenda (s.agenda ++ l2 ++ pm)
  else s

end Sys2Proof.Machine
end

