-- ==== Sys2Proof/Machine/Peers.lean ====
section
/-! DEFINITION. What other cores and dies do in a tick to what the modelled core shares with them (log 65): accesses of its local memory and of its
rings, its write pointers, the cluster's range-lock table, timed transfers for it, the row queue, and excursions that begin elsewhere. -/

namespace Sys2Proof.Machine

/-- The core of a logical index of the launch (R15). -/
def State.coreAt (s : State) (i : Nat) : Option CoreLoc :=
  (s.core.cfg.clusters[i / 8]?).map fun g => ⟨i / 8, g / s.part.clustersPerDie, g % s.part.clustersPerDie, i % 8⟩

/-- Ticks that a value on its way from a core of the launch takes, with whether it comes from another cluster: fixed within a die, and within the
window of R25 from another die, where a free value says when; none where no path leads here (R23, R25, R226). The sender's SPAN, where it is not 0,
stands for the hops (R225). -/
def State.transferTicks (s : State) (l : CoreLoc) (phase span : Nat) : Option (Nat × Bool) :=
  let c := s.core.cfg
  let h := if span ≠ 0 then span else hopCount l.die c.die (s.meshPos l.die l.clus l.core) (s.meshPos c.die c.dieClus c.coreInClus)
  let d := 2 + (phase + 1023) / 1024
  if s.sameCluster l then some (2, false)
  else if l.die = c.die then some (2 + h, true)
  else if linked l.die c.die then
    let first := max 1 (24 + h - d)
    some (first + Config.freeChoice s.free % (24 + h + d + 1 - first), true)
  else none

/-- A command of the core waits for write pointer n of the core at a base, as the one of a lower cluster channel than `ch` (R179). -/
def State.ownWaits (s : State) (k ch : Nat) : Bool :=
  (List.range 2).any fun n => match s.headCmd n with
    | some c => !c.started && decide (s.drives n c = some k) && decide (2 * s.core.cfg.coreInClus + n < ch)
    | none => false

/-- A command of the core drives a write pointer. -/
def State.ownDrives (s : State) (k : Nat) : Bool :=
  (List.range 2).any fun n => match s.headCmd n with
    | some c => c.started && decide (s.drives n c = some k)
    | none => false

/-- The place of an act that asks for banks: rank 2 by core, rank 3 the oldest first and then by channel, ring operations in the order of their arrival,
the others by core (R68, R208). -/
def PeerAct.place : PeerAct → Option Nat
  | .access rank who age _ _ _ =>
    some (if rank ≤ 2 then placeOf 2 who 0 else if rank = 3 then placeOf 3 (2 ^ 40 - 1 - age) who else placeOf 6 who 0)
  | a => a.ringAt.map fun x => x.2

/-- An access has waited another tick. -/
def PeerAct.older : PeerAct → PeerAct
  | .access rank who age key n v => .access rank who (age + 1) key n v
  | .ringput age desc header len payload => .ringput (age + 1) desc header len payload
  | a => a

/-- The place of an act among those of its phase: acts on the row queue go by the logical index of their core, levelled entries by their source
(R134, R135). -/
def PeerAct.row : PeerAct → Nat
  | .rowPost core _ _ => core
  | .rowClaim core _ => core
  | .levelled source _ _ _ => source
  | _ => 0

/-- When in the tick an act that asks for no bank takes place: 0 before the core, 1 before the banks are served, 2 after, 3 at the end; posts and claims go by
the logical index of their core (R135). A debug event before a bundle issues halts the cluster in the tick, any other with the next (R64, R422). -/
def PeerAct.phase (own : Nat) : PeerAct → Nat
  | .wptr _ _ _ => 1
  | .rowPost core _ _ => if core < own then 0 else 2
  | .rowClaim core _ => if core < own then 1 else 3
  | .levelled _ _ _ _ => 3
  | .debugHit _ source _ who _ => if who = some .primary ∧ source ≠ 3 then 0 else 3
  | _ => 0

/-- Another waiting act drives the pointer from a lower cluster channel (R179). -/
def State.lowerDrive (s : State) (base n ch : Nat) : Bool :=
  s.core.peers.any fun a => match a with
    | .drive b m c => decide (b = base) && decide (m = n) && decide (c < ch)
    | _ => false

/-- A write of another core's primary or engine: what would fall in words 0 to 15 of the constant window is not written (R20, R138). -/
def State.plainStore (s : State) (key n v : Nat) : State :=
  let skip := min n (0x80 - key % 2 ^ 21)
  if skip = n then s else s.lmWrite (key + skip) (n - skip) (v / 256 ^ skip)

/-- CXL.cache is negotiated, or is not: then feature bit 1 is off, and its acceptance stays 0 (R136, R428). -/
def State.setCxl (s : State) (on : Bool) : State :=
  let s := s.updDev fun d => { d with cxlOff := !on }
  if on then s else s.setDevReg 0x44 (s.devReg 0x44 &&& s.featw0.toNat)

/-- An uncorrectable error strikes a word of a store (R413). -/
def State.strikeAt (s : State) (l : ErrLoc) : State :=
  match l with
  | .lm w => { s with badLm := if w ∈ s.badLm then s.badLm else s.badLm ++ [w] }
  | .pm c => { s with badPm := if c ∈ s.badPm then s.badPm else s.badPm ++ [c] }
  | l => s.updCore fun c => { c with struck := if l ∈ c.struck then c.struck else c.struck ++ [l] }

/-- The module of the cluster takes an event of another of its cores for one that halts: a breakpoint or a watchpoint that is set for the core, or a
brk; those of threads where events are not routed to them (R421, R422). -/
def State.peerEvent (s : State) (core source index : Nat) (who : Option Agent) (addr : Nat) : Bool :=
  s.dbgOwned && decide (core < 8) && decide (core ≠ s.core.cfg.coreInClus) && (decide (who = none) || !s.dbgRoute) &&
    match source with
    | 1 => let b := s.dbg (0x10 + 8 * index); decide (index < 4) && bit b 21 && bit b (22 + core) && decide (bits b 3 18 = addr / 8)
    | 2 => let c := s.dbg (0x38 + 16 * index); decide (index < 4) && decide (bits c 6 2 ≠ 0) && bit c (8 + core)
    | 3 => decide (who ≠ none) && s.breaksOn
    | _ => false

/-- One act of another agent; none while it has to wait. -/
def State.peerAct (s : State) : PeerAct → Option State
  | .access rank _ _ key n v =>
    let ws := bankWords [key] n
    if !(ws.all s.wordFree) then none
    else
      let s := (s.takeWords ws).watchOther (lmSpan key n v.isSome)
      some (match v with
        | some x => if rank ≤ 3 then s.plainStore key n x else s.ringWrite key n x
        | none => s)
  | .ringput age desc header len payload =>
    match readRing s.lm desc with
    | none => some s
    | some g =>
      let ws := bankWords [desc] 32 ++ putWords desc g len
      let place := ringPlace age (bits header 24 16) (bits header 20 4)
      if ws.all s.wordFree && !s.ringAhead desc place then
        let s := ws.foldl (fun s w => s.watchOther ⟨false, 8 * w, 8, decide (8 * w / 32 = desc / 32), true⟩) (s.takeWords ws)
        some (if s.lmBad (bankWords [desc] 32) then s.lmError s.core.cfg.cx (bankWords [desc] 32) else (s.ringPut desc g header len payload).1)
      else none
  | .wptr base n v => some (s.setWptr base (n % 2) v)
  | .drive base n ch =>
    let k := 2 * base + n
    if s.ownDrives k || s.ownWaits k ch || s.core.drivers.any (fun d => decide (d.1 = k)) || s.lowerDrive base n ch then none
    else some (s.updCore fun c => { c with drivers := c.drivers ++ [(k, ch)] })
  | .undrive base n ch => some (s.updCore fun c => { c with drivers := c.drivers.filter fun d => d ≠ (2 * base + n, ch) })
  | .lock l =>
    if s.core.locks.length + s.core.peerLocks.length < 64 then
      some (s.updCore fun c => { c with peerLocks := c.peerLocks ++ [{ l with fresh := true }] })
    else none
  | .unlock cmd => some (s.updCore fun c => { c with peerLocks := c.peerLocks.filter fun l => l.cmd ≠ cmd })
  | .collective group seq => some (if s.seqFresh group seq then s.acceptSeq group seq else s)
  | .transfer sender phase span vec port value =>
    some (match (s.coreAt sender).bind fun l => s.transferTicks l phase span with
      | none => s
      | some (n, far) => s.bumpFree.updPrim fun p => { p with deposits := p.deposits ++ [⟨n, vec, port, value, sender, far⟩] })
  | .rowPost _ cx v => some (s.rowPostFor cx v)
  | .rowClaim _ cx => some (s.updDie fun d => { d with rowq := (takeRow cx d.rowq).2 })
  | .pawnOp core thread word pc => some (s.traceOp core thread word pc)
  | .traced core kind thread payload => some (s.tracePeer core kind thread payload)
  | .levelled _ entry args issuer =>
    some (if s.core.cfg.det || !s.feature 6 then s else (s.addTask ⟨entry, args, issuer, true, s.core.barrelCycle⟩).1)
  | .clusterDone job idx => some (s.updDev fun d => { d with doneClus := d.doneClus ++ [(job, idx)] })
  | .excursion l => some (if linked s.core.cfg.die l then s.enterExcursion (some l) else s)
  | .farExcursion d on =>
    some (if d = s.core.cfg.die ∨ 6 ≤ d then s else if on then s.enterFar d else s.updDev fun x => { x with excDies := x.excDies.filter fun e => e ≠ d })
  | .badFlit d =>
    some (if linked s.core.cfg.die d then (s.enterExcursion none).askTest ⟨false, 4, s.core.cfg.die, linkNo s.core.cfg.die d, 0, 0⟩ else s)
  | .provision image => some (if s.hostOpen then s else { s with part := { s.part with flash := image } })
  | .cxlCache on => some (s.setCxl on)
  | .aperture base => some (s.updDev fun d => { d with bar2 := base })
  | .supImage cx image => some (s.updDev fun d => { d with sup := (cx, image) :: d.sup.filter fun x => x.1 ≠ cx })
  | .debugHit core source index who addr => some (if s.peerEvent core source index who addr then s.haltBy core source index who addr else s)
  | .strike l => some (s.strikeAt l)
  | .corrected t => some (s.askTest { t with uncorr := false })
  | .dieFailed die => some (s.fenceDie die)

/-- An act takes place and leaves the list, or waits. -/
def State.tryPeer (s : State) (a : PeerAct) : State :=
  match s.peerAct a with
  | some t => t.updCore fun c => { c with peers := c.peers.erase a }
  | none => s

/-- Insert an act behind those of its key and of lower ones. -/
def insertAct (f : PeerAct → Nat) (x : PeerAct) : List PeerAct → List PeerAct
  | [] => [x]
  | y :: l => if f x < f y then x :: y :: l else y :: insertAct f x l

/-- Acts in the order of a key; those of one key as they came. -/
def sortActs (f : PeerAct → Nat) (l : List PeerAct) : List PeerAct := l.foldl (fun acc x => insertAct f x acc) []

/-- The acts of one phase. -/
def State.peersAct (s : State) (phase : Nat) : State :=
  (sortActs PeerAct.row (s.core.peers.filter fun a => a.place.isNone && decide (a.phase s.core.cfg.coreIdx = phase))).foldl State.tryPeer s

/-- The acts that ask for banks and come before a place, or all of them (R68). -/
def State.servePeers (s : State) (place : Option Nat) : State :=
  (sortActs (fun a => a.place.getD 0) (s.core.peers.filter fun a => match a.place, place with
    | some k, some p => decide (k < p)
    | some _, none => true
    | none, _ => false)).foldl State.tryPeer s

end Sys2Proof.Machine
end

