-- ==== Sys2Proof/Machine/Tenancy.lean ====
section
/-! DEFINITION. Contexts in their slots, supervisor interrupts, and accounting (24_tenancy R371, R372, R377 to R379, 26_traps
R397). -/

namespace Sys2Proof.Machine

/-! ### Residency (R371, R372) -/

def slotReg (slot : Nat) : Nat := 0x400 + 8 * slot

/-- The slot is being evicted. -/
def State.evicting (s : State) (slot : Nat) : Bool := bit (s.devReg (slotReg slot)) 13

/-- Launches of a context that hold clusters are asked to leave (R372), also one that a loss has left an index to place: the modelled core's at its
next boundary; any other is saved once a region of its pool fits. -/
def State.preemptCtx (s : State) (cx : Nat) : State :=
  s.dev.jobs.foldl (fun s j =>
    if j.kind ≠ 1 ∨ j.cx ≠ cx ∨ j.clusters = [] ∨ !(j.phase = .running ∨ j.phase = .placing) then s
    else if s.holdsOwn j && (s.core.cfg.running || s.core.saving) then (if s.core.saving then s else s.request 0x1D7 0)
    else match s.saveRegion cx (8 * j.clusters.length) with
      | some r => s.saveAway j 0x1D7 r
      | none => s) s

/-- The driver starts the eviction of a slot. -/
def State.startEvict (s : State) (slot : Nat) : State :=
  match s.slotCtx slot with
  | none => s
  | some cx => if s.evicting slot then s else (s.setDevReg (slotReg slot) (setBits (s.devReg (slotReg slot)) 13 1 1)).preemptCtx cx

/-- R371: the driver writes a slot; not while it is being evicted, and not with a context that another slot holds. EVICT starts an eviction. -/
def execCtxslotWrite (slot : Nat) (v : BitVec 64) (s : State) : Out :=
  .next (let cx := bits v.toNat 0 12
    if 64 ≤ slot || s.evicting slot then s
    else if match s.slotOf cx with
        | some n => decide (n ≠ slot)
        | none => false then s
    else
      let s := s.setDevReg (slotReg slot) (bits v.toNat 0 13)
      if bit v.toNat 13 then s.startEvict slot else s)

/-- R372: the driver evicts a slot's context. -/
def execCtxslotEvict (slot : Nat) (s : State) : Out := .next (if slot < 64 then s.startEvict slot else s)

/-- Nothing of a context runs: no launch holds clusters, and no copy or collective is under way. -/
def State.ctxQuiet (s : State) (cx : Nat) : Bool :=
  (match s.colKept with
    | some (x, _) => decide (x.job.cx ≠ cx)
    | none => true) && !(s.dev.jobs.any fun j => decide (j.cx = cx) && (decide (j.clusters ≠ []) || decide (j.phase = .ending) ||
    (decide (j.phase = .running) && (decide (j.kind = 2) || decide (j.kind = 3)))))

/-- A context's translations leave the core (R361). -/
def State.forgetCtx (s : State) (cx : Nat) : State :=
  s.updCore fun c => { c with
    tlb := c.tlb.filter fun t => !t.invalid 0 (cx + 3 * 2 ^ 12)
    tlb2 := c.tlb2.filter fun t => !t.invalid 0 (cx + 3 * 2 ^ 12)
    ptrs := c.ptrs.filter fun x => x.cx ≠ cx }

/-- A context leaves the core's caches: its lines are written back, its translations go (R241, R361, R372). -/
def State.flushCtx (s : State) (cx : Nat) : State := (if s.core.cfg.cx = cx then s.flushLines fun _ => true else s).forgetCtx cx

/-- A context that has been terminated leaves the core's caches: nothing is written back (R241). -/
def State.discardCtx (s : State) (cx : Nat) : State :=
  (if s.core.cfg.cx = cx then s.updCore fun c => { c with cache := [] } else s).forgetCtx cx

/-- A slot holds no context any more; its manifest is no longer valid (R384). -/
def State.clearSlot (s : State) (slot : Nat) : State :=
  let o := 0x170008 + 256 * slot
  (s.setDevReg (slotReg slot) (bits (s.devReg (slotReg slot)) 0 12)).setDevReg o (setBits (s.devReg o) 12 1 0)

/-- R372: the eviction of a slot's context completes; launches that still wait for a region are asked again. -/
def execEvictionCompletion (slot : Nat) (s : State) : Out :=
  .next (match s.slotCtx slot with
    | none => s
    | some cx =>
      if !s.evicting slot then s
      else if s.ctxQuiet cx then (s.flushCtx cx).clearSlot slot
      else s.preemptCtx cx)

/-- A launch of the context that does not run on the modelled core can be saved. -/
def State.canSave (s : State) (cx : Nat) : Bool :=
  s.dev.jobs.any fun j => decide (j.cx = cx) && (decide (j.phase = .running) || decide (j.phase = .placing)) && decide (j.clusters ≠ []) &&
    !(s.holdsOwn j && (s.core.cfg.running || s.core.saving)) && (s.saveRegion cx (8 * j.clusters.length)).isSome

/-- Evictions that can go on. -/
def State.evictSteps (s : State) : List (Ctx × Instr) :=
  ((List.range 64).filter fun n => s.evicting n && match s.slotCtx n with
    | some cx => s.ctxQuiet cx || s.canSave cx
    | none => false).map fun n => (({} : Ctx), .evictionCompletion n)

/-! ### Supervisor interrupts (R397) -/

/-- R397: a post to core n = 8G + core is ORed into its pending word; one to a core that runs no launch changes nothing. -/
def execSintrWrite (n : Nat) (word : BitVec 64) (s : State) : Out :=
  .next (if n = 8 * s.clusterNo + s.core.cfg.coreInClus ∧ s.core.cfg.running then s.updPrim fun p => { p with sintr := p.sintr ||| word }
  else s)

/-! ### Accounting (R377 to R379) -/

/-- An entry that the driver clears. -/
def AcctEntry.clear (e : AcctEntry) : AcctEntry := { e with epoch := e.epoch + 1, words := Vector.replicate 16 0, micro := 0 }

/-- The clearings that waited for the boundary. -/
def State.clearAccts (s : State) : State :=
  (s.dev.acctClr.foldl (fun s cx => s.updDev fun d => { d with acct := putAcct (s.acctOf cx).clear d.acct }) s).updDev fun d =>
    { d with acctClr := [] }

/-- An entry is charged a number of microjoules; ENERGY counts whole millijoules. -/
def AcctEntry.charge (e : AcctEntry) (n : Nat) : AcctEntry :=
  { e with micro := e.micro + n, words := vset e.words 10 (BitVec.ofNat 64 ((e.micro + n) / 1000)) }

/-- Word 0 of an entry. -/
def State.acctWord0 (s : State) (e : AcctEntry) : Word64 :=
  BitVec.ofNat 64 (e.cx % 4096 + b2n (s.slotOf e.cx).isSome * 2 ^ 12 + e.epoch.toNat * 2 ^ 32)

/-- An entry as it is published. -/
def State.publish (s : State) (e : AcctEntry) : AcctEntry := { e with words := vset e.words 0 (s.acctWord0 e) }

/-- The entries of the contexts that have been charged and of those that are resident; any other entry holds its context number alone. -/
def State.residents (s : State) : List AcctEntry :=
  ((List.range 64).filterMap s.slotCtx).foldl (fun l cx => if l.any fun e => decide (e.cx = cx) then l else putAcct (s.acctOf cx) l) s.dev.acct

/-- The power registers at a boundary: the power of the interval in W, one more boundary at which tokens were withheld, and the temperatures; PWRCAP
takes effect (R431). -/
def State.powerBoundary (s : State) (watts : Nat) : State :=
  let held := s.dev.withheld || decide (Config.freeChoice s.free % 2 = 1)
  let now := s.devReg 0x808
  let s := s.setDevReg 0x808 (setBits (setBits now 0 16 (min watts 0xFFFF)) 32 32 (addMod 32 (bits now 32 32) (b2n held)))
  let s := s.bumpFree.updDev fun d => { d with cap := s.devReg 0x800, withheld := false }
  (s.setDevReg 0x810 (Config.freeChoice s.free % 65536)).bumpFree

/-- R378: the interval's energy is reconciled: `emeas` microjoules were measured, and `idle` is the estimate of idle and firmware
energy. The contexts' estimates are free values. The table is then published, and clearings take effect. The power manager has held the package to the
cap in effect, and takes up PWRCAP; whether cores other than the modelled one lacked tokens, and the temperatures, are free values (R431, log 74). -/
def execAccountingBoundary (measured idle : Nat) (s : State) : Out :=
  .next (
    let emeas := min measured (1000 * s.dev.cap)
    let est := fun (e : AcctEntry) => Config.energy s.free e.cx
    let sum := (s.dev.acct.map est).foldl (· + ·) idle
    let scaled := fun e => if sum = 0 then 0 else est e * emeas / sum
    let used := (s.dev.acct.map scaled).foldl (· + ·) 0
    let acct := s.dev.acct.map fun e => e.charge (scaled e)
    let s := s.bumpFree.updDev fun d => { d with acct := acct, idleMicro := d.idleMicro + (emeas - used) }
    let s := s.setDevReg 0x348 (s.dev.idleMicro / 1000 % 2 ^ 64)
    let s := (s.updDev fun d => { d with acctSnap := s.residents.map s.publish }).setDevReg 0x350 ((s.devReg 0x350 + 1) % 2 ^ 64)
    s.powerBoundary (emeas / 1000) |>.clearAccts)

/-- R378: the driver has an entry cleared at the next boundary. -/
def execAcctclr (cx : Nat) (s : State) : Out := .next (s.updDev fun d => { d with acctClr := d.acctClr ++ [cx % 4096] })

/-- The published words of a context; an entry that the boundary found neither charged nor resident holds the context number alone. -/
def State.snapOf (s : State) (cx : Nat) : Vector Word64 16 :=
  match s.dev.acctSnap.find? fun e => e.cx = cx with
  | some e => e.words
  | none => vset (Vector.replicate 16 0) 0 (BitVec.ofNat 64 cx)

/-- R379: the management controller reads entries of the last published snapshot. -/
def execAccountingReadout (first count : Nat) (s : State) : Out :=
  .next (if 1 ≤ count ∧ count ≤ 32 ∧ first < 4096 then
    let l := (List.range (min count (4096 - first))).map fun i => s.snapOf (first + i)
    s.updDev fun d => { d with reply := .accounting (s.devReg 0x350) l }
  else s)

end Sys2Proof.Machine
end

