-- ==== Sys2Proof/Machine/Trust.lean ====
section
/-! DEFINITION. The SPDM responder, measurements and quotes (25_trust R380 to R383, R386, R387). A reply holds what the manual says
it contains; its encoding is the transport's. -/

namespace Sys2Proof.Machine

/-- The device answers. -/
def State.answerWith (s : State) (r : Reply) : State := s.updDev fun d => { d with reply := r }

/-- R382: the versions, 1.2 and 1.3. -/
def execGetVersion (s : State) : Out := .next (s.answerWith (.version [0x12, 0x13]))

/-- R382: CERT_CAP, CHAL_CAP, and MEAS_CAP with signature. -/
def execGetCapabilities (s : State) : Out := .next (s.answerWith (.capabilities true true true))

/-- R382: the one asymmetric algorithm, ECDSA over NIST P-256, and the one hash, SHA-256, by their SPDM algorithm bits. -/
def execNegotiateAlgorithms (s : State) : Out := .next (s.answerWith (.algorithms 0x10 0x1))

/-- R382: the digest of the chain in slot 0. -/
def execGetDigests (s : State) : Out := .next (s.answerWith (.digests (sha256 s.dev.cert)))

/-- R381, R382: a part of the chain in slot 0, and how many bytes follow. -/
def execGetCertificate (off len : Nat) (s : State) : Out :=
  .next (let l := (s.dev.cert.drop off).take len
    s.answerWith (.certificate l (s.dev.cert.length - off - l.length)))

/-- A request waits for the signing engine, which serves them in the order taken (R381, R387). -/
def State.sign (s : State) (r : SignReq) : State := s.updDev fun d => { d with signQ := d.signQ ++ [r] }

/-- The 40 bytes of a manifest index: MHASH, then MANLAUNCH; zeros while VALID is 0. -/
def State.manBytes (s : State) (slot : Nat) : List Byte :=
  let o := 0x170000 + 256 * slot
  if bit (s.devReg (o + 8)) 12 then s.regBytes (o + 0xA8) 32 ++ bytesLittle 8 (s.devReg o) else List.replicate 40 0

/-- One measurement block (R383); none for an index without one. Of index 0, which has no row and is not among those that return no block, the spec says
nothing: it returns none (DESIGN CHOICE, log 73). -/
def State.measureBlock (s : State) (idx : Nat) : Option MeasBlock :=
  if idx = 1 then some ⟨1, .immutableRom, sha256 s.part.rom⟩
  else if idx = 2 then some ⟨2, .firmware, s.regBytes 0x610 32⟩
  else if idx = 3 then some ⟨3, .hardwareConfig, sha256 s.part.identity⟩
  else if idx = 4 then some ⟨4, .rawBits, bytesLittle 4 (s.devReg 0x40) ++ bytesLittle 4 (s.devReg 0x44) ++ bytesLittle 4 (s.devReg 0x48)⟩
  else if 0x40 ≤ idx ∧ idx < 0x80 then some ⟨idx, .rawBits, s.manBytes (idx - 0x40)⟩
  else none

/-- The blocks that an index asks for: 0xFF for all, in increasing index. -/
def State.measureBlocks (s : State) (idx : Nat) : List MeasBlock :=
  if idx = 0xFF then (List.range 0x80).filterMap s.measureBlock else (s.measureBlock idx).toList

/-- A request for a signature waits for the end of its tick, so that a placement in the same tick is made before its blocks are read, and the signing
engine takes all of the tick in their order (R381, R387). -/
def State.ask (s : State) (a : QuoteAsk) : State := s.updDev fun d => { d with asks := d.asks ++ [a] }

/-- R382: a challenge, answered with a signature of the identity key. -/
def execChallenge (nonce : BitVec 256) (s : State) : Out := .next (s.ask (.challenge nonce))

/-- R383, R387: measurement blocks are asked for, signed where the request carries a nonce. -/
def execGetMeasurements (idx : Nat) (nonce : Option (BitVec 256)) (s : State) : Out := .next (s.ask (.measure idx nonce))

/-- R382: ERROR UnsupportedRequest. -/
def execUnsupportedSpdmRequest (code : BitVec 8) (s : State) : Out := .next (s.answerWith (.unsupported code))

/-! ### Quotes of the registers (R386, R387) -/

/-- BUSY of QCTL. -/
def State.quoteBusy (s : State) : Bool := bit (s.devReg 0x6A0) 7

/-- The 120 bytes that a quote covers. -/
def State.quoteBytes (s : State) (slot : Nat) : List Byte :=
  let o := 0x170000 + 256 * slot
  s.regBytes (o + 0xA8) 32 ++ bytesLittle 8 (s.devReg 0x6A8) ++ bytesLittle 8 (bits (s.devReg (o + 8)) 0 12) ++ s.regBytes 0x680 32 ++
    s.regBytes 0x610 32 ++ bytesLittle 8 (s.devReg 0x608)

/-- QCTL: slot, BUSY and STATUS. -/
def State.setQctl (s : State) (slot busy st : Nat) : State := s.setDevReg 0x6A0 (slot + busy * 2 ^ 7 + st * 2 ^ 8)

/-- QSIG is zero. -/
def State.clearSig (s : State) : State := s.setRegBytes 0x6B0 (List.replicate 64 0)

/-- R386: START takes a quote of a manifest block, unless one is in progress. -/
def execQuoteStart (v : BitVec 64) (s : State) : Out :=
  .next (if s.quoteBusy then s else (s.setQctl (bits v.toNat 0 6) 1 0).clearSig.ask (.quote (bits v.toNat 0 6)))

/-- A request reads its blocks whole: a quote that finds no launch, or another than QLAUNCH names, ends with its status (R386, R387). -/
def State.takeAsk (s : State) : QuoteAsk → State
  | .quote slot =>
    let o := 0x170000 + 256 * slot
    if !bit (s.devReg (o + 8)) 12 then s.setQctl slot 0 1
    else if s.devReg o ≠ s.devReg 0x6A8 then s.setQctl slot 0 2
    else s.sign (.quote (s.quoteBytes slot))
  | .measure idx (some nonce) => s.sign (.measurements (s.measureBlocks idx) nonce)
  | .measure idx none => s.answerWith (.unsignedMeasurements (s.measureBlocks idx))
  | .challenge nonce => s.sign (.challenge nonce (sha256 s.dev.cert))

/-- The requests of the tick read their blocks, in the order taken. -/
def State.takeAsks (s : State) : State := s.dev.asks.foldl State.takeAsk (s.updDev fun d => { d with asks := [] })

/-- The signature as bytes: r then s, 32 bytes each, big-endian. -/
def State.signature (s : State) (digest : BitVec 256) : BitVec 512 := Config.signature s.free digest

/-- R386, R387: the signing engine completes the request that it took first. -/
def execQuoteSigned (s : State) : Out :=
  .next (match s.dev.signQ with
    | [] => s
    | r :: rest =>
      let t := s.bumpFree.updDev fun d => { d with signQ := rest }
      match r with
      | .quote bytes =>
        let sig := s.signature (BitVec.ofNat 256 (ofBytes (sha256 bytes).reverse))
        (t.setRegBytes 0x6B0 (bytesBig 64 sig.toNat)).setDevReg 0x6A0 (setBits (s.devReg 0x6A0) 7 1 0)
      | .challenge nonce digest => t.answerWith (.challengeAuth nonce digest (s.signature (Config.transcript s.free)))
      | .measurements blocks nonce => t.answerWith (.measurements blocks nonce (s.signature (Config.transcript s.free))))

/-! ### Measured start (R380) -/

/-- The boot ROM measures the image in flash, checks its signature, and starts the firmware or refuses it. -/
def State.boot (s : State) : State :=
  let s := s.setRegBytes 0x610 (sha256 s.part.flash)
  let st := if Config.imageSigned s.part.flash s.part.vendKeyH then 2 else 3
  s.setDevReg 0x600 st

end Sys2Proof.Machine
end

