-- ==== Sys2Proof/Machine/Debug.lean ====
section
/-! DEFINITION. Halt and resume of clusters and the dump engine (30_debug R421, R423, R427). -/

namespace Sys2Proof.Machine

/-! ### Halts (R423) -/

def dbgBase (g : Nat) : Nat := 0x180000 + 0x400 * g

/-- The launch of the module's owner that holds another cluster. -/
def State.ownerJob (s : State) (g : Nat) : Option Job :=
  let ctl := s.devReg (dbgBase g)
  if bit ctl 18 then s.dev.jobs.find? fun j => decide (j.cx = bits ctl 6 12) && decide (g ∈ j.clusters) else none

/-- Another cluster halts: its registers record the first event, and XOUT passes the halt on. -/
def State.haltOther (s : State) (g source : Nat) : State :=
  let o := dbgBase g
  let ctl := s.devReg o
  match s.ownerJob g with
  | none => s
  | some j =>
    if bit ctl 3 then s
    else
      let s := (s.setDevReg (o + 8) (dbgStat 0 source 0 false 0 0)).setDevReg o (setBits ctl 3 1 1)
      if bit ctl 4 && decide (source ≠ 4) then
        s.crossHalts (j.clusters.filter fun h => h ≠ g ∧ h ≠ 255)
      else s

/-- A cluster halts for a request or a cross trigger. -/
def State.haltCluster (s : State) (g source : Nat) : State :=
  if g = s.clusterNo ∧ s.core.cfg.running then (if s.dbgOwned && !s.core.saving then s.debugHalt source 0 false 0 0 else s)
  else s.haltOther g source

/-- R423: the driver requests a halt. -/
def execDbgHaltreq (g : Nat) (s : State) : Out := .next (s.haltCluster g 0)

/-- R423: a halt elsewhere in the launch reaches a cluster. -/
def execCrossTriggerHalt (g : Nat) (s : State) : Out := .next (s.haltCluster g 4)

/-- The cores of the modelled cluster go on: the first bundle is exempt from breakpoints, and pawns that a debug event parked rejoin. -/
def State.resumeOwn (s : State) : State :=
  let s := s.applyWindow.updPrim fun p => { p with halted := false, haltNext := false, th := { p.th with exempt := true } }
  let keep := s.core.preempt.isSome
  s.setPawns (vmap (fun p => { p with
    status := if p.status = PStatus.halted ∧ !keep then PStatus.running else p.status }) s.pawns)

/-- R423: RESUME clears HALTED on that cluster. -/
def execDbgResume (g : Nat) (s : State) : Out :=
  .next (if bit (s.devReg (dbgBase g)) 3 then
      let s := s.clearHalted g
      if g = s.clusterNo ∧ (s.prim.halted ∨ s.prim.haltNext) then s.resumeOwn else s
    else s)

/-! ### Dumps (R427) -/

/-- The leaves below a table: virtual address, physical address and length. -/
def State.leaves (s : State) : Nat → Nat → Nat → List (Nat × Nat × Nat)
  | 0, _, _ => []
  | n + 1, table, va => (List.range 1024).flatMap fun i =>
    let e := s.homeRead (table + 8 * i) 8
    let va := va + i * 2 ^ levelShift n
    if !pteValid e || s.part.malformed e n then []
    else if pteLeaf e then [(va, ptePa e, 2 ^ levelShift n)]
    else s.leaves n (pteTable e) va

/-- The pieces of 64 KiB of a run of physical memory, as they stand. -/
def State.pieces (s : State) (va : Option Nat) (pa n : Nat) : List DumpPage :=
  (List.range (n / 65536)).map fun i =>
    let a := pa + 65536 * i
    { va := va.map fun v => v + 65536 * i
      pa := a
      cells := (s.pm.filter fun c => decide (a ≤ c.1) && decide (c.1 < a + 65536)).map fun c => (c.1 - a, c.2) }

/-- Every mapped page of a context, then its save regions, in increasing address order. -/
def State.dumpPages (s : State) (cx : Nat) : List DumpPage :=
  let root := bits (s.devReg (0x100000 + 64 * cx)) 13 39 * 8192
  let regions := (List.range (2 ^ 20)).flatMap fun i => (s.dev.saved.filter fun x =>
    decide (x.job.cx = cx) && decide (x.base = s.devReg (0x50000 + 16 * cx) + 65536 * i))
  ((s.leaves 4 root 0).flatMap fun x => s.pieces (some x.1) x.2.1 x.2.2) ++
    regions.flatMap fun x => s.pieces none x.base x.size

/-- The dump ends with a STATUS; what waited for a page goes on. -/
def State.endDump (s : State) (st : Nat) : State :=
  match s.dev.dump with
  | none => s
  | some d =>
    let s := s.updDev fun x => { x with dump := none }
    (s.setDevReg 0x70000 (d.cx + st * 2 ^ 14)).wakeBlocked 0 (d.cx + 3 * 2 ^ 12)

/-- R427: START pre-empts the context's launches; once they are saved its pages are marked, and they may resume. -/
def execDumpStart (v : BitVec 64) (s : State) : Out :=
  .next (if bit (s.devReg 0x70000) 13 then s
  else
    let cx := bits v.toNat 0 12
    ((s.setDevReg 0x70000 (cx + 2 ^ 13)).updDev fun d => { d with dump := some ⟨cx, false, [], [], 0, false⟩ }).preemptCtx cx)

/-- No launch of a context holds clusters. -/
def State.ctxOut (s : State) (cx : Nat) : Bool := !(s.dev.jobs.any fun j => decide (j.cx = cx) && decide (j.clusters ≠ []))

/-- The bytes of a piece as they stood when the pages were marked: those of a page that has been written since stand in the staging area. -/
def State.dumpCells (s : State) (d : Dump) (p : DumpPage) : List Host.Cell :=
  match p.va.bind fun v => d.staged.find? fun x => x.1 = v with
  | some x =>
    let a := s.stagePage x.2
    (s.pm.filter fun c => decide (a ≤ c.1) && decide (c.1 < a + 65536)).map fun c => (c.1 - a, c.2)
  | none => p.cells

/-- Where the bytes of a piece stand: in the staging area, or in their page. -/
def State.dumpAt (s : State) (d : Dump) (p : DumpPage) : Nat :=
  match p.va.bind fun v => d.staged.find? fun x => x.1 = v with
  | some x => s.stagePage x.2
  | none => p.pa

/-- The next piece of a dump goes to the host buffer; a writer that has waited for the page goes on. A piece with a bad word, or in a fenced range, is the
machine check of the context, which ends the dump (R415, R419). Whether the dump engine's reads and its copies into the staging area are accesses that the
counts of R368 take in the spec does not say: they count none (DESIGN CHOICE, log 73). -/
def State.sendPage (s : State) (d : Dump) (p : DumpPage) (rest : List DumpPage) : State :=
  if s.devReg 0x70010 < d.sent + 65536 then s.endDump 1
  else if s.pmBad (s.dumpAt d p) 65536 then ((s.pmError d.cx (s.dumpAt d p)).ctxCheck d.cx).endedDump d.cx
  else
    let at0 := s.devReg 0x70008 + d.sent
    let hm := (s.dumpCells d p).foldl (fun m c => memSet m (at0 + c.1) c.2) (memZero s.hm at0 65536)
    let d' := { d with pages := rest, sent := d.sent + 65536, staged := d.staged.filter fun x => p.va ≠ some x.1 }
    let s := { s with hm := hm, dev := { s.dev with dump := some d' } }
    if rest = [] then s.endDump 0
    else match p.va with
      | some v => s.wakeBlocked v d.cx
      | none => s

/-- R427: the dump engine marks the pages once the context's launches are saved, or sends the next piece. -/
def execDumpPageSend (s : State) : Out :=
  .next (match s.dev.dump with
    | none => s
    | some d =>
      if d.ended then s.endDump 2
      else if !d.marked then
        if s.ctxOut d.cx then
          let pages := s.dumpPages d.cx
          if pages = [] then s.endDump 0
          else s.updDev fun x => { x with dump := some { d with marked := true, pages := pages } }
        else s.preemptCtx d.cx
      else match d.pages with
        | [] => s.endDump 0
        | p :: rest => s.sendPage d p rest)

/-- The dump engine can go on: launches that no request has reached yet count as well. -/
def State.dumpSteps (s : State) : List (Ctx × Instr) :=
  match s.dev.dump with
  | none => []
  | some d => if d.marked || s.ctxOut d.cx || s.canSave d.cx || d.ended then [(({} : Ctx), .dumpPageSend)] else []

end Sys2Proof.Machine
end

