-- ==== Sys2Proof/Machine/Platform.lean ====
section
/-! DEFINITION. Writes of the device register space (R8, R421, R424 and the maps of the other chapters), the host aperture and the
fabric (31_platform R428, 07_memory_model R199), the plane mask (R238), resets (R430) and the supply (R431). -/

namespace Sys2Proof.Machine

/-! ### Register writes (R8) -/

/-- A write under its access kind: bits that are not writable keep their value. -/
def State.plainWrite (s : State) (off v : Nat) : State :=
  match regRow off with
  | none => s
  | some r => s.setDevReg off ((assocGet s.dev.regs off r.reset &&& ((2 ^ 64 - 1) ^^^ r.rw)) ||| (v &&& r.rw))

/-- The state that an event leads to. -/
def State.via (s : State) (o : Out) : State :=
  match o with
  | .next t => t
  | .fault _ => s
  | .refused _ => s

/-- The cluster of a debug register. -/
def dbgCluster (off : Nat) : Nat := (off - 0x180000) / 0x400

/-- DBGCTL (R421): a new OWNER is taken while no launch of the old one holds the cluster, and clears HALTED; a module that has no owner any more holds no
halt either; HALTREQ and RESUME act. -/
def State.writeDbgctl (s : State) (off v : Nat) : State :=
  let g := dbgCluster off
  let old := s.devReg off
  let held := bit old 18 && s.dev.jobs.any fun j => decide (j.cx = bits old 6 12) && decide (g ∈ j.clusters)
  let moved := decide (bits old 6 12 ≠ bits v 6 12) && !held
  let s := if bit old 18 && !bit v 18 then s.via (execDbgResume g s) else s
  let w := setBits (setBits (setBits (s.devReg off) 0 1 v) 4 2 (bits v 4 2)) 18 1 (bits v 18 1)
  let s := s.setDevReg off (if moved then setBits w 6 12 (bits v 6 12) else w)
  let s := if moved then s.clearHalted g else s
  let s := if bit v 1 then s.via (execDbgHaltreq g s) else s
  if bit v 2 then s.via (execDbgResume g s) else s

/-- The halt window (R424): a word of the record of the selected core, while its cluster is halted. Of a core other than the
modelled one the model holds the local memory, and what the driver has written into its record while the cluster is halted (log 35). -/
def State.writeWindow (s : State) (o v : Nat) : State :=
  let sel := s.devReg 0x70100
  let g := bits sel 0 7
  let core := bits sel 8 3
  if !bit sel 15 || !bit (s.devReg (dbgBase g)) 3 || decide (0x2C1100 ≤ o) || decide (o % 8 ≠ 0) then s
  else if g = s.clusterNo ∧ core = s.core.cfg.coreInClus then s.windowWrite o v
  else if 6 * s.part.clustersPerDie ≤ g then s
  else match (recPart o).1 with
    | .lm => s.lmWrite (s.coreKey g core + o) 8 v
    | .entry => s
    | .zero => s
    | _ => s.updDev fun d => { d with winFar := (8 * g + core, (o, v)) :: d.winFar.filter fun x => !(decide (x.1 = 8 * g + core) && decide (x.2.1 = o)) }

/-- What a read of the halt window at an offset of the record gives: zero where it shows nothing (R424). Of a core other than the modelled one the model
holds the local memory, and what the driver has written (log 35). -/
def State.readWindow (s : State) (o : Nat) : Nat :=
  let sel := s.devReg 0x70100
  let g := bits sel 0 7
  let core := bits sel 8 3
  if !bit sel 15 || !bit (s.devReg (dbgBase g)) 3 || decide (0x2C1100 ≤ o) then 0
  else if g = s.clusterNo ∧ core = s.core.cfg.coreInClus then s.windowWord (o / 8 * 8)
  else if 6 * s.part.clustersPerDie ≤ g then 0
  else match (recPart (o / 8 * 8)).1 with
    | .lm => memRead s.lm (s.coreKey g core + o / 8 * 8) 8
    | .zero => 0
    | _ => match s.dev.winFar.find? fun x => decide (x.1 = 8 * g + core) && decide (x.2.1 = o / 8 * 8) with
      | some x => x.2.2
      | none => (Config.recordWord (s.free + core) (o / 8)).toNat

/-- A register of the TLB invalidation (R361). -/
def State.writeInv (s : State) (off v : Nat) : State :=
  if s.invBusy then s
  else if off = 0x328 ∧ bit v 31 then s.startInv (BitVec.ofNat 64 (s.devReg 0x320)) (v % 2 ^ 16)
  else s.plainWrite off v

/-- A register of the quote block (R386). -/
def State.writeQuote (s : State) (off v : Nat) : State :=
  if s.quoteBusy then s
  else if off = 0x6A0 ∧ bit v 6 then s.via (execQuoteStart (BitVec.ofNat 64 v) s)
  else s.plainWrite off v

/-- A way mask is written: it acts from the next tick on (R234, R375). -/
def State.writeMask (s : State) (off v : Nat) : State :=
  (s.updDev fun d => { d with newMasks := if d.newMasks.any fun x => decide (x.1 = off) then d.newMasks else (off, s.devReg off) :: d.newMasks }).plainWrite
    off v

/-- The control register of a queue that the device fills: HEAD says what the driver has read, so that a queue that was full is full no longer
(R363, R420). -/
def State.writeHead (s : State) (off v : Nat) : State := (s.plainWrite off v).updDev fun d => { d with fullQ := d.fullQ.filter fun r => r ≠ off }

/-- The offset is that of a way mask. -/
def isMask (off : Nat) : Bool :=
  (decide (0x1080 ≤ off) && decide (off < 0x1680) && decide (off % 4 = 0) && decide (off % 0x100 / 4 ∈ [0x20, 0x21, 0x22, 0x23])) ||
    (decide (0x140000 ≤ off) && decide (off < 0x160000) && decide (off % 32 = 0x10))

/-- A write of 64 bits at an offset of the register space; offsets whose write is an event of its own lead to that event. -/
def State.regWrite (s : State) (off v : Nat) : State :=
  if off = 0x44 then (if s.dev.featRo then s else s.setDevReg 0x44 (v % 2 ^ 32 &&& s.featw0.toNat))
  else if off = 0x48 then s.via (execFeatlockWrite (BitVec.ofNat 32 v) s)
  else if off = 0x320 ∨ off = 0x328 then s.writeInv off v
  else if off = 0x340 then s.via (execAcctclr (bits v 0 12) s)
  else if 0x400 ≤ off ∧ off < 0x600 then (if off % 8 = 0 then s.via (execCtxslotWrite ((off - 0x400) / 8) (BitVec.ofNat 64 v) s) else s)
  else if 0x680 ≤ off ∧ off < 0x6B0 then s.writeQuote off v
  else if off = 0x800 then s.setDevReg 0x800 (min 7500 (max 1500 (bits v 0 16)))
  else if 0x70000 ≤ off ∧ off < 0x70028 then
    (if bit (s.devReg 0x70000) 13 then s
      else if off = 0x70000 ∧ bit v 12 then s.via (execDumpStart (BitVec.ofNat 64 v) s)
      else s.plainWrite off v)
  else if 0x100000 ≤ off ∧ off < 0x140000 ∧ off % 64 = 0x18 then
    (if bit v 32 then s.via (execFqrespDeliver ((off - 0x100000) / 64) (BitVec.ofNat 32 v) s)
      else s.via (execFqrespWalkAgain ((off - 0x100000) / 64) (BitVec.ofNat 32 v) s))
  else if 0x160000 ≤ off ∧ off < 0x161800 then (if off % 8 = 0 then s.via (execSintrWrite ((off - 0x160000) / 8) (BitVec.ofNat 64 v) s) else s)
  else if 0x180000 ≤ off ∧ off < 0x198000 ∧ off % 0x400 = 0 then s.writeDbgctl off v
  else if 0x1A0000 ≤ off ∧ off < 0x1A8000 then
    (if off % 8 = 0 then s.via (execDoorbell ((off - 0x1A0000) / 512) ((off - 0x1A0000) % 512 / 8) (BitVec.ofNat 32 v) s) else s)
  else if 0x1B0000 ≤ off ∧ off < 0x1B8000 ∧ off % 32 = 0x10 then
    s.via (execHrptrWrite ((off - 0x1B0000) / 32) (BitVec.ofNat 32 v) s)
  else if 0x1000000 ≤ off ∧ off < 0x1300000 then s.writeWindow (off - 0x1000000) v
  else if off = 0x310 ∨ off = 0x708 then s.writeHead off v
  else if isMask off then s.writeMask off v
  else s.plainWrite off v

/-- Events that come as writes of the driver over the host link. -/
def byHostLink : Instr → Bool
  | .doorbell _ _ _ => true
  | .hrptrWrite _ _ => true
  | .featlockWrite _ => true
  | .fqrespWalkAgain _ _ => true
  | .fqrespDeliver _ _ => true
  | .tlbinv _ _ => true
  | .tlbinvFlush _ _ => true
  | .ctxslotWrite _ _ => true
  | .ctxslotEvict _ => true
  | .sintrWrite _ _ => true
  | .acctclr _ => true
  | .quoteStart _ => true
  | .dbgHaltreq _ => true
  | .dbgResume _ => true
  | .dumpStart _ => true
  | _ => false

/-- An event that is due takes place: nothing but a change of the input while the device is held in reset (R431), and nothing that the driver would
write while the link is open to the provisioning window alone (R380). -/
def State.heard (s : State) : Instr → Bool
  | .inputVoltageChange _ => true
  | i => !s.dev.noSupply && (s.hostOpen || !byHostLink i)

/-- R8: the driver writes a device register. -/
def execRegisterWrite (off : Nat) (value : BitVec 64) (s : State) : Out := .next (if s.hostOpen then s.regWrite off value.toNat else s)

/-! ### Other agents' accesses -/

/-- Each 64-byte unit of a host write is counted at its home, and charged to no context (R362, R368). -/
def State.countHost (s : State) (pa n : Nat) : State :=
  (List.range ((pa + n + 63) / 64 - pa / 64)).foldl (fun s i => s.countReq (64 * (pa / 64 + i)) (some 3) none false) s

/-- A write of the host. -/
def State.hostWrite (s : State) (pa n v : Nat) : State := (s.countHost pa n).homeWriteRun pa n v

/-- A run of bytes that BAR2 reaches: device memory under its 64 GiB (R428). -/
def State.inBar2 (s : State) (pa n : Nat) : Bool :=
  decide (s.dev.bar2 ≤ pa) && decide (pa + n ≤ s.dev.bar2 + 2 ^ 36) && (decide (s.part.tierOf pa = some 0) || decide (s.part.tierOf pa = some 1))

/-- R428: the host reads or writes up to 64 bytes of device physical memory through its aperture, or exchanges 8 bytes, as in migration (R364). -/
def execHostApertureAccess (op : HostOp) (pa : Nat) (data : BitVec 512) (s : State) : Out :=
  let held (n : Nat) (t : State) : State := if s.pmBad pa n then s.pmError 0xFFF pa else t
  let put (n : Nat) (t : State) : State := if s.rangeFenced pa n then s.pmError 0xFFF pa else t
  .next (
    let n := match op with
      | .write n => min n 64
      | .read n => min n 64
      | _ => 8
    if !s.inBar2 pa n || !s.hostOpen then s
    else match op with
      | .write n => put (min n 64) <| s.hostWrite pa (min n 64) (data.toNat % 2 ^ (8 * min n 64))
      | .read n => held (min n 64) s
      | .exchange => held 8 (s.hostWrite pa 8 (data.toNat % 2 ^ 64))
      | .compareExchange expect => held 8 (if s.homeRead pa 8 = expect.toNat then s.hostWrite pa 8 (data.toNat % 2 ^ 64) else s))

/-- R199: a write of a peer arrives at device memory. -/
def execFabricWrite (pa : Nat) (data : BitVec 64) (s : State) : Out :=
  .next (if (s.part.tierOf pa).isNone then s else if s.rangeFenced pa 8 then s.pmError 0xFFF pa else s.homeWriteRun pa 8 data.toNat)

/-- R238: the fabric manager changes the plane mask. -/
def execPlaneMaskChange (mask : BitVec 18) (s : State) : Out := .next (s.updDev fun d => { d with planes := mask })

/-! ### Resets (R430) -/

/-- A request of the sideband waits through resets of the host link (R429); a quote that the registers have asked for goes with them. -/
def SignReq.sideband : SignReq → Bool
  | .quote _ => false
  | _ => true

def QuoteAsk.sideband : QuoteAsk → Bool
  | .quote _ => false
  | _ => true

/-- The device after a reset, before its boot ROM runs: what manufacture fixes stays, host memory, by bus address and as the host tier (R16), and the state
of the input and of the host link are no part of what is reset, and the inputs still to come stand as they are; the die's count starts at 0, in a tick of
exchanges (R214). -/
def State.afterReset (s : State) : State :=
  { State.reset with
    pm := s.pm.filter fun e => decide (s.part.tierOf e.1 = some 2)
    hm := s.hm
    part := s.part
    agenda := s.agenda ++ State.reset.agenda
    oracle := s.oracle
    inputs := s.inputs
    free := s.free
    dev := { Dev.initial with
      pkgNo := s.dev.pkgNo
      cert := s.dev.cert
      reply := s.dev.reply
      cxlOff := s.dev.cxlOff
      holdUp := s.dev.holdUp
      noSupply := s.dev.noSupply } }

/-- The boot ROM runs, unless the device is held in reset for want of supply (R380, R431). -/
def State.restart (s : State) : State := if s.dev.noSupply then s else s.boot

/-- R380, R430: a cold reset: the whole device, and the boot ROM runs. -/
def execColdReset (s : State) : Out := .next s.afterReset.restart

/-- R380, R430: a conventional reset keeps the accounting table, IDLEMJ, ACCTSNAP and SOFTCNT. The sideband answers through it (R429). -/
def execConventionalReset (s : State) : Out :=
  .next (
    let t := s.afterReset.updDev fun d => { d with
      acct := s.dev.acct
      acctSnap := s.dev.acctSnap
      idleMicro := s.dev.idleMicro
      asks := s.dev.asks.filter QuoteAsk.sideband
      signQ := s.dev.signQ.filter SignReq.sideband }
    ([0x348, 0x350, 0x718].foldl (fun t off => t.setDevReg off (s.devReg off)) t).restart)

/-- A command of a terminated context ends with status 7. -/
def State.terminateJob (s : State) (j : Job) : State :=
  match s.job j.id with
  | none => s
  | some j => if j.node.isSome then ((s.unpinJob j).clearHalts j.clusters).dropJob j.id else s.finishJob j 7

/-- Every context's commands end, what is saved of them goes, and the modelled core holds no launch. -/
def State.terminateAll (s : State) : State :=
  let s := s.dev.jobs.foldl State.terminateJob s
  let s := s.dev.saved.foldl (fun s x => s.dropSaved x.job.id) s
  (if s.core.cfg.running ∨ s.core.saving then s.stopCore else s).updDev fun d => { d with jobs := [] }

/-- The context of a slot is terminated with status 7, which its queues show whether or not a command of theirs was under way, and its slot cleared
(R128, R430). -/
def State.resetSlot (s : State) (n : Nat) : State :=
  match s.slotCtx n with
  | some cx => (((s.haltQueues cx (some 7)).discardCtx cx).clearSlot n).setDevReg (slotReg n) 0
  | none => s

/-- R430: a function-level reset: every context is terminated with status 7 and its slot cleared; the accounting table keeps its values. -/
def execFunctionLevelReset (s : State) : Out :=
  .next (((List.range 64).foldl State.resetSlot (s.terminateAll.endDump 2)).updDev fun d => { d with queues := [], acct := s.dev.acct })

/-! ### The supply (R431) -/

/-- Every running context takes the machine check 0x1DF, which ends it with status 7 (R415). -/
def State.powerFail (s : State) : State := (if s.core.cfg.running then s.request 0x1DF 0 else s).terminateAll

/-- R431: the input has been below 44 V for 1 ms: every running context takes a machine check, and the device is held in reset. -/
def execInputUndervoltage (s : State) : Out :=
  .next ((s.powerFail.afterReset).updDev fun d => { d with holdUp := true, noSupply := true })

/-- R431: the input voltage in millivolts: below 46 V the manager grants what the hold-up gives, and the return of the input ends
the reset hold, after which the boot ROM runs. -/
def execInputVoltageChange (mv : BitVec 16) (s : State) : Out :=
  .next (
    let low := decide (mv.toNat < 46000)
    let back := s.dev.noSupply && !low
    let s := if back then (s.updDev fun d => { d with noSupply := false }).afterReset.boot else s
    (s.setDevReg 0x808 (setBits (s.devReg 0x808) 16 16 (mv.toNat / 10))).updDev fun d => { d with
      holdUp := low
      noSupply := d.noSupply && low })

end Sys2Proof.Machine
end

