-- ==== Sys2Proof/Machine/Background.lean ====
section
/-! DEFINITION. The later half of a tick: the primary's bank writes, the background steps that are ready, in the order of the
ranks of R68, and what the end of a tick settles (R61, R72, R133, R200, R203, R223). -/

namespace Sys2Proof.Machine

/-! ### Bank writes of the primary (R58, R139) -/

/-- The writes of the cycle, in the order of issue. -/
def State.bankWrites (s : State) : State :=
  let due := s.prim.fl.pend.filter fun e => e.count = 0
  due.foldl State.bankWrite (s.updPrim fun p => { p with fl := { p.fl with pend := p.fl.pend.filter fun e => e.count ≠ 0 } })

/-! ### Background steps that are ready -/

/-- The channel stands still: a copy channel under a debug halt and while the context is saved, once the word in hand is whole; the collective
channel while it is saved but for a command that has started and is not complete: its record is kept for the restore (R402, R423). -/
def State.channelStops (s : State) (ch : Nat) : Bool :=
  if ch < 2 then (s.prim.halted || s.core.saving) && !(s.headCmd ch).any fun c => s.wordInHand c
  else s.core.saving && !(s.headCmd 2).any fun c => c.started && c.status.isNone

/-- The step of a collective command. -/
def colInstr (c : EngCmd) : Instr :=
  match cmdOp c.words with
  | 0 => .allReduce
  | 1 => .reduceScatter
  | 2 => .allGather
  | _ => .broadcast

/-- The collective of a saved launch runs on (R402). -/
def State.keptSteps (s : State) : List (Ctx × Instr) :=
  match s.colKept with
  | some (_, c) => if c.colDue then [(({} : Ctx), colInstr c)] else []
  | none => []

/-- The channel's step: a command moves on, or completes, or its record is pushed. -/
def State.channelStep (s : State) (ch : Nat) : List (Ctx × Instr) :=
  let at0 := fun (i : Instr) => [(({} : Ctx), i)]
  if s.channelStops ch then []
  else if (s.refusedCmd ch).isNone && !(s.engineQ ch).blocked.isEmpty then
    (if ((s.engineQ ch).pushable ch).isSome then at0 (.completionRecordPush ch) else [])
  else
    if (s.doneCmd ch).isSome then at0 (.engineCommandCompletion ch) else
    match s.headCmd ch with
    | none => []
    | some c =>
      if !(s.mayStart ch c || c.running) then []
      else if ch = 2 then (if s.colKept.isSome || !c.colDue then [] else at0 (colInstr c))
      else if c.running && !s.wordDue c then []
      else
        match cmdOp c.words with
        | 0 => at0 (.copy ch)
        | 1 => at0 (.copy2d ch)
        | 2 => at0 (.split ch)
        | 3 => at0 (.gather ch)
        | 4 => at0 (.scatter ch)
        | 5 => at0 (.fill ch)
        | _ => at0 (.wpset ch)

/-- The loaders' steps (R150, R310); none under a debug halt (R423). -/
def State.loaderSteps (s : State) : List (Ctx × Instr) :=
  if s.prim.halted then []
  else (match s.core.wQ with
    | j :: _ => if j.delay = 0 then [(({} : Ctx), Instr.weightLoaderGranule)] else []
    | [] => []) ++
  (match s.core.tileQ with
    | j :: _ => if j.delay = 0 then [(({} : Ctx), Instr.tileLoaderRow)] else []
    | [] => [])

/-- The threads in the selection order of the tick (R70). -/
def State.selection (s : State) : List Nat :=
  let n := s.core.cfg.nthreads
  (List.range n).map fun k => (s.core.last + 1 + k) % n

/-- What a pawn's requests have ready, but for ring operations and claims. -/
def State.requestSteps (s : State) (t : Nat) : List (Ctx × Instr) :=
  let p := s.pawn t
  let at0 := fun (i : Instr) => [(({} : Ctx), i)]
  (if (s.firstReq t fun r => r.kind.isLoad && decide (s.leastAge r ≤ r.age)).isSome then at0 (.pawnCacheFill t) else []) ++
    (if (s.firstReq t fun r => r.kind.isAtomic).isSome then at0 (.homeAtomic t) else []) ++
    (if p.reqs.any fun r => (r.kind.isAtomic || r.kind.isSc) && r.done.isSome && decide (s.leastAge r ≤ r.age) then at0 (.atomicReply t) else []) ++
    ((List.range 4).flatMap fun n =>
      if p.reqs.any fun r => decide (r.kind = .monarm n) && s.reqReady t r then at0 (.monitorRegisterAck t n) else []) ++
    (match p.status with
      | .xlateWait k => if k.fault.isNone && !k.blocked && s.walkDue s.core.cfg.cx k.va.toNat k.acc k.waited then at0 (.translationWalk t) else []
      | _ => [])

/-- The threads that have a request of a sort ready, by number (R135, R208). -/
def State.readyThreads (s : State) (f : GReq → Bool) : List Nat := (List.range 16).filter fun t => (s.firstReq t f).isSome

/-- A sequentially consistent op's window has closed (R171). -/
def State.scDue (s : State) : Bool := s.scOps.any fun x => s.windowClosed x.2

/-- A step that asks for banks, with its place in the order of the tick (R68). -/
abbrev Placed := Nat × Ctx × Instr

/-- Insert a step behind those of its place and of lower ones. -/
def insertPlaced (x : Placed) : List Placed → List Placed
  | [] => [x]
  | y :: l => if x.1 < y.1 then x :: y :: l else y :: insertPlaced x l

/-- Steps in the order of their places. -/
def sortPlaced (l : List Placed) : List Placed := l.foldl (fun acc x => insertPlaced x acc) []

/-- Steps of rank 3 in the order in which R68 lists their agents, as far as its tokens go: those that have what they need, and the agents that are
refused a token. Completions and records need none. -/
def takeTokens : Option Nat → List (Nat × Placed) → List Placed × List Nat
  | _, [] => ([], [])
  | b, e :: l =>
    match e.2.2.2 with
    | .engineCommandCompletion _ => let r := takeTokens b l; (e.2 :: r.1, r.2)
    | .completionRecordPush _ => let r := takeTokens b l; (e.2 :: r.1, r.2)
    | _ =>
      if b = some 0 then let r := takeTokens b l; (r.1, e.1 :: r.2)
      else let r := takeTokens (spend b) l; (e.2 :: r.1, r.2)

/-- Steps at one place. -/
def atPlace (k : Nat) (l : List (Ctx × Instr)) : List Placed := l.map fun x => (k, x)

/-- The channels' and the loaders' steps: tokens go in the order of R68, banks to the oldest request first, then in that order; with the agents that
have no token. -/
def State.rank3Steps (s : State) : List Placed × List Nat :=
  let place := fun (i seq : Nat) => placeOf 3 (2 ^ 40 - 1 - vget s.core.ages i 0) seq
  let own := 2 * s.core.cfg.coreInClus
  let r := takeTokens s.core.tokens3 (((List.range 2).flatMap fun n => (s.channelStep n).map fun x => (n, place n (own + n), x)) ++
    s.loaderSteps.map fun x => match x.2 with
      | .weightLoaderGranule => (2, place 2 16, x)
      | _ => (3, place 3 17, x))
  (sortPlaced r.1, r.2)

/-- What the core's own agents ask of the banks, at ranks 2 to 4 (R68, R147, R155, R208), and the steps of the collective engine. -/
def State.rankSteps (s : State) : List Placed :=
  let at0 := fun (i : Instr) => (({} : Ctx), i)
  let c := s.core.cfg
  let sel := s.selection.zipIdx
  atPlace (placeOf 2 c.coreInClus 0) (s.remoteSteps true) ++ s.rank3Steps.1 ++ atPlace (placeOf 3 (2 ^ 40 - 1) 18) (s.keptSteps ++ s.channelStep 2) ++
    ((s.readyThreads fun r => r.kind.isRing).map fun t =>
      (ringPlace (((s.firstReq t fun r => r.kind.isRing).map fun r => r.waited).getD 0) c.coreIdx t, at0 (.ringOperation t))) ++
    (sel.flatMap fun x => (s.pawn x.1).waiting.map fun _ => (placeOf 5 x.2 0, at0 (.pawnLmGrant x.1))) ++
    atPlace (placeOf 6 c.coreInClus 0) (s.remoteSteps false) ++
    (if s.barrelHalted then [] else (sel.filter fun x => (s.pawn x.1).wantsFetch).map fun x => (placeOf 7 x.2 0, at0 (.pawnFetch x.1)))

/-- The requests of the pawns that need no bank of the cluster. -/
def State.lateRank (s : State) : List (Ctx × Instr) :=
  let at0 := fun (i : Instr) => (({} : Ctx), i)
  s.selection.flatMap s.requestSteps ++ ((s.readyThreads fun r => decide (r.kind = .rqclm)).map fun t => at0 (.rowClaimReply t)) ++
    (if s.scDue then [at0 .scWindowClose] else [])

/-- A step whose tick the manual fixes: no other agent's delay enters into it (R150, R343, R147, R310). -/
def fixedStep : Instr → Bool
  | .pawnLmGrant _ => true
  | .pawnFetch _ => true
  | .tileLoaderRow => true
  | .weightLoaderGranule => true
  | .eventWaitRecheck _ => true
  | _ => false

/-- The steps of a list that the oracle of the tick lets go, and those that it holds back. -/
def pickSteps (mask : Nat) (l : List (Ctx × Instr)) : List (Ctx × Instr) × List (Ctx × Instr) :=
  let x := l.zipIdx
  let go := fun (e : (Ctx × Instr) × Nat) => fixedStep e.1.2 || !bit mask e.2
  ((x.filter go).map fun e => e.1, (x.filter fun e => !go e).map fun e => e.1)

/-- The background's turn: the primary's bank writes, then what asks for banks (R68). -/
def State.backTurn (s : State) (first : Option Nat) : State :=
  let s := (s.setCtx {}).bankWrites.serveQueues.peersAct 1
  let mask := s.oracle.headD 0 % 2 ^ 64
  let late := s.rank3Steps.2
  let l := (s.rankSteps.zipIdx.filter fun x => fixedStep x.1.2.2 || !bit mask x.2).map fun x => x.1
  (late.foldl State.keepWaiting (if late.isEmpty then s else s.withhold)).setTurn (.serve (sortPlaced l) first)

/-- The next that asks for banks: the accesses of other agents that come before it, then the step (R68). -/
def State.serveTurn (s : State) (l : List Placed) (first : Option Nat) : State :=
  match l with
  | [] => (s.servePeers none).setTurn (.late first)
  | (k, c, i) :: rest => ((s.servePeers (some k)).due c i).setTurn (.serve rest first)

/-- The later part of the background's turn: requests, what other parts of the machine have ready (`more`), and the notices
and acknowledgements in flight (log 4). -/
def State.lateTurn (s : State) (first : Option Nat) (more : State → List (Ctx × Instr)) : State :=
  let s := (s.setCtx {}).peersAct 2
  let mask := s.oracle.headD 0 / 2 ^ 64
  let ready := s.lateRank ++ more s
  let w := pickSteps (mask / 2 ^ ready.length) s.work
  ((s.setAgenda (s.agenda ++ (pickSteps mask ready).1 ++ w.1)).setWork w.2).setTurn (.finish first)

/-! ### The end of a tick -/

/-- The deposits and the task entries of the cycle, by the logical index of the sender and then by thread (R132, R203); in deterministic mode those of
other cores in the order of the moves, in which they come (R338). -/
def State.depositMail (s : State) : State :=
  let own := s.core.cfg.coreIdx
  if s.core.cfg.det then
    let s := s.core.mailIn.foldl (fun s x => (s.deposit x.2.1 x.2.2).1) (s.updCore fun c => { c with mailIn := [] })
    (List.range 16).foldl State.msgStep (s.core.taskIn.foldl (fun s x => (s.addTask x.2).1) (s.updCore fun c => { c with taskIn := [] }))
  else
    let lower := fun i => decide (i / 16 < own)
    let u := (List.range 16).foldl State.msgStep ((s.mailFrom lower).tasksFrom lower)
    (u.mailFrom fun _ => true).tasksFrom fun _ => true

/-- Waits of the pawns and requests that the end of the cycle settles: the mailbox before the deposits of the cycle, the tasks
before its arrivals (R133, R200, R203). -/
def State.settlePawns (s : State) : State :=
  let l := s.selection
  let live := !s.barrelHalted
  let s := if live then s.taskStep 16 else s
  let s := (if live then l.foldl State.mailStep s else s).depositMail
  let s := l.foldl State.storeStep s
  let s := (List.range 4).foldl State.eqrStep s
  let s := l.foldl State.meshThread s
  if s.core.saving then s else l.foldl (fun s t => s.monStep live t) s

/-- Accesses and requests of a pawn grow one cycle older. -/
def Pawn.age (p : Pawn) (live : Bool) : Pawn :=
  { p with
    waiting := p.waiting.map fun w => { w with age := if live then w.age + 1 else w.age, counted := false }
    reqs := p.reqs.map fun r => { r with age := r.age + 1 }
    status := match p.status with
      | .xlateWait k => .xlateWait { k with waited := k.waited + 1 }
      | st => st }

/-- The jobs of a loader that a tick brings nearer their start: all, or those that are `awaited` with those before them. -/
def nearer {α : Type} (all : Bool) (awaited : α → Bool) (step : α → α) : List α → List α
  | [] => []
  | j :: l => (if all || (j :: l).any awaited then step j else j) :: nearer all awaited step l

/-- A tick brings the loaders nearer their starts (R150, R310): a cycle, or a tick of a save; in one that is frozen for a tile or a slot, the jobs that
it waits for and those before them, which could never start otherwise (R76, log 50). None under a debug halt. -/
def CoreState.nearLoads (c : CoreState) (all frozen : Bool) : CoreState :=
  { c with
    tileQ := nearer all (fun j => frozen && decide (Res.tile j.tile ∈ c.awaits)) (fun j => { j with delay := j.delay - 1 }) c.tileQ
    wQ := nearer all (fun j => frozen && decide (Res.wslot j.slot ∈ c.awaits)) (fun j => { j with delay := j.delay - 1 }) c.wQ }

/-- What the core counts by ticks: `live` barrel cycles, and cycles of the launch that are not `frozen`. The tick of a placement is none of them: the
launch begins with the next, and a first bundle that is frozen in that one has its barrel cycle 0 there (R61, R342; DESIGN CHOICE, log 73). -/
def CoreState.age (c : CoreState) (live frozen : Bool) : CoreState :=
  { c with
    cfg := { c.cfg with cycle := if frozen || c.fresh || c.saving then c.cfg.cycle else c.cfg.cycle + 1 }
    peers := c.peers.map PeerAct.older
    engQ := vmap (fun (q : EngQueue) => { q with cmds := q.cmds.map EngCmd.older }) c.engQ
    locks := c.locks.map fun l => { l with fresh := false }
    peerLocks := c.peerLocks.map fun l => { l with fresh := false }
    banksFar := []
    remotes := c.remotes.map fun r => { r with age := r.age + 1, counted := false }
    outbox := []
    iter := if live then c.iter - 1 else c.iter
    barrelCycle := if live && !c.fresh then c.barrelCycle + 1 else c.barrelCycle
    fresh := false }

/-- A tick passes for a job: its walk and its engine command have been under way for one more (R23). -/
def Job.older (j : Job) : Job := { j with waited := if j.todo = [] then 0 else j.waited + 1, cmd := j.cmd.map EngCmd.older }

/-- A tick passes for the jobs, for the collectives of saved launches, and for the way masks written in it (R234). -/
def Dev.older (d : Dev) : Dev := { d with newMasks := [], jobs := d.jobs.map Job.older, saved := d.saved.map fun x => { x with col := x.col.map EngCmd.older } }

/-- At every 1,024th cycle of a launch the core levels its load (R134). -/
def State.levelStep (s : State) : State :=
  let c := s.core.cfg
  if c.running && !s.core.saving && !s.prim.frzClus && !c.det && s.feature 6 && decide (c.cycle % 1024 = 0) && decide (c.cycle ≠ 0) then s.due {} .loadLevelling else s

/-- A request for pre-emption that no step has answered (R400): one of the master or of an eviction takes 600 ticks at most to reach the core, and a
free value says how many. -/
def State.askPreempt (s : State) : State :=
  match s.core.preempt with
  | some (c, _) =>
    if s.core.saving then s
    else if c ≠ 0x1D7 ∨ 600 ≤ s.core.preemptAge ∨ Config.freeChoice s.free % 2 = 1 then
      (s.bumpFree.updCore fun k => { k with preemptAge := 0 }).due {} (.preemptionRequest c)
    else s.bumpFree.updCore fun k => { k with preemptAge := k.preemptAge + 1 }
  | none => s

/-- The inputs of the next tick; nothing is short where none is given, and acts that still wait come first (log 65). While the input is low the manager
grants what the hold-up gives, which is a free number (R431). -/
def State.takeInputs (s : State) : State :=
  let i := s.inputs.headD ⟨false, none, none, []⟩
  let draw := Config.freeChoice s.free
  let given := if s.dev.holdUp then some (min draw (i.tokens.getD draw)) else i.tokens
  ({ s with
    inputs := s.inputs.tail
    free := s.free + b2n s.dev.holdUp
    core := { s.core with peerFreeze := i.freeze, tokens := given, tokens3 := given, mesh := i.mesh, peers := s.core.peers ++ i.acts } }).peersAct 0

/-- The primary's bundle has lacked its token in the tick (R63, R431). -/
def State.noteWithheld (s : State) : State := if s.prim.frzClus && bit s.prim.frz.toNat 7 then s.withhold else s

/-- A tick of a save: the array streams one more row of the mma ops that have issued, also of those that a handler has found (R377, R403). -/
def State.streamRow (s : State) : State :=
  (if s.core.streamed < s.prim.heldSlot 8 then s.acctAdd s.core.cfg.cx 1 1 else s).updCore fun c => { c with streamed := c.streamed + 1 }

/-- What the tick adds to the accounts (R377): the core ticks of every launch, and of the modelled core its frozen ticks, and the
cycles in which its vector slots are in use or its array streams a row: not while user operations stand still for a handler (R391), and not those that it
has streamed in a save (R403). -/
def State.accountTick (s : State) : State :=
  let s := s.dev.jobs.foldl (fun s j => s.acctAdd j.cx 11 (8 * (j.clusters.filter fun g => g ≠ 255).length)) s
  let cx := s.core.cfg.cx
  if !s.core.cfg.running then s
  else if s.core.saving then s.streamRow
  else if s.prim.frzClus then (if s.prim.frz &&& 0x2FF#10 ≠ 0 then s.acctAdd cx 3 1 else s)
  else
    let s := if 6 ∈ s.core.vacant ∧ 7 ∈ s.core.vacant then s else s.acctAdd cx 2 1
    if vget s.prim.fl.held 8 0 = 0 then s
    else if s.core.streamed = 0 then s.acctAdd cx 1 1
    else s.updCore fun c => { c with streamed := c.streamed - 1 }

/-- A microsecond for the host rings with entries that are not signalled (R125). -/
def State.ringTick (s : State) : State :=
  let l := s.dev.rings
  if l.isEmpty then s
  else
    let us := Config.microsecondPasses s.free
    let s := s.bumpFree
    if us then
      let s := s.updDev fun d => { d with rings := d.rings.map fun r => (r.1, (r.2.1, r.2.2 + 1)) }
      (s.dev.rings.filter fun r => decide (s.hrTime r.1 ≤ r.2.2)).foldl (fun s r => s.due {} (.hostRingTimeExpiry r.1)) s
    else s

/-- Debug halts on their way: each arrives in a tick that the chip chooses, the 64th at the latest (R423). -/
def State.crossTick (s : State) : State :=
  if s.dev.crossing = [] then s
  else
    let x := s.dev.crossing.zipIdx
    let here := fun (e : (Nat × Nat) × Nat) => decide (63 ≤ e.1.2) || bit (Config.freeChoice s.free) e.2
    let t := s.bumpFree.updDev fun d => { d with crossing := (x.filter fun e => !here e).map fun e => (e.1.1, e.1.2 + 1) }
    (x.filter here).foldl (fun s e => s.due {} (.crossTriggerHalt e.1.1)) t

/-- The end of a tick, and the start of the next one: its clock, and what is due before its landings. -/
def State.endTick (s : State) (first : Option Nat) : State :=
  let frozen := s.prim.frzClus
  let s := (s.settlePawns.peersAct 3).takeAsks.noteWithheld.accountTick.ringTick.scrubTick
  let live := !s.barrelHalted
  let s := if s.prim.halted then s else s.updCore fun c => c.nearLoads (c.saving || !frozen) frozen
  let s := (s.updCore fun c => { c.age live frozen with last := first.getD c.last }).setPawns (vmap (fun p => p.age (live || s.core.saving)) s.pawns)
  let s := (((s.updDie Die.advance).updDev Dev.older).setOracle s.oracle.tail).setTurn .land
  ((s.depositStep (frozen && !s.core.saving)).takeInputs.clockSteps).levelStep.askPreempt.crossTick

end Sys2Proof.Machine
end

