-- ==== Sys2Proof/Machine/Scalar.lean ====
section
/-! DEFINITION. The integer and scalar instructions (04_control_scalar R95 to R104). Every one reads its operands at issue and
lands its result after the latency of R58; a pawn has the latencies of R61. -/

namespace Sys2Proof.Machine

/-- The result of a 32-bit operation, sign-extended (R95, R101). -/
def sext32 (x : Word64) : Word64 := (x.setWidth 32).signExtend 64

/-- The field that bfx, bfxu and bfi take from s[B]: position and length (R99). -/
def fieldPos (b : Word64) : Nat := bits b.toNat 0 6
def fieldLen (b : Word64) : Nat := Nat.min (bits b.toNat 8 7) (64 - fieldPos b)

/-- Leading zero bits of a 64-bit value, counted from bit n - 1 down (R99). -/
def leadingZeros (x : Nat) : Nat → Nat
  | 0 => 0
  | n + 1 => if bit x n then 0 else 1 + leadingZeros x n

/-- Trailing zero bits of an n-bit value (R99). -/
def trailingZeros : Nat → Nat → Nat
  | _, 0 => 0
  | x, n + 1 => if bit x 0 then 0 else 1 + trailingZeros (x / 2) n

/-- Set bits among the low n (R99). -/
def popCount : Nat → Nat → Nat
  | _, 0 => 0
  | x, n + 1 => x % 2 + popCount (x / 2) n

/-- The n low bytes in reverse order (R99). -/
def swapBytes : Nat → Nat → Nat
  | _, 0 => 0
  | x, n + 1 => x % 256 * 256 ^ n + swapBytes (x / 256) n

/-- The quotient and remainder of R101 with the fixed edge cases of R102. -/
def divS (a b : Word64) : Word64 := if b = 0 then BitVec.allOnes 64 else BitVec.ofInt 64 (a.toInt.tdiv b.toInt)
def divU (a b : Word64) : Word64 := if b = 0 then BitVec.allOnes 64 else BitVec.ofNat 64 (a.toNat / b.toNat)
def remS (a b : Word64) : Word64 := if b = 0 then a else BitVec.ofInt 64 (a.toInt.tmod b.toInt)
def remU (a b : Word64) : Word64 := if b = 0 then a else BitVec.ofNat 64 (a.toNat % b.toNat)

/-- The integer-divide trap of R102, where the kernel header enables it: precise, class 1 subcause 7 (R259). -/
def divCheck (b : Field6) : Stage × (State → Option TrapRec) :=
  (.desc, fun s => if bit s.core.cfg.trapen.toNat 0 && decide (s.readS b = 0) then some (s.trapAt (0x78 + s.unit) s.ctx.pc 0) else none)

/-- A division: 8 cycles of the slot and latency 16 on the primary, the iterative unit and latency 24 for a pawn (R58, R61).
How long the unit is busy the spec does not say: the model takes the whole latency, here and for fdiv and vdiv (DESIGN CHOICE, log 73). -/
def State.divide (s : State) (d : Field6) (v : Word64) : State :=
  (((s.landS (s.lat 16 24) d v).hold 8)).updCore fun c => if s.isPawn then { c with iter := 24 } else c

/-- What a division needs. -/
def specDiv (k : Bool) (d a b : Field6) : OpSpec := { specSSS k d a b 16 with checks := [divCheck b], iter := true }

/-- bN, sA: an immediate compare (R98). -/
def specCmpi (k : Bool) (p : BitVec 4) (a : Field6) : OpSpec :=
  { cls := .s, k := k, regs := [dstU .b (narrow p) 1, srcU .s a] }

/-- What cwld needs: the checks and the bank of an ld of its address (R104). -/
def specCwld (k : Bool) (d : Field6) (n : BitVec 8) : OpSpec where
  cls := .s
  k := k
  regs := [dstU .s d 4]
  checks := [(.lm, fun s => s.lmCheck (BitVec.ofNat 64 (8 * n.toNat)) 8 8 false)]
  words := fun s => [(s.core.lmBase + 8 * n.toNat) / 8]
  spans := fun s => [lmSpan (s.core.lmBase + 8 * n.toNat) 8 false]

/-- R95: d := a + b, 64 bits. -/
def execAdd (k : Bool) (d a b : Field6) (s : State) : Out :=
  issue (specSSS k d a b 1) s fun s => s.landS 1 d (s.readS a + s.readS b)

/-- R95: d := a - b. -/
def execSub (k : Bool) (d a b : Field6) (s : State) : Out :=
  issue (specSSS k d a b 1) s fun s => s.landS 1 d (s.readS a - s.readS b)

/-- R95: bitwise and. -/
def execAnd (k : Bool) (d a b : Field6) (s : State) : Out :=
  issue (specSSS k d a b 1) s fun s => s.landS 1 d (s.readS a &&& s.readS b)

/-- R95: bitwise or. -/
def execOr (k : Bool) (d a b : Field6) (s : State) : Out :=
  issue (specSSS k d a b 1) s fun s => s.landS 1 d (s.readS a ||| s.readS b)

/-- R95: bitwise exclusive or. -/
def execXor (k : Bool) (d a b : Field6) (s : State) : Out :=
  issue (specSSS k d a b 1) s fun s => s.landS 1 d (s.readS a ^^^ s.readS b)

/-- R95: a and not b. -/
def execAndn (k : Bool) (d a b : Field6) (s : State) : Out :=
  issue (specSSS k d a b 1) s fun s => s.landS 1 d (s.readS a &&& ~~~(s.readS b))

/-- R95: the smaller as signed. -/
def execMin (k : Bool) (d a b : Field6) (s : State) : Out :=
  issue (specSSS k d a b 1) s fun s => s.landS 1 d (if (s.readS a).toInt ≤ (s.readS b).toInt then s.readS a else s.readS b)

/-- R95: the larger as signed. -/
def execMax (k : Bool) (d a b : Field6) (s : State) : Out :=
  issue (specSSS k d a b 1) s fun s => s.landS 1 d (if (s.readS a).toInt ≤ (s.readS b).toInt then s.readS b else s.readS a)

/-- R95: the smaller as unsigned. -/
def execMinu (k : Bool) (d a b : Field6) (s : State) : Out :=
  issue (specSSS k d a b 1) s fun s => s.landS 1 d (if s.readS a ≤ s.readS b then s.readS a else s.readS b)

/-- R95: the larger as unsigned. -/
def execMaxu (k : Bool) (d a b : Field6) (s : State) : Out :=
  issue (specSSS k d a b 1) s fun s => s.landS 1 d (if s.readS a ≤ s.readS b then s.readS b else s.readS a)

/-- R95: 32-bit sum, sign-extended. -/
def execAddw (k : Bool) (d a b : Field6) (s : State) : Out :=
  issue (specSSS k d a b 1) s fun s => s.landS 1 d (sext32 (s.readS a + s.readS b))

/-- R95: 32-bit difference, sign-extended. -/
def execSubw (k : Bool) (d a b : Field6) (s : State) : Out :=
  issue (specSSS k d a b 1) s fun s => s.landS 1 d (sext32 (s.readS a - s.readS b))

/-- R95: d := a. -/
def execMov (k : Bool) (d a : Field6) (s : State) : Out :=
  issue (specSS k d a 1) s fun s => s.landS 1 d (s.readS a)

/-- R96: a plus the immediate. -/
def execAddi (k : Bool) (d a : Field6) (i : BitVec 13) (s : State) : Out :=
  issue (specSS k d a 1) s fun s => s.landS 1 d (s.readS a + s.imm i)

/-- R96: a and the sign-extended immediate. -/
def execAndi (k : Bool) (d a : Field6) (i : BitVec 13) (s : State) : Out :=
  issue (specSS k d a 1) s fun s => s.landS 1 d (s.readS a &&& s.imm i)

/-- R96: a or the immediate; a literal is zero-extended. -/
def execOri (k : Bool) (d a : Field6) (i : BitVec 13) (s : State) : Out :=
  issue (specSS k d a 1) s fun s => s.landS 1 d (s.readS a ||| s.immZ i)

/-- R96: the immediate in the high part. -/
def execLui (k : Bool) (d : Field6) (i : BitVec 13) (s : State) : Out :=
  issue ({ cls := .s, k := k, regs := [dstU .s d 1] }) s fun s => s.landS 1 d (s.immHigh i)

/-- R97: bD := 1 if a eq b. -/
def execCmpEq (k : Bool) (d a b : Field6) (s : State) : Out :=
  issue (specBSS k d a b 1) s fun s => s.landB 1 d.toNat (decide (s.readS a = s.readS b))

/-- R97: bD := 1 if a ne b. -/
def execCmpNe (k : Bool) (d a b : Field6) (s : State) : Out :=
  issue (specBSS k d a b 1) s fun s => s.landB 1 d.toNat (decide (s.readS a ≠ s.readS b))

/-- R97: bD := 1 if a lt b. -/
def execCmpLt (k : Bool) (d a b : Field6) (s : State) : Out :=
  issue (specBSS k d a b 1) s fun s => s.landB 1 d.toNat (decide ((s.readS a).toInt < (s.readS b).toInt))

/-- R97: bD := 1 if a ge b. -/
def execCmpGe (k : Bool) (d a b : Field6) (s : State) : Out :=
  issue (specBSS k d a b 1) s fun s => s.landB 1 d.toNat (decide ((s.readS a).toInt ≥ (s.readS b).toInt))

/-- R97: bD := 1 if a ltu b. -/
def execCmpLtu (k : Bool) (d a b : Field6) (s : State) : Out :=
  issue (specBSS k d a b 1) s fun s => s.landB 1 d.toNat (decide (s.readS a < s.readS b))

/-- R97: bD := 1 if a geu b. -/
def execCmpGeu (k : Bool) (d a b : Field6) (s : State) : Out :=
  issue (specBSS k d a b 1) s fun s => s.landB 1 d.toNat (decide (s.readS a ≥ s.readS b))

/-- R97: predicate and. -/
def execPand (k : Bool) (d a b : Field6) (s : State) : Out :=
  issue (specBBB k d a b) s fun s => s.landB 1 d.toNat (s.readB a.toNat && s.readB b.toNat)

/-- R97: predicate or. -/
def execPor (k : Bool) (d a b : Field6) (s : State) : Out :=
  issue (specBBB k d a b) s fun s => s.landB 1 d.toNat (s.readB a.toNat || s.readB b.toNat)

/-- R97: predicate xor. -/
def execPxor (k : Bool) (d a b : Field6) (s : State) : Out :=
  issue (specBBB k d a b) s fun s => s.landB 1 d.toNat (Bool.xor (s.readB a.toNat) (s.readB b.toNat))

/-- R97: predicate andn. -/
def execPandn (k : Bool) (d a b : Field6) (s : State) : Out :=
  issue (specBBB k d a b) s fun s => s.landB 1 d.toNat (s.readB a.toNat && !s.readB b.toNat)

/-- R97: bD := not bA. -/
def execPnot (k : Bool) (d a : Field6) (s : State) : Out :=
  issue ({ cls := .s, k := k, regs := [dstU .b d 1, srcU .b a] }) s fun s => s.landB 1 d.toNat (!s.readB a.toNat)

/-- R98: bN := 1 if a eq the immediate, signed. -/
def execCmpiEq (k : Bool) (p : BitVec 4) (a : Field6) (i : BitVec 13) (s : State) : Out :=
  issue (specCmpi k p a) s fun s => s.landB 1 p.toNat (decide (s.readS a = s.imm i))

/-- R98: bN := 1 if a ne the immediate, signed. -/
def execCmpiNe (k : Bool) (p : BitVec 4) (a : Field6) (i : BitVec 13) (s : State) : Out :=
  issue (specCmpi k p a) s fun s => s.landB 1 p.toNat (decide (s.readS a ≠ s.imm i))

/-- R98: bN := 1 if a lt the immediate, signed. -/
def execCmpiLt (k : Bool) (p : BitVec 4) (a : Field6) (i : BitVec 13) (s : State) : Out :=
  issue (specCmpi k p a) s fun s => s.landB 1 p.toNat (decide ((s.readS a).toInt < (s.imm i).toInt))

/-- R98: bN := 1 if a ge the immediate, signed. -/
def execCmpiGe (k : Bool) (p : BitVec 4) (a : Field6) (i : BitVec 13) (s : State) : Out :=
  issue (specCmpi k p a) s fun s => s.landB 1 p.toNat (decide ((s.readS a).toInt ≥ (s.imm i).toInt))

/-- R99: shift or rotate by s[B][5:0]. -/
def execShl (k : Bool) (d a b : Field6) (s : State) : Out :=
  issue (specSSS k d a b 1) s fun s => s.landS 1 d (s.readS a <<< ((s.readS b).toNat % 64))

/-- R99: shift or rotate by s[B][5:0]. -/
def execShr (k : Bool) (d a b : Field6) (s : State) : Out :=
  issue (specSSS k d a b 1) s fun s => s.landS 1 d (s.readS a >>> ((s.readS b).toNat % 64))

/-- R99: shift or rotate by s[B][5:0]. -/
def execSar (k : Bool) (d a b : Field6) (s : State) : Out :=
  issue (specSSS k d a b 1) s fun s => s.landS 1 d ((s.readS a).sshiftRight ((s.readS b).toNat % 64))

/-- R99: shift or rotate by s[B][5:0]. -/
def execRotl (k : Bool) (d a b : Field6) (s : State) : Out :=
  issue (specSSS k d a b 1) s fun s => s.landS 1 d ((s.readS a).rotateLeft ((s.readS b).toNat % 64))

/-- R99: shift or rotate by s[B][5:0]. -/
def execRotr (k : Bool) (d a b : Field6) (s : State) : Out :=
  issue (specSSS k d a b 1) s fun s => s.landS 1 d ((s.readS a).rotateRight ((s.readS b).toNat % 64))

/-- R99: leading zero bits, 0 to 64. -/
def execClz (k : Bool) (d a : Field6) (s : State) : Out :=
  issue (specSS k d a 1) s fun s => s.landS 1 d (BitVec.ofNat 64 (leadingZeros (s.readS a).toNat 64))

/-- R99: trailing zero bits, 0 to 64. -/
def execCtz (k : Bool) (d a : Field6) (s : State) : Out :=
  issue (specSS k d a 1) s fun s => s.landS 1 d (BitVec.ofNat 64 (trailingZeros (s.readS a).toNat 64))

/-- R99: set bits. -/
def execPopc (k : Bool) (d a : Field6) (s : State) : Out :=
  issue (specSS k d a 1) s fun s => s.landS 1 d (BitVec.ofNat 64 (popCount (s.readS a).toNat 64))

/-- R99: the eight bytes in reverse order. -/
def execBswap (k : Bool) (d a : Field6) (s : State) : Out :=
  issue (specSS k d a 1) s fun s => s.landS 1 d (BitVec.ofNat 64 (swapBytes (s.readS a).toNat 8))

/-- R99: signed field extract; length 0 gives 0. -/
def execBfx (k : Bool) (d a b : Field6) (s : State) : Out :=
  issue (specSSS k d a b 1) s fun s => s.landS 1 d (if fieldLen (s.readS b) = 0 then 0 else
      BitVec.ofInt 64 (signedOf (fieldLen (s.readS b)) (bits (s.readS a).toNat (fieldPos (s.readS b)) (fieldLen (s.readS b)))))

/-- R99: unsigned field extract; length 0 gives 0. -/
def execBfxu (k : Bool) (d a b : Field6) (s : State) : Out :=
  issue (specSSS k d a b 1) s fun s => s.landS 1 d (BitVec.ofNat 64 (bits (s.readS a).toNat (fieldPos (s.readS b)) (fieldLen (s.readS b))))

/-- R99: field insert, reading d at issue; length 0 lands nothing. -/
def execBfi (k : Bool) (d a b : Field6) (s : State) : Out :=
  issue ({ cls := .s, k := k, regs := [dstU .s d 1, srcU .s d, srcU .s a, srcU .s b] }) s fun s => if fieldLen (s.readS b) = 0 then s else
    s.landS 1 d (BitVec.ofNat 64 (setBits (s.readS d).toNat (fieldPos (s.readS b)) (fieldLen (s.readS b)) (s.readS a).toNat))

/-- R100: as the register form with sh = n. -/
def execShli (k : Bool) (d a n : Field6) (s : State) : Out :=
  issue (specSS k d a 1) s fun s => s.landS 1 d (s.readS a <<< n.toNat)

/-- R100: as the register form with sh = n. -/
def execShri (k : Bool) (d a n : Field6) (s : State) : Out :=
  issue (specSS k d a 1) s fun s => s.landS 1 d (s.readS a >>> n.toNat)

/-- R100: as the register form with sh = n. -/
def execSari (k : Bool) (d a n : Field6) (s : State) : Out :=
  issue (specSS k d a 1) s fun s => s.landS 1 d ((s.readS a).sshiftRight (n.toNat))

/-- R100: as the register form with sh = n. -/
def execRotli (k : Bool) (d a n : Field6) (s : State) : Out :=
  issue (specSS k d a 1) s fun s => s.landS 1 d ((s.readS a).rotateLeft (n.toNat))

/-- R101: low 64 bits of the product. -/
def execMul (k : Bool) (d a b : Field6) (s : State) : Out :=
  issue (specSSS k d a b 3) s fun s => s.landS 3 d (s.readS a * s.readS b)

/-- R101: bits [127:64] of the signed product. -/
def execMulh (k : Bool) (d a b : Field6) (s : State) : Out :=
  issue (specSSS k d a b 3) s fun s => s.landS 3 d (BitVec.ofInt 64 ((s.readS a).toInt * (s.readS b).toInt / 2 ^ 64))

/-- R101: bits [127:64] of the unsigned product. -/
def execMulhu (k : Bool) (d a b : Field6) (s : State) : Out :=
  issue (specSSS k d a b 3) s fun s => s.landS 3 d (BitVec.ofNat 64 ((s.readS a).toNat * (s.readS b).toNat / 2 ^ 64))

/-- R101: 32-bit product, sign-extended. -/
def execMulw (k : Bool) (d a b : Field6) (s : State) : Out :=
  issue (specSSS k d a b 3) s fun s => s.landS 3 d (sext32 (s.readS a * s.readS b))

/-- R101, R102: signed quotient toward zero. -/
def execDiv (k : Bool) (d a b : Field6) (s : State) : Out :=
  issue (specDiv k d a b) s fun s => s.divide d (divS (s.readS a) (s.readS b))

/-- R101, R102: unsigned quotient. -/
def execDivu (k : Bool) (d a b : Field6) (s : State) : Out :=
  issue (specDiv k d a b) s fun s => s.divide d (divU (s.readS a) (s.readS b))

/-- R101, R102: signed remainder with the sign of a. -/
def execRem (k : Bool) (d a b : Field6) (s : State) : Out :=
  issue (specDiv k d a b) s fun s => s.divide d (remS (s.readS a) (s.readS b))

/-- R101, R102: unsigned remainder. -/
def execRemu (k : Bool) (d a b : Field6) (s : State) : Out :=
  issue (specDiv k d a b) s fun s => s.divide d (remU (s.readS a) (s.readS b))

/-- R103: ib[D] := s[A][5:0], in effect from c + 2. -/
def execIbw (d a : Field6) (s : State) : Out :=
  issue ({ cls := .s, who := .prim, regs := [dstU .ib d 2, srcU .s a] }) s fun s => s.land 2 (.ib d.toNat) (bits (s.readS a).toNat 0 6)

/-- R103: s[D] := ib[A], the value in effect. -/
def execIbr (d a : Field6) (s : State) : Out :=
  issue ({ cls := .s, who := .prim, regs := [dstU .s d 1, srcU .ib a] }) s fun s => s.landS 1 d ((vget s.prim.ib a.toNat 0).setWidth 64)

/-- R103: the predicates as bits, b0 lowest. -/
def execPpack (k : Bool) (d : Field6) (s : State) : Out :=
  issue ({ cls := .s, k := k, regs := [dstU .s d 1] }) s fun s => s.landS 1 d (BitVec.ofNat 64 (packElems 1 ((List.range (s.lat 16 8)).map fun i => b2n (s.readB i))))

/-- R103: every predicate from the bits of s[A]. -/
def execPunpk (k : Bool) (a : Field6) (s : State) : Out :=
  issue ({ cls := .s, k := k, regs := [srcU .s a] }) s fun s => s.land 1 .bAll (bits (s.readS a).toNat 0 (s.lat 16 8))

/-- R103: s[A] or s[B] by a predicate. -/
def execSel (k : Bool) (d a b : Field6) (p : BitVec 4) (s : State) : Out :=
  issue ({ cls := .s, k := k, regs := [dstU .s d 1, srcU .s a, srcU .s b, srcU .b (narrow p)] }) s fun s => s.landS 1 d (if s.readB p.toNat then s.readS a else s.readS b)

/-- R104: the doubleword at offset 8n of the own core, as an ld reads it. -/
def execCwld (k : Bool) (d : Field6) (n : BitVec 8) (s : State) : Out :=
  issue (specCwld k d n) s fun s => (s.touch [8 * n.toNat] 8 false).access
    (.read [s.core.lmBase + 8 * n.toNat] 8 64 false (s.dstS d) (s.lat 2 4))

end Sys2Proof.Machine
end

