-- ==== Sys2Proof/Machine/Vector.lean ====
section
/-! DEFINITION. Vector integer arithmetic, selects and masks, narrowing, permutes, scans, reductions and the bitonic steps
(15_vector R291, R293, R295, R300 to R303). -/

namespace Sys2Proof.Machine

/-! ### Integer arithmetic (R291): lanes wrap, no flag -/

/-- R291: lane i := a + b -/
def execViadd (k : Bool) (d a b : Field6) (s : State) : Out :=
  issue (specVVV k d a b 2) s fun s => s.landLanes 2 d (lanes2 (fun _ x y => (x + y, 0)) (s.readLanes a) (s.readLanes b))

/-- R291: lane i := a - b -/
def execVisub (k : Bool) (d a b : Field6) (s : State) : Out :=
  issue (specVVV k d a b 2) s fun s => s.landLanes 2 d (lanes2 (fun _ x y => (x + 2 ^ 32 - y, 0)) (s.readLanes a) (s.readLanes b))

/-- R291: lane i := a × b -/
def execVimul (k : Bool) (d a b : Field6) (s : State) : Out :=
  issue (specVVV k d a b 2) s fun s => s.landLanes 2 d (lanes2 (fun _ x y => (x * y, 0)) (s.readLanes a) (s.readLanes b))

/-- R291: lane i := a and b -/
def execViand (k : Bool) (d a b : Field6) (s : State) : Out :=
  issue (specVVV k d a b 2) s fun s => s.landLanes 2 d (lanes2 (fun _ x y => (x &&& y, 0)) (s.readLanes a) (s.readLanes b))

/-- R291: lane i := a or b -/
def execVior (k : Bool) (d a b : Field6) (s : State) : Out :=
  issue (specVVV k d a b 2) s fun s => s.landLanes 2 d (lanes2 (fun _ x y => (x ||| y, 0)) (s.readLanes a) (s.readLanes b))

/-- R291: lane i := a exclusive or b -/
def execVixor (k : Bool) (d a b : Field6) (s : State) : Out :=
  issue (specVVV k d a b 2) s fun s => s.landLanes 2 d (lanes2 (fun _ x y => (x ^^^ y, 0)) (s.readLanes a) (s.readLanes b))

/-- R291: lane i := a shifted left -/
def execVishl (k : Bool) (d a b : Field6) (s : State) : Out :=
  issue (specVVV k d a b 2) s fun s => s.landLanes 2 d (lanes2 (fun _ x y => (x * 2 ^ (y % 32), 0)) (s.readLanes a) (s.readLanes b))

/-- R291: lane i := a shifted right, zero-filled -/
def execVishr (k : Bool) (d a b : Field6) (s : State) : Out :=
  issue (specVVV k d a b 2) s fun s => s.landLanes 2 d (lanes2 (fun _ x y => (x / 2 ^ (y % 32), 0)) (s.readLanes a) (s.readLanes b))

/-- R291: lane i := a shifted right, sign-filled -/
def execVisar (k : Bool) (d a b : Field6) (s : State) : Out :=
  issue (specVVV k d a b 2) s fun s => s.landLanes 2 d (lanes2 (fun _ x y => (unsignedOf 32 ((signedOf 32 x).fdiv (2 ^ (y % 32))), 0)) (s.readLanes a) (s.readLanes b))

/-- R291: lane i := the lesser, signed -/
def execVimin (k : Bool) (d a b : Field6) (s : State) : Out :=
  issue (specVVV k d a b 2) s fun s => s.landLanes 2 d (lanes2 (fun _ x y => (if signedOf 32 x ≤ signedOf 32 y then x else y, 0)) (s.readLanes a) (s.readLanes b))

/-- R291: lane i := the greater, signed -/
def execVimax (k : Bool) (d a b : Field6) (s : State) : Out :=
  issue (specVVV k d a b 2) s fun s => s.landLanes 2 d (lanes2 (fun _ x y => (if signedOf 32 x ≤ signedOf 32 y then y else x, 0)) (s.readLanes a) (s.readLanes b))

/-- R291: lane i := the lesser, unsigned -/
def execViminu (k : Bool) (d a b : Field6) (s : State) : Out :=
  issue (specVVV k d a b 2) s fun s => s.landLanes 2 d (lanes2 (fun _ x y => (if x ≤ y then x else y, 0)) (s.readLanes a) (s.readLanes b))

/-- R291: lane i := the greater, unsigned -/
def execVimaxu (k : Bool) (d a b : Field6) (s : State) : Out :=
  issue (specVVV k d a b 2) s fun s => s.landLanes 2 d (lanes2 (fun _ x y => (if x ≤ y then y else x, 0)) (s.readLanes a) (s.readLanes b))

/-! ### Selects and masks (R293) -/

/-- mD, mA, mB. -/
def specMMM (k : Bool) (d a b : Field6) : OpSpec :=
  { cls := .v, k := k, regs := [dstU .m d 1, srcU .m a, srcU .m b] }

/-- vD, vA, vB, mP. -/
def specVsel (k : Bool) (d a b : Field6) (p : BitVec 3) : OpSpec :=
  { cls := .v, k := k, regs := [dstU .v d 1, srcU .v a, srcU .v b, srcU .m (narrow p)] }

/-- R293: lane i := a where the mask bit is 1, else b -/
def execVsel (k : Bool) (d a b : Field6) (p : BitVec 3) (s : State) : Out :=
  issue (specVsel k d a b p) s fun s => s.landLanes 1 d (lanes2 (fun j x y => (if bit (s.readM p.toNat).toNat j then x else y, 0)) (s.readLanes a) (s.readLanes b))

/-- R293: mD := mA and mB -/
def execMand (k : Bool) (d a b : Field6) (s : State) : Out :=
  issue (specMMM k d a b) s fun s => s.landM 1 d.toNat (s.readM a.toNat &&& s.readM b.toNat)

/-- R293: mD := mA or mB -/
def execMor (k : Bool) (d a b : Field6) (s : State) : Out :=
  issue (specMMM k d a b) s fun s => s.landM 1 d.toNat (s.readM a.toNat ||| s.readM b.toNat)

/-- R293: mD := mA exclusive or mB -/
def execMxor (k : Bool) (d a b : Field6) (s : State) : Out :=
  issue (specMMM k d a b) s fun s => s.landM 1 d.toNat (s.readM a.toNat ^^^ s.readM b.toNat)

/-- R293: mD := not mA -/
def execMnot (k : Bool) (d a : Field6) (s : State) : Out :=
  issue ({ cls := .v, k := k, regs := [dstU .m d 1, srcU .m a] }) s fun s => s.landM 1 d.toNat (~~~(s.readM a.toNat))

/-- R293: s[D] := the set bits of mA -/
def execMpop (k : Bool) (d a : Field6) (s : State) : Out :=
  issue ({ cls := .v, k := k, regs := [dstU .s d 1, srcU .m a] }) s fun s => s.landS 1 d (BitVec.ofNat 64 (popCount (s.readM a.toNat).toNat 64))

/-- R293: mD := s[A] -/
def execMmovToMask (k : Bool) (d a : Field6) (s : State) : Out :=
  issue ({ cls := .v, k := k, regs := [dstU .m d 1, srcU .s a] }) s fun s => s.landM 1 d.toNat (s.readS a)

/-- R293: s[D] := mA -/
def execMmovFromMask (k : Bool) (d a : Field6) (s : State) : Out :=
  issue ({ cls := .v, k := k, regs := [dstU .s d 1, srcU .m a] }) s fun s => s.landS 1 d (s.readM a.toNat)

/-! ### Narrowing and widening (R295) -/

/-- A lane saturated to a signed element of w bits; saturation raises NV. -/
def saturate (w x : Nat) : Nat × FlagSet :=
  let v := signedOf 32 x
  let hi : Int := 2 ^ (w - 1) - 1
  let lo : Int := -(2 ^ (w - 1))
  if v > hi then (unsignedOf w hi, flagNV) else if v < lo then (unsignedOf w lo, flagNV) else (unsignedOf w v, 0)

/-- The packed elements of w bits, sign-extended to lanes. -/
def State.widenLanes (s : State) (w : Nat) (a : Field6) : List (Nat × FlagSet) :=
  (unpackElems w s.lanes (s.readV a).toNat).map fun x => (unsignedOf 32 (signedOf w x), 0)

/-- R295: pack the lanes, saturated to 8 bits -/
def execVnarrowI8 (k : Bool) (d a : Field6) (s : State) : Out :=
  issue (specVV k d a 3) s fun s => s.landPacked 3 8 d ((s.readLanes a).map (saturate 8))

/-- R295: pack the lanes, saturated to 4 bits -/
def execVnarrowI4 (k : Bool) (d a : Field6) (s : State) : Out :=
  issue (specVV k d a 3) s fun s => s.landPacked 3 4 d ((s.readLanes a).map (saturate 4))

/-- R295: widen packed 8-bit elements -/
def execVwidenI8 (k : Bool) (d a : Field6) (s : State) : Out :=
  issue (specVV k d a 3) s fun s => s.landLanes 3 d (s.widenLanes 8 a)

/-- R295: widen packed 4-bit elements -/
def execVwidenI4 (k : Bool) (d a : Field6) (s : State) : Out :=
  issue (specVV k d a 3) s fun s => s.landLanes 3 d (s.widenLanes 4 a)

/-! ### Permutes and broadcasts (R300) -/

/-- Lanes without flags. -/
def State.landPlain (s : State) (lat : Nat) (d : Field6) (l : List Nat) : State := s.landV lat d (ofLanes l)

/-- vD, vA, sB. -/
def specVVS (k : Bool) (d a b : Field6) (lat : Nat) : OpSpec :=
  { cls := .v, k := k, regs := [dstU .v d lat, srcU .v a, srcU .s b] }

/-- vD, vA and a mask operand: 32 names none (R283). -/
def specVVM (k : Bool) (d a m : Field6) (lat : Nat) : OpSpec :=
  { cls := .v, k := k, regs := [dstU .v d lat, srcU .v a] ++ (if m = 32 then [] else [srcU .m m]) }

/-- Lane i is included by a mask operand (R283). -/
def State.included (s : State) (m : Field6) (i : Nat) : Bool := decide (m = 32) || bit (s.readM m.toNat).toNat i

/-- Lane n of a list of lanes, modulo their number. -/
def laneMod (l : List Nat) (n : Nat) : Nat := l.getD (n % l.length) 0

/-- R300: lane i := a.lane[b.lane[i] mod N] -/
def execVperm (k : Bool) (d a b : Field6) (s : State) : Out :=
  issue (specVVV k d a b 3) s fun s => s.landPlain 3 d ((s.readLanes b).map fun i => laneMod (s.readLanes a) i)

/-- R300: every lane := a.lane[s[B] mod N] -/
def execVbcl (k : Bool) (d a b : Field6) (s : State) : Out :=
  issue (specVVS k d a b 3) s fun s => s.landPlain 3 d ((s.readLanes a).map fun _ => laneMod (s.readLanes a) (s.readS b).toNat)

/-- R300: every lane := s[A][31:0] -/
def execVbcs (k : Bool) (d a : Field6) (s : State) : Out :=
  issue ({ cls := .v, k := k, regs := [dstU .v d 3, srcU .s a] }) s fun s => s.landPlain 3 d (List.replicate s.lanes (s.readF a))

/-- R300: lane i := a.lane[(i + s[B]) mod N] -/
def execVrot (k : Bool) (d a b : Field6) (s : State) : Out :=
  issue (specVVS k d a b 3) s fun s => s.landPlain 3 d ((List.range s.lanes).map fun i => laneMod (s.readLanes a) (i + (s.readS b).toNat))

/-- R300: s[D] := a.lane[s[B] mod N] -/
def execVext (k : Bool) (d a b : Field6) (s : State) : Out :=
  issue ({ cls := .v, k := k, regs := [dstU .s d 3, srcU .v a, srcU .s b] }) s fun s => s.landS 3 d (BitVec.ofNat 64 (laneMod (s.readLanes a) (s.readS b).toNat))

/-- R300: d with lane s[B] mod N := s[A][31:0] -/
def execVins (k : Bool) (d a b : Field6) (s : State) : Out :=
  issue ({ cls := .v, k := k, regs := [dstU .vRw d 3, srcU .s a, srcU .s b] }) s fun s => s.landPlain 3 d (listSet (s.readLanes d) ((s.readS b).toNat % s.lanes) (s.readF a))

/-- The included lanes, lowest first. -/
def State.includedLanes (s : State) (m a : Field6) : List Nat :=
  ((s.readLanes a).zipIdx.filter fun x => s.included m x.2).map fun x => x.1

/-- Hand the lanes of `l` out to the included places in order; the others take 0. -/
def expandLanes : List Bool → List Nat → List Nat
  | [], _ => []
  | true :: bs, x :: l => x :: expandLanes bs l
  | true :: bs, [] => 0 :: expandLanes bs []
  | false :: bs, l => 0 :: expandLanes bs l

/-- R300: the included lanes, to lanes 0 upward; the rest zero -/
def execVcompress (k : Bool) (d a : Field6) (m : Field6) (s : State) : Out :=
  issue (specVVM k d a m 3) s fun s => s.landPlain 3 d (s.includedLanes m a)

/-- R300: lanes 0 upward, to the included lanes; the rest zero -/
def execVexpand (k : Bool) (d a : Field6) (m : Field6) (s : State) : Out :=
  issue (specVVM k d a m 3) s fun s => s.landPlain 3 d (expandLanes ((List.range s.lanes).map (s.included m)) (s.readLanes a))

/-! ### Scans, reductions, arg-max (R301, R302) -/

/-- A combining function with its entry for the first lane. -/
structure Combine where
  first : Nat → Nat × FlagSet
  step : Nat → Nat → Nat × FlagSet
  empty : Nat

/-- A NaN becomes the canonical one (R302). -/
def canon32 (x : Nat) : Nat × FlagSet :=
  if (f32 x).isNaN then (nan32, flagIf (f32 x).isSig flagNV) else (x, 0)

def combineAdd : Combine := ⟨canon32, fAdd 0 0, 0⟩
def combineMax : Combine := ⟨canon32, fMax, 0xFF800000⟩
def combineMin : Combine := ⟨canon32, fMin, 0x7F800000⟩
def combineIadd : Combine := ⟨fun x => (x, 0), fun x y => ((x + y) % 2 ^ 32, 0), 0⟩

/-- The running values of the lanes, in lane order, with the flags of each step. -/
def scanLanes (c : Combine) : Option Nat → List (Bool × Nat) → List (Nat × FlagSet)
  | _, [] => []
  | none, (true, x) :: l => c.first x :: scanLanes c (some (c.first x).1) l
  | none, (false, _) :: l => (c.empty, 0) :: scanLanes c none l
  | some a, (true, x) :: l => c.step a x :: scanLanes c (some (c.step a x).1) l
  | some a, (false, _) :: l => (a, 0) :: scanLanes c (some a) l

/-- The lanes of a source with their inclusion. -/
def State.maskedLanes (s : State) (m a : Field6) : List (Bool × Nat) :=
  (s.readLanes a).zipIdx.map fun x => (s.included m x.2, x.1)

/-- An inclusive scan. -/
def State.scanOp (s : State) (c : Combine) (d a m : Field6) : State := s.landLanes 6 d (scanLanes c none (s.maskedLanes m a))

/-- A reduction: the last running value in every lane. -/
def State.reduceOp (s : State) (c : Combine) (d a m : Field6) : State :=
  let r := scanLanes c none (s.maskedLanes m a)
  let v := match r.getLast? with
    | some x => x.1
    | none => c.empty
  (s.landPlain 6 d (List.replicate s.lanes v)).raise 6 (flagsOr (r.map fun x => x.2))

/-- The key order of R285 as a number: NaNs above +∞, -0 directly below +0. -/
def rankKey (x : Nat) : Nat :=
  if (f32 x).isNaN then 2 ^ 33 else if bit x 31 then 2 ^ 31 - 1 - x % 2 ^ 31 else 2 ^ 31 + x % 2 ^ 31

/-- The first included lane whose code ranks highest. -/
def argMax : List (Bool × Nat) → Nat → Option (Nat × Nat) → Nat
  | [], _, none => 0xFFFFFFFF
  | [], _, some best => best.2
  | (true, x) :: l, i, none => argMax l (i + 1) (some (x, i))
  | (true, x) :: l, i, some best => argMax l (i + 1) (some (if rankKey best.1 < rankKey x then (x, i) else best))
  | (false, _) :: l, i, b => argMax l (i + 1) b

/-- R301, R302: inclusive scan -/
def execVscanAdd (k : Bool) (d a : Field6) (m : Field6) (s : State) : Out :=
  issue (specVVM k d a m 6) s fun s => s.scanOp combineAdd d a m

/-- R301, R302: inclusive scan -/
def execVscanMax (k : Bool) (d a : Field6) (m : Field6) (s : State) : Out :=
  issue (specVVM k d a m 6) s fun s => s.scanOp combineMax d a m

/-- R301, R302: inclusive scan -/
def execVscanIadd (k : Bool) (d a : Field6) (m : Field6) (s : State) : Out :=
  issue (specVVM k d a m 6) s fun s => s.scanOp combineIadd d a m

/-- R301, R302: reduction, broadcast -/
def execVredAdd (k : Bool) (d a : Field6) (m : Field6) (s : State) : Out :=
  issue (specVVM k d a m 6) s fun s => s.reduceOp combineAdd d a m

/-- R301, R302: reduction, broadcast -/
def execVredMax (k : Bool) (d a : Field6) (m : Field6) (s : State) : Out :=
  issue (specVVM k d a m 6) s fun s => s.reduceOp combineMax d a m

/-- R301, R302: reduction, broadcast -/
def execVredMin (k : Bool) (d a : Field6) (m : Field6) (s : State) : Out :=
  issue (specVVM k d a m 6) s fun s => s.reduceOp combineMin d a m

/-- R301, R302: reduction, broadcast -/
def execVredIadd (k : Bool) (d a : Field6) (m : Field6) (s : State) : Out :=
  issue (specVVM k d a m 6) s fun s => s.reduceOp combineIadd d a m

/-- R302: the number of the first included lane that ranks highest -/
def execVargmax (k : Bool) (d a : Field6) (m : Field6) (s : State) : Out :=
  issue (specVVM k d a m 6) s fun s => s.landPlain 6 d (List.replicate s.lanes (argMax (s.maskedLanes m a) 0 none))

/-! ### Bitonic steps (R303) -/

/-- The pairs of a register: key in the even lane, index in the odd. -/
def pairsOf : List Nat → List (Nat × Nat)
  | k :: i :: l => (k, i) :: pairsOf l
  | _ => []

def unpairs (l : List (Nat × Nat)) : List Nat := l.flatMap fun p => [p.1, p.2]

/-- Before(x, y) (R285). -/
def pairBefore (x y : Nat × Nat) : Bool :=
  decide (rankKey x.1 < rankKey y.1) || (decide (rankKey x.1 = rankKey y.1) && decide (x.2 < y.2))

/-- One stage of the network: what pair p becomes, its partner at distance 2^j, ascending where bit k of p is 0. -/
def cxPair (ps : List (Nat × Nat)) (j k : Nat) (down : Bool) (p : Nat) : Nat × Nat :=
  let lo := if bit p j then p - 2 ^ j else p
  let x := ps.getD lo (0, 0)
  let y := ps.getD (lo + 2 ^ j) (0, 0)
  let up := (decide (2 ^ k ≥ ps.length) || !bit lo k) != down
  let swap := if up then pairBefore y x else pairBefore x y
  if bit p j != swap then y else x

def State.cxStage (s : State) (a b : Field6) (down : Bool) : List Nat :=
  let ps := pairsOf (s.readLanes a)
  let j := bits (s.readS b).toNat 0 4
  let k := bits (s.readS b).toNat 8 4
  if 2 ^ j < ps.length then unpairs ((List.range ps.length).map (cxPair ps j k down)) else s.readLanes a

/-- The merge of a with b reversed: the lower or the higher of each meeting. -/
def State.mergeStage (s : State) (a b : Field6) (high : Bool) : List Nat :=
  unpairs (((pairsOf (s.readLanes a)).zip (pairsOf (s.readLanes b)).reverse).map fun x =>
    if pairBefore x.2 x.1 != high then x.2 else x.1)

/-- R303: one ascending stage -/
def execVcx (k : Bool) (d a b : Field6) (s : State) : Out :=
  issue (specVVS k d a b 4) s fun s => s.landPlain 4 d (s.cxStage a b false)

/-- R303: one descending stage -/
def execVcxD (k : Bool) (d a b : Field6) (s : State) : Out :=
  issue (specVVS k d a b 4) s fun s => s.landPlain 4 d (s.cxStage a b true)

/-- R303: the lower pairs of the merge -/
def execVmrg (k : Bool) (d a b : Field6) (s : State) : Out :=
  issue (specVVV k d a b 4) s fun s => s.landPlain 4 d (s.mergeStage a b false)

/-- R303: the higher pairs of the merge -/
def execVmrgD (k : Bool) (d a b : Field6) (s : State) : Out :=
  issue (specVVV k d a b 4) s fun s => s.landPlain 4 d (s.mergeStage a b true)

end Sys2Proof.Machine
end

