-- ==== Sys2Proof/Machine/Dispatch.lean ====
section
/-! DEFINITION. The one table from instructions to their meanings. -/

namespace Sys2Proof.Machine

/-- The meaning of an instruction: one direct call each. -/
def exec (i : Instr) (s : State) : Host.Outcome State Fault Refusal :=
  match i with
  | .pawnSwitchRejoin t => Sys2Proof.Machine.execPawnSwitchRejoin t s
  | .pawnLmGrant t => Sys2Proof.Machine.execPawnLmGrant t s
  | .pawnFetch t => Sys2Proof.Machine.execPawnFetch t s
  | .pawnPushRetry t => Sys2Proof.Machine.execPawnPushRetry t s
  | .trapEntry c => Sys2Proof.Machine.execTrapEntry c s
  | .pawnTrapEntry t => Sys2Proof.Machine.execPawnTrapEntry t s
  | .doorbell slot q value => Sys2Proof.Machine.execDoorbell slot q value s
  | .launch j => Sys2Proof.Machine.execLaunch j s
  | .launchPlacement j => Sys2Proof.Machine.execLaunchPlacement j s
  | .launchCompletion j => Sys2Proof.Machine.execLaunchCompletion j s
  | .queueCopy j => Sys2Proof.Machine.execQueueCopy j s
  | .queueCollective j => Sys2Proof.Machine.execQueueCollective j s
  | .hostNotification j => Sys2Proof.Machine.execHostNotification j s
  | .eventWait j => Sys2Proof.Machine.execEventWait j s
  | .eventWaitRecheck j => Sys2Proof.Machine.execEventWaitRecheck j s
  | .conditional j => Sys2Proof.Machine.execConditional j s
  | .runGraph j => Sys2Proof.Machine.execRunGraph j s
  | .graphNodeStart g n => Sys2Proof.Machine.execGraphNodeStart g n s
  | .graphNodeCompletion j => Sys2Proof.Machine.execGraphNodeCompletion j s
  | .hostRingTimeExpiry h => Sys2Proof.Machine.execHostRingTimeExpiry h s
  | .hrptrWrite h head => Sys2Proof.Machine.execHrptrWrite h head s
  | .featlockWrite v => Sys2Proof.Machine.execFeatlockWrite v s
  | .copy ch => Sys2Proof.Machine.execCopy ch s
  | .copy2d ch => Sys2Proof.Machine.execCopy2d ch s
  | .split ch => Sys2Proof.Machine.execSplit ch s
  | .gather ch => Sys2Proof.Machine.execGather ch s
  | .scatter ch => Sys2Proof.Machine.execScatter ch s
  | .fill ch => Sys2Proof.Machine.execFill ch s
  | .wpset ch => Sys2Proof.Machine.execWpset ch s
  | .engineCommandCompletion ch => Sys2Proof.Machine.execEngineCommandCompletion ch s
  | .completionRecordPush ch => Sys2Proof.Machine.execCompletionRecordPush ch s
  | .collectiveIncompleteReply mask => Sys2Proof.Machine.execCollectiveIncompleteReply mask s
  | .pawnCacheFill t => Sys2Proof.Machine.execPawnCacheFill t s
  | .homeAtomic t => Sys2Proof.Machine.execHomeAtomic t s
  | .atomicReply t => Sys2Proof.Machine.execAtomicReply t s
  | .monitorRegisterAck t n => Sys2Proof.Machine.execMonitorRegisterAck t n s
  | .monitorHit loc line => Sys2Proof.Machine.execMonitorHit loc line s
  | .monwaitTimeout t => Sys2Proof.Machine.execMonwaitTimeout t s
  | .mailboxDeposit t sender word => Sys2Proof.Machine.execMailboxDeposit t sender word s
  | .ackLanding t ok => Sys2Proof.Machine.execAckLanding t ok s
  | .ringOperation t => Sys2Proof.Machine.execRingOperation t s
  | .taskEntryArrival entry arg0 arg1 arg2 issuer anywhere => Sys2Proof.Machine.execTaskEntryArrival entry arg0 arg1 arg2 issuer anywhere s
  | .rowClaimReply t => Sys2Proof.Machine.execRowClaimReply t s
  | .translationWalk w => Sys2Proof.Machine.execTranslationWalk w s
  | .fqrespWalkAgain cx id => Sys2Proof.Machine.execFqrespWalkAgain cx id s
  | .fqrespDeliver cx id => Sys2Proof.Machine.execFqrespDeliver cx id s
  | .tlbinv va c => Sys2Proof.Machine.execTlbinv va c s
  | .tlbinvFlush va c => Sys2Proof.Machine.execTlbinvFlush va c s
  | .tickExchange l => Sys2Proof.Machine.execTickExchange l s
  | .tickStamp l count => Sys2Proof.Machine.execTickStamp l count s
  | .portDeposit vec port value sender far => Sys2Proof.Machine.execPortDeposit vec port value sender far s
  | .heartbeat die => Sys2Proof.Machine.execHeartbeat die s
  | .heartbeatLoss die => Sys2Proof.Machine.execHeartbeatLoss die s
  | .moveOrderVisit t => Sys2Proof.Machine.execMoveOrderVisit t s
  | .preemptionRequest c => Sys2Proof.Machine.execPreemptionRequest c s
  | .contextRestore j => Sys2Proof.Machine.execContextRestore j s
  | .ctxslotWrite slot v => Sys2Proof.Machine.execCtxslotWrite slot v s
  | .ctxslotEvict slot => Sys2Proof.Machine.execCtxslotEvict slot s
  | .evictionCompletion slot => Sys2Proof.Machine.execEvictionCompletion slot s
  | .sintrWrite n word => Sys2Proof.Machine.execSintrWrite n word s
  | .accountingBoundary emeas idle => Sys2Proof.Machine.execAccountingBoundary emeas idle s
  | .acctclr cx => Sys2Proof.Machine.execAcctclr cx s
  | .accountingReadout first count => Sys2Proof.Machine.execAccountingReadout first count s
  | .getCertificate off len => Sys2Proof.Machine.execGetCertificate off len s
  | .challenge nonce => Sys2Proof.Machine.execChallenge nonce s
  | .getMeasurements idx nonce => Sys2Proof.Machine.execGetMeasurements idx nonce s
  | .unsupportedSpdmRequest code => Sys2Proof.Machine.execUnsupportedSpdmRequest code s
  | .quoteStart v => Sys2Proof.Machine.execQuoteStart v s
  | .patrolScrub store addr uncorr => Sys2Proof.Machine.execPatrolScrub store addr uncorr s
  | .selfTestVerdict store die unit verdict => Sys2Proof.Machine.execSelfTestVerdict store die unit verdict s
  | .linkRetrainTimeout l => Sys2Proof.Machine.execLinkRetrainTimeout l s
  | .dbgHaltreq g => Sys2Proof.Machine.execDbgHaltreq g s
  | .dbgResume g => Sys2Proof.Machine.execDbgResume g s
  | .breakpointHit n => Sys2Proof.Machine.execBreakpointHit n s
  | .watchpointHit n pawn t addr => Sys2Proof.Machine.execWatchpointHit n pawn t addr s
  | .crossTriggerHalt g => Sys2Proof.Machine.execCrossTriggerHalt g s
  | .dumpStart v => Sys2Proof.Machine.execDumpStart v s
  | .registerWrite off value => Sys2Proof.Machine.execRegisterWrite off value s
  | .hostApertureAccess op pa data => Sys2Proof.Machine.execHostApertureAccess op pa data s
  | .fabricWrite pa data => Sys2Proof.Machine.execFabricWrite pa data s
  | .planeMaskChange mask => Sys2Proof.Machine.execPlaneMaskChange mask s
  | .inputVoltageChange mv => Sys2Proof.Machine.execInputVoltageChange mv s
  | .nop k => Sys2Proof.Machine.execNop k s
  | .br k imm => Sys2Proof.Machine.execBr k imm s
  | .brT k p imm => Sys2Proof.Machine.execBrT k p imm s
  | .brF k p imm => Sys2Proof.Machine.execBrF k p imm s
  | .loop n a imm => Sys2Proof.Machine.execLoop n a imm s
  | .call k l imm => Sys2Proof.Machine.execCall k l imm s
  | .calli k l a imm => Sys2Proof.Machine.execCalli k l a imm s
  | .jr k a imm => Sys2Proof.Machine.execJr k a imm s
  | .holdEq a b => Sys2Proof.Machine.execHoldEq a b s
  | .holdNe a b => Sys2Proof.Machine.execHoldNe a b s
  | .holdLt a b => Sys2Proof.Machine.execHoldLt a b s
  | .holdGe a b => Sys2Proof.Machine.execHoldGe a b s
  | .holdLtu a b => Sys2Proof.Machine.execHoldLtu a b s
  | .holdGeu a b => Sys2Proof.Machine.execHoldGeu a b s
  | .holdEqWp w b => Sys2Proof.Machine.execHoldEqWp w b s
  | .holdNeWp w b => Sys2Proof.Machine.execHoldNeWp w b s
  | .holdLtWp w b => Sys2Proof.Machine.execHoldLtWp w b s
  | .holdGeWp w b => Sys2Proof.Machine.execHoldGeWp w b s
  | .holdLtuWp w b => Sys2Proof.Machine.execHoldLtuWp w b s
  | .holdGeuWp w b => Sys2Proof.Machine.execHoldGeuWp w b s
  | .tempo a => Sys2Proof.Machine.execTempo a s
  | .eqw k e a => Sys2Proof.Machine.execEqw k e a s
  | .eqr k d e => Sys2Proof.Machine.execEqr k d e s
  | .eqcnt k d e => Sys2Proof.Machine.execEqcnt k d e s
  | .trap k a => Sys2Proof.Machine.execTrap k a s
  | .brk k => Sys2Proof.Machine.execBrk k s
  | .sret k => Sys2Proof.Machine.execSret k s
  | .exit k => Sys2Proof.Machine.execExit k s
  | .fenceCore k => Sys2Proof.Machine.execFenceCore k s
  | .fenceClus k => Sys2Proof.Machine.execFenceClus k s
  | .fenceDie k => Sys2Proof.Machine.execFenceDie k s
  | .fencePkg k => Sys2Proof.Machine.execFencePkg k s
  | .fenceSys k => Sys2Proof.Machine.execFenceSys k s
  | .xfenceCore k => Sys2Proof.Machine.execXfenceCore k s
  | .xfenceClus k => Sys2Proof.Machine.execXfenceClus k s
  | .xfenceDie k => Sys2Proof.Machine.execXfenceDie k s
  | .xfencePkg k => Sys2Proof.Machine.execXfencePkg k s
  | .xfenceSys k => Sys2Proof.Machine.execXfenceSys k s
  | .csrr k d c => Sys2Proof.Machine.execCsrr k d c s
  | .csrw k a c => Sys2Proof.Machine.execCsrw k a c s
  | .add k d a b => Sys2Proof.Machine.execAdd k d a b s
  | .sub k d a b => Sys2Proof.Machine.execSub k d a b s
  | .and k d a b => Sys2Proof.Machine.execAnd k d a b s
  | .or k d a b => Sys2Proof.Machine.execOr k d a b s
  | .xor k d a b => Sys2Proof.Machine.execXor k d a b s
  | .andn k d a b => Sys2Proof.Machine.execAndn k d a b s
  | .min k d a b => Sys2Proof.Machine.execMin k d a b s
  | .max k d a b => Sys2Proof.Machine.execMax k d a b s
  | .minu k d a b => Sys2Proof.Machine.execMinu k d a b s
  | .maxu k d a b => Sys2Proof.Machine.execMaxu k d a b s
  | .addw k d a b => Sys2Proof.Machine.execAddw k d a b s
  | .subw k d a b => Sys2Proof.Machine.execSubw k d a b s
  | .mov k d a => Sys2Proof.Machine.execMov k d a s
  | .addi k d a imm => Sys2Proof.Machine.execAddi k d a imm s
  | .andi k d a imm => Sys2Proof.Machine.execAndi k d a imm s
  | .ori k d a imm => Sys2Proof.Machine.execOri k d a imm s
  | .lui k d imm => Sys2Proof.Machine.execLui k d imm s
  | .cmpEq k d a b => Sys2Proof.Machine.execCmpEq k d a b s
  | .cmpNe k d a b => Sys2Proof.Machine.execCmpNe k d a b s
  | .cmpLt k d a b => Sys2Proof.Machine.execCmpLt k d a b s
  | .cmpGe k d a b => Sys2Proof.Machine.execCmpGe k d a b s
  | .cmpLtu k d a b => Sys2Proof.Machine.execCmpLtu k d a b s
  | .cmpGeu k d a b => Sys2Proof.Machine.execCmpGeu k d a b s
  | .pand k d a b => Sys2Proof.Machine.execPand k d a b s
  | .por k d a b => Sys2Proof.Machine.execPor k d a b s
  | .pxor k d a b => Sys2Proof.Machine.execPxor k d a b s
  | .pandn k d a b => Sys2Proof.Machine.execPandn k d a b s
  | .pnot k d a => Sys2Proof.Machine.execPnot k d a s
  | .cmpiEq k p a imm => Sys2Proof.Machine.execCmpiEq k p a imm s
  | .cmpiNe k p a imm => Sys2Proof.Machine.execCmpiNe k p a imm s
  | .cmpiLt k p a imm => Sys2Proof.Machine.execCmpiLt k p a imm s
  | .cmpiGe k p a imm => Sys2Proof.Machine.execCmpiGe k p a imm s
  | .shl k d a b => Sys2Proof.Machine.execShl k d a b s
  | .shr k d a b => Sys2Proof.Machine.execShr k d a b s
  | .sar k d a b => Sys2Proof.Machine.execSar k d a b s
  | .rotl k d a b => Sys2Proof.Machine.execRotl k d a b s
  | .rotr k d a b => Sys2Proof.Machine.execRotr k d a b s
  | .clz k d a => Sys2Proof.Machine.execClz k d a s
  | .ctz k d a => Sys2Proof.Machine.execCtz k d a s
  | .popc k d a => Sys2Proof.Machine.execPopc k d a s
  | .bswap k d a => Sys2Proof.Machine.execBswap k d a s
  | .bfx k d a b => Sys2Proof.Machine.execBfx k d a b s
  | .bfxu k d a b => Sys2Proof.Machine.execBfxu k d a b s
  | .bfi k d a b => Sys2Proof.Machine.execBfi k d a b s
  | .shli k d a n => Sys2Proof.Machine.execShli k d a n s
  | .shri k d a n => Sys2Proof.Machine.execShri k d a n s
  | .sari k d a n => Sys2Proof.Machine.execSari k d a n s
  | .rotli k d a n => Sys2Proof.Machine.execRotli k d a n s
  | .mul k d a b => Sys2Proof.Machine.execMul k d a b s
  | .mulh k d a b => Sys2Proof.Machine.execMulh k d a b s
  | .mulhu k d a b => Sys2Proof.Machine.execMulhu k d a b s
  | .mulw k d a b => Sys2Proof.Machine.execMulw k d a b s
  | .div k d a b => Sys2Proof.Machine.execDiv k d a b s
  | .divu k d a b => Sys2Proof.Machine.execDivu k d a b s
  | .rem k d a b => Sys2Proof.Machine.execRem k d a b s
  | .remu k d a b => Sys2Proof.Machine.execRemu k d a b s
  | .fadd k d a b r => Sys2Proof.Machine.execFadd k d a b r s
  | .fsub k d a b r => Sys2Proof.Machine.execFsub k d a b r s
  | .fmul k d a b r => Sys2Proof.Machine.execFmul k d a b r s
  | .fdiv k d a b r => Sys2Proof.Machine.execFdiv k d a b r s
  | .fsqrt k d a r => Sys2Proof.Machine.execFsqrt k d a r s
  | .fmin k d a b => Sys2Proof.Machine.execFmin k d a b s
  | .fmax k d a b => Sys2Proof.Machine.execFmax k d a b s
  | .fabs k d a => Sys2Proof.Machine.execFabs k d a s
  | .fneg k d a => Sys2Proof.Machine.execFneg k d a s
  | .fcmpEq k d a b => Sys2Proof.Machine.execFcmpEq k d a b s
  | .fcmpLt k d a b => Sys2Proof.Machine.execFcmpLt k d a b s
  | .fcmpLe k d a b => Sys2Proof.Machine.execFcmpLe k d a b s
  | .fcmpUn k d a b => Sys2Proof.Machine.execFcmpUn k d a b s
  | .cvtFI k d a r => Sys2Proof.Machine.execCvtFI k d a r s
  | .cvtFU k d a r => Sys2Proof.Machine.execCvtFU k d a r s
  | .cvtIF k d a r => Sys2Proof.Machine.execCvtIF k d a r s
  | .cvtUF k d a r => Sys2Proof.Machine.execCvtUF k d a r s
  | .cvtBfF k d a r => Sys2Proof.Machine.execCvtBfF k d a r s
  | .cvtHF k d a r => Sys2Proof.Machine.execCvtHF k d a r s
  | .cvtFBf k d a => Sys2Proof.Machine.execCvtFBf k d a s
  | .cvtFH k d a => Sys2Proof.Machine.execCvtFH k d a s
  | .ibw d a => Sys2Proof.Machine.execIbw d a s
  | .ibr d a => Sys2Proof.Machine.execIbr d a s
  | .ppack k d => Sys2Proof.Machine.execPpack k d s
  | .punpk k a => Sys2Proof.Machine.execPunpk k a s
  | .sel k d a b p => Sys2Proof.Machine.execSel k d a b p s
  | .cwld k d n => Sys2Proof.Machine.execCwld k d n s
  | .ldb k d a o => Sys2Proof.Machine.execLdb k d a o s
  | .ldbu k d a o => Sys2Proof.Machine.execLdbu k d a o s
  | .ldh k d a o => Sys2Proof.Machine.execLdh k d a o s
  | .ldhu k d a o => Sys2Proof.Machine.execLdhu k d a o s
  | .ldw k d a o => Sys2Proof.Machine.execLdw k d a o s
  | .ldwu k d a o => Sys2Proof.Machine.execLdwu k d a o s
  | .ld k d a o => Sys2Proof.Machine.execLd k d a o s
  | .stb k d a o => Sys2Proof.Machine.execStb k d a o s
  | .sth k d a o => Sys2Proof.Machine.execSth k d a o s
  | .stw k d a o => Sys2Proof.Machine.execStw k d a o s
  | .st k d a o => Sys2Proof.Machine.execSt k d a o s
  | .vld d a o => Sys2Proof.Machine.execVld d a o s
  | .vst d a o => Sys2Proof.Machine.execVst d a o s
  | .vldh k d a o => Sys2Proof.Machine.execVldh k d a o s
  | .vsth k d a o => Sys2Proof.Machine.execVsth k d a o s
  | .vldb k d a o => Sys2Proof.Machine.execVldb k d a o s
  | .tld t a => Sys2Proof.Machine.execTld t a s
  | .tldBind t a z => Sys2Proof.Machine.execTldBind t a z s
  | .tst t a => Sys2Proof.Machine.execTst t a s
  | .vgathW k d a b => Sys2Proof.Machine.execVgathW k d a b s
  | .vgathH k d a b => Sys2Proof.Machine.execVgathH k d a b s
  | .vgathB k d a b => Sys2Proof.Machine.execVgathB k d a b s
  | .vscatW k d a b => Sys2Proof.Machine.execVscatW k d a b s
  | .vscatH k d a b => Sys2Proof.Machine.execVscatH k d a b s
  | .vscatB k d a b => Sys2Proof.Machine.execVscatB k d a b s
  | .lmadd k d a b => Sys2Proof.Machine.execLmadd k d a b s
  | .lmxchg k d a b => Sys2Proof.Machine.execLmxchg k d a b s
  | .lmcas k d a b => Sys2Proof.Machine.execLmcas k d a b s
  | .lmmin k d a b => Sys2Proof.Machine.execLmmin k d a b s
  | .lmmax k d a b => Sys2Proof.Machine.execLmmax k d a b s
  | .lmand k d a b => Sys2Proof.Machine.execLmand k d a b s
  | .lmor k d a b => Sys2Proof.Machine.execLmor k d a b s
  | .flrel k d a => Sys2Proof.Machine.execFlrel k d a s
  | .flacq k d a => Sys2Proof.Machine.execFlacq k d a s
  | .rld k d a => Sys2Proof.Machine.execRld k d a s
  | .rst k d a => Sys2Proof.Machine.execRst k d a s
  | .rvld k d a => Sys2Proof.Machine.execRvld k d a s
  | .rvst k d a => Sys2Proof.Machine.execRvst k d a s
  | .rqput k a => Sys2Proof.Machine.execRqput k a s
  | .zld f z a n g => Sys2Proof.Machine.execZld f z a n g s
  | .zst z a n g => Sys2Proof.Machine.execZst z a n g s
  | .zbind t z g => Sys2Proof.Machine.execZbind t z g s
  | .zbindNone t => Sys2Proof.Machine.execZbindNone t s
  | .zbindw w z g => Sys2Proof.Machine.execZbindw w z g s
  | .zgenZ d z => Sys2Proof.Machine.execZgenZ d z s
  | .zgenT d t => Sys2Proof.Machine.execZgenT d t s
  | .zgenW d w => Sys2Proof.Machine.execZgenW d w s
  | .zmul z a b p => Sys2Proof.Machine.execZmul z a b p s
  | .zadde z a b p => Sys2Proof.Machine.execZadde z a b p s
  | .zmax z a b p => Sys2Proof.Machine.execZmax z a b p s
  | .zcvt f z a p => Sys2Proof.Machine.execZcvt f z a p s
  | .zfill f z a p => Sys2Proof.Machine.execZfill f z a p s
  | .zmov z a p => Sys2Proof.Machine.execZmov z a p s
  | .zamax d a n g => Sys2Proof.Machine.execZamax d a n g s
  | .vadd k d a b r => Sys2Proof.Machine.execVadd k d a b r s
  | .vsub k d a b r => Sys2Proof.Machine.execVsub k d a b r s
  | .vmul k d a b r => Sys2Proof.Machine.execVmul k d a b r s
  | .vdiv k d a b r => Sys2Proof.Machine.execVdiv k d a b r s
  | .vmin k d a b => Sys2Proof.Machine.execVmin k d a b s
  | .vmax k d a b => Sys2Proof.Machine.execVmax k d a b s
  | .vabs k d a => Sys2Proof.Machine.execVabs k d a s
  | .vneg k d a => Sys2Proof.Machine.execVneg k d a s
  | .vsqrt k d a r => Sys2Proof.Machine.execVsqrt k d a r s
  | .vfma k d a b r => Sys2Proof.Machine.execVfma k d a b r s
  | .vfms k d a b r => Sys2Proof.Machine.execVfms k d a b r s
  | .vfnma k d a b r => Sys2Proof.Machine.execVfnma k d a b r s
  | .viadd k d a b => Sys2Proof.Machine.execViadd k d a b s
  | .visub k d a b => Sys2Proof.Machine.execVisub k d a b s
  | .vimul k d a b => Sys2Proof.Machine.execVimul k d a b s
  | .viand k d a b => Sys2Proof.Machine.execViand k d a b s
  | .vior k d a b => Sys2Proof.Machine.execVior k d a b s
  | .vixor k d a b => Sys2Proof.Machine.execVixor k d a b s
  | .vishl k d a b => Sys2Proof.Machine.execVishl k d a b s
  | .vishr k d a b => Sys2Proof.Machine.execVishr k d a b s
  | .visar k d a b => Sys2Proof.Machine.execVisar k d a b s
  | .vimin k d a b => Sys2Proof.Machine.execVimin k d a b s
  | .vimax k d a b => Sys2Proof.Machine.execVimax k d a b s
  | .viminu k d a b => Sys2Proof.Machine.execViminu k d a b s
  | .vimaxu k d a b => Sys2Proof.Machine.execVimaxu k d a b s
  | .vcmpEq k d a b => Sys2Proof.Machine.execVcmpEq k d a b s
  | .vcmpLt k d a b => Sys2Proof.Machine.execVcmpLt k d a b s
  | .vcmpLe k d a b => Sys2Proof.Machine.execVcmpLe k d a b s
  | .vcmpUn k d a b => Sys2Proof.Machine.execVcmpUn k d a b s
  | .vicmpEq k d a b => Sys2Proof.Machine.execVicmpEq k d a b s
  | .vicmpLt k d a b => Sys2Proof.Machine.execVicmpLt k d a b s
  | .vicmpLtu k d a b => Sys2Proof.Machine.execVicmpLtu k d a b s
  | .vsel k d a b p => Sys2Proof.Machine.execVsel k d a b p s
  | .mand k d a b => Sys2Proof.Machine.execMand k d a b s
  | .mor k d a b => Sys2Proof.Machine.execMor k d a b s
  | .mxor k d a b => Sys2Proof.Machine.execMxor k d a b s
  | .mnot k d a => Sys2Proof.Machine.execMnot k d a s
  | .mpop k d a => Sys2Proof.Machine.execMpop k d a s
  | .mmovToMask k d a => Sys2Proof.Machine.execMmovToMask k d a s
  | .mmovFromMask k d a => Sys2Proof.Machine.execMmovFromMask k d a s
  | .vpack k d a f => Sys2Proof.Machine.execVpack k d a f s
  | .vunpack k d a f => Sys2Proof.Machine.execVunpack k d a f s
  | .vquant k d a b f => Sys2Proof.Machine.execVquant k d a b f s
  | .vquantRs k d a b f => Sys2Proof.Machine.execVquantRs k d a b f s
  | .vpackRs k d a f => Sys2Proof.Machine.execVpackRs k d a f s
  | .vcvtFI k d a r => Sys2Proof.Machine.execVcvtFI k d a r s
  | .vcvtIF k d a r => Sys2Proof.Machine.execVcvtIF k d a r s
  | .vcvtBfF k d a r => Sys2Proof.Machine.execVcvtBfF k d a r s
  | .vcvtHF k d a r => Sys2Proof.Machine.execVcvtHF k d a r s
  | .vcvtFBf k d a => Sys2Proof.Machine.execVcvtFBf k d a s
  | .vcvtFH k d a => Sys2Proof.Machine.execVcvtFH k d a s
  | .vnarrowI8 k d a => Sys2Proof.Machine.execVnarrowI8 k d a s
  | .vnarrowI4 k d a => Sys2Proof.Machine.execVnarrowI4 k d a s
  | .vwidenI8 k d a => Sys2Proof.Machine.execVwidenI8 k d a s
  | .vwidenI4 k d a => Sys2Proof.Machine.execVwidenI4 k d a s
  | .vperm k d a b => Sys2Proof.Machine.execVperm k d a b s
  | .vbcl k d a b => Sys2Proof.Machine.execVbcl k d a b s
  | .vbcs k d a => Sys2Proof.Machine.execVbcs k d a s
  | .vrot k d a b => Sys2Proof.Machine.execVrot k d a b s
  | .vext k d a b => Sys2Proof.Machine.execVext k d a b s
  | .vins k d a b => Sys2Proof.Machine.execVins k d a b s
  | .vcompress k d a m => Sys2Proof.Machine.execVcompress k d a m s
  | .vexpand k d a m => Sys2Proof.Machine.execVexpand k d a m s
  | .vscanAdd k d a m => Sys2Proof.Machine.execVscanAdd k d a m s
  | .vscanMax k d a m => Sys2Proof.Machine.execVscanMax k d a m s
  | .vscanIadd k d a m => Sys2Proof.Machine.execVscanIadd k d a m s
  | .vredAdd k d a m => Sys2Proof.Machine.execVredAdd k d a m s
  | .vredMax k d a m => Sys2Proof.Machine.execVredMax k d a m s
  | .vredMin k d a m => Sys2Proof.Machine.execVredMin k d a m s
  | .vredIadd k d a m => Sys2Proof.Machine.execVredIadd k d a m s
  | .vargmax k d a m => Sys2Proof.Machine.execVargmax k d a m s
  | .vcx k d a b => Sys2Proof.Machine.execVcx k d a b s
  | .vcxD k d a b => Sys2Proof.Machine.execVcxD k d a b s
  | .vmrg k d a b => Sys2Proof.Machine.execVmrg k d a b s
  | .vmrgD k d a b => Sys2Proof.Machine.execVmrgD k d a b s
  | .vdraw k d a b => Sys2Proof.Machine.execVdraw k d a b s
  | .vdrawF k d a b => Sys2Proof.Machine.execVdrawF k d a b s
  | .vexp2 k d a => Sys2Proof.Machine.execVexp2 k d a s
  | .vrcp k d a => Sys2Proof.Machine.execVrcp k d a s
  | .vrsqrt k d a => Sys2Proof.Machine.execVrsqrt k d a s
  | .vlog2 k d a => Sys2Proof.Machine.execVlog2 k d a s
  | .mldw w a b f => Sys2Proof.Machine.execMldw w a b f s
  | .mldwS w a b f => Sys2Proof.Machine.execMldwS w a b f s
  | .mma y d t w f => Sys2Proof.Machine.execMma y d t w f s
  | .mmaFwd y d t w f => Sys2Proof.Machine.execMmaFwd y d t w f s
  | .mmaSat y d t w f => Sys2Proof.Machine.execMmaSat y d t w f s
  | .mmaFwdSat y d t w f => Sys2Proof.Machine.execMmaFwdSat y d t w f s
  | .mrd d a h r => Sys2Proof.Machine.execMrd d a h r s
  | .mclr a => Sys2Proof.Machine.execMclr a s
  | .gldb k d a o => Sys2Proof.Machine.execGldb k d a o s
  | .gldbu k d a o => Sys2Proof.Machine.execGldbu k d a o s
  | .gldh k d a o => Sys2Proof.Machine.execGldh k d a o s
  | .gldhu k d a o => Sys2Proof.Machine.execGldhu k d a o s
  | .gldw k d a o => Sys2Proof.Machine.execGldw k d a o s
  | .gldwu k d a o => Sys2Proof.Machine.execGldwu k d a o s
  | .gld k d a o => Sys2Proof.Machine.execGld k d a o s
  | .gstb k d a o => Sys2Proof.Machine.execGstb k d a o s
  | .gsth k d a o => Sys2Proof.Machine.execGsth k d a o s
  | .gstw k d a o => Sys2Proof.Machine.execGstw k d a o s
  | .gst k d a o => Sys2Proof.Machine.execGst k d a o s
  | .gaadd k d a b w => Sys2Proof.Machine.execGaadd k d a b w s
  | .gaswap k d a b w => Sys2Proof.Machine.execGaswap k d a b w s
  | .gacas k d a b w => Sys2Proof.Machine.execGacas k d a b w s
  | .gamin k d a b w => Sys2Proof.Machine.execGamin k d a b w s
  | .gamax k d a b w => Sys2Proof.Machine.execGamax k d a b w s
  | .gaminu k d a b w => Sys2Proof.Machine.execGaminu k d a b w s
  | .gamaxu k d a b w => Sys2Proof.Machine.execGamaxu k d a b w s
  | .gaand k d a b w => Sys2Proof.Machine.execGaand k d a b w s
  | .gaor k d a b w => Sys2Proof.Machine.execGaor k d a b w s
  | .gaxor k d a b w => Sys2Proof.Machine.execGaxor k d a b w s
  | .gafadd k d a b => Sys2Proof.Machine.execGafadd k d a b s
  | .ldacq k d a w sc => Sys2Proof.Machine.execLdacq k d a w sc s
  | .strel k d a w sc => Sys2Proof.Machine.execStrel k d a w sc s
  | .scadd k d a b => Sys2Proof.Machine.execScadd k d a b s
  | .scswap k d a b => Sys2Proof.Machine.execScswap k d a b s
  | .sccas k d a b => Sys2Proof.Machine.execSccas k d a b s
  | .scld k d a => Sys2Proof.Machine.execScld k d a s
  | .scst k d a => Sys2Proof.Machine.execScst k d a s
  | .monarm k n a => Sys2Proof.Machine.execMonarm k n a s
  | .monarmLm k n a => Sys2Proof.Machine.execMonarmLm k n a s
  | .monwait k d b => Sys2Proof.Machine.execMonwait k d b s
  | .monclr k n => Sys2Proof.Machine.execMonclr k n s
  | .mbput k d a b => Sys2Proof.Machine.execMbput k d a b s
  | .mbget k d => Sys2Proof.Machine.execMbget k d s
  | .ringput k d a b => Sys2Proof.Machine.execRingput k d a b s
  | .ringget k d a b => Sys2Proof.Machine.execRingget k d a b s
  | .callat k d a b => Sys2Proof.Machine.execCallat k d a b s
  | .twait k => Sys2Proof.Machine.execTwait k s
  | .rqclm k d b => Sys2Proof.Machine.execRqclm k d b s
  | .tempoAny => Sys2Proof.Machine.execTempoAny s
  | .ibar => Sys2Proof.Machine.execIbar s
  | .resultLanding => Sys2Proof.Machine.execResultLanding s
  | .remoteLoadReply => Sys2Proof.Machine.execRemoteLoadReply s
  | .remoteStorePerformed => Sys2Proof.Machine.execRemoteStorePerformed s
  | .remoteStoreAck => Sys2Proof.Machine.execRemoteStoreAck s
  | .tileLoaderRow => Sys2Proof.Machine.execTileLoaderRow s
  | .weightLoaderGranule => Sys2Proof.Machine.execWeightLoaderGranule s
  | .watchdogExpiry => Sys2Proof.Machine.execWatchdogExpiry s
  | .corePartComplete => Sys2Proof.Machine.execCorePartComplete s
  | .loadLevelling => Sys2Proof.Machine.execLoadLevelling s
  | .allReduce => Sys2Proof.Machine.execAllReduce s
  | .reduceScatter => Sys2Proof.Machine.execReduceScatter s
  | .allGather => Sys2Proof.Machine.execAllGather s
  | .broadcast => Sys2Proof.Machine.execBroadcast s
  | .scWindowClose => Sys2Proof.Machine.execScWindowClose s
  | .tlbinvCompletion => Sys2Proof.Machine.execTlbinvCompletion s
  | .beatRaise => Sys2Proof.Machine.execBeatRaise s
  | .beatArrival => Sys2Proof.Machine.execBeatArrival s
  | .beatOverdue => Sys2Proof.Machine.execBeatOverdue s
  | .contextSave => Sys2Proof.Machine.execContextSave s
  | .getVersion => Sys2Proof.Machine.execGetVersion s
  | .getCapabilities => Sys2Proof.Machine.execGetCapabilities s
  | .negotiateAlgorithms => Sys2Proof.Machine.execNegotiateAlgorithms s
  | .getDigests => Sys2Proof.Machine.execGetDigests s
  | .quoteSigned => Sys2Proof.Machine.execQuoteSigned s
  | .dumpPageSend => Sys2Proof.Machine.execDumpPageSend s
  | .coldReset => Sys2Proof.Machine.execColdReset s
  | .conventionalReset => Sys2Proof.Machine.execConventionalReset s
  | .functionLevelReset => Sys2Proof.Machine.execFunctionLevelReset s
  | .inputUndervoltage => Sys2Proof.Machine.execInputUndervoltage s

end Sys2Proof.Machine
end

