-- ==== Sys2Proof/Machine/Specs.lean ====
section
/-! DEFINITION. What each operation needs before it issues (R45, R47, R48): its class and issuers, its registers, its checks,
the banks it uses and what it waits for. A step of another agent needs nothing. -/

namespace Sys2Proof.Machine

/-- The needs of an instruction, as its meaning states them. -/
def specOf (i : Instr) : OpSpec :=
  match i with
  | .pawnSwitchRejoin _ | .pawnLmGrant _ | .pawnFetch _ | .pawnPushRetry _ | .trapEntry _ | .pawnTrapEntry _
  | .doorbell _ _ _ | .launch _ | .launchPlacement _ | .launchCompletion _ | .queueCopy _ | .queueCollective _
  | .hostNotification _ | .eventWait _ | .eventWaitRecheck _ | .conditional _ | .runGraph _ | .graphNodeStart _ _
  | .graphNodeCompletion _ | .hostRingTimeExpiry _ | .hrptrWrite _ _ | .featlockWrite _ | .copy _ | .copy2d _
  | .split _ | .gather _ | .scatter _ | .fill _ | .wpset _ | .engineCommandCompletion _ | .completionRecordPush _
  | .collectiveIncompleteReply _ | .pawnCacheFill _ | .homeAtomic _ | .atomicReply _ | .monitorRegisterAck _ _
  | .monitorHit _ _ | .monwaitTimeout _ | .mailboxDeposit _ _ _ | .ackLanding _ _ | .ringOperation _
  | .taskEntryArrival _ _ _ _ _ _ | .rowClaimReply _ | .translationWalk _ | .fqrespWalkAgain _ _ | .fqrespDeliver _ _
  | .tlbinv _ _ | .tlbinvFlush _ _ | .tickExchange _ | .tickStamp _ _ | .portDeposit _ _ _ _ _ | .heartbeat _
  | .heartbeatLoss _ | .moveOrderVisit _ | .preemptionRequest _ | .contextRestore _ | .ctxslotWrite _ _
  | .ctxslotEvict _ | .evictionCompletion _ | .sintrWrite _ _ | .accountingBoundary _ _ | .acctclr _
  | .accountingReadout _ _ | .getCertificate _ _ | .challenge _ | .getMeasurements _ _ | .unsupportedSpdmRequest _
  | .quoteStart _ | .patrolScrub _ _ _ | .selfTestVerdict _ _ _ _ | .linkRetrainTimeout _ | .dbgHaltreq _
  | .dbgResume _ | .breakpointHit _ | .watchpointHit _ _ _ _ | .crossTriggerHalt _ | .dumpStart _ | .registerWrite _ _
  | .hostApertureAccess _ _ _ | .fabricWrite _ _ | .planeMaskChange _ | .inputVoltageChange _ | .resultLanding
  | .remoteLoadReply | .remoteStorePerformed | .remoteStoreAck | .tileLoaderRow | .weightLoaderGranule
  | .watchdogExpiry | .corePartComplete | .loadLevelling | .allReduce | .reduceScatter | .allGather | .broadcast
  | .scWindowClose | .tlbinvCompletion | .beatRaise | .beatArrival | .beatOverdue | .contextSave | .getVersion
  | .getCapabilities | .negotiateAlgorithms | .getDigests | .quoteSigned | .dumpPageSend | .coldReset
  | .conventionalReset | .functionLevelReset | .inputUndervoltage => { cls := .any }
  | .nop k => { cls := .any, k := k }
  | .br k _ => specBr k none
  | .brT k p _ => specBr k (some p)
  | .brF k p _ => specBr k (some p)
  | .loop _ a i => specLoop a i
  | .call k l _ => { cls := .c, k := k, regs := [dstU .s (narrow l) 1] }
  | .calli k l a _ => { cls := .c, k := k, regs := [dstU .s (narrow l) 1, srcU .s a] }
  | .jr k a _ => { cls := .c, k := k, regs := [srcU .s a] }
  | .holdEq a b => specHold .eq a b
  | .holdNe a b => specHold .ne a b
  | .holdLt a b => specHold .lt a b
  | .holdGe a b => specHold .ge a b
  | .holdLtu a b => specHold .ltu a b
  | .holdGeu a b => specHold .geu a b
  | .holdEqWp w b => specHoldWp .eq w b
  | .holdNeWp w b => specHoldWp .ne w b
  | .holdLtWp w b => specHoldWp .lt w b
  | .holdGeWp w b => specHoldWp .ge w b
  | .holdLtuWp w b => specHoldWp .ltu w b
  | .holdGeuWp w b => specHoldWp .geu w b
  | .tempo a => specTempo false a
  | .eqw k e a => specEqw k e a
  | .eqr k d e => specEqr k d e
  | .eqcnt k d e => { cls := .c, k := k, sync := true, regs := [dstU .s d 1, srcU .e e] }
  | .trap k a => { cls := .c, k := k, sync := true, regs := [srcU .s a] }
  | .brk k => { cls := .c, k := k, sync := true }
  | .sret k => { cls := .c, k := k, checks := [(.priv, sretCheck)] }
  | .exit k => { cls := .c, k := k, sync := true, guardPoint := true }
  | .fenceCore k => specFence k
  | .fenceClus k => specFence k
  | .fenceDie k => specFence k
  | .fencePkg k => specFence k
  | .fenceSys k => specFence k
  | .xfenceCore k => specFence k
  | .xfenceClus k => specFence k
  | .xfenceDie k => specFence k
  | .xfencePkg k => specFence k
  | .xfenceSys k => specFence k
  | .csrr k d c => { cls := .c, k := k, regs := [dstU .s d 2], checks := csrChecks false c, reads := fun _ => csrReads c }
  | .csrw k a c => { cls := .c, k := k, regs := [srcU .s a], checks := csrChecks true c }
  | .add k d a b => specSSS k d a b 1
  | .sub k d a b => specSSS k d a b 1
  | .and k d a b => specSSS k d a b 1
  | .or k d a b => specSSS k d a b 1
  | .xor k d a b => specSSS k d a b 1
  | .andn k d a b => specSSS k d a b 1
  | .min k d a b => specSSS k d a b 1
  | .max k d a b => specSSS k d a b 1
  | .minu k d a b => specSSS k d a b 1
  | .maxu k d a b => specSSS k d a b 1
  | .addw k d a b => specSSS k d a b 1
  | .subw k d a b => specSSS k d a b 1
  | .mov k d a => specSS k d a 1
  | .addi k d a _ => specSS k d a 1
  | .andi k d a _ => specSS k d a 1
  | .ori k d a _ => specSS k d a 1
  | .lui k d _ => { cls := .s, k := k, regs := [dstU .s d 1] }
  | .cmpEq k d a b => specBSS k d a b 1
  | .cmpNe k d a b => specBSS k d a b 1
  | .cmpLt k d a b => specBSS k d a b 1
  | .cmpGe k d a b => specBSS k d a b 1
  | .cmpLtu k d a b => specBSS k d a b 1
  | .cmpGeu k d a b => specBSS k d a b 1
  | .pand k d a b => specBBB k d a b
  | .por k d a b => specBBB k d a b
  | .pxor k d a b => specBBB k d a b
  | .pandn k d a b => specBBB k d a b
  | .pnot k d a => { cls := .s, k := k, regs := [dstU .b d 1, srcU .b a] }
  | .cmpiEq k p a _ => specCmpi k p a
  | .cmpiNe k p a _ => specCmpi k p a
  | .cmpiLt k p a _ => specCmpi k p a
  | .cmpiGe k p a _ => specCmpi k p a
  | .shl k d a b => specSSS k d a b 1
  | .shr k d a b => specSSS k d a b 1
  | .sar k d a b => specSSS k d a b 1
  | .rotl k d a b => specSSS k d a b 1
  | .rotr k d a b => specSSS k d a b 1
  | .clz k d a => specSS k d a 1
  | .ctz k d a => specSS k d a 1
  | .popc k d a => specSS k d a 1
  | .bswap k d a => specSS k d a 1
  | .bfx k d a b => specSSS k d a b 1
  | .bfxu k d a b => specSSS k d a b 1
  | .bfi k d a b => { cls := .s, k := k, regs := [dstU .s d 1, srcU .s d, srcU .s a, srcU .s b] }
  | .shli k d a _ => specSS k d a 1
  | .shri k d a _ => specSS k d a 1
  | .sari k d a _ => specSS k d a 1
  | .rotli k d a _ => specSS k d a 1
  | .mul k d a b => specSSS k d a b 3
  | .mulh k d a b => specSSS k d a b 3
  | .mulhu k d a b => specSSS k d a b 3
  | .mulw k d a b => specSSS k d a b 3
  | .div k d a b => specDiv k d a b
  | .divu k d a b => specDiv k d a b
  | .rem k d a b => specDiv k d a b
  | .remu k d a b => specDiv k d a b
  | .fadd k d a b r => specFff k d a b r 4
  | .fsub k d a b r => specFff k d a b r 4
  | .fmul k d a b r => specFff k d a b r 4
  | .fdiv k d a b r => { specFff k d a b r 12 with iter := true }
  | .fsqrt k d a r => { specFf k d a r 12 with iter := true }
  | .fmin k d a b => specSSS k d a b 4
  | .fmax k d a b => specSSS k d a b 4
  | .fabs k d a => specSS k d a 4
  | .fneg k d a => specSS k d a 4
  | .fcmpEq k d a b => specBSS k d a b 4
  | .fcmpLt k d a b => specBSS k d a b 4
  | .fcmpLe k d a b => specBSS k d a b 4
  | .fcmpUn k d a b => specBSS k d a b 4
  | .cvtFI k d a r => specFf k d a r 3
  | .cvtFU k d a r => specFf k d a r 3
  | .cvtIF k d a r => specFf k d a r 3
  | .cvtUF k d a r => specFf k d a r 3
  | .cvtBfF k d a r => specFf k d a r 3
  | .cvtHF k d a r => specFf k d a r 3
  | .cvtFBf k d a => specSS k d a 3
  | .cvtFH k d a => specSS k d a 3
  | .ibw d a => { cls := .s, who := .prim, regs := [dstU .ib d 2, srcU .s a] }
  | .ibr d a => { cls := .s, who := .prim, regs := [dstU .s d 1, srcU .ib a] }
  | .ppack k d => { cls := .s, k := k, regs := [dstU .s d 1] }
  | .punpk k a => { cls := .s, k := k, regs := [srcU .s a] }
  | .sel k d a b p => { cls := .s, k := k, regs := [dstU .s d 1, srcU .s a, srcU .s b, srcU .b (narrow p)] }
  | .cwld k d n => specCwld k d n
  | .ldb k d a o => specLd k d a o 1
  | .ldbu k d a o => specLd k d a o 1
  | .ldh k d a o => specLd k d a o 2
  | .ldhu k d a o => specLd k d a o 2
  | .ldw k d a o => specLd k d a o 4
  | .ldwu k d a o => specLd k d a o 4
  | .ld k d a o => specLd k d a o 8
  | .stb k d a o => specSt k d a o 1
  | .sth k d a o => specSt k d a o 2
  | .stw k d a o => specSt k d a o 4
  | .st k d a o => specSt k d a o 8
  | .vld d a o => specVld false .prim d a o 4
  | .vst d a o => specVst false .prim d a o 4
  | .vldh k d a o => specVld k .both d a o 2
  | .vsth k d a o => specVst k .both d a o 2
  | .vldb k d a o => specVld k .both d a o 1
  | .tld t a => specTile t a false
  | .tldBind t a _ => specTile t a false
  | .tst t a => specTile t a true
  | .vgathW k d a b => specGath k d a b 4
  | .vgathH k d a b => specGath k d a b 2
  | .vgathB k d a b => specGath k d a b 1
  | .vscatW k d a b => specScat k d a b 4
  | .vscatH k d a b => specScat k d a b 2
  | .vscatB k d a b => specScat k d a b 1
  | .lmadd k d a b => specLm k d a b
  | .lmxchg k d a b => specLm k d a b
  | .lmcas k d a b => specLmcas k d a b
  | .lmmin k d a b => specLm k d a b
  | .lmmax k d a b => specLm k d a b
  | .lmand k d a b => specLm k d a b
  | .lmor k d a b => specLm k d a b
  | .flrel k d a => specFlrel k d a
  | .flacq k d a => specFlacq k d a
  | .rld k d a => specRld k .s d a fun _ => 8
  | .rst k d a => specRst k .s d a fun _ => 8
  | .rvld k d a => specRld k .v d a fun s => 4 * s.lanes
  | .rvst k d a => specRst k .v d a fun s => 4 * s.lanes
  | .rqput k a => specRqput k a
  | .zld f _ a n _ => specZld f a n
  | .zst z a n _ => specZst z a n
  | .zbind t z _ => specZbind t [srcU .z z]
  | .zbindNone t => specZbind t []
  | .zbindw w z _ => specZbindw w z
  | .zgenZ d z => specZgen d .z z
  | .zgenT d t => specZgen d .t t
  | .zgenW d w => specZgen d .w w
  | .zmul _ a b _ => specZop [srcU .z a, srcU .sNoPort b] fun s => (s.zreg a.toNat).fmt
  | .zadde _ a b _ => specZop [srcU .z a, srcU .z b] fun s => (s.zreg a.toNat).fmt || (s.zreg b.toNat).fmt
  | .zmax _ a b _ => specZop [srcU .z a, srcU .z b] fun s => (s.zreg a.toNat).fmt || (s.zreg b.toNat).fmt
  | .zcvt f _ a _ => specZop [srcU .z a] fun s => (s.zreg a.toNat).fmt || decide (f = 1)
  | .zfill f _ a _ => specZop [srcU .sNoPort a] fun _ => f = 1
  | .zmov _ a _ => specZop [srcU .z a] fun s => (s.zreg a.toNat).fmt
  | .zamax d a _ _ => specZop [dstU .sNoPort d 4, srcU .z a] fun s => (s.zreg a.toNat).fmt
  | .vadd k d a b r => specVVVr k d a b r 4
  | .vsub k d a b r => specVVVr k d a b r 4
  | .vmul k d a b r => specVVVr k d a b r 4
  | .vdiv k d a b r => { specVVVr k d a b r 16 with iter := true }
  | .vmin k d a b => specVVV k d a b 4
  | .vmax k d a b => specVVV k d a b 4
  | .vabs k d a => specVV k d a 4
  | .vneg k d a => specVV k d a 4
  | .vsqrt k d a r => { specVVr k d a r 16 with iter := true }
  | .vfma k d a b r => specFma k d a b r
  | .vfms k d a b r => specFma k d a b r
  | .vfnma k d a b r => specFma k d a b r
  | .viadd k d a b => specVVV k d a b 2
  | .visub k d a b => specVVV k d a b 2
  | .vimul k d a b => specVVV k d a b 2
  | .viand k d a b => specVVV k d a b 2
  | .vior k d a b => specVVV k d a b 2
  | .vixor k d a b => specVVV k d a b 2
  | .vishl k d a b => specVVV k d a b 2
  | .vishr k d a b => specVVV k d a b 2
  | .visar k d a b => specVVV k d a b 2
  | .vimin k d a b => specVVV k d a b 2
  | .vimax k d a b => specVVV k d a b 2
  | .viminu k d a b => specVVV k d a b 2
  | .vimaxu k d a b => specVVV k d a b 2
  | .vcmpEq k d a b => specMVV k d a b
  | .vcmpLt k d a b => specMVV k d a b
  | .vcmpLe k d a b => specMVV k d a b
  | .vcmpUn k d a b => specMVV k d a b
  | .vicmpEq k d a b => specMVV k d a b
  | .vicmpLt k d a b => specMVV k d a b
  | .vicmpLtu k d a b => specMVV k d a b
  | .vsel k d a b p => specVsel k d a b p
  | .mand k d a b => specMMM k d a b
  | .mor k d a b => specMMM k d a b
  | .mxor k d a b => specMMM k d a b
  | .mnot k d a => { cls := .v, k := k, regs := [dstU .m d 1, srcU .m a] }
  | .mpop k d a => { cls := .v, k := k, regs := [dstU .s d 1, srcU .m a] }
  | .mmovToMask k d a => { cls := .v, k := k, regs := [dstU .m d 1, srcU .s a] }
  | .mmovFromMask k d a => { cls := .v, k := k, regs := [dstU .s d 1, srcU .m a] }
  | .vpack k d a f => specPack k d a f false
  | .vunpack k d a f => specPack k d a f false
  | .vquant k d a b f => specQuant k d a b f false
  | .vquantRs k d a b f => specQuant k d a b f true
  | .vpackRs k d a f => specPack k d a f true
  | .vcvtFI k d a r => specVVr k d a r 3
  | .vcvtIF k d a r => specVVr k d a r 3
  | .vcvtBfF k d a r => specVVr k d a r 3
  | .vcvtHF k d a r => specVVr k d a r 3
  | .vcvtFBf k d a => specVV k d a 3
  | .vcvtFH k d a => specVV k d a 3
  | .vnarrowI8 k d a => specVV k d a 3
  | .vnarrowI4 k d a => specVV k d a 3
  | .vwidenI8 k d a => specVV k d a 3
  | .vwidenI4 k d a => specVV k d a 3
  | .vperm k d a b => specVVV k d a b 3
  | .vbcl k d a b => specVVS k d a b 3
  | .vbcs k d a => { cls := .v, k := k, regs := [dstU .v d 3, srcU .s a] }
  | .vrot k d a b => specVVS k d a b 3
  | .vext k d a b => { cls := .v, k := k, regs := [dstU .s d 3, srcU .v a, srcU .s b] }
  | .vins k d a b => { cls := .v, k := k, regs := [dstU .vRw d 3, srcU .s a, srcU .s b] }
  | .vcompress k d a m => specVVM k d a m 3
  | .vexpand k d a m => specVVM k d a m 3
  | .vscanAdd k d a m => specVVM k d a m 6
  | .vscanMax k d a m => specVVM k d a m 6
  | .vscanIadd k d a m => specVVM k d a m 6
  | .vredAdd k d a m => specVVM k d a m 6
  | .vredMax k d a m => specVVM k d a m 6
  | .vredMin k d a m => specVVM k d a m 6
  | .vredIadd k d a m => specVVM k d a m 6
  | .vargmax k d a m => specVVM k d a m 6
  | .vcx k d a b => specVVS k d a b 4
  | .vcxD k d a b => specVVS k d a b 4
  | .vmrg k d a b => specVVV k d a b 4
  | .vmrgD k d a b => specVVV k d a b 4
  | .vdraw k d a b => specVVV k d a b 5
  | .vdrawF k d a b => specVVV k d a b 5
  | .vexp2 k d a => specVV k d a 8
  | .vrcp k d a => specVV k d a 8
  | .vrsqrt k d a => specVV k d a 8
  | .vlog2 k d a => specVV k d a 8
  | .mldw w a b f => specMldw w a b f false
  | .mldwS w a b f => specMldw w a b f true
  | .mma y d t w f => specMma y d t w f
  | .mmaFwd y d t w f => specMma y d t w f
  | .mmaSat y d t w f => specMma y d t w f
  | .mmaFwdSat y d t w f => specMma y d t w f
  | .mrd d a _ _ => specMrd d a
  | .mclr a => { cls := .m, who := .prim, checks := [accCheck a] }
  | .gldb k d a o => specGld k d a o 1
  | .gldbu k d a o => specGld k d a o 1
  | .gldh k d a o => specGld k d a o 2
  | .gldhu k d a o => specGld k d a o 2
  | .gldw k d a o => specGld k d a o 4
  | .gldwu k d a o => specGld k d a o 4
  | .gld k d a o => specGld k d a o 8
  | .gstb k d a o => specGst k d a o 1
  | .gsth k d a o => specGst k d a o 2
  | .gstw k d a o => specGst k d a o 4
  | .gst k d a o => specGst k d a o 8
  | .gaadd k d a b w => specGa k d a b (gaSize w)
  | .gaswap k d a b w => specGa k d a b (gaSize w)
  | .gacas k d a b w => specGa k d a b (gaSize w)
  | .gamin k d a b w => specGa k d a b (gaSize w)
  | .gamax k d a b w => specGa k d a b (gaSize w)
  | .gaminu k d a b w => specGa k d a b (gaSize w)
  | .gamaxu k d a b w => specGa k d a b (gaSize w)
  | .gaand k d a b w => specGa k d a b (gaSize w)
  | .gaor k d a b w => specGa k d a b (gaSize w)
  | .gaxor k d a b w => specGa k d a b (gaSize w)
  | .gafadd k d a b => specGa k d a b 4
  | .ldacq k d a w _ => specLdacq k d a (gaSize w)
  | .strel k d a w _ => specStrel k d a (gaSize w)
  | .scadd k d a b => specSc k [dstU .s d 1, srcU .s a, srcU .s b] a true
  | .scswap k d a b => specSc k [dstU .s d 1, srcU .s a, srcU .s b] a true
  | .sccas k d a b => specSc k [dstU .s d 1, srcU .s a, srcU .s b] a true
  | .scld k d a => specSc k [dstU .s d 1, srcU .s a] a false
  | .scst k d a => specSc k [srcU .s d, srcU .s a] a true
  | .monarm k _ a => specMonarm k a
  | .monarmLm k _ a => specMonarmLm k a
  | .monwait k d b => { cls := .g, who := .pawn, k := k, sync := true, regs := [dstU .s d 1, srcU .s b] }
  | .monclr k _ => { cls := .g, who := .pawn, k := k, sync := true }
  | .mbput k d a b => specMbput k d a b
  | .mbget k d => { cls := .g, who := .pawn, k := k, sync := true, regs := [dstU .s d 1] }
  | .ringput k d a b => specRing k true d a b
  | .ringget k d a b => specRing k false d a b
  | .callat k d a b => specCallat k d a b
  | .twait k => { cls := .g, who := .pawn, k := k, sync := true }
  | .rqclm k d b => specRqclm k d b
  | .tempoAny => specTempo true 0
  | .ibar => { cls := .c, who := .prim }

end Sys2Proof.Machine
end

