-- ==== Sys2Proof/Machine/Step.lean ====
section
/-! DEFINITION. One step of the machine (log 4): a step that is due, or the next part of the tick in hand. -/

namespace Sys2Proof.Machine

/-- Op words decode, need and do what the table of instructions says. -/
noncomputable def opTable : OpTable Instr := ⟨Sys2Proof.decodeOp, specOf, exec⟩

/-- What other parts of the machine have ready in the background: walks, commands, the move order, save and restore, invalidation,
evictions, the dump engine, the signing engine, and the end of the core's part of its launch. -/
def otherSteps (s : State) : List (Ctx × Instr) :=
  let at0 := fun (i : Instr) => (({} : Ctx), i)
  s.walkSteps ++ s.moveSteps ++ s.preemptSteps ++ s.commandSteps ++
    (if s.partDone then [at0 .corePartComplete] else []) ++
    (if s.invBusy && s.invDrained then [at0 .tlbinvCompletion] else []) ++ s.evictSteps ++ s.dumpSteps ++
    (if s.dev.signQ.isEmpty then [] else [at0 .quoteSigned])

/-- A step that is due runs in its context. -/
def runDue (c : Ctx) (i : Instr) (s : State) : Host.Outcome State Fault Refusal :=
  match exec i (s.setCtx c) with
  | .next t => .next (t.setCtx {})
  | .fault f => .fault f
  | .refused r => .refused r

/-- The next part of the tick in hand. -/
noncomputable def runTurn (s : State) : Host.Outcome State Fault Refusal :=
  match s.turn with
  | .land => s.landTurn opTable
  | .present => s.presentTurn opTable
  | .scan n count first => s.scanTurn opTable n count first
  | .back first => .next (s.backTurn first)
  | .serve l first => .next (s.serveTurn l first)
  | .late first => .next (s.lateTurn first otherSteps)
  | .finish first => .next (s.endTick first)

/-- One step: the closing op of a committed chunk, else what is due, else the next part of the tick. A device that is held in reset
for want of supply does nothing of its own (R431), and an event that the device does not hear is lost (R380). -/
noncomputable def step (s : State) : Host.Outcome State Fault Refusal :=
  match s.core.commitOp with
  | some c =>
    let s := s.updCore fun k => { k with commitOp := none }
    match Sys2Proof.decodeOp c.word with
    | some i => runDue c i s
    | none => .next s
  | none =>
    match s.agenda with
    | (c, i) :: rest => if s.heard i then runDue c i (s.setAgenda rest) else .next (s.setAgenda rest)
    | [] => if s.dev.noSupply then .next s else runTurn s

/-! ### Placing an instruction (the host's question) -/

/-- Where the placed instruction stands: an offset of local memory. -/
def placeAt : Word64 := 0x800#64

/-- A launch whose one pawn thread may name every register, with nothing due and nothing halted. -/
def State.placeBase (s : State) : State :=
  (((s.updCore fun c => { c with
      cfg := { c.cfg with running := true, nthreads := 1, cap := 64, det := false }
      saving := false
      tokens := none
      iter := 0
      struck := []
      commitOp := none }).updDev fun d => { d with noSupply := false }).setAgenda []).setCtx {}

/-- The op word is the next of pawn thread 0, which the barrel considers first, with every slot vacant. -/
def State.placePawn (s : State) (w : Word32) : State :=
  let s := s.placeBase
  let s := s.setLm (memWrite s.lm (s.core.lmBase + placeAt.toNat) 4 w.toNat)
  let s := s.updPawn 0 fun p => { p with
    pc := placeAt
    buf := [w]
    status := .running
    th := { p.th with mode := 0, flagTrap := none, mcheck := none } }
  ((s.setVacant [1, 2, 3, 4, 6, 7]).updPrim fun p => { p with halted := false }).setTurn (.scan 1 0 none)

/-- A bundle that holds the op in its slot alone is the primary's next. -/
def State.placeBundle (s : State) (slot : Nat) (w : Word32) : State :=
  let s := s.placeBase
  let s := s.setLm (memWrite s.lm (s.core.lmBase + placeAt.toNat) 40 (bundleOf slot w).toNat)
  (s.updPrim fun p => { p with
    pc := placeAt
    exited := false
    halted := false
    frzClus := false
    presented := false
    empties := 0
    winCount := 0
    winBase := 1
    past := [s.lm]
    target := none
    trapPend := none
    overrun := none
    sintr := 0
    th := { p.th with mode := 0, flagTrap := none, mcheck := none, grdrec := 0 } }).setTurn .present

/-- The machine with an instruction word where the next step fetches: an op that only the primary issues in a bundle, any other
in a pawn's stream. -/
noncomputable def State.withFetchWord (s : State) (_nbits w : Nat) : State :=
  let x : Word32 := BitVec.ofNat 32 w
  match Sys2Proof.decodeOp x with
  | some i =>
    if (specOf i).who = .prim then s.placeBundle ((specOf i).cls.slots.headD 0) x else s.placePawn x
  | none => s.placePawn x

end Sys2Proof.Machine
end

