-- ==== Sys2Proof/Safety.lean ====
section
/-! DEFINITION. The terms in which claims about the machine are made: the canonical form of its memories, when an op may issue,
what its issue leaves alone, and what a landing leaves alone. -/

namespace Sys2Proof.Machine

/-! ### Memories -/

/-- Every memory of the machine is in its canonical form (log 2). -/
def State.memCanonical (s : State) : Bool := s.lm.wf && s.pm.wf && s.hm.wf

/-! ### When an op issues (R47, R48, R63, R396, R422) -/

/-- The checks of an op let it issue: it stands where its class and issuer allow (R27, R45), its registers lie in their files
(R39), none of its own checks and no port field traps (R396, R227), and no cause of R63 keeps it waiting. -/
def State.clear (s : State) (sp : OpSpec) : Bool :=
  (s.isPawn || !sp.k) && s.placeOk sp && sp.regs.all s.regOk && sp.checks.all (fun c => (c.2 s).isNone) &&
    sp.regs.all (fun u => (s.portTrap [] u).isNone) && decide (s.freezes sp = [])

/-- The op in hand may issue: its checks let it, and no watchpoint covers what it accesses (R422). -/
def State.ready (s : State) (sp : OpSpec) : Bool := s.clear sp && (s.opWatch sp).isNone

/-- In every state in which the op may issue, or in which the checks of its whole bundle have been made, it issues with this
effect. -/
def Completes (i : Instr) (eff : State → State) : Prop :=
  ∀ s : State, s.ctx.checked = true ∨ s.ready (specOf i) = true → exec i s = .next (s.perform (specOf i) eff)

/-- The op in hand with the physical address, the page class and the level of the entry that translation gives it (R190). -/
def State.translated (s : State) (e : TlbEntry) (va : Word64) : State :=
  s.setCtx { s.ctx with checked := true, pa := e.pa va.toNat, cls := pteClass e.attrs.toNat, va := some va, level := e.level }

/-- The same for an op that translates the address `va` for the access `acc`: it issues where the core's TLBs hold the page with
the right to the access, an atomic or monitor not on the host tier, and `post` holds what else the entry must give (R186, R190); or
where its checks and its translation have been made. -/
def CompletesAt (i : Instr) (va : State → Word64) (acc : Nat) (post : State → TlbEntry → Option TrapRec) (eff : State → State) : Prop :=
  (∀ (s : State) (e : TlbEntry), s.ctx.checked = false → s.clear (specOf i) = true → s.gHit (va s) acc = some e →
    ¬(2 ≤ acc ∧ pteTier e.attrs.toNat = 2) → post s e = none → (s.translated e (va s)).opWatch (specOf i) = none →
    exec i s = .next ((s.translated e (va s)).perform (specOf i) eff)) ∧
  ∀ s : State, s.ctx.checked = true → exec i s = .next (s.perform (specOf i) eff)

/-! ### Runs of bytes that a command reads (R190, R415) -/

/-- The pages as the walks of a job leave them. -/
def State.touchPages (s : State) (j : Job) (pages : List (Nat × Nat)) : State := pages.foldl (fun s p => s.touchPage j.cx p) s

/-- Every page of a run translates for the access, and no byte of the run is bad. -/
def State.runHeld (s : State) (j : Job) (va n acc : Nat) : Bool :=
  (needRun va n acc).all (s.pageOk j.cx) && !(s.touchPages j (needRun va n acc)).ctxBad j.cx va n

/-- The state after the walks for a run and its requests at their homes. -/
def State.touchRun (s : State) (j : Job) (va n acc : Nat) : State := (s.touchPages j (needRun va n acc)).chargeRun j.cx va n

/-- The same for the header, the image and the constants of a launch. -/
def State.touchLaunch (s : State) (j : Job) (h : BitVec 512) : State :=
  ((s.touchPages j (launchPages j h)).chargeRun j.cx j.hdrVa (64 + hdrImage h)).chargeRun j.cx j.consts
    (if j.consts = 0 ∨ hdrConstHi h = 0 then 0 else 8 * (hdrConstHi h - 15))

/-- The header, the image and the constants of a launch translate, and no byte of them is bad. -/
def State.launchHeld (s : State) (j : Job) (h : BitVec 512) : Bool :=
  let u := s.touchPages j (launchPages j h)
  (launchPages j h).all (s.pageOk j.cx) && !u.ctxBad j.cx j.hdrVa (64 + hdrImage h) &&
    !(decide (j.consts ≠ 0) && decide (hdrConstHi h ≠ 0) && u.ctxBad j.cx j.consts (8 * (hdrConstHi h - 15)))

/-- A command of this kind at its head, its record read, its pages not waited for. -/
def Job.atStart (j : Job) (kind : Nat) : Bool := decide (j.kind = kind) && decide (j.phase = .head) && j.words.isSome && decide (j.todo = [])

/-! ### Frames -/

/-- The same parts of a thread but for the exemption after a debug resume, which every issue ends (R423). -/
def Thread.sameBut (a b : Thread) : Prop := { a with exempt := false } = { b with exempt := false }

/-- The same primary but for its pipelines, the freshness of its latches and its count of ops. -/
def Primary.sameButIssue (a b : Primary) : Prop :=
  { a with fl := Flight.empty, qFresh := b.qFresh, vqFresh := b.vqFresh, opCount := 0 } = { b with fl := Flight.empty, opCount := 0 }

/-- The same registers of a pawn, its program counter and its place in the rotation aside. -/
def Pawn.sameRegs (a b : Pawn) : Prop :=
  a.x = b.x ∧ a.y = b.y ∧ a.b = b.b ∧ a.m = b.m ∧ Thread.sameBut a.th b.th ∧ a.mon = b.mon ∧ a.mbox = b.mbox ∧
    a.mboxFull = b.mboxFull ∧ a.msgSeq = b.msgSeq ∧ a.detchk = b.detchk ∧ a.detsq = b.detsq

/-- All memory, every error mark, the die, the device and the part are the same. -/
def State.sameOutside (t s : State) : Prop :=
  t.lm = s.lm ∧ t.pm = s.pm ∧ t.hm = s.hm ∧ t.badLm = s.badLm ∧ t.badPm = s.badPm ∧ t.die = s.die ∧ t.dev = s.dev ∧ t.part = s.part

/-- The registers of the core are the same: format descriptors, tiles, weight slots, accumulators, scale registers, write pointers. -/
def State.sameCore (t s : State) : Prop :=
  t.core.fd = s.core.fd ∧ t.core.t = s.core.t ∧ t.core.w = s.core.w ∧ t.core.acc = s.core.acc ∧ t.core.z = s.core.z ∧
    t.core.wptr = s.core.wptr

/-- No register has changed: those of the primary but for its pipelines and latches, of the core, of every pawn but for program
counters. -/
def State.sameRegs (t s : State) : Prop :=
  t.prim.sameButIssue s.prim ∧ t.sameCore s ∧ ∀ n, (t.pawn n).sameRegs (s.pawn n)

/-- The op issues with its own effect: no memory, no mark, no register of any thread or of the core changes in the cycle of issue
(R56). -/
def KeepsRegs (i : Instr) : Prop :=
  ∀ s t : State, s.ctx.checked = true ∨ s.ready (specOf i) = true → exec i s = .next t → t.sameOutside s ∧ t.sameRegs s

/-- The same for an op with a rounding mode: in mode 4 it takes one value of SRCTR (R263) and no register else. -/
def KeepsRegsRounding (i : Instr) (r : Nat) : Prop :=
  ∀ s t : State, s.ctx.checked = true ∨ s.ready (specOf i) = true → exec i s = .next t →
    t.sameOutside s ∧ t.sameRegs (s.countRound r)

/-- The same parts of a thread but for the guard record, the words of a command in assembly and the exemption of R423. -/
def Thread.sameData (a b : Thread) : Prop :=
  { a with grdrec := 0, grdWord := 0, grdSlot := 0, asm := b.asm, exempt := false } =
    { b with grdrec := 0, grdWord := 0, grdSlot := 0, exempt := false }

/-- No register that holds data has changed: of the primary, of any pawn, of the core. -/
def State.sameData (t s : State) : Prop :=
  (t.prim.s = s.prim.s ∧ t.prim.v = s.prim.v ∧ t.prim.b = s.prim.b ∧ t.prim.m = s.prim.m ∧ t.prim.ib = s.prim.ib ∧
    t.prim.loops = s.prim.loops ∧ t.prim.q = s.prim.q ∧ t.prim.vq = s.prim.vq ∧ t.prim.route = s.prim.route ∧
    Thread.sameData t.prim.th s.prim.th) ∧
  t.sameCore s ∧
  ∀ n, (t.pawn n).x = (s.pawn n).x ∧ (t.pawn n).y = (s.pawn n).y ∧ (t.pawn n).b = (s.pawn n).b ∧ (t.pawn n).m = (s.pawn n).m ∧
    Thread.sameData (t.pawn n).th (s.pawn n).th ∧ (t.pawn n).mbox = (s.pawn n).mbox

/-- The op issues with its own effect: no memory and no register that holds data changes in the cycle of issue. -/
def KeepsData (i : Instr) : Prop :=
  ∀ s t : State, s.ctx.checked = true ∨ s.ready (specOf i) = true → exec i s = .next t → t.sameOutside s ∧ t.sameData s

/-- The same for an op that translates an address, once its translation has been made. -/
def KeepsDataAt (i : Instr) : Prop :=
  ∀ s t : State, s.ctx.checked = true → exec i s = .next t → t.sameOutside s ∧ t.sameData s

/-- The threads as seen through f. -/
def State.mapTh (s : State) (f : Thread → Thread) : State :=
  (s.updPrim fun p => { p with th := f p.th }).setPawns (vmap (fun p => { p with th := f p.th }) s.pawns)

/-- The mode, TCAUSE and the place of a pending guard report aside, which an sret changes (R392, R396). -/
def Thread.anyMode (t : Thread) : Thread := { t with mode := 0, tcause := 0, grdHeld := false }

/-- Local and host memory, the marks of local memory, the part and every register that holds data are the same. -/
def State.sameInside (t s : State) : Prop := t.lm = s.lm ∧ t.hm = s.hm ∧ t.badLm = s.badLm ∧ t.part = s.part ∧ t.sameData s

/-- All memory, every mark, the part, the device but for registers, of which those in l alone may differ, and for halts on their way to other
clusters, and the die but for the row queue are the same. -/
def State.sameDevice (t s : State) (l : List Nat) : Prop :=
  t.pm = s.pm ∧ t.badPm = s.badPm ∧ { t.die with rowq := s.die.rowq } = s.die ∧
    { t.dev with regs := s.dev.regs, crossing := s.dev.crossing } = s.dev ∧
    ∀ o, o ∉ l → assocGet t.dev.regs o (regReset o) = assocGet s.dev.regs o (regReset o)

/-! ### What a pawn's op leaves one barrel cycle later (R56, R61) -/

/-- The scalar register d of pawn t as it stands, x0 reading 0 (R79). -/
def State.pawnX (s : State) (t : Nat) (d : Field6) : Word64 := (s.setCtx (agentCtx (.pawn t))).readS d

/-- All that a pawn reads but its scalar registers. -/
def Pawn.sameButX (a b : Pawn) : Prop :=
  a.y = b.y ∧ a.b = b.b ∧ a.m = b.m ∧ Thread.sameBut a.th b.th ∧ a.mon = b.mon ∧ a.mbox = b.mbox ∧ a.mboxFull = b.mboxFull ∧
    a.msgSeq = b.msgSeq ∧ a.waiting = b.waiting ∧ a.reqs = b.reqs ∧ a.pushes = b.pushes ∧ a.chunk = b.chunk

/-- An op of latency 1 that a pawn issues with nothing of its own in flight, and no word of the core's stores bad: the op issues and the thread moves on to the next op
word; after the landings of the next barrel cycle x[d] holds `val` of the state in which the op issued, a write to x0 is dropped,
and every other register of the thread, every other thread, the primary and all memory stand as they did (R36, R56, R61, R79). -/
def PawnWrites (i : Instr) (d : Field6) (val : State → Word64) : Prop :=
  ∀ (s : State) (t : Nat), t < 16 → s.ctx.agent = .pawn t → s.core.cfg.det = false → s.ctx.commit = false → (s.pawn t).pend = [] →
    s.core.struck = [] → s.ctx.checked = true ∨ s.ready (specOf i) = true →
    ∃ u v : State, exec i s = .next u ∧ exec .resultLanding (u.setCtx (agentCtx (.pawn t))) = .next v ∧
      (v.pawn t).pc = s.ctx.pc + 4 ∧ (v.pawn t).pend = [] ∧
      (∀ r : Field6, v.pawnX t r = if r = d ∧ d ≠ 0 then val s else s.pawnX t r) ∧
      (v.pawn t).sameButX (s.pawn t) ∧ (∀ n, n ≠ t → v.pawn n = s.pawn n) ∧ v.prim = s.prim ∧ v.sameOutside s

/-! ### The turn of a pawn in the scan (R70) -/

/-- What the scan's first step does before it considers a thread: rank 3's tokens, and the counters of the barrel cycle (R68, R72, R426). -/
noncomputable def State.scanCounted (s : State) (n : Nat) : State := if n = 1 then s.shareTokens.scanStart opTable else s

/-- A pawn op takes its token and a vacant slot, and is counted (R68, R70, R72, R377). -/
def State.slotTaken (s : State) (slot : Nat) : State :=
  let s := (s.spendToken.updCore fun c => { c with vacant := c.vacant.filter fun k => k ≠ slot }).bump 3 1
  s.acctAdd s.core.cfg.cx 4 1

/-- What the scan does after the op of pawn t: the trace unit's sample, of an op that has issued, and record, and the thread's class (R425, R426). -/
def State.scanned (u : State) (p : Pawn) (t : Nat) : State :=
  let u := if (u.pawn t).opCount = p.opCount then u else u.traceSample t (p.buf.headD 0) p.pc
  (if p.th.mode ≠ 0 ∧ (u.pawn t).th.mode = 0 then u.traceReturn (some t) (u.pawn t).pc else u).countIssue t

/-- The thread whose turn it is in the scan is in the rotation, with no event pending, and the op word next in its stream is w. -/
def State.atScan (s : State) (n t : Nat) (w : Word32) : Prop :=
  s.core.commitOp = none ∧ s.agenda = [] ∧ s.dev.noSupply = false ∧ s.barrelHalted = false ∧ n ≤ s.core.cfg.nthreads ∧
    t = (s.core.last + n) % s.core.cfg.nthreads ∧ s.inRotation t = true ∧ (s.pawn t).event = none ∧ ∃ rest, (s.pawn t).buf = w :: rest

end Sys2Proof.Machine
end

