-- ==== Sys2Proof/Certificates/Slice0/Obligations.lean ====
section
/-! DEFINITION. The statements about the machine, one definition each. -/

open Sys2Proof Sys2Proof.Machine

/-- After reset every control register that its map gives the reset value 0 reads 0 on the primary and on a pawn, WDOG reads 200, TSTAT reads SETTLED alone, every route reads PATH 3, BEATPERIOD is 8,192 ticks, and no launch runs. (Registers without a reset value in the spec are not named. That the primary counts as exited while no launch runs is the model's choice, log 1.) (R72, R73, R85, R141, R201, R214, R217, R218, R222, R224, R257, R393.) -/
def Obligations.ResetState : Prop :=  let z : List Nat := [0x10, 0x11, 0x12, 0x13, 0x20, 0x28, 0x29, 0x2A, 0x2B, 0x2C, 0x31, 0x32, 0x33, 0x34, 0x35, 0x36, 0x37, 0x38, 0x39,
    0x3A, 0xC0, 0xC8, 0xC9, 0xCA, 0xCB, 0xCC, 0xCD, 0xCE, 0xCF, 0xD0, 0xD8, 0xD9, 0xDA, 0xDB, 0xDC, 0xE0, 0xE1, 0xF0, 0xF1, 0xF2, 0xF4]
  (∀ i ∈ z, State.reset.csrRead i = 0 ∧ (State.reset.setCtx (agentCtx (.pawn 0))).csrRead i = 0) ∧
    State.reset.csrRead 0xC1 = 200 ∧ State.reset.csrRead 0xF3 = 2 ∧
    (∀ i ∈ [0xF8, 0xF9, 0xFA, 0xFB, 0xFC, 0xFD, 0xFE, 0xFF], State.reset.csrRead i = 0x00C0000000000000#64) ∧
    (∀ i ∈ List.range 10, State.reset.csrRead (0xA0 + i) = 0) ∧
    State.reset.die.beatPeriod = 8192 ∧ State.reset.prim.exited = true ∧ State.reset.core.cfg.running = false

/-- The local, device and host memory of State.reset are in the canonical form of the model (addresses strictly rising, no listed 0). The form is the model's own (log 2). (R413, R430.) -/
def Obligations.ResetMemoryCanonical : Prop := State.reset.memCanonical = true

/-- From every state whose local, device and host memory are in canonical form, a step that answers a next state leaves them in canonical form, whatever the step is. The form is the model's own (log 2); equal memories are then equal data. (R7, R16, R139.) -/
def Obligations.StepKeepsMemoryCanonical : Prop :=  ∀ s t : State, s.memCanonical = true → step s = .next t → t.memCanonical = true

/-- For every instruction and every state exec answers a next state, and so does step: every trap, termination, freeze and reset of the manual is a next state. (R47, R76, R391, R395, R398.) -/
def Obligations.StepNeverStops : Prop := (∀ (i : Instr) (s : State), ∃ t, exec i s = .next t) ∧ ∀ s : State, ∃ t, step s = .next t

/-- For every well-formed instruction that has an op word, with every operand at every value, the decoder reads from that word the instruction itself. (R29, R32, R40, R41, R42, R43, R44.) -/
def Obligations.DecodeEncode : Prop :=  ∀ (i : Instr) (w : BitVec 32), i.wellFormed = true → encodeWord i = some w → decodeWord w = .ok i

/-- When the decoder reads instruction i from word w, i is well formed and its encoding is w; only for the ops that the primary alone may issue, to which the model gives no switch marker, bit 31 of w may differ from the encoding. (R29, R32, R33, R40.) -/
def Obligations.EncodeDecode : Prop :=  ∀ (w : BitVec 32) (i : Instr), decodeWord w = .ok i →
    i.wellFormed = true ∧
      (encodeWord i = some w ∨ ((specOf i).who = .prim ∧ encodeWord i = some (w &&& 0x7FFFFFFF#32)))

/-- Every word whose major is 0x21, 0x2E to 0x31, 0x35, 0x3E or 0x3F decodes to no instruction: the decoder answers unassignedMajor. (R40, R46.) -/
def Obligations.UnassignedMajorsRefused : Prop :=  ∀ w : BitVec 32,
    (wordMajor w).toNat ∈ [0x21, 0x2E, 0x2F, 0x30, 0x31, 0x35, 0x3E, 0x3F] →
      decodeWord w = .error .unassignedMajor ∧ decodeOp w = none

/-- The all-zero word decodes to the no-operation, and in a bundle to an empty slot; the word with k set alone decodes to the marked no-operation and is refused in a bundle slot; every other word of major 0 is refused; the no-operation issues with no effect. (R33.) -/
def Obligations.MajorZeroWords : Prop :=  decodeWord 0 = .ok (.nop false) ∧
  (∀ w, wordMajor w = 0 → w ≠ 0 → w ≠ 0x80000000#32 → decodeWord w = .error .unassignedWord) ∧
  decodeWord 0x80000000#32 = .ok (.nop true) ∧
  (∀ (b : BitVec 320) (n : Nat), headerSur (bundleWord b 0) n = false → bundleWord b (n + 1) = 0 → decodeSlot b n = .ok .empty) ∧
  (∀ (b : BitVec 320) (n : Nat), headerSur (bundleWord b 0) n = false → bundleWord b (n + 1) ≠ 0 →
    wordMajor (bundleWord b (n + 1)) = 0 → decodeSlot b n = .error (.slotWord n)) ∧
  (∀ k, Completes (.nop k) fun s => s)

/-- The words of the worked encoding and of the examples (br.t, addi, ld, marked ld, vadd, loop, andi, sret with and without k) decode to their instructions, and 0x7C00_0000 is refused. (R29, R41, R48, R83, R392.) -/
def Obligations.SampleWordsDecode : Prop :=  decodeWord 0x02901FFD#32 = .ok (.brT false 2 (-3)) ∧
  decodeWord 0x1230C000#32 = .ok (.addi false 6 6 0) ∧
  decodeWord 0x2C391802#32 = .ok (.ld false 7 8 2) ∧
  decodeWord 0xAC28D801#32 = .ok (.ld true 5 6 1) ∧
  decodeWord 0x44084180#32 = .ok (.vadd false 1 2 3 0) ∧
  decodeWord 0x04008002#32 = .ok (.loop 0 4 2) ∧
  decodeWord 0x14411FF8#32 = .ok (.andi false 8 8 (-8)) ∧
  decodeWord 0x0C000002#32 = .ok (.sret false) ∧
  decodeWord 0x8C000002#32 = .ok (.sret true) ∧
  decodeWord 0x7C000000#32 = .error .unassignedMajor

/-- A step that is due runs in its context through exec; an event that the device does not hear, before its boot ends or without supply, is lost. In the scan of the barrel, the op word next in the stream of the thread whose turn it is runs as the instruction it decodes to: in the front end, or in the first vacant slot of its class; the scan then goes on. The words of the stream are those that the fetch reads at the program counter. (The model's choices in these clauses: the agenda of the due steps, log 4; the events that are lost, log 33 and log 70; and that a front-end op takes its turn whatever count of slots is taken, log 66.) (R36, R48, R66, R70, R147, R380, R431.) -/
def Obligations.StepRunsDecodedInstruction : Prop :=  (∀ (s t : State) (c : Ctx) (i : Instr) (rest : List (Ctx × Instr)), s.core.commitOp = none → s.agenda = (c, i) :: rest → s.heard i = true →
    exec i ((s.setAgenda rest).setCtx c) = .next t → step s = .next (t.setCtx {})) ∧
  (∀ (s : State) (c : Ctx) (i : Instr) (rest : List (Ctx × Instr)), s.core.commitOp = none → s.agenda = (c, i) :: rest → s.heard i = false →
    step s = .next (s.setAgenda rest)) ∧
  (∀ (s u : State) (n count t : Nat) (first : Option Nat) (w : Word32) (i : Instr), s.turn = .scan n count first → s.atScan n t w →
    decodeOp w = some i → frontEnd (specOf i) w = true →
    let s' := s.scanCounted n
    (s'.setCtx ((s.pawn t).opCtx t 15)).encodingTrap (specOf i) = none → (s'.setCtx ((s.pawn t).opCtx t 15)).struckOp (specOf i) = none →
    exec i (s'.setCtx ((s.pawn t).opCtx t 15)) = .next u →
    step s = .next ((u.scanned (s.pawn t) t).scanOn n count first)) ∧
  (∀ (s u : State) (n count t slot : Nat) (first : Option Nat) (w : Word32) (i : Instr), s.turn = .scan n count first → s.atScan n t w →
    decodeOp w = some i → frontEnd (specOf i) w = false → ((specOf i).iter = true → s.core.iter = 0) → count < 2 →
    s.core.vacant.find? (fun k => decide (k ∈ (specOf i).cls.pawnSlots)) = some slot →
    ((specOf i).guardPoint = true → (s.pawn t).th.guardPending = false) →
    let s' := s.scanCounted n
    s'.core.tokens ≠ some 0 →
    (s'.setCtx ((s.pawn t).opCtx t 15)).encodingTrap (specOf i) = none →
    let at1 := s'.setCtx ((s.pawn t).opCtx t slot)
    let at2 := (s'.slotTaken slot).setCtx ((s.pawn t).opCtx t slot)
    at2.struckOp (specOf i) = none → (at1.firstTrap (specOf i) = none → at1.opWatch (specOf i) = none) →
    exec i at2 = .next u →
    step s = .next ((u.scanned (s.pawn t) t).scanOn n (count + 1) (first <|> some t))) ∧
  (∀ (s : State) (t : Nat), t < 16 → (s.pawn t).wantsFetch = true → s.barrelHalted = false →
    s.core.barrelCycle = 0 ∨ (bankWords (s.fetchKeys t) 4).all s.wordFree = true → ∃ u, exec (.pawnFetch t) s = .next u ∧
      (u.pawn t).buf = (List.range (fetchCount (decide ((s.pawn t).th.mode = 0)) (s.pawn t).pc.toNat)).map fun j =>
        BitVec.ofNat 32 (memRead (s.chunkLm t) (s.core.lmBase + (s.pawn t).pc.toNat + 4 * j) 4))

/-- Where no event, breakpoint, failing check, watchpoint or word that cannot be read stands before it, the step issues the bundle at the program counter: its ops are exactly what its slots decode to, each runs through exec in slot order with its literal and index flag, and the bundle then ends. The bundle is the 40 bytes at the program counter as the fetch read them. (R26, R27, R34, R47, R60, R396.) -/
def Obligations.BundleRunsDecodedOps : Prop :=  (∀ (s : State) (l : List (SlotIn Instr)), s.core.commitOp = none → s.agenda = [] → s.dev.noSupply = false → s.turn = .present →
    s.core.cfg.running = true → s.prim.exited = false → s.prim.frzClus = false → s.prim.empties = 0 →
    let s' := s.presentStart
    s'.bundleOps opTable = .ok l → s'.primEvent (s'.atGuardPoint opTable) = none → s'.breakpoint = none →
    s'.lmBad s'.bundleBanks = false → s'.bundleTrap opTable l = none → s'.bundleWatch opTable l = none →
    s'.bundleStruck opTable l = none →
    step s = s'.issueBundle opTable l) ∧
  (∀ (s : State) (l : List (SlotIn Instr)), s.bundleOps opTable = .ok l →
    ∀ x : SlotIn Instr, x ∈ l ↔ x.n < 9 ∧ decodeSlot s.bundle x.n = .ok (.op x.op x.word x.lit x.ix)) ∧
  (∀ (s t : State) (x : SlotIn Instr) (l : List (SlotIn Instr)),
    exec x.op (s.setCtx { agent := .primary, slot := x.n, lit := x.lit, ix := x.ix, pc := s.prim.pc, word := x.word, checked := true }) =
      .next t → runSlots opTable (x :: l) s = runSlots opTable l (t.setCtx {})) ∧
  (∀ (s t : State) (l : List (SlotIn Instr)), s.prim.th.mode = 0 → runSlots opTable l (s.spendToken.setVacant (s.advertised s.bundle)) = .next t →
    (t.pushTrap s.prim.pc = none → s.issueBundle opTable l = .next (t.endBundle s.prim.resuming s.prim.pc)) ∧
    (∀ (e : Nat) (r : TrapRec), t.pushTrap s.prim.pc = some (e, r) → s.issueBundle opTable l =
      .next ((s.updPrim fun p => { p with th := { p.th with asm := vset p.th.asm e [] } }).trapTick (s.advertised s.bundle) r))) ∧
  (∀ (s : State), s.fetchRefused = false → s.prim.fetchAge = 1 → s.prim.past.head? = some s.lm →
    s.bundle = BitVec.ofNat 320 (memRead s.lm (s.core.lmBase + s.prim.pc.toNat) 40))

/-- For every instruction: where the checks of subcauses 0, 1 and 3 fail for the op in hand, exec takes the trap that fails first and does nothing else. (R39, R45, R46, R47, R48.) -/
def Obligations.EncodingFaultsIssueNothing : Prop :=  ∀ (i : Instr) (s : State) (r : TrapRec), s.ctx.slot < 9 ∨ s.isPawn = true → s.ctx.checked = false →
    s.encodingTrap (specOf i) = some r → exec i s = .next (s.trap r)

/-- For each of NOP, BR, BR_T, BR_F, LOOP, CALL, CALLI, JR, HOLD_EQ, HOLD_NE, HOLD_LT, HOLD_GE, HOLD_LTU, HOLD_GEU, HOLD_EQ_WP, HOLD_NE_WP, HOLD_LT_WP, HOLD_GE_WP, HOLD_LTU_WP, HOLD_GEU_WP, TEMPO, TEMPO_ANY: in every state in which the op may issue (class, place, registers, its own checks, port fields and freeze causes all let it, and no watchpoint covers it), or in which the checks of its bundle have been made, exec answers the next state that performs the effect written for it. (R33, R38, R80, R81, R83, R86, R219.) -/
def Obligations.ControlTransfersComplete : Prop :=
  (∀ k, Completes (.nop k) fun s => s) ∧
  (∀ k i, Completes (.br k i) fun s => s.redirect (s.relTarget i)) ∧
  (∀ k p i, Completes (.brT k p i) fun s => if s.readB p.toNat then s.redirect (s.relTarget i) else s) ∧
  (∀ k p i, Completes (.brF k p i) fun s => if s.readB p.toNat then s else s.redirect (s.relTarget i)) ∧
  (∀ n a i, Completes (.loop n a i) fun s =>
    let cnt : Word32 := (s.readS a).setWidth 32
    if cnt = 0 then s.redirect (s.ctx.pc + (s.imm i + 1) * 40)
    else
      let l : LoopLevel := ⟨cnt, (s.ctx.pc + 40).setWidth 21, (s.ctx.pc + s.imm i * 40).setWidth 21, true⟩
      s.updPrim fun p => { p with loopSet := some (n.toNat, l) }) ∧
  (∀ k l i, Completes (.call k l i) fun s =>
    (s.landS 1 (narrow l) s.linkValue).redirect (s.relTarget i)) ∧
  (∀ k l a i, Completes (.calli k l a i) fun s =>
    (s.landS 1 (narrow l) s.linkValue).redirect (s.readS a + s.imm i * s.unitBytes)) ∧
  (∀ k a i, Completes (.jr k a i) fun s => s.redirect (s.readS a + s.imm i * s.unitBytes)) ∧
  (∀ a b, Completes (.holdEq a b) fun s => s) ∧
  (∀ a b, Completes (.holdNe a b) fun s => s) ∧
  (∀ a b, Completes (.holdLt a b) fun s => s) ∧
  (∀ a b, Completes (.holdGe a b) fun s => s) ∧
  (∀ a b, Completes (.holdLtu a b) fun s => s) ∧
  (∀ a b, Completes (.holdGeu a b) fun s => s) ∧
  (∀ w b, Completes (.holdEqWp w b) fun s => s) ∧
  (∀ w b, Completes (.holdNeWp w b) fun s => s) ∧
  (∀ w b, Completes (.holdLtWp w b) fun s => s) ∧
  (∀ w b, Completes (.holdGeWp w b) fun s => s) ∧
  (∀ w b, Completes (.holdLtuWp w b) fun s => s) ∧
  (∀ w b, Completes (.holdGeuWp w b) fun s => s) ∧
  (∀ a, Completes (.tempo a) fun s => s.setPhv) ∧
  (Completes (.tempoAny) fun s => s.setPhv)

/-- For each of EQW, EQR, EQCNT, TRAP, BRK, SRET, EXIT, FENCE_CORE, FENCE_CLUS, FENCE_DIE, FENCE_PKG, FENCE_SYS, XFENCE_CORE, XFENCE_CLUS, XFENCE_DIE, XFENCE_PKG, XFENCE_SYS, CSRR, CSRW, IBAR: in every state in which the op may issue (class, place, registers, its own checks, port fields and freeze causes all let it, and no watchpoint covers it), or in which the checks of its bundle have been made, exec answers the next state that performs the effect written for it. (R88, R89, R92, R93, R94, R165, R166, R392, R395, R422.) -/
def Obligations.SystemOpsComplete : Prop :=
  (∀ k e a, Completes (.eqw k e a) fun s => s.pushWord e.toNat (s.readS a)) ∧
  (∀ k d e, Completes (.eqr k d e) fun s =>
    match s.ctx.agent with
    | .primary => (s.landS 1 d (((s.engineQ e.toNat).recs false).headD 0)).popRec e.toNat false
    | .pawn _ => s.gSend (.eqr e.toNat) (s.dstS d) .discard 0) ∧
  (∀ k d e, Completes (.eqcnt k d e) fun s =>
    let q := s.engineQ e.toNat
    s.landS 1 d (BitVec.ofNat 64 (cmdCap e.toNat - q.used s.isPawn + (q.recs s.isPawn).length * 2 ^ 16))) ∧
  (∀ k a, Completes (.trap k a) fun s => s.trapAfter (s.trapAt (0x1F0 + s.unit) s.ctx.pc (s.readS a))) ∧
  (∀ k, Completes (.brk k) fun s =>
    if !s.breaksOn then s.trapAfter (s.trapAt (0x1F8 + s.unit) s.ctx.pc 0)
    else if s.dbgRoute then s.trapAfter (s.trapAt (0x1E0 + s.unit) s.ctx.pc 0)
    else
      match s.ctx.agent with
      | .primary => s.debugHalt 3 0 false 0 s.ctx.pc.toNat
      | .pawn t => (s.debugHalt 3 0 true t s.ctx.pc.toNat).updPawn t fun p => { p with status := .halted }) ∧
  (∀ k, Completes (.sret k) fun s =>
    match s.ctx.agent with
    | .primary => s.primReturn
    | .pawn t => s.pawnReturn t) ∧
  (∀ k, Completes (.exit k) fun s =>
    match s.ctx.agent with
    | .primary => s.updPrim fun p => { p.dropPhv 5 with exited := true }
    | .pawn t => s.updPawn t fun p => { p with status := .exiting }) ∧
  (∀ k, Completes (.fenceCore k) fun s => s.fence 0) ∧
  (∀ k, Completes (.fenceClus k) fun s => s.fence 1) ∧
  (∀ k, Completes (.fenceDie k) fun s => s.fence 2) ∧
  (∀ k, Completes (.fencePkg k) fun s => s.fence 3) ∧
  (∀ k, Completes (.fenceSys k) fun s => s.fence 4) ∧
  (∀ k, Completes (.xfenceCore k) fun s => s.fence 0) ∧
  (∀ k, Completes (.xfenceClus k) fun s => s.fence 1) ∧
  (∀ k, Completes (.xfenceDie k) fun s => s.fence 2) ∧
  (∀ k, Completes (.xfencePkg k) fun s => s.fence 3) ∧
  (∀ k, Completes (.xfenceSys k) fun s => s.fence 4) ∧
  (∀ k d c, Completes (.csrr k d c) fun s =>
    s.landS 2 d (s.csrRead c.toNat)) ∧
  (∀ k a c, Completes (.csrw k a c) fun s => s.emit 2 (.csr c (s.readS a))) ∧
  (Completes (.ibar) fun s => s.updPrim fun p => { p with empties := 4 })

/-- For each of ADD, SUB, AND, OR, XOR, ANDN, MIN, MAX, MINU, MAXU, ADDW, SUBW, MOV, ADDI, ANDI, ORI, LUI, CMP_EQ, CMP_NE, CMP_LT, CMP_GE, CMP_LTU, CMP_GEU, PAND, POR, PXOR, PANDN, PNOT, CMPI_EQ, CMPI_NE, CMPI_LT, CMPI_GE: in every state in which the op may issue (class, place, registers, its own checks, port fields and freeze causes all let it, and no watchpoint covers it), or in which the checks of its bundle have been made, exec answers the next state that performs the effect written for it. (R95, R96, R97, R98.) -/
def Obligations.IntegerOpsComplete : Prop :=
  (∀ k d a b, Completes (.add k d a b) fun s => s.landS 1 d (s.readS a + s.readS b)) ∧
  (∀ k d a b, Completes (.sub k d a b) fun s => s.landS 1 d (s.readS a - s.readS b)) ∧
  (∀ k d a b, Completes (.and k d a b) fun s => s.landS 1 d (s.readS a &&& s.readS b)) ∧
  (∀ k d a b, Completes (.or k d a b) fun s => s.landS 1 d (s.readS a ||| s.readS b)) ∧
  (∀ k d a b, Completes (.xor k d a b) fun s => s.landS 1 d (s.readS a ^^^ s.readS b)) ∧
  (∀ k d a b, Completes (.andn k d a b) fun s => s.landS 1 d (s.readS a &&& ~~~(s.readS b))) ∧
  (∀ k d a b, Completes (.min k d a b) fun s => s.landS 1 d (if (s.readS a).toInt ≤ (s.readS b).toInt then s.readS a else s.readS b)) ∧
  (∀ k d a b, Completes (.max k d a b) fun s => s.landS 1 d (if (s.readS a).toInt ≤ (s.readS b).toInt then s.readS b else s.readS a)) ∧
  (∀ k d a b, Completes (.minu k d a b) fun s => s.landS 1 d (if s.readS a ≤ s.readS b then s.readS a else s.readS b)) ∧
  (∀ k d a b, Completes (.maxu k d a b) fun s => s.landS 1 d (if s.readS a ≤ s.readS b then s.readS b else s.readS a)) ∧
  (∀ k d a b, Completes (.addw k d a b) fun s => s.landS 1 d (sext32 (s.readS a + s.readS b))) ∧
  (∀ k d a b, Completes (.subw k d a b) fun s => s.landS 1 d (sext32 (s.readS a - s.readS b))) ∧
  (∀ k d a, Completes (.mov k d a) fun s => s.landS 1 d (s.readS a)) ∧
  (∀ k d a i, Completes (.addi k d a i) fun s => s.landS 1 d (s.readS a + s.imm i)) ∧
  (∀ k d a i, Completes (.andi k d a i) fun s => s.landS 1 d (s.readS a &&& s.imm i)) ∧
  (∀ k d a i, Completes (.ori k d a i) fun s => s.landS 1 d (s.readS a ||| s.immZ i)) ∧
  (∀ k d i, Completes (.lui k d i) fun s => s.landS 1 d (s.immHigh i)) ∧
  (∀ k d a b, Completes (.cmpEq k d a b) fun s => s.landB 1 d.toNat (decide (s.readS a = s.readS b))) ∧
  (∀ k d a b, Completes (.cmpNe k d a b) fun s => s.landB 1 d.toNat (decide (s.readS a ≠ s.readS b))) ∧
  (∀ k d a b, Completes (.cmpLt k d a b) fun s => s.landB 1 d.toNat (decide ((s.readS a).toInt < (s.readS b).toInt))) ∧
  (∀ k d a b, Completes (.cmpGe k d a b) fun s => s.landB 1 d.toNat (decide ((s.readS a).toInt ≥ (s.readS b).toInt))) ∧
  (∀ k d a b, Completes (.cmpLtu k d a b) fun s => s.landB 1 d.toNat (decide (s.readS a < s.readS b))) ∧
  (∀ k d a b, Completes (.cmpGeu k d a b) fun s => s.landB 1 d.toNat (decide (s.readS a ≥ s.readS b))) ∧
  (∀ k d a b, Completes (.pand k d a b) fun s => s.landB 1 d.toNat (s.readB a.toNat && s.readB b.toNat)) ∧
  (∀ k d a b, Completes (.por k d a b) fun s => s.landB 1 d.toNat (s.readB a.toNat || s.readB b.toNat)) ∧
  (∀ k d a b, Completes (.pxor k d a b) fun s => s.landB 1 d.toNat (Bool.xor (s.readB a.toNat) (s.readB b.toNat))) ∧
  (∀ k d a b, Completes (.pandn k d a b) fun s => s.landB 1 d.toNat (s.readB a.toNat && !s.readB b.toNat)) ∧
  (∀ k d a, Completes (.pnot k d a) fun s => s.landB 1 d.toNat (!s.readB a.toNat)) ∧
  (∀ k p a i, Completes (.cmpiEq k p a i) fun s => s.landB 1 p.toNat (decide (s.readS a = s.imm i))) ∧
  (∀ k p a i, Completes (.cmpiNe k p a i) fun s => s.landB 1 p.toNat (decide (s.readS a ≠ s.imm i))) ∧
  (∀ k p a i, Completes (.cmpiLt k p a i) fun s => s.landB 1 p.toNat (decide ((s.readS a).toInt < (s.imm i).toInt))) ∧
  (∀ k p a i, Completes (.cmpiGe k p a i) fun s => s.landB 1 p.toNat (decide ((s.readS a).toInt ≥ (s.imm i).toInt)))

/-- For each of SHL, SHR, SAR, ROTL, ROTR, CLZ, CTZ, POPC, BSWAP, BFX, BFXU, BFI, SHLI, SHRI, SARI, ROTLI, MUL, MULH, MULHU, MULW, DIV, DIVU, REM, REMU, IBW, IBR, PPACK, PUNPK, SEL: in every state in which the op may issue (class, place, registers, its own checks, port fields and freeze causes all let it, and no watchpoint covers it), or in which the checks of its bundle have been made, exec answers the next state that performs the effect written for it. (R99, R100, R101, R102, R103.) -/
def Obligations.ShiftsMultipliesDivisionsComplete : Prop :=
  (∀ k d a b, Completes (.shl k d a b) fun s => s.landS 1 d (s.readS a <<< ((s.readS b).toNat % 64))) ∧
  (∀ k d a b, Completes (.shr k d a b) fun s => s.landS 1 d (s.readS a >>> ((s.readS b).toNat % 64))) ∧
  (∀ k d a b, Completes (.sar k d a b) fun s => s.landS 1 d ((s.readS a).sshiftRight ((s.readS b).toNat % 64))) ∧
  (∀ k d a b, Completes (.rotl k d a b) fun s => s.landS 1 d ((s.readS a).rotateLeft ((s.readS b).toNat % 64))) ∧
  (∀ k d a b, Completes (.rotr k d a b) fun s => s.landS 1 d ((s.readS a).rotateRight ((s.readS b).toNat % 64))) ∧
  (∀ k d a, Completes (.clz k d a) fun s => s.landS 1 d (BitVec.ofNat 64 (leadingZeros (s.readS a).toNat 64))) ∧
  (∀ k d a, Completes (.ctz k d a) fun s => s.landS 1 d (BitVec.ofNat 64 (trailingZeros (s.readS a).toNat 64))) ∧
  (∀ k d a, Completes (.popc k d a) fun s => s.landS 1 d (BitVec.ofNat 64 (popCount (s.readS a).toNat 64))) ∧
  (∀ k d a, Completes (.bswap k d a) fun s => s.landS 1 d (BitVec.ofNat 64 (swapBytes (s.readS a).toNat 8))) ∧
  (∀ k d a b, Completes (.bfx k d a b) fun s => s.landS 1 d (if fieldLen (s.readS b) = 0 then 0 else
      BitVec.ofInt 64 (signedOf (fieldLen (s.readS b)) (bits (s.readS a).toNat (fieldPos (s.readS b)) (fieldLen (s.readS b)))))) ∧
  (∀ k d a b, Completes (.bfxu k d a b) fun s => s.landS 1 d (BitVec.ofNat 64 (bits (s.readS a).toNat (fieldPos (s.readS b)) (fieldLen (s.readS b))))) ∧
  (∀ k d a b, Completes (.bfi k d a b) fun s => if fieldLen (s.readS b) = 0 then s else
    s.landS 1 d (BitVec.ofNat 64 (setBits (s.readS d).toNat (fieldPos (s.readS b)) (fieldLen (s.readS b)) (s.readS a).toNat))) ∧
  (∀ k d a n, Completes (.shli k d a n) fun s => s.landS 1 d (s.readS a <<< n.toNat)) ∧
  (∀ k d a n, Completes (.shri k d a n) fun s => s.landS 1 d (s.readS a >>> n.toNat)) ∧
  (∀ k d a n, Completes (.sari k d a n) fun s => s.landS 1 d ((s.readS a).sshiftRight (n.toNat))) ∧
  (∀ k d a n, Completes (.rotli k d a n) fun s => s.landS 1 d ((s.readS a).rotateLeft (n.toNat))) ∧
  (∀ k d a b, Completes (.mul k d a b) fun s => s.landS 3 d (s.readS a * s.readS b)) ∧
  (∀ k d a b, Completes (.mulh k d a b) fun s => s.landS 3 d (BitVec.ofInt 64 ((s.readS a).toInt * (s.readS b).toInt / 2 ^ 64))) ∧
  (∀ k d a b, Completes (.mulhu k d a b) fun s => s.landS 3 d (BitVec.ofNat 64 ((s.readS a).toNat * (s.readS b).toNat / 2 ^ 64))) ∧
  (∀ k d a b, Completes (.mulw k d a b) fun s => s.landS 3 d (sext32 (s.readS a * s.readS b))) ∧
  (∀ k d a b, Completes (.div k d a b) fun s => s.divide d (divS (s.readS a) (s.readS b))) ∧
  (∀ k d a b, Completes (.divu k d a b) fun s => s.divide d (divU (s.readS a) (s.readS b))) ∧
  (∀ k d a b, Completes (.rem k d a b) fun s => s.divide d (remS (s.readS a) (s.readS b))) ∧
  (∀ k d a b, Completes (.remu k d a b) fun s => s.divide d (remU (s.readS a) (s.readS b))) ∧
  (∀ d a, Completes (.ibw d a) fun s => s.land 2 (.ib d.toNat) (bits (s.readS a).toNat 0 6)) ∧
  (∀ d a, Completes (.ibr d a) fun s => s.landS 1 d ((vget s.prim.ib a.toNat 0).setWidth 64)) ∧
  (∀ k d, Completes (.ppack k d) fun s => s.landS 1 d (BitVec.ofNat 64 (packElems 1 ((List.range (s.lat 16 8)).map fun i => b2n (s.readB i))))) ∧
  (∀ k a, Completes (.punpk k a) fun s => s.land 1 .bAll (bits (s.readS a).toNat 0 (s.lat 16 8))) ∧
  (∀ k d a b p, Completes (.sel k d a b p) fun s => s.landS 1 d (if s.readB p.toNat then s.readS a else s.readS b))

/-- For each of FADD, FSUB, FMUL, FDIV, FSQRT, FMIN, FMAX, FABS, FNEG, FCMP_EQ, FCMP_LT, FCMP_LE, FCMP_UN, CVT_F_I, CVT_F_U, CVT_I_F, CVT_U_F, CVT_BF_F, CVT_H_F, CVT_F_BF, CVT_F_H: in every state in which the op may issue (class, place, registers, its own checks, port fields and freeze causes all let it, and no watchpoint covers it), or in which the checks of its bundle have been made, exec answers the next state that performs the effect written for it. (R255, R286, R287, R288.) -/
def Obligations.ScalarFloatComplete : Prop :=
  (∀ k d a b r, Completes (.fadd k d a b r) fun s => (s.landF 4 d (fAdd r.toNat (s.drawFor r.toNat 0) (s.readF a) (s.readF b))).countRound r.toNat) ∧
  (∀ k d a b r, Completes (.fsub k d a b r) fun s => (s.landF 4 d (fSub r.toNat (s.drawFor r.toNat 0) (s.readF a) (s.readF b))).countRound r.toNat) ∧
  (∀ k d a b r, Completes (.fmul k d a b r) fun s => (s.landF 4 d (fMul r.toNat (s.drawFor r.toNat 0) (s.readF a) (s.readF b))).countRound r.toNat) ∧
  (∀ k d a b r, Completes (.fdiv k d a b r) fun s => (s.slowF d (fDiv r.toNat (s.drawFor r.toNat 0) (s.readF a) (s.readF b))).countRound r.toNat) ∧
  (∀ k d a r, Completes (.fsqrt k d a r) fun s => (s.slowF d (fSqrt r.toNat (s.drawFor r.toNat 0) (s.readF a))).countRound r.toNat) ∧
  (∀ k d a b, Completes (.fmin k d a b) fun s => s.landF 4 d (fMin (s.readF a) (s.readF b))) ∧
  (∀ k d a b, Completes (.fmax k d a b) fun s => s.landF 4 d (fMax (s.readF a) (s.readF b))) ∧
  (∀ k d a, Completes (.fabs k d a) fun s => s.landF 4 d (fAbs (s.readF a))) ∧
  (∀ k d a, Completes (.fneg k d a) fun s => s.landF 4 d (fNeg (s.readF a))) ∧
  (∀ k d a b, Completes (.fcmpEq k d a b) fun s => s.landFB 4 d (fEq (s.readF a) (s.readF b))) ∧
  (∀ k d a b, Completes (.fcmpLt k d a b) fun s => s.landFB 4 d (fLt (s.readF a) (s.readF b))) ∧
  (∀ k d a b, Completes (.fcmpLe k d a b) fun s => s.landFB 4 d (fLe (s.readF a) (s.readF b))) ∧
  (∀ k d a b, Completes (.fcmpUn k d a b) fun s => s.landFB 4 d (fUn (s.readF a) (s.readF b))) ∧
  (∀ k d a r, Completes (.cvtFI k d a r) fun s => (s.landF 3 d (fp32.round (ofInt (s.readS a).toInt) r.toNat (s.drawFor r.toNat 0))).countRound r.toNat) ∧
  (∀ k d a r, Completes (.cvtFU k d a r) fun s => (s.landF 3 d (fp32.round (ofInt (s.readS a).toNat) r.toNat (s.drawFor r.toNat 0))).countRound r.toNat) ∧
  (∀ k d a r, Completes (.cvtIF k d a r) fun s => (s.landF 3 d (toInt (f32 (s.readF a)) 64 true r.toNat (s.drawFor r.toNat 0))).countRound r.toNat) ∧
  (∀ k d a r, Completes (.cvtUF k d a r) fun s => (s.landF 3 d (toInt (f32 (s.readF a)) 64 false r.toNat (s.drawFor r.toNat 0))).countRound r.toNat) ∧
  (∀ k d a r, Completes (.cvtBfF k d a r) fun s => (s.landF 3 d (narrowTo bf16 r.toNat (s.drawFor r.toNat 0) (s.readF a))).countRound r.toNat) ∧
  (∀ k d a r, Completes (.cvtHF k d a r) fun s => (s.landF 3 d (narrowTo fp16 r.toNat (s.drawFor r.toNat 0) (s.readF a))).countRound r.toNat) ∧
  (∀ k d a, Completes (.cvtFBf k d a) fun s => s.landF 3 d (widen bf16 (s.readF a % 2 ^ 16))) ∧
  (∀ k d a, Completes (.cvtFH k d a) fun s => s.landF 3 d (widen fp16 (s.readF a % 2 ^ 16)))

/-- For each of CWLD, LDB, LDBU, LDH, LDHU, LDW, LDWU, LD, STB, STH, STW, ST, VLD, VST, VLDH, VSTH, VLDB: in every state in which the op may issue (class, place, registers, its own checks, port fields and freeze causes all let it, and no watchpoint covers it), or in which the checks of its bundle have been made, exec answers the next state that performs the effect written for it. (R104, R148, R149.) -/
def Obligations.LocalLoadsStoresComplete : Prop :=
  (∀ k d n, Completes (.cwld k d n) fun s => (s.touch [8 * n.toNat] 8 false).access
    (.read [s.core.lmBase + 8 * n.toNat] 8 64 false (s.dstS d) (s.lat 2 4))) ∧
  (∀ k d a o, Completes (.ldb k d a o) fun s => (s.access (.read [s.key (s.ea a o 1)] 1 64 true (s.dstS d) (s.bankLat 2))).touch [(s.ea a o 1).toNat] 1 false) ∧
  (∀ k d a o, Completes (.ldbu k d a o) fun s => (s.access (.read [s.key (s.ea a o 1)] 1 64 false (s.dstS d) (s.bankLat 2))).touch [(s.ea a o 1).toNat] 1 false) ∧
  (∀ k d a o, Completes (.ldh k d a o) fun s => (s.access (.read [s.key (s.ea a o 2)] 2 64 true (s.dstS d) (s.bankLat 2))).touch [(s.ea a o 2).toNat] 2 false) ∧
  (∀ k d a o, Completes (.ldhu k d a o) fun s => (s.access (.read [s.key (s.ea a o 2)] 2 64 false (s.dstS d) (s.bankLat 2))).touch [(s.ea a o 2).toNat] 2 false) ∧
  (∀ k d a o, Completes (.ldw k d a o) fun s => (s.access (.read [s.key (s.ea a o 4)] 4 64 true (s.dstS d) (s.bankLat 2))).touch [(s.ea a o 4).toNat] 4 false) ∧
  (∀ k d a o, Completes (.ldwu k d a o) fun s => (s.access (.read [s.key (s.ea a o 4)] 4 64 false (s.dstS d) (s.bankLat 2))).touch [(s.ea a o 4).toNat] 4 false) ∧
  (∀ k d a o, Completes (.ld k d a o) fun s => (s.access (.read [s.key (s.ea a o 8)] 8 64 false (s.dstS d) (s.bankLat 2))).touch [(s.ea a o 8).toNat] 8 false) ∧
  (∀ k d a o, Completes (.stb k d a o) fun s => (s.access (.write [s.key (s.ea a o 1)] 1 [(s.readS d).toNat % 2 ^ (8 * 1)])).touch [(s.ea a o 1).toNat] 1 false) ∧
  (∀ k d a o, Completes (.sth k d a o) fun s => (s.access (.write [s.key (s.ea a o 2)] 2 [(s.readS d).toNat % 2 ^ (8 * 2)])).touch [(s.ea a o 2).toNat] 2 false) ∧
  (∀ k d a o, Completes (.stw k d a o) fun s => (s.access (.write [s.key (s.ea a o 4)] 4 [(s.readS d).toNat % 2 ^ (8 * 4)])).touch [(s.ea a o 4).toNat] 4 false) ∧
  (∀ k d a o, Completes (.st k d a o) fun s => (s.access (.write [s.key (s.ea a o 8)] 8 [(s.readS d).toNat % 2 ^ (8 * 8)])).touch [(s.ea a o 8).toNat] 8 false) ∧
  (∀ d a o, Completes (.vld d a o) fun s => (s.access (.read (s.runKeys (s.ea a o 8) 4 s.lanes) 4 32 false (s.dstV d) (s.bankLat 2))).touch [(s.ea a o 8).toNat] (s.lanes * 4) false) ∧
  (∀ d a o, Completes (.vst d a o) fun s => (s.access (.write (s.runKeys (s.ea a o 8) 4 s.lanes) 4 (s.laneBytes d 4))).touch [(s.ea a o 8).toNat] (s.lanes * 4) false) ∧
  (∀ k d a o, Completes (.vldh k d a o) fun s => (s.access (.read (s.runKeys (s.ea a o 8) 2 s.lanes) 2 32 false (s.dstV d) (s.bankLat 2))).touch [(s.ea a o 8).toNat] (s.lanes * 2) false) ∧
  (∀ k d a o, Completes (.vsth k d a o) fun s => (s.access (.write (s.runKeys (s.ea a o 8) 2 s.lanes) 2 (s.laneBytes d 2))).touch [(s.ea a o 8).toNat] (s.lanes * 2) false) ∧
  (∀ k d a o, Completes (.vldb k d a o) fun s => (s.access (.read (s.runKeys (s.ea a o 8) 1 s.lanes) 1 32 false (s.dstV d) (s.bankLat 2))).touch [(s.ea a o 8).toNat] (s.lanes * 1) false)

/-- For each of TLD, TLD_BIND, TST, VGATH_W, VGATH_H, VGATH_B, VSCAT_W, VSCAT_H, VSCAT_B, LMADD, LMXCHG, LMCAS, LMMIN, LMMAX, LMAND, LMOR, FLREL, FLACQ, RLD, RST, RVLD, RVST, RQPUT: in every state in which the op may issue (class, place, registers, its own checks, port fields and freeze causes all let it, and no watchpoint covers it), or in which the checks of its bundle have been made, exec answers the next state that performs the effect written for it. (R135, R150, R152, R153, R154, R155.) -/
def Obligations.TilesGathersAtomicsRemoteComplete : Prop :=
  (∀ t a, Completes (.tld t a) fun s => s.queueTile t a false none) ∧
  (∀ t a z, Completes (.tldBind t a z) fun s => s.queueTile t a false (some z.toNat)) ∧
  (∀ t a, Completes (.tst t a) fun s => s.queueTile t a true none) ∧
  (∀ k d a b, Completes (.vgathW k d a b) fun s => (s.access (.read ((s.laneEas a b 4).map s.key) 4 32 false (s.dstV d) (s.bankLat 4))).touch ((s.laneEas a b 4).map fun e => e.toNat) 4 false) ∧
  (∀ k d a b, Completes (.vgathH k d a b) fun s => (s.access (.read ((s.laneEas a b 2).map s.key) 2 32 false (s.dstV d) (s.bankLat 4))).touch ((s.laneEas a b 2).map fun e => e.toNat) 2 false) ∧
  (∀ k d a b, Completes (.vgathB k d a b) fun s => (s.access (.read ((s.laneEas a b 1).map s.key) 1 32 false (s.dstV d) (s.bankLat 4))).touch ((s.laneEas a b 1).map fun e => e.toNat) 1 false) ∧
  (∀ k d a b, Completes (.vscatW k d a b) fun s => (s.access (.write ((s.laneEas a b 4).map s.key) 4 (s.laneBytes d 4))).touch ((s.laneEas a b 4).map fun e => e.toNat) 4 false) ∧
  (∀ k d a b, Completes (.vscatH k d a b) fun s => (s.access (.write ((s.laneEas a b 2).map s.key) 2 (s.laneBytes d 2))).touch ((s.laneEas a b 2).map fun e => e.toNat) 2 false) ∧
  (∀ k d a b, Completes (.vscatB k d a b) fun s => (s.access (.write ((s.laneEas a b 1).map s.key) 1 (s.laneBytes d 1))).touch ((s.laneEas a b 1).map fun e => e.toNat) 1 false) ∧
  (∀ k d a b, Completes (.lmadd k d a b) fun s => (s.access (.rmw (s.key (s.readS a)) .add (s.readS b) (s.readS d) (s.dstS d) (s.bankLat 4))).touch [(s.readS a).toNat] 8 false) ∧
  (∀ k d a b, Completes (.lmxchg k d a b) fun s => (s.access (.rmw (s.key (s.readS a)) .xchg (s.readS b) (s.readS d) (s.dstS d) (s.bankLat 4))).touch [(s.readS a).toNat] 8 false) ∧
  (∀ k d a b, Completes (.lmcas k d a b) fun s => (s.access (.rmw (s.key (s.readS a)) .cas (s.readS b) (s.readS d) (s.dstS d) (s.bankLat 4))).touch [(s.readS a).toNat] 8 false) ∧
  (∀ k d a b, Completes (.lmmin k d a b) fun s => (s.access (.rmw (s.key (s.readS a)) .min (s.readS b) (s.readS d) (s.dstS d) (s.bankLat 4))).touch [(s.readS a).toNat] 8 false) ∧
  (∀ k d a b, Completes (.lmmax k d a b) fun s => (s.access (.rmw (s.key (s.readS a)) .max (s.readS b) (s.readS d) (s.dstS d) (s.bankLat 4))).touch [(s.readS a).toNat] 8 false) ∧
  (∀ k d a b, Completes (.lmand k d a b) fun s => (s.access (.rmw (s.key (s.readS a)) .and (s.readS b) (s.readS d) (s.dstS d) (s.bankLat 4))).touch [(s.readS a).toNat] 8 false) ∧
  (∀ k d a b, Completes (.lmor k d a b) fun s => (s.access (.rmw (s.key (s.readS a)) .or (s.readS b) (s.readS d) (s.dstS d) (s.bankLat 4))).touch [(s.readS a).toNat] 8 false) ∧
  (∀ k d a, Completes (.flrel k d a) fun s => let ea := s.readS a
    (s.accessOrd true false (.write [s.key ea] 8 [(s.readS d).toNat])).touch [ea.toNat] 8 false) ∧
  (∀ k d a, Completes (.flacq k d a) fun s => let ea := s.readS a
    (s.accessOrd false true (.read [s.key ea] 8 64 false (s.dstS d) (s.bankLat 2))).touch [ea.toNat] 8 false) ∧
  (∀ k d a, Completes (.rld k d a) fun s => s.remoteAccess (s.readS a) false 8 0 (s.dstS d)) ∧
  (∀ k d a, Completes (.rst k d a) fun s => s.remoteAccess (s.readS a) true 8 ((s.readS d).setWidth 4096) .discard) ∧
  (∀ k d a, Completes (.rvld k d a) fun s => s.remoteAccess (s.readS a) false (4 * s.lanes) 0 (s.dstV d)) ∧
  (∀ k d a, Completes (.rvst k d a) fun s => s.remoteAccess (s.readS a) true (4 * s.lanes) ((s.readV d).setWidth 4096) .discard) ∧
  (∀ k a, Completes (.rqput k a) fun s => s.rowPost (s.readS a))

/-- For each of ZLD, ZST, ZBIND, ZBIND_NONE, ZBINDW, ZGEN_Z, ZGEN_T, ZGEN_W, ZMUL, ZADDE, ZMAX, ZCVT, ZFILL, ZMOV, ZAMAX: in every state in which the op may issue (class, place, registers, its own checks, port fields and freeze causes all let it, and no watchpoint covers it), or in which the checks of its bundle have been made, exec answers the next state that performs the effect written for it. (R273, R274, R275, R276, R278.) -/
def Obligations.ScaleOpsComplete : Prop :=
  (∀ f z a n g, Completes (.zld f z a n g) fun s =>
    (s.access (.read (s.runKeys (s.readS a) 8 (groupBytes n / 8)) 8 64 false
      (.z z.toNat (64 * g.toNat) (groupBytes n) (decide (f = 1)) false) 4)).touch [(s.readS a).toNat] (groupBytes n) false) ∧
  (∀ z a n g, Completes (.zst z a n g) fun s =>
    let vals := unpackElems 64 (groupBytes n / 8) ((s.zreg z.toNat).e.toNat / 2 ^ (512 * g.toNat))
    (s.access (.write (s.runKeys (s.readS a) 8 (groupBytes n / 8)) 8 vals)).touch [(s.readS a).toNat] (groupBytes n) false) ∧
  (∀ t z g, Completes (.zbind t z g) fun s => s.emit 2 (.bindTile t.toNat (some (z.toNat, g.toNat)))) ∧
  (∀ t, Completes (.zbindNone t) fun s => s.emit 2 (.bindTile t.toNat none)) ∧
  (∀ w z g, Completes (.zbindw w z g) fun s => s.emit 2 (.bindSlot w.toNat z.toNat g.toNat)) ∧
  (∀ d z, Completes (.zgenZ d z) fun s =>
    s.landS 2 d (BitVec.ofNat 64 ((s.zreg z.toNat).gen.toNat + b2n (s.zreg z.toNat).fmt * 2 ^ 32))) ∧
  (∀ d t, Completes (.zgenT d t) fun s => s.landS 2 d (s.tagBits (vget s.core.t t.toNat ⟨0, Tag.unbound⟩).tag)) ∧
  (∀ d w, Completes (.zgenW d w) fun s => s.landS 2 d (s.tagBits (vget s.core.w w.toNat WSlot.unloaded).tag)) ∧
  (∀ z a b p, Completes (.zmul z a b p) fun s =>
    let r := s.zreg a.toNat
    s.landZreg z r.fmt p (r.entries.map fun c => scaleEntry r.fmt c (s.readS b).toInt)) ∧
  (∀ z a b p, Completes (.zadde z a b p) fun s =>
    let r := s.zreg a.toNat
    s.landZreg z r.fmt p ((r.entries.zip (s.zreg b.toNat).entries).map fun x => scaleEntry r.fmt x.1 (signedOf 8 x.2))) ∧
  (∀ z a b p, Completes (.zmax z a b p) fun s =>
    let x := s.zreg a.toNat
    let y := s.zreg b.toNat
    s.landZreg z x.fmt p ((x.entries.zip y.entries).map fun e => zmaxEntry x.fmt y.fmt e.1 e.2)) ∧
  (∀ f z a p, Completes (.zcvt f z a p) fun s =>
    let r := s.zreg a.toNat
    s.landZreg z (decide (f = 1)) p (r.entries.map fun c =>
      if r.fmt = decide (f = 1) then (c, 0) else scaleRound (decide (f = 1)) (scaleValue r.fmt c) 0 0)) ∧
  (∀ f z a p, Completes (.zfill f z a p) fun s =>
    s.landZreg z (decide (f = 1)) p (List.replicate 512 ((s.readS a).toNat % 256, 0))) ∧
  (∀ z a p, Completes (.zmov z a p) fun s =>
    let r := s.zreg a.toNat
    s.landZreg z r.fmt p (r.entries.map fun c => (c, 0))) ∧
  (∀ d a n g, Completes (.zamax d a n g) fun s =>
    let r := s.zreg a.toNat
    let m := amaxEntry r.fmt (64 * g.toNat) none ((r.entries.drop (64 * g.toNat)).take (groupBytes n))
    s.landS 4 d (BitVec.ofNat 64 (m.1 + 256 * m.2)))

/-- For each of VADD, VSUB, VMUL, VDIV, VMIN, VMAX, VABS, VNEG, VSQRT, VFMA, VFMS, VFNMA: in every state in which the op may issue (class, place, registers, its own checks, port fields and freeze causes all let it, and no watchpoint covers it), or in which the checks of its bundle have been made, exec answers the next state that performs the effect written for it. (R289, R290.) -/
def Obligations.VectorFloatComplete : Prop :=
  (∀ k d a b r, Completes (.vadd k d a b r) fun s => s.vec2 4 d a b r.toNat fAdd) ∧
  (∀ k d a b r, Completes (.vsub k d a b r) fun s => s.vec2 4 d a b r.toNat fSub) ∧
  (∀ k d a b r, Completes (.vmul k d a b r) fun s => s.vec2 4 d a b r.toNat fMul) ∧
  (∀ k d a b r, Completes (.vdiv k d a b r) fun s => (s.vec2 (s.lat 16 32) d a b r.toNat fDiv).slowV) ∧
  (∀ k d a b, Completes (.vmin k d a b) fun s => s.vec2 4 d a b 0 fun _ _ => fMin) ∧
  (∀ k d a b, Completes (.vmax k d a b) fun s => s.vec2 4 d a b 0 fun _ _ => fMax) ∧
  (∀ k d a, Completes (.vabs k d a) fun s => s.vec1 4 d a 0 fun _ _ => fAbs) ∧
  (∀ k d a, Completes (.vneg k d a) fun s => s.vec1 4 d a 0 fun _ _ => fNeg) ∧
  (∀ k d a r, Completes (.vsqrt k d a r) fun s => (s.vec1 (s.lat 16 32) d a r.toNat fSqrt).slowV) ∧
  (∀ k d a b r, Completes (.vfma k d a b r) fun s => s.fused d a b r.toNat false false) ∧
  (∀ k d a b r, Completes (.vfms k d a b r) fun s => s.fused d a b r.toNat false true) ∧
  (∀ k d a b r, Completes (.vfnma k d a b r) fun s => s.fused d a b r.toNat true false)

/-- For each of VIADD, VISUB, VIMUL, VIAND, VIOR, VIXOR, VISHL, VISHR, VISAR, VIMIN, VIMAX, VIMINU, VIMAXU, VCMP_EQ, VCMP_LT, VCMP_LE, VCMP_UN, VICMP_EQ, VICMP_LT, VICMP_LTU, VSEL, MAND, MOR, MXOR, MNOT, MPOP, MMOV_TO_MASK, MMOV_FROM_MASK: in every state in which the op may issue (class, place, registers, its own checks, port fields and freeze causes all let it, and no watchpoint covers it), or in which the checks of its bundle have been made, exec answers the next state that performs the effect written for it. (R291, R292, R293.) -/
def Obligations.VectorIntegerComplete : Prop :=
  (∀ k d a b, Completes (.viadd k d a b) fun s => s.landLanes 2 d (lanes2 (fun _ x y => (x + y, 0)) (s.readLanes a) (s.readLanes b))) ∧
  (∀ k d a b, Completes (.visub k d a b) fun s => s.landLanes 2 d (lanes2 (fun _ x y => (x + 2 ^ 32 - y, 0)) (s.readLanes a) (s.readLanes b))) ∧
  (∀ k d a b, Completes (.vimul k d a b) fun s => s.landLanes 2 d (lanes2 (fun _ x y => (x * y, 0)) (s.readLanes a) (s.readLanes b))) ∧
  (∀ k d a b, Completes (.viand k d a b) fun s => s.landLanes 2 d (lanes2 (fun _ x y => (x &&& y, 0)) (s.readLanes a) (s.readLanes b))) ∧
  (∀ k d a b, Completes (.vior k d a b) fun s => s.landLanes 2 d (lanes2 (fun _ x y => (x ||| y, 0)) (s.readLanes a) (s.readLanes b))) ∧
  (∀ k d a b, Completes (.vixor k d a b) fun s => s.landLanes 2 d (lanes2 (fun _ x y => (x ^^^ y, 0)) (s.readLanes a) (s.readLanes b))) ∧
  (∀ k d a b, Completes (.vishl k d a b) fun s => s.landLanes 2 d (lanes2 (fun _ x y => (x * 2 ^ (y % 32), 0)) (s.readLanes a) (s.readLanes b))) ∧
  (∀ k d a b, Completes (.vishr k d a b) fun s => s.landLanes 2 d (lanes2 (fun _ x y => (x / 2 ^ (y % 32), 0)) (s.readLanes a) (s.readLanes b))) ∧
  (∀ k d a b, Completes (.visar k d a b) fun s => s.landLanes 2 d (lanes2 (fun _ x y => (unsignedOf 32 ((signedOf 32 x).fdiv (2 ^ (y % 32))), 0)) (s.readLanes a) (s.readLanes b))) ∧
  (∀ k d a b, Completes (.vimin k d a b) fun s => s.landLanes 2 d (lanes2 (fun _ x y => (if signedOf 32 x ≤ signedOf 32 y then x else y, 0)) (s.readLanes a) (s.readLanes b))) ∧
  (∀ k d a b, Completes (.vimax k d a b) fun s => s.landLanes 2 d (lanes2 (fun _ x y => (if signedOf 32 x ≤ signedOf 32 y then y else x, 0)) (s.readLanes a) (s.readLanes b))) ∧
  (∀ k d a b, Completes (.viminu k d a b) fun s => s.landLanes 2 d (lanes2 (fun _ x y => (if x ≤ y then x else y, 0)) (s.readLanes a) (s.readLanes b))) ∧
  (∀ k d a b, Completes (.vimaxu k d a b) fun s => s.landLanes 2 d (lanes2 (fun _ x y => (if x ≤ y then y else x, 0)) (s.readLanes a) (s.readLanes b))) ∧
  (∀ k d a b, Completes (.vcmpEq k d a b) fun s => s.vecCmp d a b fEq) ∧
  (∀ k d a b, Completes (.vcmpLt k d a b) fun s => s.vecCmp d a b fLt) ∧
  (∀ k d a b, Completes (.vcmpLe k d a b) fun s => s.vecCmp d a b fLe) ∧
  (∀ k d a b, Completes (.vcmpUn k d a b) fun s => s.vecCmp d a b fUn) ∧
  (∀ k d a b, Completes (.vicmpEq k d a b) fun s => s.vecCmp d a b fun x y => (decide (x = y), 0)) ∧
  (∀ k d a b, Completes (.vicmpLt k d a b) fun s => s.vecCmp d a b fun x y => (decide (signedOf 32 x < signedOf 32 y), 0)) ∧
  (∀ k d a b, Completes (.vicmpLtu k d a b) fun s => s.vecCmp d a b fun x y => (decide (x < y), 0)) ∧
  (∀ k d a b p, Completes (.vsel k d a b p) fun s => s.landLanes 1 d (lanes2 (fun j x y => (if bit (s.readM p.toNat).toNat j then x else y, 0)) (s.readLanes a) (s.readLanes b))) ∧
  (∀ k d a b, Completes (.mand k d a b) fun s => s.landM 1 d.toNat (s.readM a.toNat &&& s.readM b.toNat)) ∧
  (∀ k d a b, Completes (.mor k d a b) fun s => s.landM 1 d.toNat (s.readM a.toNat ||| s.readM b.toNat)) ∧
  (∀ k d a b, Completes (.mxor k d a b) fun s => s.landM 1 d.toNat (s.readM a.toNat ^^^ s.readM b.toNat)) ∧
  (∀ k d a, Completes (.mnot k d a) fun s => s.landM 1 d.toNat (~~~(s.readM a.toNat))) ∧
  (∀ k d a, Completes (.mpop k d a) fun s => s.landS 1 d (BitVec.ofNat 64 (popCount (s.readM a.toNat).toNat 64))) ∧
  (∀ k d a, Completes (.mmovToMask k d a) fun s => s.landM 1 d.toNat (s.readS a)) ∧
  (∀ k d a, Completes (.mmovFromMask k d a) fun s => s.landS 1 d (s.readM a.toNat))

/-- For each of VPACK, VUNPACK, VQUANT, VQUANT_RS, VPACK_RS, VCVT_F_I, VCVT_I_F, VCVT_BF_F, VCVT_H_F, VCVT_F_BF, VCVT_F_H, VNARROW_I8, VNARROW_I4, VWIDEN_I8, VWIDEN_I4: in every state in which the op may issue (class, place, registers, its own checks, port fields and freeze causes all let it, and no watchpoint covers it), or in which the checks of its bundle have been made, exec answers the next state that performs the effect written for it. (R255, R294, R295, R297, R298.) -/
def Obligations.VectorConversionsComplete : Prop :=
  (∀ k d a f, Completes (.vpack k d a f) fun s => s.pack d a f 0) ∧
  (∀ k d a f, Completes (.vunpack k d a f) fun s => let fm := fdFormat (vget s.core.fd f.toNat 0)
    s.landLanes 6 d ((unpackElems fm.width s.lanes (s.readV a).toNat).map fun x => widen fm x)) ∧
  (∀ k d a b f, Completes (.vquant k d a b f) fun s => s.quant d a b f 0) ∧
  (∀ k d a b f, Completes (.vquantRs k d a b f) fun s => s.quant d a b f 4) ∧
  (∀ k d a f, Completes (.vpackRs k d a f) fun s => s.pack d a f 4) ∧
  (∀ k d a r, Completes (.vcvtFI k d a r) fun s => s.vec1 3 d a r.toNat fun m u x => fp32.round (ofInt (signedOf 32 x)) m u) ∧
  (∀ k d a r, Completes (.vcvtIF k d a r) fun s => s.vec1 3 d a r.toNat fun m u x => toInt (f32 x) 32 true m u) ∧
  (∀ k d a r, Completes (.vcvtBfF k d a r) fun s => s.vec1 3 d a r.toNat fun m u x => narrowTo bf16 m u x) ∧
  (∀ k d a r, Completes (.vcvtHF k d a r) fun s => s.vec1 3 d a r.toNat fun m u x => narrowTo fp16 m u x) ∧
  (∀ k d a, Completes (.vcvtFBf k d a) fun s => s.vec1 3 d a 0 fun _ _ x => widen bf16 (x % 2 ^ 16)) ∧
  (∀ k d a, Completes (.vcvtFH k d a) fun s => s.vec1 3 d a 0 fun _ _ x => widen fp16 (x % 2 ^ 16)) ∧
  (∀ k d a, Completes (.vnarrowI8 k d a) fun s => s.landPacked 3 8 d ((s.readLanes a).map (saturate 8))) ∧
  (∀ k d a, Completes (.vnarrowI4 k d a) fun s => s.landPacked 3 4 d ((s.readLanes a).map (saturate 4))) ∧
  (∀ k d a, Completes (.vwidenI8 k d a) fun s => s.landLanes 3 d (s.widenLanes 8 a)) ∧
  (∀ k d a, Completes (.vwidenI4 k d a) fun s => s.landLanes 3 d (s.widenLanes 4 a))

/-- For each of VPERM, VBCL, VBCS, VROT, VEXT, VINS, VCOMPRESS, VEXPAND, VSCAN_ADD, VSCAN_MAX, VSCAN_IADD, VRED_ADD, VRED_MAX, VRED_MIN, VRED_IADD, VARGMAX, VCX, VCX_D, VMRG, VMRG_D, VDRAW, VDRAW_F, VEXP2, VRCP, VRSQRT, VLOG2: in every state in which the op may issue (class, place, registers, its own checks, port fields and freeze causes all let it, and no watchpoint covers it), or in which the checks of its bundle have been made, exec answers the next state that performs the effect written for it. The values of VEXP2 and VLOG2 are those of a series of 400 bits, whose correct rounding is presumed: the model's choice, log 7. (R300, R301, R302, R303, R304, R305.) -/
def Obligations.VectorPermutesComplete : Prop :=
  (∀ k d a b, Completes (.vperm k d a b) fun s => s.landPlain 3 d ((s.readLanes b).map fun i => laneMod (s.readLanes a) i)) ∧
  (∀ k d a b, Completes (.vbcl k d a b) fun s => s.landPlain 3 d ((s.readLanes a).map fun _ => laneMod (s.readLanes a) (s.readS b).toNat)) ∧
  (∀ k d a, Completes (.vbcs k d a) fun s => s.landPlain 3 d (List.replicate s.lanes (s.readF a))) ∧
  (∀ k d a b, Completes (.vrot k d a b) fun s => s.landPlain 3 d ((List.range s.lanes).map fun i => laneMod (s.readLanes a) (i + (s.readS b).toNat))) ∧
  (∀ k d a b, Completes (.vext k d a b) fun s => s.landS 3 d (BitVec.ofNat 64 (laneMod (s.readLanes a) (s.readS b).toNat))) ∧
  (∀ k d a b, Completes (.vins k d a b) fun s => s.landPlain 3 d (listSet (s.readLanes d) ((s.readS b).toNat % s.lanes) (s.readF a))) ∧
  (∀ k d a m, Completes (.vcompress k d a m) fun s => s.landPlain 3 d (s.includedLanes m a)) ∧
  (∀ k d a m, Completes (.vexpand k d a m) fun s => s.landPlain 3 d (expandLanes ((List.range s.lanes).map (s.included m)) (s.readLanes a))) ∧
  (∀ k d a m, Completes (.vscanAdd k d a m) fun s => s.scanOp combineAdd d a m) ∧
  (∀ k d a m, Completes (.vscanMax k d a m) fun s => s.scanOp combineMax d a m) ∧
  (∀ k d a m, Completes (.vscanIadd k d a m) fun s => s.scanOp combineIadd d a m) ∧
  (∀ k d a m, Completes (.vredAdd k d a m) fun s => s.reduceOp combineAdd d a m) ∧
  (∀ k d a m, Completes (.vredMax k d a m) fun s => s.reduceOp combineMax d a m) ∧
  (∀ k d a m, Completes (.vredMin k d a m) fun s => s.reduceOp combineMin d a m) ∧
  (∀ k d a m, Completes (.vredIadd k d a m) fun s => s.reduceOp combineIadd d a m) ∧
  (∀ k d a m, Completes (.vargmax k d a m) fun s => s.landPlain 6 d (List.replicate s.lanes (argMax (s.maskedLanes m a) 0 none))) ∧
  (∀ k d a b, Completes (.vcx k d a b) fun s => s.landPlain 4 d (s.cxStage a b false)) ∧
  (∀ k d a b, Completes (.vcxD k d a b) fun s => s.landPlain 4 d (s.cxStage a b true)) ∧
  (∀ k d a b, Completes (.vmrg k d a b) fun s => s.landPlain 4 d (s.mergeStage a b false)) ∧
  (∀ k d a b, Completes (.vmrgD k d a b) fun s => s.landPlain 4 d (s.mergeStage a b true)) ∧
  (∀ k d a b, Completes (.vdraw k d a b) fun s => s.landLanes 5 d (lanes2 (fun _ x y => ((s.laneDraw x y).toNat % 2 ^ 32, 0)) (s.readLanes a) (s.readLanes b))) ∧
  (∀ k d a b, Completes (.vdrawF k d a b) fun s => s.landLanes 5 d (lanes2 (fun _ x y => (unitFloat (s.laneDraw x y), 0)) (s.readLanes a) (s.readLanes b))) ∧
  (∀ k d a, Completes (.vexp2 k d a) fun s => s.vec1 8 d a 0 fun _ _ x => round32 (exp2FV (f32 x)) 0 0) ∧
  (∀ k d a, Completes (.vrcp k d a) fun s => s.vec1 8 d a 0 fun _ _ x => round32 (rcpFV (f32 x)) 0 0) ∧
  (∀ k d a, Completes (.vrsqrt k d a) fun s => s.vec1 8 d a 0 fun _ _ x => round32 (rsqrtFV (f32 x)) 0 0) ∧
  (∀ k d a, Completes (.vlog2 k d a) fun s => s.vec1 8 d a 0 fun _ _ x => round32 (log2FV (f32 x)) 0 0)

/-- For each of MLDW, MLDW_S, MMA, MMA_FWD, MMA_SAT, MMA_FWD_SAT, MRD, MCLR: in every state in which the op may issue (class, place, registers, its own checks, port fields and freeze causes all let it, and no watchpoint covers it), or in which the checks of its bundle have been made, exec answers the next state that performs the effect written for it. (R310, R312, R317, R318.) -/
def Obligations.MatrixOpsComplete : Prop :=
  (∀ w a b f, Completes (.mldw w a b f) fun s => s.queueWeights w a b f false) ∧
  (∀ w a b f, Completes (.mldwS w a b f) fun s => s.queueWeights w a b f true) ∧
  (∀ y d t w f, Completes (.mma y d t w f) fun s => s.multiply y d t w f false false) ∧
  (∀ y d t w f, Completes (.mmaFwd y d t w f) fun s => s.multiply y d t w f true false) ∧
  (∀ y d t w f, Completes (.mmaSat y d t w f) fun s => s.multiply y d t w f false true) ∧
  (∀ y d t w f, Completes (.mmaFwdSat y d t w f) fun s => s.multiply y d t w f true true) ∧
  (∀ d a h r, Completes (.mrd d a h r) fun s =>
    s.landV 4 d (BitVec.ofNat 2048 (bits (vget s.core.acc a.toNat 0).toNat (4096 * r.toNat + 2048 * h.toNat) 2048))) ∧
  (∀ a, Completes (.mclr a) fun s => s.emit 1 (.acc a.toNat 0))

/-- For each of GLDB, GLDBU, GLDH, GLDHU, GLDW, GLDWU, GLD, GSTB, GSTH, GSTW, GST: in every state in which the op may issue (class, place, registers, its own checks, port fields and freeze causes all let it, and no watchpoint covers it), or in which the checks of its bundle have been made, exec answers the next state that performs the effect written for it. An op that translates an address does so where the core's TLBs hold the page with the right to the access. (R191.) -/
def Obligations.PawnLoadsStoresComplete : Prop :=
  (∀ k d a o, CompletesAt (.gldb k d a o) (fun s => s.ea a o 1) 0 (fun _ _ => none) fun s =>
    s.gSend (.load 1 true none) (s.dstS d) .discard (s.ea a o 1)) ∧
  (∀ k d a o, CompletesAt (.gldbu k d a o) (fun s => s.ea a o 1) 0 (fun _ _ => none) fun s =>
    s.gSend (.load 1 false none) (s.dstS d) .discard (s.ea a o 1)) ∧
  (∀ k d a o, CompletesAt (.gldh k d a o) (fun s => s.ea a o 2) 0 (fun _ _ => none) fun s =>
    s.gSend (.load 2 true none) (s.dstS d) .discard (s.ea a o 2)) ∧
  (∀ k d a o, CompletesAt (.gldhu k d a o) (fun s => s.ea a o 2) 0 (fun _ _ => none) fun s =>
    s.gSend (.load 2 false none) (s.dstS d) .discard (s.ea a o 2)) ∧
  (∀ k d a o, CompletesAt (.gldw k d a o) (fun s => s.ea a o 4) 0 (fun _ _ => none) fun s =>
    s.gSend (.load 4 true none) (s.dstS d) .discard (s.ea a o 4)) ∧
  (∀ k d a o, CompletesAt (.gldwu k d a o) (fun s => s.ea a o 4) 0 (fun _ _ => none) fun s =>
    s.gSend (.load 4 false none) (s.dstS d) .discard (s.ea a o 4)) ∧
  (∀ k d a o, CompletesAt (.gld k d a o) (fun s => s.ea a o 8) 0 (fun _ _ => none) fun s =>
    s.gSend (.load 8 false none) (s.dstS d) .discard (s.ea a o 8)) ∧
  (∀ k d a o, CompletesAt (.gstb k d a o) (fun s => s.ea a o 1) 1 (fun _ _ => none) fun s =>
    s.gSend (.store 1 none (s.readS d)) .discard .discard (s.ea a o 1)) ∧
  (∀ k d a o, CompletesAt (.gsth k d a o) (fun s => s.ea a o 2) 1 (fun _ _ => none) fun s =>
    s.gSend (.store 2 none (s.readS d)) .discard .discard (s.ea a o 2)) ∧
  (∀ k d a o, CompletesAt (.gstw k d a o) (fun s => s.ea a o 4) 1 (fun _ _ => none) fun s =>
    s.gSend (.store 4 none (s.readS d)) .discard .discard (s.ea a o 4)) ∧
  (∀ k d a o, CompletesAt (.gst k d a o) (fun s => s.ea a o 8) 1 (fun _ _ => none) fun s =>
    s.gSend (.store 8 none (s.readS d)) .discard .discard (s.ea a o 8))

/-- For each of GAADD, GASWAP, GACAS, GAMIN, GAMAX, GAMINU, GAMAXU, GAAND, GAOR, GAXOR, GAFADD, LDACQ, STREL, SCADD, SCSWAP, SCCAS, SCLD, SCST: in every state in which the op may issue (class, place, registers, its own checks, port fields and freeze causes all let it, and no watchpoint covers it), or in which the checks of its bundle have been made, exec answers the next state that performs the effect written for it. An op that translates an address does so where the core's TLBs hold the page with the right to the access. (R192, R195, R196.) -/
def Obligations.PawnAtomicsComplete : Prop :=
  (∀ k d a b w, CompletesAt (.gaadd k d a b w) (fun s => s.readS a) 2 (fun _ _ => none) fun s =>
    s.gSend (.atomic 0 (gaSize w) (s.readS b) (s.readS d)) (s.dstS d) .discard (s.readS a)) ∧
  (∀ k d a b w, CompletesAt (.gaswap k d a b w) (fun s => s.readS a) 2 (fun _ _ => none) fun s =>
    s.gSend (.atomic 1 (gaSize w) (s.readS b) (s.readS d)) (s.dstS d) .discard (s.readS a)) ∧
  (∀ k d a b w, CompletesAt (.gacas k d a b w) (fun s => s.readS a) 2 (fun _ _ => none) fun s =>
    s.gSend (.atomic 2 (gaSize w) (s.readS b) (s.readS d)) (s.dstS d) .discard (s.readS a)) ∧
  (∀ k d a b w, CompletesAt (.gamin k d a b w) (fun s => s.readS a) 2 (fun _ _ => none) fun s =>
    s.gSend (.atomic 3 (gaSize w) (s.readS b) (s.readS d)) (s.dstS d) .discard (s.readS a)) ∧
  (∀ k d a b w, CompletesAt (.gamax k d a b w) (fun s => s.readS a) 2 (fun _ _ => none) fun s =>
    s.gSend (.atomic 4 (gaSize w) (s.readS b) (s.readS d)) (s.dstS d) .discard (s.readS a)) ∧
  (∀ k d a b w, CompletesAt (.gaminu k d a b w) (fun s => s.readS a) 2 (fun _ _ => none) fun s =>
    s.gSend (.atomic 5 (gaSize w) (s.readS b) (s.readS d)) (s.dstS d) .discard (s.readS a)) ∧
  (∀ k d a b w, CompletesAt (.gamaxu k d a b w) (fun s => s.readS a) 2 (fun _ _ => none) fun s =>
    s.gSend (.atomic 6 (gaSize w) (s.readS b) (s.readS d)) (s.dstS d) .discard (s.readS a)) ∧
  (∀ k d a b w, CompletesAt (.gaand k d a b w) (fun s => s.readS a) 2 (fun _ _ => none) fun s =>
    s.gSend (.atomic 7 (gaSize w) (s.readS b) (s.readS d)) (s.dstS d) .discard (s.readS a)) ∧
  (∀ k d a b w, CompletesAt (.gaor k d a b w) (fun s => s.readS a) 2 (fun _ _ => none) fun s =>
    s.gSend (.atomic 8 (gaSize w) (s.readS b) (s.readS d)) (s.dstS d) .discard (s.readS a)) ∧
  (∀ k d a b w, CompletesAt (.gaxor k d a b w) (fun s => s.readS a) 2 (fun _ _ => none) fun s =>
    s.gSend (.atomic 9 (gaSize w) (s.readS b) (s.readS d)) (s.dstS d) .discard (s.readS a)) ∧
  (∀ k d a b, CompletesAt (.gafadd k d a b) (fun s => s.readS a) 2 (fun _ _ => none) fun s =>
    s.gSend (.atomic 10 4 (s.readS b) (s.readS d)) (s.dstS d) .discard (s.readS a)) ∧
  (∀ k d a w sc, CompletesAt (.ldacq k d a w sc) (fun s => s.readS a) 0 (fun _ _ => none) fun s =>
    s.gSend (.load (gaSize w) false (some sc.toNat)) (s.dstS d) .discard (s.readS a)) ∧
  (∀ k d a w sc, CompletesAt (.strel k d a w sc) (fun s => s.readS a) 1 (fun _ _ => none) fun s =>
    s.gSend (.store (gaSize w) (some sc.toNat) (s.readS d)) .discard .discard (s.readS a)) ∧
  (∀ k d a b, CompletesAt (.scadd k d a b) (fun s => s.readS a) 2 (fun _ _ => none) fun s =>
    s.scSend 0 (s.readS b) 0 (s.dstS d) a) ∧
  (∀ k d a b, CompletesAt (.scswap k d a b) (fun s => s.readS a) 2 (fun _ _ => none) fun s =>
    s.scSend 1 (s.readS b) 0 (s.dstS d) a) ∧
  (∀ k d a b, CompletesAt (.sccas k d a b) (fun s => s.readS a) 2 (fun _ _ => none) fun s =>
    s.scSend 2 (s.readS b) (s.readS d) (s.dstS d) a) ∧
  (∀ k d a, CompletesAt (.scld k d a) (fun s => s.readS a) 2 (fun _ _ => none) fun s =>
    s.scSend 3 0 0 (s.dstS d) a) ∧
  (∀ k d a, CompletesAt (.scst k d a) (fun s => s.readS a) 2 (fun _ _ => none) fun s =>
    s.scSend 4 (s.readS d) 0 .discard a)

/-- For each of MONARM, MONARM_LM, MONWAIT, MONCLR, MBPUT, MBGET, RINGPUT, RINGGET, CALLAT, TWAIT, RQCLM: in every state in which the op may issue (class, place, registers, its own checks, port fields and freeze causes all let it, and no watchpoint covers it), or in which the checks of its bundle have been made, exec answers the next state that performs the effect written for it. An op that translates an address does so where the core's TLBs hold the page with the right to the access. That monclr keeps the LOCAL bit of its monitor is the model's choice, log 73. (R198, R200, R202, R203, R206, R207, R209, R210, R211.) -/
def Obligations.MessagesComplete : Prop :=
  (∀ k n a, CompletesAt (.monarm k n a) (fun s => s.readS a) 3 (fun s e => s.lineTrap n.toNat a e) fun s =>
    (s.setMonitor s.threadNo n.toNat ⟨true, false, false, s.ctx.pa / 64, false⟩).gSend (.monarm n.toNat) .discard .discard (s.readS a)) ∧
  (∀ k n a, Completes (.monarmLm k n a) fun s => s.setMonitor s.threadNo n.toNat ⟨true, false, true, s.key (s.readS a) / 64, true⟩) ∧
  (∀ k d b, Completes (.monwait k d b) fun s =>
    let n := (s.readS b).toNat % 2 ^ 32
    s.updPawn s.threadNo fun p => { p with status := .monWait (s.dstS d) (if n = 0 then none else some n) k }) ∧
  (∀ k n, Completes (.monclr k n) fun s =>
    s.updPawn s.threadNo fun p =>
      let off := fun (m : Monitor) => { m with armed := false, hit := false }
      { p with mon := if n.toNat < 4 then vset p.mon n.toNat (off (p.monitor n.toNat)) else vmap off p.mon }) ∧
  (∀ k d a b, Completes (.mbput k d a b) fun s =>
    s.gSend (.mbput (s.targetIdx (s.readS a)) (bits (s.readS a).toNat 0 4) (s.readS d)) .discard (.b b.toNat) (s.readS a)) ∧
  (∀ k d, Completes (.mbget k d) fun s =>
    let t := s.threadNo
    if (s.pawn t).mboxFull then s.mailTake t (s.dstS d)
    else s.updPawn t fun p => { p with status := .mailWait (s.dstS d) k }) ∧
  (∀ k d a b, Completes (.ringput k d a b) fun s =>
    let w := (s.readS d).toNat
    let s := s.touch [bits w 0 21] (bits w 32 16) false
    s.gSend (.ringput ((s.ringKey true (s.readS a)).getD 0) (s.core.lmBase + bits w 0 21) (bits w 32 16)) .discard (.b b.toNat) (s.readS a)) ∧
  (∀ k d a b, Completes (.ringget k d a b) fun s =>
    let w := (s.readS d).toNat
    let s := s.touch [bits w 0 21] (bits w 32 16) false
    s.gSend (.ringget ((s.ringKey false (s.readS a)).getD 0) (s.core.lmBase + bits w 0 21) (bits w 32 16)) (s.dstS d) (.b b.toNat) (s.readS a)) ∧
  (∀ k d a b, Completes (.callat k d a b) fun s =>
    let x := s.readS a
    s.gSend (.callat (s.targetIdx x) ((BitVec.ofNat 21 (lmOffset x))) (bit x.toNat 31) [s.readS b, s.readS (b + 1), s.readS (b + 2)])
      .discard (.b d.toNat) x) ∧
  (∀ k, Completes (.twait k) fun s =>
    s.updPawn s.threadNo fun p => { p with status := .taskWait s.core.barrelCycle k }) ∧
  (∀ k d b, Completes (.rqclm k d b) fun s => s.gSend .rqclm (s.dstS d) (.b b.toNat) 0)

/-- Landings, grants, replies, loaders and other steps of the core take place where their conditions hold. These clauses rest on the model's choices: the depth of the other core's queue and the number of tasks moved by LOAD_LEVELLING are free (log 60, log 5), PAWN_LM_GRANT gives one word a bank in a tick and writes whole with the last (log 66), the loaders move their rows and granules as log 50 says, MOVE_ORDER_VISIT keeps a chunk as log 19 and log 72 say, and a landing entry that cannot be read is struck (log 59). (R56, R65, R68, R74, R88, R133, R134, R150, R155, R223, R310, R336.) -/
def Obligations.CoreStepsComplete : Prop :=
  (∀ s : State, s.ctx.agent = .primary → exec .resultLanding s = .next s.landPrimary) ∧
  (∀ (s : State) (t : Nat), s.ctx.agent = .pawn t → exec .resultLanding s = .next (s.landPawn t)) ∧
  (∀ (s : State) (t : Nat), (s.pawn t).status = .switching → s.pawnQuiet t = true → exec (.pawnSwitchRejoin t) s = .next (s.rejoin t)) ∧
  (∀ (s : State) (t scope : Nat), (s.pawn t).status = .fencing scope → s.pawnQuiet t = true → exec (.pawnSwitchRejoin t) s = .next ((s.fenceActions scope).rejoin t)) ∧
  (∀ (s : State) (t : Nat), (s.pawn t).status = .exiting → s.pawnQuiet t = true → exec (.pawnSwitchRejoin t) s = .next (s.updPawn t fun p => { p with status := .exited })) ∧
  (∀ (s : State) (t : Nat), (s.pawn t).status = .waking → exec (.pawnSwitchRejoin t) s = .next (s.updPawn t fun p => { p with status := .running })) ∧
  (∀ (s : State) (t : Nat) (w : Waiting) (rest : List Waiting), (s.pawn t).waiting = w :: rest → s.mayAccess t w = true → let left := w.acc.words.filter fun x => x ∉ w.got.map fun g => g.1; (onePerBank left).all s.wordFree = true → left.length ≤ (onePerBank left).length → exec (.pawnLmGrant t) s = .next (((s.takeWords (onePerBank left)).updPawn t fun p => { p with waiting := rest }).performAccess t (if w.got = [] then w else { w with acc := w.acc.within left }))) ∧
  (∀ (s : State) (t : Nat) (w : Waiting) (rest : List Waiting), (s.pawn t).waiting = w :: rest → s.mayAccess t w = true → let left := w.acc.words.filter fun x => x ∉ w.got.map fun g => g.1; (onePerBank left).all s.wordFree = true → (onePerBank left).length < left.length → exec (.pawnLmGrant t) s = .next ((s.takeWords (onePerBank left)).partAccess t w (onePerBank left))) ∧
  (∀ (s : State) (t n e : Nat) (w : List Word64) (rest : List (Nat × Nat × List Word64)), (s.pawn t).pushes = (n, e, w) :: rest → s.pushFirst n e = true → s.room e true w (s.readIndex s.lm w) = true → exec (.pawnPushRetry t) s = .next ((s.updPawn t fun p => { p with pushes := rest }).submit e (some t) 0 w)) ∧
  (∀ (s : State) (r : Remote), (s.core.remotes.find? fun r => decide (r.agent = s.ctx.agent) && !r.write && s.remoteReady r) = some r → exec .remoteLoadReply s = .next (s.remoteLoad r)) ∧
  (∀ (s : State) (r : Remote), (s.core.remotes.find? fun r => decide (r.agent = s.ctx.agent) && r.write && s.remoteReady r) = some r → exec .remoteStorePerformed s = .next (s.remoteStore r)) ∧
  (∀ (s : State) (r : Remote), (s.core.remotes.find? fun r => r.write && r.performed) = some r → exec .remoteStoreAck s = .next (s.updCore fun c => { c with remotes := c.remotes.filter fun q => q.id ≠ r.id })) ∧
  (∀ (s : State) (j : TileJob), s.tileReady = some j → exec .tileLoaderRow s = .next (s.moveRow j)) ∧
  (∀ (s : State) (j : WJob), s.weightReady = some j → exec .weightLoaderGranule s = .next (s.moveGranule j)) ∧
  (∀ s : State, exec .watchdogExpiry s = .next (s.request 0x1CF 0)) ∧
  (∀ s : State, s.partDone = true → exec .corePartComplete s = .next (s.updCore fun c => { c with cfg := { c.cfg with running := false } })) ∧
  (∀ (s : State) (vec : Bool) (port : Nat) (v : VecWord) (n : Nat) (far : Bool), port < 4 → exec (.portDeposit vec port v n far) s = .next (s.updPrim fun p => p.deposit vec port v far)) ∧
  (∀ s : State, s.core.cfg.running = true → s.core.cfg.det = false → s.feature 6 = true → s.core.cfg.cycle % 1024 = 0 → let n := Config.freeChoice s.free % 65; exec .loadLevelling s = .next (if n + 8 ≤ s.core.tasks.length then (s.updCore fun k => { k with tasks := levelSplit (Config.freeChoice (s.free + 1) % 65) k.tasks }).bumpFree.bumpFree else s.bumpFree.bumpFree)) ∧
  (∀ (s : State) (t : Nat), s.movesRun = true → s.core.moveNext = t → s.core.commitOp = none → s.core.moveOpen = false → (s.pawn t).status ≠ .absent → (s.pawn t).status ≠ .exited → (s.pawn t).chunk.full = false → (s.pawn t).quiet = true → s.moveWaits t = false → (s.pawn t).chunk.ended = true → exec (.moveOrderVisit t) s = .next (if (s.pawn t).chunk.stale then s.squash t else s.commitChunk t))

/-- For each of TRAP_ENTRY, PAWN_TRAP_ENTRY, BREAKPOINT_HIT, WATCHPOINT_HIT, PAWN_FETCH: where the condition of the step holds, exec answers the next state that the step's entry gives. (R147, R391, R395, R396, R422.) -/
def Obligations.TrapEventsComplete : Prop :=
  (∀ (s : State) (r : TrapRec), s.primEvent (decide (r.code.toNat / 8 = 0x13)) = some r → exec (.trapEntry r.code) s = .next ((s.clearEvent (decide (r.code.toNat / 8 = 0x13))).enterTrap r)) ∧
  (∀ (s : State) (t : Nat) (r : TrapRec) (resume : Word64), t < 16 → (s.pawn t).status = .trapping r resume → s.pawnQuiet t = true → exec (.pawnTrapEntry t) s = .next ((s.updPawn t fun p => { p with th := p.th.enter r resume none, pc := p.th.tvec.setWidth 64, buf := [], status := .running }).traceTrap (some t) ((s.pawn t).th.enter r resume none))) ∧
  (∀ (s : State) (n : Nat), s.dbgRoute = true → exec (.breakpointHit n) s = .next (s.enterTrap ⟨0x1E7, s.prim.pc, 0, 15⟩)) ∧
  (∀ (s : State) (n : Nat), s.dbgRoute = false → exec (.breakpointHit n) s = .next (s.debugHalt 1 n false 0 s.prim.pc.toNat)) ∧
  (∀ (s : State) (n t addr : Nat), s.dbgRoute = false → exec (.watchpointHit n false t addr) s = .next (s.debugHalt 2 n false 0 addr)) ∧
  (∀ (s : State) (n t addr : Nat), s.dbgRoute = true → exec (.watchpointHit n true t addr) s = .next (s.pawnTrap t ⟨0x1E6, (s.pawn t).pc, 0, 15⟩ (s.pawn t).pc)) ∧
  (∀ (s : State) (n t addr : Nat), s.dbgRoute = true → s.ctx.agent = .primary → exec (.watchpointHit n false t addr) s = .next (s.primTrap (s.trapAt (0x1E0 + s.unit) s.prim.pc 0))) ∧
  (∀ (s : State) (n addr : Nat), s.dbgRoute = true → s.watchStop n addr = s.trap (s.trapAt (0x1E0 + s.unit) s.ctx.pc 0)) ∧
  (∀ (s : State) (n t addr : Nat), s.dbgRoute = false → exec (.watchpointHit n true t addr) s = .next ((s.debugHalt 2 n true t addr).updPawn t fun p => { p with status := .halted })) ∧
  (∀ (s : State) (t : Nat), (s.pawn t).wantsFetch = true → s.barrelHalted = false → s.core.barrelCycle = 0 ∨ (bankWords (s.fetchKeys t) 4).all s.wordFree = true → t < 16 → ∃ u, exec (.pawnFetch t) s = .next u ∧ (u.pawn t).buf = (List.range (fetchCount (decide ((s.pawn t).th.mode = 0)) (s.pawn t).pc.toNat)).map fun i => BitVec.ofNat 32 (memRead (s.chunkLm t) (s.core.lmBase + (s.pawn t).pc.toNat + 4 * i) 4))

/-- For each of COPY, COPY2D, SPLIT, GATHER, SCATTER, FILL, WPSET, ALL_REDUCE, REDUCE_SCATTER, ALL_GATHER, BROADCAST, ENGINE_COMMAND_COMPLETION, COMPLETION_RECORD_PUSH, COLLECTIVE_INCOMPLETE_REPLY, QUEUE_COPY, QUEUE_COLLECTIVE: where the condition of the step holds, exec answers the next state that the step's entry gives. The model's choices in these clauses: a started command takes no entry of the command side (log 37), which strides and ranges are malformed (log 38), the elements of other packages are free values (log 39), which write pointer a channel drives (log 40), and how fault records are numbered (log 55). (R175, R176, R181, R182, R185.) -/
def Obligations.EngineStepsComplete : Prop :=
  (∀ (s : State) (ch : Nat) (c : EngCmd), ch < 2 → s.headCmd ch = some c → cmdOp c.words = 0 → s.mayStart ch c = true → exec (.copy ch) s = .next (s.startCmd ch c)) ∧
  (∀ (s : State) (ch : Nat) (c : EngCmd), ch < 2 → s.headCmd ch = some c → cmdOp c.words = 0 → s.mayStart ch c = false → c.running = true → exec (.copy ch) s = .next (s.moveWord ch c)) ∧
  (∀ (s : State) (ch : Nat) (c : EngCmd), ch < 2 → s.headCmd ch = some c → cmdOp c.words = 1 → s.mayStart ch c = true → exec (.copy2d ch) s = .next (s.startCmd ch c)) ∧
  (∀ (s : State) (ch : Nat) (c : EngCmd), ch < 2 → s.headCmd ch = some c → cmdOp c.words = 1 → s.mayStart ch c = false → c.running = true → exec (.copy2d ch) s = .next (s.moveWord ch c)) ∧
  (∀ (s : State) (ch : Nat) (c : EngCmd), ch < 2 → s.headCmd ch = some c → cmdOp c.words = 2 → s.mayStart ch c = true → exec (.split ch) s = .next (s.startCmd ch c)) ∧
  (∀ (s : State) (ch : Nat) (c : EngCmd), ch < 2 → s.headCmd ch = some c → cmdOp c.words = 2 → s.mayStart ch c = false → c.running = true → exec (.split ch) s = .next (s.moveWord ch c)) ∧
  (∀ (s : State) (ch : Nat) (c : EngCmd), ch < 2 → s.headCmd ch = some c → cmdOp c.words = 3 → s.mayStart ch c = true → exec (.gather ch) s = .next (s.startCmd ch c)) ∧
  (∀ (s : State) (ch : Nat) (c : EngCmd), ch < 2 → s.headCmd ch = some c → cmdOp c.words = 3 → s.mayStart ch c = false → c.running = true → exec (.gather ch) s = .next (s.moveWord ch c)) ∧
  (∀ (s : State) (ch : Nat) (c : EngCmd), ch < 2 → s.headCmd ch = some c → cmdOp c.words = 4 → s.mayStart ch c = true → exec (.scatter ch) s = .next (s.startCmd ch c)) ∧
  (∀ (s : State) (ch : Nat) (c : EngCmd), ch < 2 → s.headCmd ch = some c → cmdOp c.words = 4 → s.mayStart ch c = false → c.running = true → exec (.scatter ch) s = .next (s.moveWord ch c)) ∧
  (∀ (s : State) (ch : Nat) (c : EngCmd), ch < 2 → s.headCmd ch = some c → cmdOp c.words = 5 → s.mayStart ch c = true → exec (.fill ch) s = .next (s.startCmd ch c)) ∧
  (∀ (s : State) (ch : Nat) (c : EngCmd), ch < 2 → s.headCmd ch = some c → cmdOp c.words = 5 → s.mayStart ch c = false → c.running = true → exec (.fill ch) s = .next (s.moveWord ch c)) ∧
  (∀ (s : State) (ch : Nat) (c : EngCmd), ch < 2 → s.headCmd ch = some c → cmdOp c.words = 6 → s.mayStart ch c = true → exec (.wpset ch) s = .next (s.startCmd ch c)) ∧
  (∀ (s : State) (ch : Nat) (c : EngCmd), ch < 2 → s.headCmd ch = some c → cmdOp c.words = 6 → s.mayStart ch c = false → c.running = true → exec (.wpset ch) s = .next (s.moveWord ch c)) ∧
  (∀ (s : State) (c : EngCmd), s.colKept = none → s.headCmd 2 = some c → cmdOp c.words = 0 → s.mayStart 2 c = true → s.colJob = none → s.anyStruck (cmdLocs c.id) = false → c.status = none → c.idx ≠ [] → s.seqFresh c.idx (wd c.words 5) = true → exec .allReduce s = .next (let x := (s.acceptSeq c.idx (wd c.words 5)).beginCol s.core.cfg.die c; x.1.setHead 2 x.2)) ∧
  (∀ (s u : State) (c d : EngCmd), s.colKept = none → s.headCmd 2 = some c → cmdOp c.words = 0 → s.mayStart 2 c = false → c.started = true → c.status = none → s.sendChunk c = some (u, d) → exec .allReduce s = .next (u.setHead 2 d)) ∧
  (∀ (s : State) (c : EngCmd), s.colKept = none → s.headCmd 2 = some c → cmdOp c.words = 0 → s.mayStart 2 c = false → c.started = true → c.status = none → s.sendChunk c = none → s.colCheck c = none → let n := colDst c.words c.idx.length * colSize c.words; let x := s.stageRun c (wd c.words 3) n; exec .allReduce s = .next (if x.2 then (x.1.runCollective c).setHead 2 { c with bytes := n, status := some 0 } else x.1.setHead 2 c)) ∧
  (∀ (s : State) (c : EngCmd), s.colKept = none → s.headCmd 2 = some c → cmdOp c.words = 1 → s.mayStart 2 c = true → s.colJob = none → s.anyStruck (cmdLocs c.id) = false → c.status = none → c.idx ≠ [] → s.seqFresh c.idx (wd c.words 5) = true → exec .reduceScatter s = .next (let x := (s.acceptSeq c.idx (wd c.words 5)).beginCol s.core.cfg.die c; x.1.setHead 2 x.2)) ∧
  (∀ (s u : State) (c d : EngCmd), s.colKept = none → s.headCmd 2 = some c → cmdOp c.words = 1 → s.mayStart 2 c = false → c.started = true → c.status = none → s.sendChunk c = some (u, d) → exec .reduceScatter s = .next (u.setHead 2 d)) ∧
  (∀ (s : State) (c : EngCmd), s.colKept = none → s.headCmd 2 = some c → cmdOp c.words = 1 → s.mayStart 2 c = false → c.started = true → c.status = none → s.sendChunk c = none → s.colCheck c = none → let n := colDst c.words c.idx.length * colSize c.words; let x := s.stageRun c (wd c.words 3) n; exec .reduceScatter s = .next (if x.2 then (x.1.runCollective c).setHead 2 { c with bytes := n, status := some 0 } else x.1.setHead 2 c)) ∧
  (∀ (s : State) (c : EngCmd), s.colKept = none → s.headCmd 2 = some c → cmdOp c.words = 2 → s.mayStart 2 c = true → s.colJob = none → s.anyStruck (cmdLocs c.id) = false → c.status = none → c.idx ≠ [] → s.seqFresh c.idx (wd c.words 5) = true → exec .allGather s = .next (let x := (s.acceptSeq c.idx (wd c.words 5)).beginCol s.core.cfg.die c; x.1.setHead 2 x.2)) ∧
  (∀ (s u : State) (c d : EngCmd), s.colKept = none → s.headCmd 2 = some c → cmdOp c.words = 2 → s.mayStart 2 c = false → c.started = true → c.status = none → s.sendChunk c = some (u, d) → exec .allGather s = .next (u.setHead 2 d)) ∧
  (∀ (s : State) (c : EngCmd), s.colKept = none → s.headCmd 2 = some c → cmdOp c.words = 2 → s.mayStart 2 c = false → c.started = true → c.status = none → s.sendChunk c = none → s.colCheck c = none → let n := colDst c.words c.idx.length * colSize c.words; let x := s.stageRun c (wd c.words 3) n; exec .allGather s = .next (if x.2 then (x.1.runCollective c).setHead 2 { c with bytes := n, status := some 0 } else x.1.setHead 2 c)) ∧
  (∀ (s : State) (c : EngCmd), s.colKept = none → s.headCmd 2 = some c → cmdOp c.words = 3 → s.mayStart 2 c = true → s.colJob = none → s.anyStruck (cmdLocs c.id) = false → c.status = none → c.idx ≠ [] → s.seqFresh c.idx (wd c.words 5) = true → exec .broadcast s = .next (let x := (s.acceptSeq c.idx (wd c.words 5)).beginCol s.core.cfg.die c; x.1.setHead 2 x.2)) ∧
  (∀ (s u : State) (c d : EngCmd), s.colKept = none → s.headCmd 2 = some c → cmdOp c.words = 3 → s.mayStart 2 c = false → c.started = true → c.status = none → s.sendChunk c = some (u, d) → exec .broadcast s = .next (u.setHead 2 d)) ∧
  (∀ (s : State) (c : EngCmd), s.colKept = none → s.headCmd 2 = some c → cmdOp c.words = 3 → s.mayStart 2 c = false → c.started = true → c.status = none → s.sendChunk c = none → s.colCheck c = none → let n := colDst c.words c.idx.length * colSize c.words; let x := s.stageRun c (wd c.words 3) n; exec .broadcast s = .next (if x.2 then (x.1.runCollective c).setHead 2 { c with bytes := n, status := some 0 } else x.1.setHead 2 c)) ∧
  (∀ (s : State) (ch : Nat) (c : EngCmd), s.doneCmd ch = some c → c.status = some 0 → ∃ u v w, exec (.engineCommandCompletion ch) s = .next u ∧ w = (s.agentStrike (c.pages.map fun p => .pin (pinKey s.core.cfg.die (p.2.2 / 65536)))).updCore (fun k => { k with locks := k.locks.filter fun l => l.cmd ≠ c.id }) ∧ v = ((((w.unpinAll w.core.cfg.die c).finalWptr ch c).updEngine ch fun q => { q with cmds := q.cmds.filter fun x => x.id ≠ c.id }).traceEngine 6 c.byPawn (cmdTag c.words) (cmdOp c.words) ch 0) ∧ u = if cmdRec c.words then v.updEngine ch fun q => q.complete c.byPawn.isSome (recordOf c 0 0 c.bytes false) ch else v) ∧
  (∀ (s : State) (ch : Nat) (pawn : Bool) (v : Word64), (s.engineQ ch).pushable ch = some (pawn, v) → exec (.completionRecordPush ch) s = .next (s.updEngine ch fun q => ({ q with blocked := q.blocked.erase (pawn, v) } : EngQueue).setRecs pawn (q.recs pawn ++ [v]))) ∧
  (∀ (s : State) (m : BitVec 512) (c : EngCmd), s.colKept = none → s.headCmd 2 = some c → s.colJob = none → c.streaming = true → exec (.collectiveIncompleteReply m) s = .next ((s.endStreams c).setHead 2 c.incomplete)) ∧
  (∀ (s : State) (m : BitVec 512) (c : EngCmd), s.colKept = none → s.headCmd 2 = some c → s.colJob = none → c.streaming = false → exec (.collectiveIncompleteReply m) s = .next s) ∧
  (∀ (s : State) (n : Nat) (j : Job) (c : EngCmd), s.job n = some j → j.todo = [] → j.kind = 2 → j.phase = .running → j.cmd = some c → exec (.queueCopy n) s = .next (s.jobWord j c)) ∧
  (∀ (s : State) (n : Nat) (j : Job) (c : EngCmd), s.job n = some j → j.todo = [] → j.kind = 3 → j.phase = .running → j.cmd = some c → c.status = none → s.sendChunk c = none → s.colCheck c = none → let x := s.stageRun c (wd c.words 3) (colDst c.words c.idx.length * colSize c.words); exec (.queueCollective n) s = .next (if x.2 then ((x.1.runCollective c).unpinJob j).updJob j.id fun j => { j with phase := .ending, cmd := none } else x.1)) ∧
  (∀ (s u : State) (n : Nat) (j : Job) (c d : EngCmd), s.job n = some j → j.todo = [] → j.kind = 3 → j.phase = .running → j.cmd = some c → c.status = none → s.sendChunk c = some (u, d) → exec (.queueCollective n) s = .next (u.updJob j.id fun j => { j with cmd := some d }))

/-- For each of DOORBELL, LAUNCH, LAUNCH_PLACEMENT, LAUNCH_COMPLETION, HOST_NOTIFICATION, EVENT_WAIT, EVENT_WAIT_RECHECK, CONDITIONAL, RUN_GRAPH, GRAPH_NODE_START, GRAPH_NODE_COMPLETION, HOST_RING_TIME_EXPIRY, HRPTR_WRITE, FEATLOCK_WRITE: where the condition of the step holds, exec answers the next state that the step's entry gives. The model's choices in these clauses: the first launch number of a context is 1 (log 12), what FEATLOCK keeps and what waits for it (log 13), kinds that are not assigned (log 14), lengths of a graph (log 15), and bad words of a command (log 16). (R114, R116, R118, R121, R122, R123, R124, R125, R126, R136.) -/
def Obligations.CommandStepsComplete : Prop :=
  (∀ (s : State) (slot q cx : Nat) (v : Word32), s.slotCtx slot = some cx → q < 64 → s.pmBad (s.descAt cx q) 64 = false → subMod 32 v.toNat (s.readDesc cx q).head ≤ 2 ^ (s.readDesc cx q).log2 → exec (.doorbell slot q v) s = .next (s.setQueue { s.readDesc cx q with tail := v.toNat, refused := false })) ∧
  (∀ (s : State) (n : Nat) (j : Job), s.job n = some j → j.atStart 1 = true → s.launchesRun = true → j.launchOk = true → s.nodeOk j = true → s.runHeld j j.hdrVa 64 0 = true → let u := s.touchRun j j.hdrVa 64 0; let h := BitVec.ofNat 512 (u.ctxRead j.cx j.hdrVa 64); u.hdrStatus h = 0 → u.placeStatus j = 0 → u.launchHeld j h = true → exec (.launch n) s = .next ((u.touchLaunch j h).updJob j.id fun k => { k with phase := .placing, hdr := h })) ∧
  (∀ (s : State) (n : Nat) (j : Job) (l : List Nat), s.job n = some j → j.phase = .placing → j.todo = [] → s.launchesRun = true → s.queueHeld j = false → 255 ∉ j.clusters → s.launchWaits j = false → s.resumeWaits j = false → s.placeStatus j = 0 → (s.beatFor j).1 = true → s.chooseClusters j (s.clusterFree j.cx) = some l → s.launchHeld j j.hdr = true → exec (.launchPlacement n) s = .next ((s.touchLaunch j j.hdr).placeAtClusters j l)) ∧
  (∀ (s : State) (n : Nat) (j : Job), s.job n = some j → j.kind = 1 → j.todo = [] → j.phase = .running → j.clusters ≠ [] → s.holdsOwn j = false → exec (.launchCompletion n) s = .next (((s.clearHalts j.clusters).updJob j.id fun _ => { j with phase := .ending, clusters := [] }).endJob { j with phase := .ending, clusters := [] } 0)) ∧
  (∀ (s : State) (n : Nat) (j : Job), s.job n = some j → j.phase = .running → j.kind = 4 → s.hrFull (j.w 1) = false → exec (.hostNotification n) s = .next ((s.hrPut (j.w 1) (j.w 2) j.cx j.queue).finishJob j 0)) ∧
  (∀ (s : State) (n : Nat) (j : Job), s.job n = some j → j.atStart 5 = true → s.recordOk j = true → s.runHeld j (j.w 1) 8 0 = true → exec (.eventWait n) s = .next ((((s.touchRun j (j.w 1) 8 0).startJob j).setPhase j .running).waitCheck j)) ∧
  (∀ (s : State) (n : Nat) (j : Job), s.job n = some j → j.phase = .running → j.kind = 5 → j.todo = [] → s.runHeld j (j.w 1) 8 0 = true → exec (.eventWaitRecheck n) s = .next ((s.touchRun j (j.w 1) 8 0).waitCheck j)) ∧
  (∀ (s : State) (n : Nat) (j : Job), s.job n = some j → j.atStart 6 = true → s.recordOk j = true → s.runHeld j (j.w 1) 8 0 = true → let u := s.touchRun j (j.w 1) 8 0; exec (.conditional n) s = .next (((u.startJob j).updJob j.id fun k => { k with chose := condHolds (k.w 3) (u.ctxRead k.cx (k.w 1) 8) (k.w 2) }).finishJob j 0)) ∧
  (∀ (s : State) (n : Nat) (j : Job), s.job n = some j → j.atStart 7 = true → s.recordOk j = true → s.runHeld j (j.w 1) (j.w 2) 0 = true → let u := s.touchRun j (j.w 1) (j.w 2) 0; exec (.runGraph n) s = .next (((u.startJob j).updJob j.id fun k => { k with phase := .running, graph := some ⟨j.w 1, j.w 2 / 64, (List.range (j.w 2 / 64)).map fun i => u.ctxRead j.cx (j.w 1 + 64 * i + 0x30) 1, List.replicate (j.w 2 / 64) 0, [], none, false⟩ }).settleGraph j.id)) ∧
  (∀ (s : State) (g n : Nat) (j : Job) (r : GraphRun), s.job g = some j → j.graph = some r → s.startable j.cx r n = true → exec (.graphNodeStart g n) s = .next ((s.updJob g fun k => { k with graph := some { r with started := n :: r.started } }).updDev fun d => { d with nextJob := d.nextJob + 1, jobs := d.jobs ++ [{ j with id := s.dev.nextJob, words := none, node := some (g, n), phase := .head, graph := none }] })) ∧
  (∀ (s : State) (n g m : Nat) (k : Job), s.job n = some k → k.node = some (g, m) → k.phase = .over 0 → exec (.graphNodeCompletion n) s = .next (((s.dropJob n).updJob g fun x => { x with graph := x.graph.map fun r => r.complete k }).settleGraph g)) ∧
  (∀ (s : State) (n g m st : Nat) (k : Job), s.job n = some k → k.node = some (g, m) → k.phase = .over st → st ≠ 0 → exec (.graphNodeCompletion n) s = .next (((s.dropJob n).updJob g fun x => { x with graph := x.graph.map fun r => { r with failed := r.failed <|> some st } }).settleGraph g)) ∧
  (∀ (s : State) (h : Nat), 0 < (assocGet s.dev.rings h (0, 0)).1 → s.hrTime h ≤ (assocGet s.dev.rings h (0, 0)).2 → exec (.hostRingTimeExpiry h) s = .next (s.hrSignal h)) ∧
  (∀ (s : State) (h : Nat) (head : Word32), h < 1024 → subMod 32 head.toNat (s.hrHead h) ≤ subMod 32 (s.hrTail h) (s.hrHead h) → exec (.hrptrWrite h head) s = .next (s.setDevReg (hrBase h + 0x10) (setBits (s.devReg (hrBase h + 0x10)) 0 32 head.toNat))) ∧
  (∀ (s : State) (v : Word32), v.getLsbD 0 = true → exec (.featlockWrite v) s = .next ((s.setDevReg 0x48 1).updDev fun d => { d with featRo := true })) ∧
  (∀ (s : State) (v : Word32), v.getLsbD 0 = false → exec (.featlockWrite v) s = .next (s.setDevReg 0x48 0))

/-- For each of PAWN_CACHE_FILL, HOME_ATOMIC, ATOMIC_REPLY, SC_WINDOW_CLOSE, MONITOR_REGISTER_ACK, MONITOR_HIT, MONWAIT_TIMEOUT, MAILBOX_DEPOSIT, ACK_LANDING, RING_OPERATION, TASK_ENTRY_ARRIVAL, ROW_CLAIM_REPLY: where the condition of the step holds, exec answers the next state that the step's entry gives. The model's choices in these clauses: RING_OPERATION takes all its banks in one tick (log 66) and reads its descriptor as log 41 says, how soon a reply may return (log 70), and the order in which task entries of one tick stand (log 4, log 60). (R132, R135, R171, R189, R193, R196, R198, R199, R200, R203, R208, R376.) -/
def Obligations.HomeStepsComplete : Prop :=
  (∀ (s : State) (t : Nat) (r : GReq) (size : Nat) (sg : Bool) (acq : Option Nat), (s.firstReq t fun r => r.kind.isLoad && decide (s.leastAge r ≤ r.age)) = some r → r.kind = .load size sg acq → exec (.pawnCacheFill t) s = .next (s.performLoad t r size sg acq)) ∧
  (∀ (s : State) (t : Nat) (r : GReq) (fn size : Nat) (v c : Word64), (s.firstReq t fun r => r.kind.isAtomic) = some r → r.kind = .atomic fn size v c → exec (.homeAtomic t) s = .next (s.performAtomic t r fn size v c)) ∧
  (∀ (s : State) (t : Nat) (r : GReq) (v : Wide) (ok : Bool), ((s.pawn t).reqs.find? fun r => (r.kind.isAtomic || r.kind.isSc) && r.done.isSome && decide (s.leastAge r ≤ r.age)) = some r → r.done = some (v, ok) → r.kind.isSc = false → exec (.atomicReply t) s = .next ((match r.left with | some (n, x, w) => s.refreshCopy r.pa n x w | none => s).landReq t r v false)) ∧
  (∀ (s : State) (t : Nat) (r : GReq) (v : Wide) (ok : Bool), ((s.pawn t).reqs.find? fun r => (r.kind.isAtomic || r.kind.isSc) && r.done.isSome && decide (s.leastAge r ≤ r.age)) = some r → r.done = some (v, ok) → r.kind.isSc = true → exec (.atomicReply t) s = .next ((match r.left with | some (n, x, w) => s.refreshCopy r.pa n x w | none => s).landReq t r v false).dropClean) ∧
  (∀ s : State, exec .scWindowClose s = .next (s.scRun s.scOps.length)) ∧
  (∀ (s : State) (t n : Nat) (r : GReq), ((s.pawn t).reqs.find? fun r => decide (r.kind = .monarm n)) = some r → ((s.pawn t).monitor n).armed = true → ((s.pawn t).monitor n).isLocal = false → ((s.pawn t).monitor n).line = r.pa / 64 → exec (.monitorRegisterAck t n) s = .next ((s.dropReq t r.id).setMonitor t n { (s.pawn t).monitor n with acked := true })) ∧
  (∀ (s : State) (line : Nat), exec (.monitorHit true line) s = .next (s.hitLocal (64 * line) 64) ∧ exec (.monitorHit false line) s = .next (s.hitGlobal line)) ∧
  (∀ (s : State) (t : Nat) (d : Dst) (marked : Bool), (s.pawn t).status = .monWait d (some 0) marked → exec (.monwaitTimeout t) s = .next (s.monComplete t d marked true)) ∧
  (∀ (s : State) (t n : Nat) (w : Word64), t < s.core.cfg.nthreads → exec (.mailboxDeposit t n w) s = .next (s.updCore fun c => { c with mailIn := c.mailIn ++ [(n, t, w)] })) ∧
  (∀ (s : State) (t : Nat) (ok : Bool) (r : GReq), ((s.pawn t).reqs.find? fun r => r.kind.isAcked && decide (r.done = some (0, ok))) = some r → exec (.ackLanding t ok) s = .next (s.landReq t r 0 ok)) ∧
  (∀ (s : State) (t : Nat) (r : GReq), (s.firstReq t fun r => r.kind.isRing) = some r → (s.ringServes r.kind).all s.wordFree = true → s.ringAhead (r.kind.ringDesc.getD 0) (ringPlace r.waited s.core.cfg.coreIdx t) = false → exec (.ringOperation t) s = .next ((s.takeWords (s.ringServes r.kind)).performRing t r)) ∧
  (∀ (s : State) (e : BitVec 21) (a b c : Word64) (n : Nat) (any : Bool), exec (.taskEntryArrival e a b c n any) s = .next (s.updCore fun k => { k with taskIn := k.taskIn ++ [(n, ⟨e, [a, b, c], n / 16, any, k.barrelCycle⟩)] })) ∧
  (∀ (s : State) (x y : Nat × Task), s.core.taskIn = [x, y] → s.core.tasks.length < 63 → (s.tasksFrom fun _ => true).core.tasks = s.core.tasks ++ (if y.1 < x.1 then [y.2, x.2] else [x.2, y.2]) ∧ (s.tasksFrom fun _ => true).core.taskIn = []) ∧
  (∀ (s : State) (x : Task), 64 ≤ s.core.tasks.length → s.addTask x = (s, false)) ∧
  (∀ (s : State) (t : Nat) (r : GReq) (v : Word64) (rest : List (Nat × Word64)), (s.firstReq t fun r => decide (r.kind = .rqclm)) = some r → takeRow s.core.cfg.cx s.die.rowq = (some v, rest) → exec (.rowClaimReply t) s = .next ((s.updDie fun d => { d with rowq := rest }).landReq t r (v.setWidth 4096) true)) ∧
  (∀ (s : State) (t : Nat) (r : GReq) (rest : List (Nat × Word64)), (s.firstReq t fun r => decide (r.kind = .rqclm)) = some r → takeRow s.core.cfg.cx s.die.rowq = (none, rest) → exec (.rowClaimReply t) s = .next (s.landReq t r 0 false))

/-- For each of TRANSLATION_WALK, FQRESP_WALK_AGAIN, FQRESP_DELIVER, TLBINV, TLBINV_FLUSH, TLBINV_COMPLETION: where the condition of the step holds, exec answers the next state that the step's entry gives. The model's choices in these clauses: how fault records are numbered (log 55), what an invalidation waits for (log 69), and which queue pointers are cached (log 47). (R178, R190, R358, R360, R361.) -/
def Obligations.TranslationStepsComplete : Prop :=
  (∀ (s : State) (w : Nat) (k : Park), w < 16 → (s.pawn w).status = .xlateWait k → k.blocked = false → k.fault = none → exec (.translationWalk w) s = .next (s.pawnWalk w k)) ∧
  (∀ (s : State) (w : Nat) (c : EngCmd), 16 ≤ w → w < 32 → s.walkCmd (w - 16) = some c → exec (.translationWalk w) s = .next (s.engineWalk (w - 16) c)) ∧
  (∀ (s : State) (w : Nat) (j : Job), 32 ≤ w → s.job (w - 32) = some j → s.jobWants j = true → exec (.translationWalk w) s = .next (s.jobWalk j)) ∧
  (∀ (s : State) (cx t kind : Nat) (id : Word32) (k : Park), s.waiter cx id = some (.pawn t k kind) → exec (.fqrespWalkAgain cx id) s = .next (s.updPawn t fun p => { p with status := .xlateWait { k with fault := none, waited := 0 } })) ∧
  (∀ (s : State) (cx ch : Nat) (id : Word32) (c : EngCmd), s.waiter cx id = some (.engine ch c) → exec (.fqrespWalkAgain cx id) s = .next (s.updCmd ch c.id fun c => { c with fault := none, waited := 0 })) ∧
  (∀ (s : State) (cx : Nat) (id : Word32) (j : Job), s.waiter cx id = some (.job j) → exec (.fqrespWalkAgain cx id) s = .next (s.updJob j.id fun j => { j with fault := none, waited := 0 })) ∧
  (∀ (s : State) (cx n t kind : Nat) (id : Word32) (k : Park), s.waiter cx id = some (.saved n t k kind) → exec (.fqrespWalkAgain cx id) s = .next (s.updSaved n fun x => x.setPark t { k with fault := none, waited := 0 })) ∧
  (∀ (s : State) (cx t kind : Nat) (id : Word32) (k : Park), s.waiter cx id = some (.pawn t k kind) → exec (.fqrespDeliver cx id) s = .next (s.parkTrap t (kindCause kind) k.va id)) ∧
  (∀ (s : State) (cx ch : Nat) (id : Word32) (c : EngCmd), s.waiter cx id = some (.engine ch c) → exec (.fqrespDeliver cx id) s = .next (s.updCmd ch c.id fun c => { c with fault := none, failed := false, todo := [], status := some 2 })) ∧
  (∀ (s : State) (cx : Nat) (id : Word32) (j : Job), s.waiter cx id = some (.job j) → exec (.fqrespDeliver cx id) s = .next (s.failJob j 2)) ∧
  (∀ (s : State) (va : Word64) (c : Word32), s.invBusy = false → exec (.tlbinv va c) s = .next ((s.setDevReg 0x320 (bits va.toNat 16 40 * 65536)).setDevReg 0x328 (setBits c.toNat 14 1 0 % 2 ^ 16 + 2 ^ 31))) ∧
  (∀ (s : State) (va : Word64) (c : Word32), s.invBusy = false → exec (.tlbinvFlush va c) s = .next ((s.setDevReg 0x320 (bits va.toNat 16 40 * 65536)).setDevReg 0x328 (setBits c.toNat 14 1 1 % 2 ^ 16 + 2 ^ 31))) ∧
  (∀ s : State, s.invBusy = true → s.invDrained = true → exec .tlbinvCompletion s = .next (((s.invalidate (s.devReg 0x320) (s.devReg 0x328)).wakeBlocked (s.devReg 0x320) (s.devReg 0x328)).setDevReg 0x328 (setBits (s.devReg 0x328) 31 1 0)))

/-- For each of BEAT_RAISE, BEAT_ARRIVAL, BEAT_OVERDUE, TICK_EXCHANGE, TICK_STAMP, HEARTBEAT, HEARTBEAT_LOSS, LINK_RETRAIN_TIMEOUT, PATROL_SCRUB, SELF_TEST_VERDICT: where the condition of the step holds, exec answers the next state that the step's entry gives. The model's choices in these clauses: free values stand for what is not given (log 5), the first stamps of a link count as within the bound (log 11), the unit of an error record of HBM (log 25), what a missed heartbeat is (log 26), whose clock State holds (log 48), and which stores an error strikes (log 59). (R130, R214, R215, R217, R221, R418.) -/
def Obligations.ClockStepsComplete : Prop :=
  (∀ s : State, s.dev.master = s.core.cfg.die → s.die.beatPeriod ≤ s.die.sinceRaised → let n := Config.freeChoice s.free % 3; exec .beatRaise s = .next (if n = 0 then (s.bumpFree.updDie fun d => { d with sinceRaised := 0, beatDue := none }).due {} .beatArrival else s.bumpFree.updDie fun d => { d with sinceRaised := 0, beatDue := some (n - 1) })) ∧
  (∀ s : State, ∃ t, exec .beatArrival s = .next t ∧ t.die.beat = s.die.beat + 1 ∧ t.die.phase = 0 ∧ t.die.beatDue = none ∧ t.die.beatPeriod = s.die.nextPeriod.getD s.die.beatPeriod ∧ t.die.nextPeriod = none) ∧
  (∀ s : State, s.die.exempt = false → s.die.beatPeriod + s.die.slack ≤ s.die.phase → exec .beatOverdue s = .next (s.enterExcursion none)) ∧
  (∀ (s : State) (l : Nat), linked s.core.cfg.die l = true → s.die.tick.toNat % 256 = 0 → exec (.tickExchange l) s = .next (s.updDie fun d => { d with sentTicks := assocSet d.sentTicks l d.tick.toNat })) ∧
  (∀ (s : State) (l : Nat) (n first : Word64), linked s.core.cfg.die l = true → (assocGet s.die.stamps l [])[15]? = some first → 4 < absDiff (s.die.tick - first).toNat 4096 → exec (.tickStamp l n) s = .next ((s.updDie fun d => { d with stamps := assocSet d.stamps l (d.tick :: (assocGet s.die.stamps l []).take 15) }).enterExcursion (some l))) ∧
  (∀ (s : State) (l : Nat) (n first : Word64), linked s.core.cfg.die l = true → (assocGet s.die.stamps l [])[15]? = some first → absDiff (s.die.tick - first).toNat 4096 ≤ 4 → exec (.tickStamp l n) s = .next ((s.updDie fun d => { d with stamps := assocSet d.stamps l (d.tick :: (assocGet s.die.stamps l []).take 15) }).goodStamp l)) ∧
  (∀ (s : State) (n : Nat), exec (.heartbeat n) s = .next (s.updDev fun d => { d with missed := assocErase d.missed n })) ∧
  (∀ (s : State) (n : Nat), let m := assocGet s.dev.missed n 0 + 1; let u := s.updDev fun d => { d with missed := assocSet d.missed n m }; exec (.heartbeatLoss n) s = .next (if 3 ≤ m then u.fenceDie n else u)) ∧
  (∀ (s : State) (l : Nat), exec (.linkRetrainTimeout l) s = .next (if l < 7 then (s.fenceDie (linkPair l).2).errRecord 4 false 3 (linkPair l).2 l 0 0xFFF 0 else s)) ∧
  (∀ (s : State) (store addr : Nat) (uncorr : Bool), s.patrols store addr = true → (uncorr = true ∨ s.storeBad store addr = true) → exec (.patrolScrub store addr uncorr) s = .next ((s.markBad store addr).errRecord store true 0 (s.part.homeDie addr) (s.patrolUnit store addr) 0 0xFFF addr)) ∧
  (∀ (s : State) (store addr : Nat), s.storeBad store addr = false → exec (.patrolScrub store addr false) s = .next s) ∧
  (∀ (s : State) (store die unit v : Nat) (t : ErrTest), s.testAt store die unit = some t → v = 1 ∨ v = 2 ∨ v = 3 → let u := s.updDev fun d => { d with tests := d.tests.erase t }; (verdictOf store v = 1 → exec (.selfTestVerdict store die unit v) s = .next ((u.setDevReg 0x718 ((u.devReg 0x718 + 1) % 2 ^ 64)).errRecord store t.uncorr 1 die (if store = 1 then unit / 4 else unit) t.core 0xFFF t.idx)) ∧ (verdictOf store v = 2 → exec (.selfTestVerdict store die unit v) s = .next (u.errRecord store t.uncorr 2 die (if store = 1 then unit / 4 else unit) t.core 0xFFF t.idx)) ∧ (verdictOf store v = 3 → exec (.selfTestVerdict store die unit v) s = .next ((u.fenceUnit store die unit).errRecord store t.uncorr 3 die (if store = 1 then unit / 4 else unit) t.core 0xFFF t.idx)))

/-- For each of PREEMPTION_REQUEST, CONTEXT_SAVE, CONTEXT_RESTORE, CTXSLOT_WRITE, CTXSLOT_EVICT, EVICTION_COMPLETION, SINTR_WRITE, ACCOUNTING_BOUNDARY, ACCTCLR, ACCOUNTING_READOUT: where the condition of the step holds, exec answers the next state that the step's entry gives. The model's choices in these clauses: areas of a record that the spec does not lay down (log 9), when a request takes effect and when a save begins (log 20, log 21, log 22), the clusters of a resumed launch (log 23), when a clearing takes effect (log 27), and the estimated and measured energy (log 28, log 74). (R371, R372, R378, R379, R397, R408, R415.) -/
def Obligations.TenancyStepsComplete : Prop :=
  (∀ (s : State) (c cause inner : BitVec 9), s.core.cfg.running = true → s.core.saving = false → (s.request c 0).core.preempt = some (cause, inner) → let u := s.request c 0; exec (.preemptionRequest c) s = .next ((((u.clearHalted u.clusterNo).applyWindow.landHalt).markHalt.updPrim Primary.halt).updCore fun k => { k with saving := true })) ∧
  (∀ (s : State) (j : Job) (cause inner : Cause) (r : Nat × Nat), s.core.saving = true → s.drained = true → s.ownJob = some j → s.core.preempt = some (cause, inner) → s.launchBad j = false → s.recordStruck = none → s.saveRegion j.cx (8 * j.clusters.length) = some r → s.rangeFenced r.1 r.2 = false → exec .contextSave s = .next (s.saveOwn j cause inner r)) ∧
  (∀ (s : State) (n : Nat) (x : SavedLaunch) (l : List Nat), (s.dev.saved.find? fun x => decide (x.job.id = n)) = some x → x.cause ≠ 0x1DF → s.restoreWaits x = false → s.restorePlace x = some l → s.pmBad x.base x.size = false → (s.beatFor x.job).1 = true → exec (.contextRestore n) s = .next ((s.beatFor x.job).2.restoreAt x l)) ∧
  (∀ (s : State) (slot : Nat) (v : BitVec 64), slot < 64 → s.evicting slot = false → (∀ n, s.slotOf (bits v.toNat 0 12) = some n → n = slot) → bit v.toNat 13 = false → exec (.ctxslotWrite slot v) s = .next (s.setDevReg (slotReg slot) (bits v.toNat 0 13))) ∧
  (∀ (s : State) (slot : Nat) (v : BitVec 64), slot < 64 → s.evicting slot = false → s.slotOf (bits v.toNat 0 12) = none → exec (.ctxslotWrite slot v) s = .next (if bit v.toNat 13 then (s.setDevReg (slotReg slot) (bits v.toNat 0 13)).startEvict slot else s.setDevReg (slotReg slot) (bits v.toNat 0 13))) ∧
  (∀ (s : State) (slot n : Nat) (v : BitVec 64), s.slotOf (bits v.toNat 0 12) = some n → n ≠ slot → exec (.ctxslotWrite slot v) s = .next s) ∧
  (∀ (s : State) (slot : Nat), slot < 64 → exec (.ctxslotEvict slot) s = .next (s.startEvict slot)) ∧
  (∀ (s : State) (slot cx : Nat), s.slotCtx slot = some cx → s.evicting slot = true → s.ctxQuiet cx = true → exec (.evictionCompletion slot) s = .next ((s.flushCtx cx).clearSlot slot)) ∧
  (∀ (s : State) (n : Nat) (w : BitVec 64), n = 8 * s.clusterNo + s.core.cfg.coreInClus → s.core.cfg.running = true → exec (.sintrWrite n w) s = .next (s.updPrim fun p => { p with sintr := p.sintr ||| w })) ∧
  (∀ (s : State) (measured idle : Nat), let emeas := min measured (1000 * s.dev.cap); let est := fun (e : AcctEntry) => Config.energy s.free e.cx; let sum := (s.dev.acct.map est).foldl (· + ·) idle; let part := fun e => if sum = 0 then 0 else est e * emeas / sum; let used := (s.dev.acct.map part).foldl (· + ·) 0; let u := (s.bumpFree.updDev fun d => { d with acct := s.dev.acct.map fun e => e.charge (part e), idleMicro := s.dev.idleMicro + (emeas - used) }).setDevReg 0x348 ((s.dev.idleMicro + (emeas - used)) / 1000 % 2 ^ 64); ∃ t, exec (.accountingBoundary measured idle) s = .next t ∧ t.dev.acctSnap = u.residents.map u.publish ∧ t.dev.idleMicro = u.dev.idleMicro ∧ t.dev.acctClr = [] ∧ (s.dev.acctClr = [] → t.dev.acct = u.dev.acct)) ∧
  (∀ (s : State) (cx : Nat), exec (.acctclr cx) s = .next (s.updDev fun d => { d with acctClr := d.acctClr ++ [cx % 4096] })) ∧
  (∀ (s : State) (first count : Nat), 1 ≤ count → count ≤ 32 → first < 4096 → exec (.accountingReadout first count) s = .next (s.updDev fun d => { d with reply := .accounting (s.devReg 0x350) ((List.range (min count (4096 - first))).map fun i => s.snapOf (first + i)) }))

/-- For each of GET_VERSION, GET_CAPABILITIES, NEGOTIATE_ALGORITHMS, GET_DIGESTS, GET_CERTIFICATE, CHALLENGE, GET_MEASUREMENTS, UNSUPPORTED_SPDM_REQUEST, QUOTE_START, QUOTE_SIGNED: where the condition of the step holds, exec answers the next state that the step's entry gives. The model's choices in these clauses: signatures and nonces are free values (log 5), the hash is presumed to be SHA-256 of its standard (log 8), and what is held of an answer (log 31). (R381, R382, R383, R386, R387.) -/
def Obligations.TrustStepsComplete : Prop :=
  (∀ s : State, exec .getVersion s = .next (s.updDev fun d => { d with reply := .version [0x12, 0x13] })) ∧
  (∀ s : State, exec .getCapabilities s = .next (s.updDev fun d => { d with reply := .capabilities true true true })) ∧
  (∀ s : State, exec .negotiateAlgorithms s = .next (s.updDev fun d => { d with reply := .algorithms 0x10 0x1 })) ∧
  (∀ s : State, exec .getDigests s = .next (s.updDev fun d => { d with reply := .digests (sha256 s.dev.cert) })) ∧
  (∀ (s : State) (off len : Nat), exec (.getCertificate off len) s = .next (s.updDev fun d => { d with reply := .certificate ((s.dev.cert.drop off).take len) (s.dev.cert.length - off - ((s.dev.cert.drop off).take len).length) })) ∧
  (∀ (s : State) (n : BitVec 256), exec (.challenge n) s = .next (s.updDev fun d => { d with asks := d.asks ++ [.challenge n] }) ∧ s.takeAsk (.challenge n) = s.updDev fun d => { d with signQ := d.signQ ++ [.challenge n (sha256 s.dev.cert)] }) ∧
  (∀ (s : State) (i : Nat) (n : Option (BitVec 256)), exec (.getMeasurements i n) s = .next (s.updDev fun d => { d with asks := d.asks ++ [.measure i n] })) ∧
  (∀ (s : State) (i : Nat) (n : BitVec 256), s.takeAsk (.measure i (some n)) = s.updDev (fun d => { d with signQ := d.signQ ++ [.measurements (s.measureBlocks i) n] }) ∧ s.takeAsk (.measure i none) = s.updDev fun d => { d with reply := .unsignedMeasurements (s.measureBlocks i) }) ∧
  (∀ (s : State) (c : BitVec 8), exec (.unsupportedSpdmRequest c) s = .next (s.updDev fun d => { d with reply := .unsupported c })) ∧
  (∀ (s : State) (v : BitVec 64), s.quoteBusy = false → exec (.quoteStart v) s = .next ((s.setQctl (bits v.toNat 0 6) 1 0).clearSig.updDev fun d => { d with asks := d.asks ++ [.quote (bits v.toNat 0 6)] })) ∧
  (∀ (s : State) (n : Nat), let valid := bit (s.devReg (0x170000 + 256 * n + 8)) 12; let same := decide (s.devReg (0x170000 + 256 * n) = s.devReg 0x6A8); (valid = false → s.takeAsk (.quote n) = s.setQctl n 0 1) ∧ (valid = true → same = false → s.takeAsk (.quote n) = s.setQctl n 0 2) ∧ (valid = true → same = true → s.takeAsk (.quote n) = s.updDev fun d => { d with signQ := d.signQ ++ [.quote (s.quoteBytes n)] })) ∧
  (∀ (s : State) (n : BitVec 256) (d : List Byte) (rest : List SignReq), s.dev.signQ = .challenge n d :: rest → ∃ t, exec .quoteSigned s = .next t ∧ t.dev.signQ = rest ∧ t.free = s.free + 1 ∧ t.dev.reply = .challengeAuth n d (s.signature (Config.transcript s.free))) ∧
  (∀ (s : State) (l : List MeasBlock) (n : BitVec 256) (rest : List SignReq), s.dev.signQ = .measurements l n :: rest → ∃ t, exec .quoteSigned s = .next t ∧ t.dev.signQ = rest ∧ t.free = s.free + 1 ∧ t.dev.reply = .measurements l n (s.signature (Config.transcript s.free))) ∧
  (∀ (s : State) (l : List Byte) (rest : List SignReq), s.dev.signQ = .quote l :: rest → let g := s.signature (BitVec.ofNat 256 (ofBytes (sha256 l).reverse)); let t := (((s.bumpFree.updDev fun d => { d with signQ := rest }).setRegBytes 0x6B0 (bytesBig 64 g.toNat)).setDevReg 0x6A0 (setBits (s.devReg 0x6A0) 7 1 0)); exec .quoteSigned s = .next t ∧ t.quoteBusy = false ∧ t.regBytes 0x6B0 64 = bytesBig 64 g.toNat)

/-- For each of DBG_HALTREQ, CROSS_TRIGGER_HALT, DBG_RESUME, DUMP_START, DUMP_PAGE_SEND: where the condition of the step holds, exec answers the next state that the step's entry gives. The model's choices in these clauses: when the pages of a dump are marked (log 34), and what a resume and the window do where the spec does not say (log 35). (R423, R427.) -/
def Obligations.DebugStepsComplete : Prop :=
  (∀ (s : State) (g : Nat), g = s.clusterNo → s.core.cfg.running = true → s.dbgOwned = true → s.core.saving = false → exec (.dbgHaltreq g) s = .next (s.debugHalt 0 0 false 0 0)) ∧
  (∀ (s : State) (g : Nat), g = s.clusterNo → s.core.cfg.running = true → s.dbgOwned = true → s.core.saving = false → exec (.crossTriggerHalt g) s = .next (s.debugHalt 4 0 false 0 0)) ∧
  (∀ (s : State), bit (s.devReg (dbgBase s.clusterNo)) 3 = true → (s.prim.halted = true ∨ s.prim.haltNext = true) → s.core.winWrites = [] → ∃ t, exec (.dbgResume s.clusterNo) s = .next t ∧ t.prim.halted = false ∧ t.prim.haltNext = false ∧ t.prim.th.exempt = true ∧ t.dev = (s.clearHalted s.clusterNo).dev) ∧
  (∀ (s : State) (v : BitVec 64), bit (s.devReg 0x70000) 13 = false → exec (.dumpStart v) s = .next (((s.setDevReg 0x70000 (bits v.toNat 0 12 + 2 ^ 13)).updDev fun d => { d with dump := some ⟨bits v.toNat 0 12, false, [], [], 0, false⟩ }).preemptCtx (bits v.toNat 0 12))) ∧
  (∀ (s : State) (d : Dump) (p : DumpPage) (rest : List DumpPage), s.dev.dump = some d → d.ended = false → d.marked = true → d.pages = p :: rest → exec .dumpPageSend s = .next (s.sendPage d p rest))

/-- For each of COLD_RESET, CONVENTIONAL_RESET, FUNCTION_LEVEL_RESET, INPUT_UNDERVOLTAGE, REGISTER_WRITE, HOST_APERTURE_ACCESS, FABRIC_WRITE, PLANE_MASK_CHANGE, INPUT_VOLTAGE_CHANGE: where the condition of the step holds, exec answers the next state that the step's entry gives. The model's choices in these clauses: one core is held whole (log 10), what a cold and a conventional reset keep (log 32), when the event of an undervoltage takes place (log 33), the acts of other agents as inputs (log 65), and the class and count of host writes (log 70). (R8, R199, R238, R428, R430, R431.) -/
def Obligations.PlatformStepsComplete : Prop :=
  (∀ s : State, exec .coldReset s = .next s.afterReset.restart) ∧
  (∀ s : State, exec .conventionalReset s = .next (([0x348, 0x350, 0x718].foldl (fun t off => t.setDevReg off (s.devReg off)) (s.afterReset.updDev fun d => { d with acct := s.dev.acct, acctSnap := s.dev.acctSnap, idleMicro := s.dev.idleMicro, asks := s.dev.asks.filter QuoteAsk.sideband, signQ := s.dev.signQ.filter SignReq.sideband })).restart)) ∧
  (∀ s : State, exec .functionLevelReset s = .next (((List.range 64).foldl State.resetSlot (s.terminateAll.endDump 2)).updDev fun d => { d with queues := [], acct := s.dev.acct })) ∧
  (∀ (s : State) (n cx : Nat), s.slotCtx n = some cx → s.resetSlot n = (((s.haltQueues cx (some 7)).discardCtx cx).clearSlot n).setDevReg (slotReg n) 0) ∧
  ((∀ (s : State) (j : Job), s.job j.id = some j → j.node = none → s.terminateJob j = s.finishJob j 7) ∧ ∀ (s : State) (cx q st : Nat) (stop : Bool), st < 256 → s.pm.wf = true → s.pmBad (s.descAt cx q + 0x20) 4 = false → (s.setStatus cx q (some st) stop).homeRead (s.descAt cx q + 0x20) 1 = st) ∧
  (∀ s : State, s.dev.jobs = [] → s.dev.saved = [] → s.dev.dump = none → s.core.cfg.running = false → s.core.saving = false → s.core.cache = [] → ∃ t, exec .functionLevelReset s = .next t ∧ t.dev.queues = [] ∧ (∀ n, t.slotCtx n = none) ∧ t.dev.acct = s.dev.acct ∧ t.dev.acctSnap = s.dev.acctSnap ∧ t.dev.idleMicro = s.dev.idleMicro ∧ t.dev.fencedCh = s.dev.fencedCh ∧ (s.badPm = [] → s.core.struck = [] → s.devReg 0x728 = 0 → s.dev.fencedCh = [] → t.devReg 0x710 = s.devReg 0x710) ∧ ∀ o ∈ [0x348, 0x350, 0x718, 0x728, 0x760, 0x768, 0x770, 0x778, 0x780, 0x788], t.devReg o = s.devReg o) ∧
  (∀ s : State, ∃ t, exec .inputUndervoltage s = .next t ∧ t.dev.noSupply = true ∧ t.dev.holdUp = true ∧ t.lm = [] ∧ t.pm = s.powerFail.pm.filter (fun e => decide (s.powerFail.part.tierOf e.1 = some 2)) ∧ t.hm = s.powerFail.hm) ∧
  (∀ (s : State) (off : Nat) (v : BitVec 64), exec (.registerWrite off v) s = .next (if s.hostOpen then s.regWrite off v.toNat else s)) ∧
  (∀ (s : State) (pa n : Nat) (v : BitVec 512), s.inBar2 pa n = true → s.hostOpen = true → n ≤ 64 → s.rangeFenced pa n = false → exec (.hostApertureAccess (.write n) pa v) s = .next ((s.countHost pa n).homeWriteRun pa n (v.toNat % 2 ^ (8 * n)))) ∧
  (∀ (s : State) (pa n : Nat) (v : BitVec 512), s.inBar2 pa n = true → s.hostOpen = true → n ≤ 64 → s.pmBad pa n = false → exec (.hostApertureAccess (.read n) pa v) s = .next s) ∧
  (∀ (s : State) (pa : Nat) (v : BitVec 512), s.inBar2 pa 8 = true → s.hostOpen = true → s.pmBad pa 8 = false → exec (.hostApertureAccess .exchange pa v) s = .next ((s.countHost pa 8).homeWriteRun pa 8 (v.toNat % 2 ^ 64))) ∧
  (∀ (s : State) (pa : Nat) (v : BitVec 512) (e : Word64), s.inBar2 pa 8 = true → s.hostOpen = true → s.pmBad pa 8 = false → exec (.hostApertureAccess (.compareExchange e) pa v) s = .next (if memRead s.pm pa 8 = e.toNat then (s.countHost pa 8).homeWriteRun pa 8 (v.toNat % 2 ^ 64) else s)) ∧
  (∀ (s : State) (pa : Nat) (v : BitVec 64), (s.part.tierOf pa).isSome = true → s.rangeFenced pa 8 = false → exec (.fabricWrite pa v) s = .next (s.homeWriteRun pa 8 v.toNat)) ∧
  (∀ (s : State) (m : BitVec 18), exec (.planeMaskChange m) s = .next (s.updDev fun d => { d with planes := m })) ∧
  (∀ (s : State) (mv : BitVec 16), mv.toNat < 46000 → ∃ t, exec (.inputVoltageChange mv) s = .next t ∧ t.dev.holdUp = true ∧ t.dev.noSupply = s.dev.noSupply) ∧
  (∀ (s : State) (mv : BitVec 16), 46000 ≤ mv.toNat → ∃ t, exec (.inputVoltageChange mv) s = .next t ∧ t.dev.holdUp = false ∧ t.dev.noSupply = false) ∧
  (∀ (s : State) (mv : BitVec 16), 46000 ≤ mv.toNat → s.dev.noSupply = true → let u := (s.updDev fun d => { d with noSupply := false }).afterReset.boot; exec (.inputVoltageChange mv) s = .next ((u.setDevReg 0x808 (setBits (u.devReg 0x808) 16 16 (mv.toNat / 10))).updDev fun d => { d with holdUp := false, noSupply := d.noSupply && false }))

/-- A trap in user mode with a handler sets MODE to supervisor, writes TCAUSE (CODE, VALID 1, PMODE 0, DELAY, SLOT), TPC, TTGT where a transfer is pending, TADDR and TARG, clears PHV with reason 4, holds the entries that land later and keeps those that land in the cycle, and goes to TVEC; every other register and all memory stay. In supervisor mode, or without a handler, it becomes a pre-emption request with the double-trap code, or 0x03F, and the inner cause. In every case a late tempo, and no other cause, writes TEMPOREC from its argument. (R391, R393, R394, R398, R221.) -/
def Obligations.PrimaryTrapEntry : Prop :=  (∀ (s : State) (r : TrapRec), s.ctx.agent = .primary → r.isCheck = false → s.prim.th.mode = 0 → s.prim.th.tvec ≠ 0 →
    let t := s.trap r
    t.prim.th.mode = 1 ∧ t.prim.th.tcause.extractLsb' 0 9 = r.code ∧ t.prim.th.valid = true ∧ t.prim.th.pmode = 0 ∧
      t.prim.th.delay = s.prim.target.isSome ∧ t.prim.th.tcause.extractLsb' 13 4 = BitVec.ofNat 4 r.slot ∧
      t.prim.th.tpc = s.prim.pc.setWidth 21 ∧ (∀ a, s.prim.target = some a → t.prim.th.ttgt = a.setWidth 21) ∧
      t.prim.th.taddr = r.addr ∧ t.prim.th.targ = r.arg ∧
      t.prim.pc = s.prim.th.tvec.setWidth 64 ∧ t.prim.target = none ∧
      t.prim.phv = false ∧ (s.prim.phv = true → t.prim.phvwhy = 4) ∧
      t.prim.fl.pend = s.prim.fl.pend.filter (fun e => e.count = 0) ∧
      t.prim.flUser = some { s.prim.fl with pend := s.prim.fl.pend.filter fun e => e.count ≠ 0 } ∧
      t.prim.s = s.prim.s ∧ t.prim.v = s.prim.v ∧ t.prim.b = s.prim.b ∧ t.prim.m = s.prim.m ∧ t.prim.ib = s.prim.ib ∧
      t.prim.loops = s.prim.loops ∧ t.prim.q = s.prim.q ∧ t.prim.vq = s.prim.vq ∧ t.prim.route = s.prim.route ∧
      t.prim.th.vflags = s.prim.th.vflags ∧ t.prim.th.tvec = s.prim.th.tvec ∧ t.prim.th.tscr = s.prim.th.tscr ∧
      t.prim.th.seed = s.prim.th.seed ∧ t.prim.th.srctr = s.prim.th.srctr ∧ t.prim.th.slim = s.prim.th.slim ∧
      t.core = s.core ∧ t.pawns = s.pawns ∧ t.sameOutside s) ∧
  (∀ (s : State) (r : TrapRec), s.ctx.agent = .primary → r.isCheck = false → s.core.saving = false → s.core.preempt = none →
    (s.prim.th.mode ≠ 0 → s.trap r = (s.updPrim fun p => p.recordLate r).updCore fun c =>
      { c with preempt := some (BitVec.ofNat 9 (0x38 + r.code.toNat % 8), r.code) }) ∧
    (s.prim.th.mode = 0 → s.prim.th.tvec = 0 → s.trap r = (s.updPrim fun p => p.recordLate r).updCore fun c =>
      { c with preempt := some (0x03F, r.code) })) ∧
  (∀ (s : State) (r : TrapRec), s.ctx.agent = .primary → (s.trap r).prim.tempoRec = if r.code = 0x140 then r.arg.setWidth 54 else s.prim.tempoRec)

/-- A pawn whose op traps leaves the rotation at its op, the other threads and the primary untouched; trap and brk have the op after as resume address; the thread enters supervisor mode at TVEC when nothing of it is outstanding, with TPC the resume address and its record written, and not before; sret brings it back to TPC in user mode. (R65, R92, R392, R395.) -/
def Obligations.PawnTraps : Prop :=  (∀ (s : State) (t : Nat) (r : TrapRec), t < 16 → s.ctx.agent = .pawn t → r.isCheck = false → (s.pawn t).th.mode = 0 →
    (s.pawn t).th.tvec ≠ 0 →
    let u := s.trap r
    u.inRotation t = false ∧ u.pawn t = { s.pawn t with pc := s.ctx.pc, buf := [], status := .trapping r s.ctx.pc } ∧
      (∀ n, n ≠ t → u.pawn n = s.pawn n) ∧ u.prim = s.prim ∧ u.core = s.core ∧ u.sameOutside s) ∧
  (∀ (s : State) (t : Nat) (k : Bool) (a : Field6), t < 16 → s.ctx.agent = .pawn t → (s.pawn t).th.mode = 0 → (s.pawn t).th.tvec ≠ 0 →
    s.core.cfg.det = false → s.ctx.commit = false → s.ctx.checked = true ∨ s.ready (specOf (.trap k a)) = true →
    ∃ u, exec (.trap k a) s = .next u ∧ (u.pawn t).status = .trapping ⟨0x1F6, s.ctx.pc, s.readS a, 15⟩ (s.ctx.pc + 4) ∧
      u.inRotation t = false) ∧
  (∀ (s : State) (t : Nat) (k : Bool), t < 16 → s.ctx.agent = .pawn t → (s.pawn t).th.mode = 0 → (s.pawn t).th.tvec ≠ 0 →
    s.core.cfg.det = false → s.ctx.commit = false → s.breaksOn = false → s.ctx.checked = true ∨ s.ready (specOf (.brk k)) = true →
    ∃ u, exec (.brk k) s = .next u ∧ (u.pawn t).status = .trapping ⟨0x1FE, s.ctx.pc, 0, 15⟩ (s.ctx.pc + 4) ∧ u.inRotation t = false) ∧
  (∀ (s : State) (t : Nat) (r : TrapRec) (resume : Word64), t < 16 → (s.pawn t).status = .trapping r resume →
    (s.pawnQuiet t = false → exec (.pawnTrapEntry t) s = .next s) ∧
    (s.pawnQuiet t = true → ∃ u, exec (.pawnTrapEntry t) s = .next u ∧ (u.pawn t).th.mode = 1 ∧
      (u.pawn t).th.tpc = resume.setWidth 21 ∧ (u.pawn t).pc = (s.pawn t).th.tvec.setWidth 64 ∧ (u.pawn t).buf = [] ∧
      (u.pawn t).status = .running ∧ (u.pawn t).th.tcause.extractLsb' 0 9 = r.code ∧ (u.pawn t).th.valid = true ∧
      (u.pawn t).th.taddr = r.addr ∧ (u.pawn t).th.targ = r.arg ∧ (u.pawn t).x = (s.pawn t).x ∧ (u.pawn t).y = (s.pawn t).y ∧
      (u.pawn t).b = (s.pawn t).b ∧ (u.pawn t).m = (s.pawn t).m ∧
      (∀ n, n ≠ t → (s.core.cfg.det = false → (u.pawn n).sameRegs (s.pawn n)) ∧ (u.pawn n).toPawnRegs = (s.pawn n).toPawnRegs ∧
        (u.pawn n).mbox = (s.pawn n).mbox ∧ (u.pawn n).status = (s.pawn n).status) ∧
      u.prim = s.prim)) ∧
  (∀ (s : State) (t : Nat) (k : Bool), t < 16 → s.ctx.agent = .pawn t → s.core.cfg.det = false → s.ctx.commit = false →
    (s.pawn t).status = .running → s.engParked t = false → s.ctx.checked = true ∨ s.ready (specOf (.sret k)) = true →
    (s.pawn t).th.pmode = 0 →
    ∃ u, exec (.sret k) s = .next u ∧ (u.pawn t).th.mode = 0 ∧ (u.pawn t).pc = (s.pawn t).th.tpc.setWidth 64 ∧ (u.pawn t).buf = [] ∧
      (u.pawn t).th.valid = false ∧ (k = false → u.inRotation t = true) ∧ (∀ n, n ≠ t → u.pawn n = s.pawn n) ∧ u.prim = s.prim)

/-- sret on the primary: mode, resume address, pending transfer and the held operations. (R392.) -/
def Obligations.SupervisorReturn : Prop :=  (∀ s : State, s.ctx.agent = .primary → s.ctx.checked = true ∨ s.ready (specOf (.sret false)) = true →
    ∃ u, exec (.sret false) s = .next u ∧
      u = s.updPrim (fun p => { p with
        th := { p.th with mode := p.th.pmode, tcause := p.th.tcause &&& ~~~(0x200#17), grdHeld := false }, resuming := true,
        overrun := p.overrunHeld <|> p.overrun, overrunHeld := none, opCount := p.opCount + 1 }) ∧
      u.prim.th.mode = s.prim.th.pmode ∧ u.prim.th.valid = false ∧
      u.prim.resuming = true ∧ u.prim.flUser = s.prim.flUser ∧
      u.prim.fl.pend = s.prim.fl.pend ∧ u.prim.s = s.prim.s ∧ u.prim.v = s.prim.v ∧ u.prim.b = s.prim.b ∧ u.prim.m = s.prim.m ∧
      u.prim.th.tcause.extractLsb' 0 9 = s.prim.th.tcause.extractLsb' 0 9 ∧ u.prim.th.tpc = s.prim.th.tpc ∧
      u.prim.th.taddr = s.prim.th.taddr ∧ u.prim.th.targ = s.prim.th.targ ∧ u.prim.th.tscr = s.prim.th.tscr ∧
      u.core = s.core ∧ u.pawns = s.pawns ∧ u.sameOutside s) ∧
  (∀ (s : State) (pc : Word64), s.prim.resuming = true → s.core.pushing = none → s.tracing 7 = false → let u := s.endBundle false pc
    u.prim.pc = s.prim.th.tpc.setWidth 64 ∧ u.prim.target = (if s.prim.th.delay then some (s.prim.th.ttgt.setWidth 64) else none) ∧
      u.prim.empties = max 1 (lastLanding s.prim.fl.pend - 1) ∧ u.prim.resuming = true ∧ u.prim.flUser = s.prim.flUser ∧
      u.prim.fl = s.prim.fl ∧ u.prim.s = s.prim.s ∧ u.prim.v = s.prim.v ∧ u.lm = s.lm ∧ u.pm = s.pm) ∧
  (∀ (s : State) (f : Flight) (e : PEntry) (r : Nat) (v : Wide), s.ctx.agent = .primary → s.prim.resuming = true → s.prim.empties = 0 →
    s.prim.flUser = some f → s.prim.fl.pend = [e] → e.count = 1 → e.eff = .reg (.s r) v → r < 60 → s.core.struck = [] → s.badLm = [] →
    ∃ u, exec .resultLanding s = .next u ∧ u.prim.fl = f ∧ u.prim.flUser = none ∧ u.prim.resuming = false ∧
      u.prim.pc = s.prim.th.tpc.setWidth 64 ∧
      u.prim.target = (if s.prim.th.delay then some (s.prim.th.ttgt.setWidth 64) else none) ∧
      u.prim.s = vset s.prim.s r (v.setWidth 64) ∧ u.prim.v = s.prim.v ∧ u.core = s.core ∧ u.pawns = s.pawns ∧ u.sameOutside s) ∧
  (∀ (s : State) (f : Flight), s.ctx.agent = .primary → s.prim.resuming = true → s.prim.empties = 0 → s.prim.flUser = some f →
    s.prim.fl.pend = [] → ∃ u, exec .resultLanding s = .next u ∧ u.prim.fl = f ∧ u.prim.flUser = none ∧ u.prim.resuming = false ∧
      u.prim.pc = s.prim.th.tpc.setWidth 64 ∧
      u.prim.target = (if s.prim.th.delay then some (s.prim.th.ttgt.setWidth 64) else none) ∧
      u.prim.s = s.prim.s ∧ u.prim.v = s.prim.v ∧ u.sameOutside s)

/-- In user mode csrr and csrw of 0x030 to 0x03A, csrw of WDOG and sret take subcause 4 and do nothing; in supervisor mode sret takes subcause 5 where VALID is 0 and 6 where PMODE is not 0. The codes are 8 × subcause + unit. (R46, R89, R92, R392, R393.) -/
def Obligations.PrivilegeTraps : Prop :=  (∀ (s : State) (k : Bool) (d : Field6) (c : BitVec 12), s.ctx.checked = false → s.userMode = true → 0x30 ≤ c.toNat → c.toNat ≤ 0x3A →
    s.encodingTrap (specOf (.csrr k d c)) = none → exec (.csrr k d c) s = .next (s.trap (s.encTrap 4))) ∧
  (∀ (s : State) (k : Bool) (a : Field6) (c : BitVec 12), s.ctx.checked = false → s.userMode = true →
    0x30 ≤ c.toNat ∧ c.toNat ≤ 0x3A ∨ c.toNat = 0xC1 →
    s.encodingTrap (specOf (.csrw k a c)) = none → exec (.csrw k a c) s = .next (s.trap (s.encTrap 4))) ∧
  (∀ (s : State) (k : Bool), s.ctx.checked = false → s.encodingTrap (specOf (.sret k)) = none →
    (s.userMode = true → exec (.sret k) s = .next (s.trap (s.encTrap 4))) ∧
    (s.userMode = false → s.th.valid = false → exec (.sret k) s = .next (s.trap (s.encTrap 5))) ∧
    (s.userMode = false → s.th.valid = true → s.th.pmode ≠ 0 → exec (.sret k) s = .next (s.trap (s.encTrap 6)))) ∧
  (∀ (s : State) (sub : Nat), sub ≤ 6 →
    (s.isPawn = true → (s.encTrap sub).code.toNat = 8 * sub + 6) ∧
    (s.isPawn = false → s.ctx.slot = 0 → (s.encTrap sub).code.toNat = 8 * sub))

/-- For each scalar and vector load and store, a failing local-memory check makes exec take that trap and do nothing else; the checks are in the order subcause 1, 6, 2, 4 with their conditions, and the record holds the offset and the op word. (R144, R145, R148, R149, R394.) -/
def Obligations.LocalAccessTraps : Prop :=  (∀ (s : State) (k : Bool) (d a : Field6) (o : BitVec 10) (r : TrapRec), s.ctx.checked = false →
    (∀ p ∈ [(Instr.ldb k d a o, 1), (.ldbu k d a o, 1), (.ldh k d a o, 2), (.ldhu k d a o, 2), (.ldw k d a o, 4), (.ldwu k d a o, 4),
        (.ld k d a o, 8)],
      s.encodingTrap (specOf p.1) = none → s.lmCheck (s.ea a o p.2) p.2 p.2 false = some r → exec p.1 s = .next (s.trap r)) ∧
    (∀ p ∈ [(Instr.stb k d a o, 1), (.sth k d a o, 2), (.stw k d a o, 4), (.st k d a o, 8)],
      s.encodingTrap (specOf p.1) = none → s.lmCheck (s.ea a o p.2) p.2 p.2 true = some r → exec p.1 s = .next (s.trap r)) ∧
    (∀ p ∈ [(Instr.vld d a o, 4, false), (.vst d a o, 4, true), (.vldh k d a o, 2, false), (.vsth k d a o, 2, true),
        (.vldb k d a o, 1, false)],
      s.encodingTrap (specOf p.1) = none → s.lmCheck (s.ea a o 8) (s.lanes * p.2.1) 8 p.2.2 = some r → exec p.1 s = .next (s.trap r))) ∧
  (∀ (s : State) (ea : Word64) (len align : Nat) (write : Bool),
    let at1 := decide (0x200000 < ea.toNat + len) || decide (ea.toNat % align ≠ 0)
    let at6 := s.userMode && decide (0x1F0000 < ea.toNat + len)
    let at2 := write && decide (ea.toNat < 0x80)
    (at1 = true → s.lmCheck ea len align write = some (s.lmTrap 1 ea)) ∧
    (at1 = false → at6 = true → s.lmCheck ea len align write = some (s.lmTrap 6 ea)) ∧
    (at1 = false → at6 = false → at2 = true → s.lmCheck ea len align write = some (s.lmTrap 2 ea)) ∧
    (at1 = false → at6 = false → at2 = false → s.lmLocked (s.core.lmBase + ea.toNat) len write = true →
      s.lmCheck ea len align write = some (s.lmTrap 4 ea)) ∧
    (at1 = false → at6 = false → at2 = false → s.lmLocked (s.core.lmBase + ea.toNat) len write = false →
      s.lmCheck ea len align write = none)) ∧
  (∀ (s : State) (sub : Nat) (ea : Word64), sub < 8 → (s.lmTrap sub ea).code.toNat = 0x80 + 8 * sub + s.unit ∧
    (s.lmTrap sub ea).addr = ea ∧ (s.lmTrap sub ea).arg = s.ctx.word.setWidth 64)

/-- For each global load and store: address bits [63:56] not zero give 0x0CE; otherwise a misaligned address gives 0x0C6; otherwise a range locked against the access gives 0x196 with x[A]; the op does nothing else. (R186, R187, R191, R394.) -/
def Obligations.GlobalAddressTraps : Prop :=  ∀ (s : State) (t : Nat) (k : Bool) (d a : Field6) (o : BitVec 10), s.ctx.agent = .pawn t → s.ctx.checked = false →
    ∀ p ∈ [(Instr.gldb k d a o, 1, false), (.gldbu k d a o, 1, false), (.gldh k d a o, 2, false), (.gldhu k d a o, 2, false),
        (.gldw k d a o, 4, false), (.gldwu k d a o, 4, false), (.gld k d a o, 8, false), (.gstb k d a o, 1, true),
        (.gsth k d a o, 2, true), (.gstw k d a o, 4, true), (.gst k d a o, 8, true)],
      s.encodingTrap (specOf p.1) = none → (p.2.2 = true → s.stackCheck a (s.ea a o p.2.1) = none) →
      (bits (s.ea a o p.2.1).toNat 56 8 ≠ 0 → exec p.1 s = .next (s.trap ⟨0x0CE, s.ea a o p.2.1, 0, 15⟩)) ∧
      (bits (s.ea a o p.2.1).toNat 56 8 = 0 → (s.ea a o p.2.1).toNat % p.2.1 ≠ 0 →
        exec p.1 s = .next (s.trap ⟨0x0C6, s.ea a o p.2.1, 0, 15⟩)) ∧
      (bits (s.ea a o p.2.1).toNat 56 8 = 0 → (s.ea a o p.2.1).toNat % p.2.1 = 0 →
        s.globalLocked (s.ea a o p.2.1).toNat p.2.1 p.2.2 = true → exec p.1 s = .next (s.trap ⟨0x196, s.ctx.pc, s.readS a, 15⟩))

/-- Division by 0 gives all ones and remainder a; -2^63 by -1 gives -2^63 and remainder 0; the four ops land these values; no multiply or divide queues a flag; with TRAPEN[0] set, a zero divisor makes the op (on the primary its bundle) issue nothing and trap with 0x079 or 0x07E; a nonzero divisor never does; the slot is held for 8 cycles, and a pawn takes the iterative unit. (That the unit is then busy for 24 barrel cycles, core.iter = 24, is the model's choice, log 73.) (R61, R102.) -/
def Obligations.DivisionEdgeCases : Prop :=  (∀ a : Word64, divS a 0 = BitVec.allOnes 64 ∧ divU a 0 = BitVec.allOnes 64 ∧ remS a 0 = a ∧ remU a 0 = a) ∧
  divS (BitVec.intMin 64) (BitVec.allOnes 64) = BitVec.intMin 64 ∧ remS (BitVec.intMin 64) (BitVec.allOnes 64) = 0 ∧
  (∀ k d a b, Completes (.div k d a b) (fun s => s.divide d (divS (s.readS a) (s.readS b))) ∧
    Completes (.divu k d a b) (fun s => s.divide d (divU (s.readS a) (s.readS b))) ∧
    Completes (.rem k d a b) (fun s => s.divide d (remS (s.readS a) (s.readS b))) ∧
    Completes (.remu k d a b) (fun s => s.divide d (remU (s.readS a) (s.readS b)))) ∧
  (∀ (s u : State) (k : Bool) (d a b : Field6),
    ∀ i ∈ [Instr.mul k d a b, .mulh k d a b, .mulhu k d a b, .mulw k d a b, .div k d a b, .divu k d a b, .rem k d a b, .remu k d a b],
      s.ctx.checked = true ∨ s.ready (specOf i) = true → exec i s = .next u →
      (∀ e ∈ u.prim.fl.pend, (∃ f, e.eff = .flags f) → e ∈ s.prim.fl.pend) ∧
      ∀ n, ∀ e ∈ (u.pawn n).pend, (∃ f, e.eff = .flags f) → e ∈ (s.pawn n).pend) ∧
  (∀ (s : State) (k : Bool) (d a b : Field6), ∀ i ∈ [Instr.div k d a b, .divu k d a b, .rem k d a b, .remu k d a b],
    s.ctx.checked = false → s.encodingTrap (specOf i) = none →
    (bit s.core.cfg.trapen.toNat 0 = true → s.readS b = 0 →
      (s.ctx.agent = .primary → s.ctx.slot ∈ [1, 2] → exec i s = .next (s.trap ⟨0x079, s.ctx.pc, 0, s.ctx.slot⟩)) ∧
      (∀ t, s.ctx.agent = .pawn t → exec i s = .next (s.trap ⟨0x07E, s.ctx.pc, 0, 15⟩))) ∧
    (s.readS b ≠ 0 → ∀ r, s.stageTrap (specOf i) .desc ≠ some r)) ∧
  (∀ (s : State) (l : List (SlotIn Instr)) (r : TrapRec) (sp : OpSpec), s.bundleOps opTable = .ok l →
    s.bundleTrap opTable l = some (r, sp) →
      s.presentBundle opTable = .next ((s.discardFor sp r).trapTick (s.advertised s.bundle) r)) ∧
  (∀ (s : State) (d : Field6) (v : Word64),
    (s.ctx.agent = .primary → s.ctx.slot < 9 → vget (s.divide d v).prim.fl.held s.ctx.slot 0 = 8) ∧
    (∀ t, s.ctx.agent = .pawn t → (s.divide d v).core.iter = 24))

/-- For mov on the primary with a port as destination or source: PATH 3, then the span, then PHV (by PHVWHY), then a send that lands in the same cycle, and for a source PHV under RXFAR, then a latch that is not fresh, give causes 0x170, 0x160, 0x148 or 0x178, 0x168 and 0x150 plus the unit, with the port in TARG, and the op does nothing else. (R223, R224, R227, R394.) -/
def Obligations.PortFieldTraps : Prop :=  ∀ (s : State) (d a : Field6), s.ctx.agent = .primary → s.ctx.checked = false →
    s.encodingTrap (specOf (.mov false d a)) = none →
    let t := fun (base : Nat) (f : Field6) =>
      (.next (s.trap ⟨BitVec.ofNat 9 (base + s.unit), s.ctx.pc, BitVec.ofNat 64 (f.toNat - 60), s.ctx.slot⟩) : Out)
    let r := s.routeOf false (d.toNat - 60)
    let far := decide (routePath r = 1) || decide (routePath r = 2)
    (60 ≤ d.toNat →
      (routePath r = 3 → exec (.mov false d a) s = t 0x170 d) ∧
      (far = true → routeSpan r ≠ 0 → routeSpan r < routeHops r → exec (.mov false d a) s = t 0x160 d) ∧
      (far = true → ¬(routeSpan r ≠ 0 ∧ routeSpan r < routeHops r) → s.prim.phv = false →
        exec (.mov false d a) s = t (if s.prim.phvwhy = 3 then 0x178 else 0x148) d) ∧
      (routePath r ≠ 3 → (far = true → ¬(routeSpan r ≠ 0 ∧ routeSpan r < routeHops r) ∧ s.prim.phv = true) →
        s.sendPending false (d.toNat - 60) 1 = true → exec (.mov false d a) s = t 0x168 d)) ∧
    (d.toNat < 60 → 60 ≤ a.toNat →
      let q := s.routeOf false (a.toNat - 60)
      (routeFar q = true → s.prim.phv = false →
        exec (.mov false d a) s = t (if s.prim.phvwhy = 3 then 0x178 else 0x148) a) ∧
      ((routeFar q = true → s.prim.phv = true) → s.fresh false (a.toNat - 60) = false → exec (.mov false d a) s = t 0x150 a))

/-- For each hold on local memory or on a write pointer: where the op passes its checks and the comparison fails, exec freezes with cause 0; the next state is the state with FRZSTAT (also as last shown), the cluster bit and the mark of a presented bundle set on the primary, and with nothing else changed. The comparisons are signed or unsigned as their names say. (R63, R64, R86, R87.) -/
def Obligations.HoldWaits : Prop :=  (∀ (s : State) (a b : Field6), s.ctx.checked = false → s.ctx.agent = .primary → s.holdCheck a = none →
    ∀ p ∈ [(Instr.holdEq a b, HoldCmp.eq), (.holdNe a b, .ne), (.holdLt a b, .lt), (.holdGe a b, .ge), (.holdLtu a b, .ltu),
        (.holdGeu a b, .geu)],
      s.encodingTrap (specOf p.1) = none → p.2.holds (s.watched a) (s.readS b) = false → exec p.1 s = .next (s.freezeWith [0])) ∧
  (∀ (s : State) (w : BitVec 1) (b : Field6), s.ctx.checked = false → s.ctx.agent = .primary →
    ∀ p ∈ [(Instr.holdEqWp w b, HoldCmp.eq), (.holdNeWp w b, .ne), (.holdLtWp w b, .lt), (.holdGeWp w b, .ge), (.holdLtuWp w b, .ltu),
        (.holdGeuWp w b, .geu)],
      s.encodingTrap (specOf p.1) = none → p.2.holds ((vget s.core.wptr w.toNat 0).setWidth 64) (s.readS b) = false →
      exec p.1 s = .next (s.freezeWith [0])) ∧
  (∀ s : State, let u := s.freezeWith [0]
    u = s.updPrim (fun p => { p with frz := 1, frzClus := true, frzLast := 0x401, presented := true }) ∧
      u.prim.frz = 1 ∧ u.prim.frzClus = true ∧ u.prim.pc = s.prim.pc ∧ u.prim.s = s.prim.s ∧ u.prim.v = s.prim.v ∧ u.prim.b = s.prim.b ∧
      u.prim.m = s.prim.m ∧ u.prim.fl = s.prim.fl ∧ u.prim.th = s.prim.th ∧ u.core = s.core ∧ u.pawns = s.pawns ∧ u.sameOutside s) ∧
  (∀ (c : HoldCmp) (x y : Word64), c.holds x y = match c with
    | .eq => decide (x = y)
    | .ne => decide (x ≠ y)
    | .lt => x.slt y
    | .ge => !x.slt y
    | .ltu => x.ult y
    | .geu => !x.ult y)

/-- A csrw of VFLAGS and flags that land in one cycle, in either order, leave the written value OR the flags; flags alone are ORed in and change nothing else; in user mode the lowest enabled flag leaves one trap for the next boundary with code 0x40 + 8 × flag + unit and the op's address; in supervisor mode, or with none enabled, none. (That a flag trap which is pending already stays, and the later one adds none, is the model's choice, log 73.) (R257, R258, R259, R398.) -/
def Obligations.FlagsLand : Prop :=  (∀ (s : State) (e1 e2 : PEntry) (v : Word64) (f : BitVec 6), (∃ n, s.ctx.agent = .pawn n ∧ n < 16) ∨ s.ctx.agent = .primary →
    e1.eff = .csr 0x020 v → e2.eff = .flags f →
    ∀ l ∈ [[e1, e2], [e2, e1]], (s.landAll l).th.vflags = v.setWidth 6 ||| f) ∧
  (∀ (s : State) (l : List PEntry), (∃ n, s.ctx.agent = .pawn n ∧ n < 16) ∨ s.ctx.agent = .primary →
    (∀ e ∈ l, ∃ f, e.eff = .flags f) →
    let u := s.landAll l
    (∀ n : Nat, u.th.vflags.getLsbD n = (s.th.vflags.getLsbD n || l.any fun e => match e.eff with
      | .flags f => f.getLsbD n
      | _ => false)) ∧ u.th.mode = s.th.mode ∧ u.core = s.core ∧ u.prim.s = s.prim.s ∧ u.prim.v = s.prim.v ∧ u.sameOutside s) ∧
  (∀ (s : State) (e : PEntry) (f : BitVec 6), (∃ n, s.ctx.agent = .pawn n ∧ n < 16) ∨ s.ctx.agent = .primary → e.eff = .flags f →
    (e.sup = true ∨ enabledFlags s.core.cfg.trapen f = 0 → (s.landAll [e]).th.flagTrap = s.th.flagTrap) ∧
    (∀ x, s.th.flagTrap = some x → (s.landAll [e]).th.flagTrap = some x) ∧
    (∀ n < 5, e.sup = false → s.th.flagTrap = none → (enabledFlags s.core.cfg.trapen f).getLsbD n = true →
      (∀ m < n, (enabledFlags s.core.cfg.trapen f).getLsbD m = false) →
      ∃ x, (s.landAll [e]).th.flagTrap = some x ∧ x.code = BitVec.ofNat 9 (0x40 + 8 * n + e.unit) ∧ x.addr = e.pc ∧
        x.slot = if s.isPawn then 15 else e.slot))

/-- When two results for one register land in one cycle, whatever their order in the queue, the register holds that of the later op: a scalar, vector, predicate, mask or index register of the primary, its forwarding latch, a scalar, vector, predicate or mask register of a pawn, an accumulator, and the binding of a tile or a weight slot (scale registers stand in ScaleRegisterWrites, control registers in ControlRegisters). Ops of a bundle are numbered in slot order, so the higher slot stands; writes in successive cycles replace each other; a landing in one pawn changes no other thread; a landing in one scalar register of the primary changes no other. (R57.) -/
def Obligations.LandingOrder : Prop :=  (∀ (s : State) (e1 e2 : PEntry) (r : Nat) (v1 v2 : Wide), e1.op < e2.op → ∀ l ∈ [[e1, e2], [e2, e1]],
    (s.ctx.agent = .primary → r < 60 → e1.eff = .reg (.s r) v1 → e2.eff = .reg (.s r) v2 →
      vget (s.landAll (sortEntries l)).prim.s r 0 = v2.setWidth 64) ∧
    (s.ctx.agent = .primary → r < 58 → e1.eff = .reg (.v r) v1 → e2.eff = .reg (.v r) v2 →
      vget (s.landAll (sortEntries l)).prim.v r 0 = v2.setWidth 2048) ∧
    (s.ctx.agent = .primary → r < 16 → e1.eff = .reg (.b r) v1 → e2.eff = .reg (.b r) v2 →
      vget (s.landAll (sortEntries l)).prim.b r false = v2.getLsbD 0) ∧
    (s.ctx.agent = .primary → r < 8 → e1.eff = .reg (.m r) v1 → e2.eff = .reg (.m r) v2 →
      vget (s.landAll (sortEntries l)).prim.m r 0 = v2.setWidth 64) ∧
    (s.ctx.agent = .primary → r < 4 → e1.eff = .reg (.ib r) v1 → e2.eff = .reg (.ib r) v2 →
      vget (s.landAll (sortEntries l)).prim.ib r 0 = v2.setWidth 6) ∧
    (s.ctx.agent = .primary → e1.eff = .mx v1 → e2.eff = .mx v2 →
      vget (s.landAll (sortEntries l)).prim.v 56 0 = v2.setWidth 2048 ∧
        vget (s.landAll (sortEntries l)).prim.v 57 0 = (v2 >>> 2048).setWidth 2048) ∧
    (∀ t < 16, s.ctx.agent = .pawn t → r < 64 → e1.eff = .reg (.s r) v1 → e2.eff = .reg (.s r) v2 →
      vget ((s.landAll (sortEntries l)).pawn t).x r 0 = v2.setWidth 64) ∧
    (∀ t < 16, s.ctx.agent = .pawn t → r < 8 → e1.eff = .reg (.v r) v1 → e2.eff = .reg (.v r) v2 →
      vget ((s.landAll (sortEntries l)).pawn t).y r 0 = v2.setWidth 1024) ∧
    (∀ t < 16, s.ctx.agent = .pawn t → r < 8 → e1.eff = .reg (.b r) v1 → e2.eff = .reg (.b r) v2 →
      vget ((s.landAll (sortEntries l)).pawn t).b r false = v2.getLsbD 0) ∧
    (∀ t < 16, s.ctx.agent = .pawn t → r < 4 → e1.eff = .reg (.m r) v1 → e2.eff = .reg (.m r) v2 →
      vget ((s.landAll (sortEntries l)).pawn t).m r 0 = v2.setWidth 32)) ∧
  (∀ (s : State) (e1 e2 : PEntry) (r : Nat), e1.op < e2.op → ∀ l ∈ [[e1, e2], [e2, e1]],
    (∀ (a1 a2 : BitVec 131072) (k1 k2 : Nat), r < 8 → e1.eff = .acc r a1 k1 → e2.eff = .acc r a2 k2 →
      vget (s.landAll (sortEntries l)).core.acc r 0 = a2) ∧
    (∀ b1 b2 : Option (Nat × Nat), r < 16 → e1.eff = .bindTile r b1 → e2.eff = .bindTile r b2 →
      (vget (s.landAll (sortEntries l)).core.t r ⟨0, Tag.unbound⟩).data = (vget s.core.t r ⟨0, Tag.unbound⟩).data ∧
      ∀ z base, b2 = some (z, base) → (vget (s.landAll (sortEntries l)).core.t r ⟨0, Tag.unbound⟩).tag = s.bindTag z base) ∧
    (∀ z1 z2 a1 a2 : Nat, r < 32 → e1.eff = .bindSlot r z1 a1 → e2.eff = .bindSlot r z2 a2 →
      (vget (s.landAll (sortEntries l)).core.w r WSlot.unloaded).tag = s.bindTag z2 a2)) ∧
  (∀ s : State, s.ctx.agent = .primary → ∀ (n : Nat) (e : Eff),
    (s.entry n e).op = s.prim.opCount ∧ s.advance.prim.opCount = s.prim.opCount + 1) ∧
  (∀ (s : State) (r : Nat) (v1 v2 : Wide),
    (s.ctx.agent = .primary → r < 60 → vget ((s.setReg (.s r) v1).setReg (.s r) v2).prim.s r 0 = v2.setWidth 64) ∧
    (∀ t < 16, s.ctx.agent = .pawn t → r < 64 → vget (((s.setReg (.s r) v1).setReg (.s r) v2).pawn t).x r 0 = v2.setWidth 64)) ∧
  (∀ (s : State) (d : Dst) (v1 v2 : Wide), (∀ p r, d ≠ .sport p r) → (∀ p r, d ≠ .vport p r) →
    (s.setReg d v1).setReg d v2 = s.setReg d v2) ∧
  (∀ (s : State) (t : Nat) (d : Dst) (v : Wide), s.ctx.agent = .pawn t →
    (∀ n, n ≠ t → (s.setReg d v).pawn n = s.pawn n) ∧ (s.setReg d v).prim = s.prim) ∧
  (∀ (s : State) (r n : Nat) (v : Wide), s.ctx.agent = .primary → n ≠ r → n < 60 →
    vget (s.setReg (.s r) v).prim.s n 0 = vget s.prim.s n 0 ∧ (s.setReg (.s r) v).prim.v = s.prim.v ∧
      (s.setReg (.s r) v).prim.b = s.prim.b ∧ (s.setReg (.s r) v).prim.m = s.prim.m ∧ (s.setReg (.s r) v).pawns = s.pawns ∧
      (s.setReg (.s r) v).sameOutside s)

/-- A landing write replaces the entries that it names, sets FMT, raises GEN by 1 (0xFFFF_FFFF gives 1), and gives a bound tag on the register, of a tile or of a weight slot, the new generation where the write keeps and the tag was live, and 0 otherwise; every other tag, scale register, the data of tiles and weight slots and all memory stay. Of two writes that land in one cycle only the last counts. (R57, R265, R267, R272.) -/
def Obligations.ScaleRegisterWrites : Prop :=  (∀ (s : State) (z first n : Nat) (fmt keep : Bool) (v : Wide), z < 32 → first + n ≤ 512 →
    let u := s.landZ z first n fmt keep v
    (u.zreg z).gen = (if (s.zreg z).gen = 0xFFFFFFFF#32 then 1 else (s.zreg z).gen + 1) ∧ (u.zreg z).fmt = fmt ∧
      (∀ j < 512, (u.zreg z).e.extractLsb' (8 * j) 8 =
        if first ≤ j ∧ j < first + n then v.extractLsb' (8 * (j - first)) 8 else (s.zreg z).e.extractLsb' (8 * j) 8) ∧
      (∀ y, y ≠ z → u.zreg y = s.zreg y) ∧ u.core.acc = s.core.acc ∧ u.core.wptr = s.core.wptr ∧ u.prim = s.prim ∧
      u.pawns = s.pawns ∧ u.sameOutside s ∧
      (∀ t < 16, let old := vget s.core.t t ⟨0, Tag.unbound⟩; let new := vget u.core.t t ⟨0, Tag.unbound⟩
        new.data = old.data ∧ new.tag.bound = old.tag.bound ∧ new.tag.z = old.tag.z ∧ new.tag.base = old.tag.base ∧
        (¬(old.tag.bound = true ∧ old.tag.z = z) → new.tag = old.tag) ∧
        (old.tag.bound = true → old.tag.z = z → keep = true → old.tag.gen = (s.zreg z).gen → (s.zreg z).gen ≠ 0 →
          new.tag.gen = (u.zreg z).gen) ∧
        (old.tag.bound = true → old.tag.z = z → keep = false ∨ old.tag.gen ≠ (s.zreg z).gen → new.tag.gen = 0)) ∧
      ∀ w < 32, let old := vget s.core.w w WSlot.unloaded; let new := vget u.core.w w WSlot.unloaded
        new = { old with tag := new.tag } ∧ new.tag.bound = old.tag.bound ∧ new.tag.z = old.tag.z ∧ new.tag.base = old.tag.base ∧
        (¬(old.tag.bound = true ∧ old.tag.z = z) → new.tag = old.tag) ∧
        (old.tag.bound = true → old.tag.z = z → keep = true → old.tag.gen = (s.zreg z).gen → (s.zreg z).gen ≠ 0 →
          new.tag.gen = (u.zreg z).gen) ∧
        (old.tag.bound = true → old.tag.z = z → keep = false ∨ old.tag.gen ≠ (s.zreg z).gen → new.tag.gen = 0)) ∧
  (∀ (s : State) (z : Nat) (e1 e2 : PEntry) (a b : Nat) (fmt keep : Bool) (v : Wide), e1.zDst = some z →
    e2.eff = .reg (.z z a b fmt keep) v → s.landZs [e1, e2] z = s.landZ z a b fmt keep v)

/-- For each writable control register of the primary and of a pawn: after a write takes effect it reads the written value in its defined bits and 0 elsewhere, and no other of them changes, nor any memory; a write of a read-only register changes nothing; WDOG keeps ELAPSED; a descriptor takes its writable bits; a route takes PORT, DEST, RXFAR and SPAN as written, with HOPS and PATH as the model computes them for DEST; and a write of TSTAT with bit 2 set clears EXC alone. (R8, R72, R73, R85, R89, R218, R222, R224, R248, R257, R393.) -/
def Obligations.ControlRegisters : Prop :=  let own : List (Nat × Word64) := [(0x10, 0xFFFFFFFF#64), (0x11, 0x801FFFFF001FFFFF#64), (0x12, 0xFFFFFFFF#64), (0x13, 0x801FFFFF001FFFFF#64)]
  let each : List (Nat × Word64) := [(0x18, BitVec.allOnes 64), (0x20, 0x3F#64), (0x28, BitVec.allOnes 64), (0x29, BitVec.allOnes 64),
    (0x2A, BitVec.allOnes 64), (0x2B, BitVec.allOnes 64), (0x2C, 0x00FFFFFFFFFFFFFF#64), (0x30, 0x1FFFFF#64), (0x31, 0x1FFFF#64),
    (0x32, 0x1FFFFF#64), (0x33, 0x1FFFFF#64), (0x34, BitVec.allOnes 64), (0x35, BitVec.allOnes 64), (0x36, BitVec.allOnes 64),
    (0x37, BitVec.allOnes 64), (0x38, BitVec.allOnes 64), (0x39, BitVec.allOnes 64)]
  let ro : List Nat := [0x19, 0x1A, 0x3A, 0xC0, 0xD0, 0xD8, 0xD9, 0xDA, 0xDB, 0xDC, 0xE0, 0xE1, 0xF0, 0xF1, 0xF2, 0xF4] ++
    (List.range 10).map (0xA0 + ·) ++ (List.range 8).map (0xC8 + ·) ++ (List.range 64).map (0x140 + ·) ++ (List.range 17).map (0x180 + ·)
  (∀ (s : State) (v : Word64), s.ctx.agent = .primary → ∀ p ∈ own ++ each,
    (s.csrWrite p.1 v).csrRead p.1 = v &&& p.2 ∧ (∀ q ∈ own ++ each, q.1 ≠ p.1 → (s.csrWrite p.1 v).csrRead q.1 = s.csrRead q.1) ∧
      (s.csrWrite p.1 v).sameOutside s ∧ (s.csrWrite p.1 v).pawns = s.pawns ∧ (s.csrWrite p.1 v).prim.s = s.prim.s) ∧
  (∀ (s : State) (t : Nat) (v : Word64), t < 16 → s.ctx.agent = .pawn t → ∀ p ∈ each,
    (s.csrWrite p.1 v).csrRead p.1 = v &&& p.2 ∧ (∀ q ∈ each, q.1 ≠ p.1 → (s.csrWrite p.1 v).csrRead q.1 = s.csrRead q.1) ∧
      (s.csrWrite p.1 v).sameOutside s ∧ (s.csrWrite p.1 v).prim = s.prim ∧ ∀ n, n ≠ t → (s.csrWrite p.1 v).pawn n = s.pawn n) ∧
  (∀ (s : State) (v : Word64), ∀ i ∈ ro, s.csrWrite i v = s) ∧
  (∀ (s : State) (v : Word64), (s.csrWrite 0xC1 v).core.wdogLimit = v.setWidth 16 ∧
    (s.csrWrite 0xC1 v).core.wdogElapsed = s.core.wdogElapsed) ∧
  (∀ (s : State) (n : Nat) (v : Word64), n < 16 → vget (s.csrWrite (0x100 + n) v).core.fd n 0 = v.setWidth 32 &&& 0x0007FF7F#32) ∧
  (∀ (s : State) (n : Nat) (v : Word64), n < 8 → let r := (s.csrWrite (0xF8 + n) v).csrRead (0xF8 + n)
    let h := s.pathTo (bits v.toNat 21 10)
    r.extractLsb' 0 48 = (v &&& 0x3F00FFE00003#64).extractLsb' 0 48 ∧ r.extractLsb' 48 16 = BitVec.ofNat 16 (h.1 + 64 * h.2) ∧
      (∀ m < 8, m ≠ n → (s.csrWrite (0xF8 + n) v).csrRead (0xF8 + m) = s.csrRead (0xF8 + m)) ∧
      (s.csrWrite (0xF8 + n) v).sameOutside s ∧ (s.csrWrite (0xF8 + n) v).pawns = s.pawns ∧ (s.csrWrite (0xF8 + n) v).core = s.core ∧
      (s.csrWrite (0xF8 + n) v).prim.s = s.prim.s ∧ (s.csrWrite (0xF8 + n) v).prim.th = s.prim.th) ∧
  (∀ (s : State) (v : Word64), (s.csrWrite 0xF3 v).csrRead 0xF3 = (if v.getLsbD 2 then s.csrRead 0xF3 &&& ~~~4#64 else s.csrRead 0xF3) ∧
    s.csrWrite 0xF3 v = (if v.getLsbD 2 then s.updPrim (fun p => { p with exc := false }) else s)) ∧
  (∀ (s : State) (e : PEntry) (c : BitVec 12) (v : Word64), e.eff = .csr c v → s.landReg e = s.csrWrite c.toNat v)

/-- The bank write of a store leaves the value, little-endian, at its address and every other byte as it was; each scalar and vector store queues exactly that write for the address s[A] + offset, computed by the model's own effective-address function at issue, on the primary two cycles on and for a pawn at its grant (a deterministic pawn's bytes wait in its chunk, log 72); device and host memory and registers stay. (R7, R139, R148, R149.) -/
def Obligations.StoresWriteTheirBytes : Prop :=  (∀ (s : State) (n a v c : Nat), s.lm.wf = true →
    memRead (s.lmStore n [a] [v]).lm a n = v % 256 ^ n ∧
      (c < a ∨ a + n ≤ c → memGet (s.lmStore n [a] [v]).lm c = memGet s.lm c)) ∧
  (∀ (s : State) (n : Nat) (as vs : List Nat) (c : Nat), s.lm.wf = true → (∀ a ∈ as, c < a ∨ a + n ≤ c) →
    memGet (s.lmStore n as vs).lm c = memGet s.lm c ∧ (s.lmStore n as vs).pm = s.pm ∧ (s.lmStore n as vs).hm = s.hm ∧
      (s.lmStore n as vs).prim = s.prim ∧ (s.lmStore n as vs).core = s.core) ∧
  (∀ (s : State) (e : PEntry) (n : Nat) (as vs : List Nat), e.eff = .bank (.write as n vs) → s.bankWrite e = s.lmStore n as vs) ∧
  (∀ (s : State) (t : Nat) (w : Waiting) (n : Nat) (as vs : List Nat), w.acc = .write as n vs →
    (s.buffers w = false → (s.performAccess t w).lm = (s.lmStore n as vs).lm) ∧ (s.buffers w = true → (s.performAccess t w).lm = s.lm) ∧
      (s.core.cfg.det = false → s.performAccess t w = s.lmStore n as vs)) ∧
  (∀ (s u : State) (k : Bool) (d a : Field6) (o : BitVec 10),
    (∀ p ∈ [(Instr.stb k d a o, 1), (.sth k d a o, 2), (.stw k d a o, 4), (.st k d a o, 8)],
      s.ctx.checked = true ∨ s.ready (specOf p.1) = true → exec p.1 s = .next u →
      (s.ctx.agent = .primary → ∃ e, e.count = 2 ∧
        e.eff = .bank (.write [s.key (s.ea a o p.2)] p.2 [(s.readS d).toNat % 2 ^ (8 * p.2)]) ∧
        u.prim.fl.pend = s.prim.fl.pend ++ [e]) ∧
      (∀ t < 16, s.ctx.agent = .pawn t → s.core.cfg.det = false → ∃ w,
        w.acc = .write [s.key (s.ea a o p.2)] p.2 [(s.readS d).toNat % 2 ^ (8 * p.2)] ∧
        (u.pawn t).waiting = (s.pawn t).waiting ++ [w])) ∧
    (∀ p ∈ [(Instr.vst d a o, 4), (.vsth k d a o, 2)],
      s.ctx.checked = true ∨ s.ready (specOf p.1) = true → exec p.1 s = .next u → s.ctx.agent = .primary →
      ∃ e, e.count = 2 ∧ e.eff = .bank (.write (s.runKeys (s.ea a o 8) p.2 64) p.2 (s.laneBytes d p.2)) ∧
        u.prim.fl.pend = s.prim.fl.pend ++ [e]))

/-- Where the operand is readable, its line is not dirty in the cache and no page reaches its access threshold, the step at the home slice writes the new value of the function to the operand's bytes, or nothing for a failed compare; every other byte of device memory, local and host memory and every register stay, and the request holds the old value for its reply. (Whether the access is one that missed L2, which the request notes, is a free value where the spec leaves it open, log 70.) (R188, R192, R193.) -/
def Obligations.AtomicFrame : Prop :=  ∀ (s : State) (t fn size : Nat) (r : GReq) (v c : Word64), t < 16 → s.firstReq t (fun r => r.kind.isAtomic) = some r →
    r.kind = .atomic fn size v c → s.pm.wf = true → s.pmBad r.pa size = false →
    (∀ l, s.cacheLine (r.pa / 64) = some l → l.dirty = 0) → 2 ≤ bits (s.devReg 0x300) 0 16 →
    (∀ e ∈ s.dev.pact, e.count + 1 < bits (s.devReg 0x300) 0 16) →
    ∃ u, exec (.homeAtomic t) s = .next u ∧
      (∀ x, x < r.pa ∨ r.pa + size ≤ x → memGet u.pm x = memGet s.pm x) ∧
      (∀ y, gaNew fn (8 * size) (memRead s.pm r.pa size) (v.toNat % 2 ^ (8 * size)) (c.toNat % 2 ^ (8 * size)) = some y →
        memRead u.pm r.pa size = y % 256 ^ size) ∧
      (gaNew fn (8 * size) (memRead s.pm r.pa size) (v.toNat % 2 ^ (8 * size)) (c.toNat % 2 ^ (8 * size)) = none → u.pm = s.pm) ∧
      (u.pawn t).reqs = (s.pawn t).reqs.map (fun q => if q.id = r.id then
        { q with done := some (gaReply fn size (memRead s.pm r.pa size), false), miss := s.fillMiss r.pa false r.alloc } else q) ∧
      u.lm = s.lm ∧ u.hm = s.hm ∧ u.prim = s.prim ∧ (s.core.cfg.det = false → ∀ n, (u.pawn n).sameRegs (s.pawn n)) ∧
      ∀ n, (u.pawn n).x = (s.pawn n).x ∧ (u.pawn n).y = (s.pawn n).y ∧ (u.pawn n).b = (s.pawn n).b ∧ (u.pawn n).m = (s.pawn n).m ∧
        (u.pawn n).th = (s.pawn n).th ∧ (u.pawn n).mbox = (s.pawn n).mbox

/-- For each of ADD, SUB, AND, OR, XOR, ANDN, MIN, MAX, MINU, MAXU, ADDW, SUBW, MOV, ADDI, ANDI, ORI, LUI, SHL, SHR, SAR, ROTL, ROTR, CLZ, CTZ, POPC, BSWAP, BFX, BFXU, BFI, SHLI, SHRI, SARI, ROTLI, PPACK, SEL: where a pawn with nothing in flight and no word of its core struck bad issues the op, the program counter is the next op word, and after the landings of the next barrel cycle x[d] holds the value computed from the operands at issue; a write to x0 is dropped; every other register of the thread, every other thread, the primary and all memory are unchanged. (R36, R56, R61, R79, R95, R96, R99, R100, R103.) -/
def Obligations.PawnScalarResults : Prop :=  (∀ k d a b, PawnWrites (.add k d a b) d fun s => s.readS a + s.readS b) ∧
  (∀ k d a b, PawnWrites (.sub k d a b) d fun s => s.readS a - s.readS b) ∧
  (∀ k d a b, PawnWrites (.and k d a b) d fun s => s.readS a &&& s.readS b) ∧
  (∀ k d a b, PawnWrites (.or k d a b) d fun s => s.readS a ||| s.readS b) ∧
  (∀ k d a b, PawnWrites (.xor k d a b) d fun s => s.readS a ^^^ s.readS b) ∧
  (∀ k d a b, PawnWrites (.andn k d a b) d fun s => s.readS a &&& ~~~(s.readS b)) ∧
  (∀ k d a b, PawnWrites (.min k d a b) d fun s => if (s.readS a).toInt ≤ (s.readS b).toInt then s.readS a else s.readS b) ∧
  (∀ k d a b, PawnWrites (.max k d a b) d fun s => if (s.readS a).toInt ≤ (s.readS b).toInt then s.readS b else s.readS a) ∧
  (∀ k d a b, PawnWrites (.minu k d a b) d fun s => if s.readS a ≤ s.readS b then s.readS a else s.readS b) ∧
  (∀ k d a b, PawnWrites (.maxu k d a b) d fun s => if s.readS a ≤ s.readS b then s.readS b else s.readS a) ∧
  (∀ k d a b, PawnWrites (.addw k d a b) d fun s => sext32 (s.readS a + s.readS b)) ∧
  (∀ k d a b, PawnWrites (.subw k d a b) d fun s => sext32 (s.readS a - s.readS b)) ∧
  (∀ k d a, PawnWrites (.mov k d a) d fun s => s.readS a) ∧
  (∀ k d a i, PawnWrites (.addi k d a i) d fun s => s.readS a + s.imm i) ∧
  (∀ k d a i, PawnWrites (.andi k d a i) d fun s => s.readS a &&& s.imm i) ∧
  (∀ k d a i, PawnWrites (.ori k d a i) d fun s => s.readS a ||| s.immZ i) ∧
  (∀ k d i, PawnWrites (.lui k d i) d fun s => s.immHigh i) ∧
  (∀ k d a b, PawnWrites (.shl k d a b) d fun s => s.readS a <<< ((s.readS b).toNat % 64)) ∧
  (∀ k d a b, PawnWrites (.shr k d a b) d fun s => s.readS a >>> ((s.readS b).toNat % 64)) ∧
  (∀ k d a b, PawnWrites (.sar k d a b) d fun s => (s.readS a).sshiftRight ((s.readS b).toNat % 64)) ∧
  (∀ k d a b, PawnWrites (.rotl k d a b) d fun s => (s.readS a).rotateLeft ((s.readS b).toNat % 64)) ∧
  (∀ k d a b, PawnWrites (.rotr k d a b) d fun s => (s.readS a).rotateRight ((s.readS b).toNat % 64)) ∧
  (∀ k d a, PawnWrites (.clz k d a) d fun s => BitVec.ofNat 64 (leadingZeros (s.readS a).toNat 64)) ∧
  (∀ k d a, PawnWrites (.ctz k d a) d fun s => BitVec.ofNat 64 (trailingZeros (s.readS a).toNat 64)) ∧
  (∀ k d a, PawnWrites (.popc k d a) d fun s => BitVec.ofNat 64 (popCount (s.readS a).toNat 64)) ∧
  (∀ k d a, PawnWrites (.bswap k d a) d fun s => BitVec.ofNat 64 (swapBytes (s.readS a).toNat 8)) ∧
  (∀ k d a b, PawnWrites (.bfx k d a b) d fun s => if fieldLen (s.readS b) = 0 then 0 else
      BitVec.ofInt 64 (signedOf (fieldLen (s.readS b)) (bits (s.readS a).toNat (fieldPos (s.readS b)) (fieldLen (s.readS b))))) ∧
  (∀ k d a b, PawnWrites (.bfxu k d a b) d fun s => BitVec.ofNat 64 (bits (s.readS a).toNat (fieldPos (s.readS b)) (fieldLen (s.readS b)))) ∧
  (∀ k d a b, PawnWrites (.bfi k d a b) d fun s => if fieldLen (s.readS b) = 0 then s.readS d else
    BitVec.ofNat 64 (setBits (s.readS d).toNat (fieldPos (s.readS b)) (fieldLen (s.readS b)) (s.readS a).toNat)) ∧
  (∀ k d a n, PawnWrites (.shli k d a n) d fun s => s.readS a <<< n.toNat) ∧
  (∀ k d a n, PawnWrites (.shri k d a n) d fun s => s.readS a >>> n.toNat) ∧
  (∀ k d a n, PawnWrites (.sari k d a n) d fun s => (s.readS a).sshiftRight (n.toNat)) ∧
  (∀ k d a n, PawnWrites (.rotli k d a n) d fun s => (s.readS a).rotateLeft (n.toNat)) ∧
  (∀ k d, PawnWrites (.ppack k d) d fun s => BitVec.ofNat 64 (packElems 1 ((List.range (s.lat 16 8)).map fun i => b2n (s.readB i)))) ∧
  (∀ k d a b p, PawnWrites (.sel k d a b p) d fun s => if s.readB p.toNat then s.readS a else s.readS b)

/-- For each integer and scalar floating-point op: when it issues with its own effect, no memory, error mark, die, device or part state changes, and no register of any thread or of the core (tiles, weight slots, accumulators, scale registers, descriptors, write pointers) but program counters, pipelines and the freshness of latches; in the stochastic rounding mode SRCTR counts one draw. (R56, R79, R95, R96, R97, R98, R99, R101, R103, R263, R286.) -/
def Obligations.ScalarFrame : Prop :=  (∀ k d a b, KeepsRegs (.add k d a b)) ∧ (∀ k d a b, KeepsRegs (.sub k d a b)) ∧ (∀ k d a b, KeepsRegs (.and k d a b)) ∧
  (∀ k d a b, KeepsRegs (.or k d a b)) ∧ (∀ k d a b, KeepsRegs (.xor k d a b)) ∧ (∀ k d a b, KeepsRegs (.andn k d a b)) ∧
  (∀ k d a b, KeepsRegs (.min k d a b)) ∧ (∀ k d a b, KeepsRegs (.max k d a b)) ∧ (∀ k d a b, KeepsRegs (.minu k d a b)) ∧
  (∀ k d a b, KeepsRegs (.maxu k d a b)) ∧ (∀ k d a b, KeepsRegs (.addw k d a b)) ∧ (∀ k d a b, KeepsRegs (.subw k d a b)) ∧
  (∀ k d a, KeepsRegs (.mov k d a)) ∧ (∀ k d a i, KeepsRegs (.addi k d a i)) ∧ (∀ k d a i, KeepsRegs (.andi k d a i)) ∧
  (∀ k d a i, KeepsRegs (.ori k d a i)) ∧ (∀ k d i, KeepsRegs (.lui k d i)) ∧ (∀ k d a b, KeepsRegs (.cmpEq k d a b)) ∧
  (∀ k d a b, KeepsRegs (.cmpNe k d a b)) ∧ (∀ k d a b, KeepsRegs (.cmpLt k d a b)) ∧ (∀ k d a b, KeepsRegs (.cmpGe k d a b)) ∧
  (∀ k d a b, KeepsRegs (.cmpLtu k d a b)) ∧ (∀ k d a b, KeepsRegs (.cmpGeu k d a b)) ∧ (∀ k d a b, KeepsRegs (.pand k d a b)) ∧
  (∀ k d a b, KeepsRegs (.por k d a b)) ∧ (∀ k d a b, KeepsRegs (.pxor k d a b)) ∧ (∀ k d a b, KeepsRegs (.pandn k d a b)) ∧
  (∀ k d a, KeepsRegs (.pnot k d a)) ∧ (∀ k p a i, KeepsRegs (.cmpiEq k p a i)) ∧ (∀ k p a i, KeepsRegs (.cmpiNe k p a i)) ∧
  (∀ k p a i, KeepsRegs (.cmpiLt k p a i)) ∧ (∀ k p a i, KeepsRegs (.cmpiGe k p a i)) ∧ (∀ k d a b, KeepsRegs (.shl k d a b)) ∧
  (∀ k d a b, KeepsRegs (.shr k d a b)) ∧ (∀ k d a b, KeepsRegs (.sar k d a b)) ∧ (∀ k d a b, KeepsRegs (.rotl k d a b)) ∧
  (∀ k d a b, KeepsRegs (.rotr k d a b)) ∧ (∀ k d a, KeepsRegs (.clz k d a)) ∧ (∀ k d a, KeepsRegs (.ctz k d a)) ∧
  (∀ k d a, KeepsRegs (.popc k d a)) ∧ (∀ k d a, KeepsRegs (.bswap k d a)) ∧ (∀ k d a b, KeepsRegs (.bfx k d a b)) ∧
  (∀ k d a b, KeepsRegs (.bfxu k d a b)) ∧ (∀ k d a b, KeepsRegs (.bfi k d a b)) ∧ (∀ k d a n, KeepsRegs (.shli k d a n)) ∧
  (∀ k d a n, KeepsRegs (.shri k d a n)) ∧ (∀ k d a n, KeepsRegs (.sari k d a n)) ∧ (∀ k d a n, KeepsRegs (.rotli k d a n)) ∧
  (∀ k d a b, KeepsRegs (.mul k d a b)) ∧ (∀ k d a b, KeepsRegs (.mulh k d a b)) ∧ (∀ k d a b, KeepsRegs (.mulhu k d a b)) ∧
  (∀ k d a b, KeepsRegs (.mulw k d a b)) ∧ (∀ k d a b, KeepsRegs (.div k d a b)) ∧ (∀ k d a b, KeepsRegs (.divu k d a b)) ∧
  (∀ k d a b, KeepsRegs (.rem k d a b)) ∧ (∀ k d a b, KeepsRegs (.remu k d a b)) ∧
  (∀ k d a b r, KeepsRegsRounding (.fadd k d a b r) r.toNat) ∧ (∀ k d a b r, KeepsRegsRounding (.fsub k d a b r) r.toNat) ∧
  (∀ k d a b r, KeepsRegsRounding (.fmul k d a b r) r.toNat) ∧ (∀ k d a b r, KeepsRegsRounding (.fdiv k d a b r) r.toNat) ∧
  (∀ k d a r, KeepsRegsRounding (.fsqrt k d a r) r.toNat) ∧ (∀ k d a b, KeepsRegs (.fmin k d a b)) ∧
  (∀ k d a b, KeepsRegs (.fmax k d a b)) ∧ (∀ k d a, KeepsRegs (.fabs k d a)) ∧ (∀ k d a, KeepsRegs (.fneg k d a)) ∧
  (∀ k d a b, KeepsRegs (.fcmpEq k d a b)) ∧ (∀ k d a b, KeepsRegs (.fcmpLt k d a b)) ∧ (∀ k d a b, KeepsRegs (.fcmpLe k d a b)) ∧
  (∀ k d a b, KeepsRegs (.fcmpUn k d a b)) ∧ (∀ k d a r, KeepsRegsRounding (.cvtFI k d a r) r.toNat) ∧
  (∀ k d a r, KeepsRegsRounding (.cvtFU k d a r) r.toNat) ∧ (∀ k d a r, KeepsRegsRounding (.cvtIF k d a r) r.toNat) ∧
  (∀ k d a r, KeepsRegsRounding (.cvtUF k d a r) r.toNat) ∧ (∀ k d a r, KeepsRegsRounding (.cvtBfF k d a r) r.toNat) ∧
  (∀ k d a r, KeepsRegsRounding (.cvtHF k d a r) r.toNat) ∧ (∀ k d a, KeepsRegs (.cvtFBf k d a)) ∧ (∀ k d a, KeepsRegs (.cvtFH k d a)) ∧
  (∀ d a, KeepsRegs (.ibw d a)) ∧ (∀ d a, KeepsRegs (.ibr d a)) ∧ (∀ k d, KeepsRegs (.ppack k d)) ∧ (∀ k a, KeepsRegs (.punpk k a)) ∧
  (∀ k d a b p, KeepsRegs (.sel k d a b p))

/-- For each vector op: when it issues with its own effect, no memory, error mark, die, device or part state changes, and no register of any thread or of the core (tiles, weight slots, accumulators, scale registers, descriptors, write pointers) but program counters, pipelines and the freshness of latches; in the stochastic rounding mode SRCTR counts one draw. (R56, R263, R281, R289, R291, R294, R300, R302.) -/
def Obligations.VectorFrame : Prop :=  (∀ k d a b r, KeepsRegsRounding (.vadd k d a b r) r.toNat) ∧ (∀ k d a b r, KeepsRegsRounding (.vsub k d a b r) r.toNat) ∧
  (∀ k d a b r, KeepsRegsRounding (.vmul k d a b r) r.toNat) ∧ (∀ k d a b r, KeepsRegsRounding (.vdiv k d a b r) r.toNat) ∧
  (∀ k d a b, KeepsRegs (.vmin k d a b)) ∧ (∀ k d a b, KeepsRegs (.vmax k d a b)) ∧ (∀ k d a, KeepsRegs (.vabs k d a)) ∧
  (∀ k d a, KeepsRegs (.vneg k d a)) ∧ (∀ k d a r, KeepsRegsRounding (.vsqrt k d a r) r.toNat) ∧
  (∀ k d a b r, KeepsRegsRounding (.vfma k d a b r) r.toNat) ∧ (∀ k d a b r, KeepsRegsRounding (.vfms k d a b r) r.toNat) ∧
  (∀ k d a b r, KeepsRegsRounding (.vfnma k d a b r) r.toNat) ∧ (∀ k d a b, KeepsRegs (.viadd k d a b)) ∧
  (∀ k d a b, KeepsRegs (.visub k d a b)) ∧ (∀ k d a b, KeepsRegs (.vimul k d a b)) ∧ (∀ k d a b, KeepsRegs (.viand k d a b)) ∧
  (∀ k d a b, KeepsRegs (.vior k d a b)) ∧ (∀ k d a b, KeepsRegs (.vixor k d a b)) ∧ (∀ k d a b, KeepsRegs (.vishl k d a b)) ∧
  (∀ k d a b, KeepsRegs (.vishr k d a b)) ∧ (∀ k d a b, KeepsRegs (.visar k d a b)) ∧ (∀ k d a b, KeepsRegs (.vimin k d a b)) ∧
  (∀ k d a b, KeepsRegs (.vimax k d a b)) ∧ (∀ k d a b, KeepsRegs (.viminu k d a b)) ∧ (∀ k d a b, KeepsRegs (.vimaxu k d a b)) ∧
  (∀ k d a b, KeepsRegs (.vcmpEq k d a b)) ∧ (∀ k d a b, KeepsRegs (.vcmpLt k d a b)) ∧ (∀ k d a b, KeepsRegs (.vcmpLe k d a b)) ∧
  (∀ k d a b, KeepsRegs (.vcmpUn k d a b)) ∧ (∀ k d a b, KeepsRegs (.vicmpEq k d a b)) ∧ (∀ k d a b, KeepsRegs (.vicmpLt k d a b)) ∧
  (∀ k d a b, KeepsRegs (.vicmpLtu k d a b)) ∧ (∀ k d a b p, KeepsRegs (.vsel k d a b p)) ∧ (∀ k d a b, KeepsRegs (.mand k d a b)) ∧
  (∀ k d a b, KeepsRegs (.mor k d a b)) ∧ (∀ k d a b, KeepsRegs (.mxor k d a b)) ∧ (∀ k d a, KeepsRegs (.mnot k d a)) ∧
  (∀ k d a, KeepsRegs (.mpop k d a)) ∧ (∀ k d a, KeepsRegs (.mmovToMask k d a)) ∧ (∀ k d a, KeepsRegs (.mmovFromMask k d a)) ∧
  (∀ k d a f, KeepsRegs (.vpack k d a f)) ∧ (∀ k d a f, KeepsRegs (.vunpack k d a f)) ∧ (∀ k d a b f, KeepsRegs (.vquant k d a b f)) ∧
  (∀ k d a b f, KeepsRegsRounding (.vquantRs k d a b f) 4) ∧ (∀ k d a f, KeepsRegsRounding (.vpackRs k d a f) 4) ∧
  (∀ k d a r, KeepsRegsRounding (.vcvtFI k d a r) r.toNat) ∧ (∀ k d a r, KeepsRegsRounding (.vcvtIF k d a r) r.toNat) ∧
  (∀ k d a r, KeepsRegsRounding (.vcvtBfF k d a r) r.toNat) ∧ (∀ k d a r, KeepsRegsRounding (.vcvtHF k d a r) r.toNat) ∧
  (∀ k d a, KeepsRegs (.vcvtFBf k d a)) ∧ (∀ k d a, KeepsRegs (.vcvtFH k d a)) ∧ (∀ k d a, KeepsRegs (.vnarrowI8 k d a)) ∧
  (∀ k d a, KeepsRegs (.vnarrowI4 k d a)) ∧ (∀ k d a, KeepsRegs (.vwidenI8 k d a)) ∧ (∀ k d a, KeepsRegs (.vwidenI4 k d a)) ∧
  (∀ k d a b, KeepsRegs (.vperm k d a b)) ∧ (∀ k d a b, KeepsRegs (.vbcl k d a b)) ∧ (∀ k d a, KeepsRegs (.vbcs k d a)) ∧
  (∀ k d a b, KeepsRegs (.vrot k d a b)) ∧ (∀ k d a b, KeepsRegs (.vext k d a b)) ∧ (∀ k d a b, KeepsRegs (.vins k d a b)) ∧
  (∀ k d a m, KeepsRegs (.vcompress k d a m)) ∧ (∀ k d a m, KeepsRegs (.vexpand k d a m)) ∧ (∀ k d a m, KeepsRegs (.vscanAdd k d a m)) ∧
  (∀ k d a m, KeepsRegs (.vscanMax k d a m)) ∧ (∀ k d a m, KeepsRegs (.vscanIadd k d a m)) ∧ (∀ k d a m, KeepsRegs (.vredAdd k d a m)) ∧
  (∀ k d a m, KeepsRegs (.vredMax k d a m)) ∧ (∀ k d a m, KeepsRegs (.vredMin k d a m)) ∧ (∀ k d a m, KeepsRegs (.vredIadd k d a m)) ∧
  (∀ k d a m, KeepsRegs (.vargmax k d a m)) ∧ (∀ k d a b, KeepsRegs (.vcx k d a b)) ∧ (∀ k d a b, KeepsRegs (.vcxD k d a b)) ∧
  (∀ k d a b, KeepsRegs (.vmrg k d a b)) ∧ (∀ k d a b, KeepsRegs (.vmrgD k d a b)) ∧ (∀ k d a b, KeepsRegs (.vdraw k d a b)) ∧
  (∀ k d a b, KeepsRegs (.vdrawF k d a b)) ∧ (∀ k d a, KeepsRegs (.vexp2 k d a)) ∧ (∀ k d a, KeepsRegs (.vrcp k d a)) ∧
  (∀ k d a, KeepsRegs (.vrsqrt k d a)) ∧ (∀ k d a, KeepsRegs (.vlog2 k d a))

/-- Frame of control, memory, scale, matrix and message ops: no data register and no memory changes at issue. (R56, R80, R88, R92, R135, R148, R165, R191, R192, R273, R312, R392.) -/
def Obligations.DataFrame : Prop :=  (∀ k, KeepsData (.nop k)) ∧ (∀ k i, KeepsData (.br k i)) ∧ (∀ k p i, KeepsData (.brT k p i)) ∧ (∀ k p i, KeepsData (.brF k p i)) ∧
  (∀ n a i, KeepsData (.loop n a i)) ∧ (∀ k l i, KeepsData (.call k l i)) ∧ (∀ k l a i, KeepsData (.calli k l a i)) ∧
  (∀ k a i, KeepsData (.jr k a i)) ∧ (∀ a b, KeepsData (.holdEq a b)) ∧ (∀ a b, KeepsData (.holdNe a b)) ∧
  (∀ a b, KeepsData (.holdLt a b)) ∧ (∀ a b, KeepsData (.holdGe a b)) ∧ (∀ a b, KeepsData (.holdLtu a b)) ∧
  (∀ a b, KeepsData (.holdGeu a b)) ∧ (∀ w b, KeepsData (.holdEqWp w b)) ∧ (∀ w b, KeepsData (.holdNeWp w b)) ∧
  (∀ w b, KeepsData (.holdLtWp w b)) ∧ (∀ w b, KeepsData (.holdGeWp w b)) ∧ (∀ w b, KeepsData (.holdLtuWp w b)) ∧
  (∀ w b, KeepsData (.holdGeuWp w b)) ∧ (∀ a, KeepsData (.tempo a)) ∧ (KeepsData (.tempoAny)) ∧ (∀ k d e, KeepsData (.eqcnt k d e)) ∧
  (∀ k a, KeepsData (.trap k a)) ∧ (KeepsData (.ibar)) ∧ (∀ k, KeepsData (.fenceCore k)) ∧ (∀ k, KeepsData (.fenceClus k)) ∧
  (∀ k, KeepsData (.fenceDie k)) ∧ (∀ k, KeepsData (.fencePkg k)) ∧ (∀ k, KeepsData (.fenceSys k)) ∧ (∀ k, KeepsData (.xfenceCore k)) ∧
  (∀ k, KeepsData (.xfenceClus k)) ∧ (∀ k, KeepsData (.xfenceDie k)) ∧ (∀ k, KeepsData (.xfencePkg k)) ∧ (∀ k, KeepsData (.xfenceSys k)) ∧
  (∀ k d c, KeepsData (.csrr k d c)) ∧ (∀ k a c, KeepsData (.csrw k a c)) ∧ (∀ k d n, KeepsData (.cwld k d n)) ∧
  (∀ k d a o, KeepsData (.ldb k d a o)) ∧ (∀ k d a o, KeepsData (.ldbu k d a o)) ∧ (∀ k d a o, KeepsData (.ldh k d a o)) ∧
  (∀ k d a o, KeepsData (.ldhu k d a o)) ∧ (∀ k d a o, KeepsData (.ldw k d a o)) ∧ (∀ k d a o, KeepsData (.ldwu k d a o)) ∧
  (∀ k d a o, KeepsData (.ld k d a o)) ∧ (∀ k d a o, KeepsData (.stb k d a o)) ∧ (∀ k d a o, KeepsData (.sth k d a o)) ∧
  (∀ k d a o, KeepsData (.stw k d a o)) ∧ (∀ k d a o, KeepsData (.st k d a o)) ∧ (∀ d a o, KeepsData (.vld d a o)) ∧
  (∀ d a o, KeepsData (.vst d a o)) ∧ (∀ k d a o, KeepsData (.vldh k d a o)) ∧ (∀ k d a o, KeepsData (.vsth k d a o)) ∧
  (∀ k d a o, KeepsData (.vldb k d a o)) ∧ (∀ t a, KeepsData (.tld t a)) ∧ (∀ t a z, KeepsData (.tldBind t a z)) ∧
  (∀ t a, KeepsData (.tst t a)) ∧ (∀ k d a b, KeepsData (.vgathW k d a b)) ∧ (∀ k d a b, KeepsData (.vgathH k d a b)) ∧
  (∀ k d a b, KeepsData (.vgathB k d a b)) ∧ (∀ k d a b, KeepsData (.vscatW k d a b)) ∧ (∀ k d a b, KeepsData (.vscatH k d a b)) ∧
  (∀ k d a b, KeepsData (.vscatB k d a b)) ∧ (∀ k d a b, KeepsData (.lmadd k d a b)) ∧ (∀ k d a b, KeepsData (.lmxchg k d a b)) ∧
  (∀ k d a b, KeepsData (.lmcas k d a b)) ∧ (∀ k d a b, KeepsData (.lmmin k d a b)) ∧ (∀ k d a b, KeepsData (.lmmax k d a b)) ∧
  (∀ k d a b, KeepsData (.lmand k d a b)) ∧ (∀ k d a b, KeepsData (.lmor k d a b)) ∧ (∀ k d a, KeepsData (.flrel k d a)) ∧
  (∀ k d a, KeepsData (.flacq k d a)) ∧ (∀ k d a, KeepsData (.rld k d a)) ∧ (∀ k d a, KeepsData (.rst k d a)) ∧
  (∀ k d a, KeepsData (.rvld k d a)) ∧ (∀ k d a, KeepsData (.rvst k d a)) ∧ (∀ f z a n g, KeepsData (.zld f z a n g)) ∧
  (∀ z a n g, KeepsData (.zst z a n g)) ∧ (∀ t z g, KeepsData (.zbind t z g)) ∧ (∀ t, KeepsData (.zbindNone t)) ∧
  (∀ w z g, KeepsData (.zbindw w z g)) ∧ (∀ d z, KeepsData (.zgenZ d z)) ∧ (∀ d t, KeepsData (.zgenT d t)) ∧
  (∀ d w, KeepsData (.zgenW d w)) ∧ (∀ z a b p, KeepsData (.zmul z a b p)) ∧ (∀ z a b p, KeepsData (.zadde z a b p)) ∧
  (∀ z a b p, KeepsData (.zmax z a b p)) ∧ (∀ f z a p, KeepsData (.zcvt f z a p)) ∧ (∀ f z a p, KeepsData (.zfill f z a p)) ∧
  (∀ z a p, KeepsData (.zmov z a p)) ∧ (∀ d a n g, KeepsData (.zamax d a n g)) ∧ (∀ w a b f, KeepsData (.mldw w a b f)) ∧
  (∀ w a b f, KeepsData (.mldwS w a b f)) ∧ (∀ y d t w f, KeepsData (.mma y d t w f)) ∧ (∀ y d t w f, KeepsData (.mmaFwd y d t w f)) ∧
  (∀ y d t w f, KeepsData (.mmaSat y d t w f)) ∧ (∀ y d t w f, KeepsData (.mmaFwdSat y d t w f)) ∧ (∀ d a h r, KeepsData (.mrd d a h r)) ∧
  (∀ a, KeepsData (.mclr a)) ∧ (∀ k d b, KeepsData (.monwait k d b)) ∧ (∀ k n, KeepsData (.monclr k n)) ∧
  (∀ k n a, KeepsData (.monarmLm k n a)) ∧ (∀ k d a b, KeepsData (.mbput k d a b)) ∧ (∀ k d a b, KeepsData (.ringput k d a b)) ∧
  (∀ k d a b, KeepsData (.ringget k d a b)) ∧ (∀ k d a b, KeepsData (.callat k d a b)) ∧ (∀ k, KeepsData (.twait k)) ∧
  (∀ k d b, KeepsData (.rqclm k d b)) ∧ (∀ k, KeepsData (.exit k)) ∧ (∀ k d a o, KeepsDataAt (.gldb k d a o)) ∧
  (∀ k d a o, KeepsDataAt (.gldbu k d a o)) ∧ (∀ k d a o, KeepsDataAt (.gldh k d a o)) ∧ (∀ k d a o, KeepsDataAt (.gldhu k d a o)) ∧
  (∀ k d a o, KeepsDataAt (.gldw k d a o)) ∧ (∀ k d a o, KeepsDataAt (.gldwu k d a o)) ∧ (∀ k d a o, KeepsDataAt (.gld k d a o)) ∧
  (∀ k d a o, KeepsDataAt (.gstb k d a o)) ∧ (∀ k d a o, KeepsDataAt (.gsth k d a o)) ∧ (∀ k d a o, KeepsDataAt (.gstw k d a o)) ∧
  (∀ k d a o, KeepsDataAt (.gst k d a o)) ∧ (∀ k d a b w, KeepsDataAt (.gaadd k d a b w)) ∧
  (∀ k d a b w, KeepsDataAt (.gaswap k d a b w)) ∧ (∀ k d a b w, KeepsDataAt (.gacas k d a b w)) ∧
  (∀ k d a b w, KeepsDataAt (.gamin k d a b w)) ∧ (∀ k d a b w, KeepsDataAt (.gamax k d a b w)) ∧
  (∀ k d a b w, KeepsDataAt (.gaminu k d a b w)) ∧ (∀ k d a b w, KeepsDataAt (.gamaxu k d a b w)) ∧
  (∀ k d a b w, KeepsDataAt (.gaand k d a b w)) ∧ (∀ k d a b w, KeepsDataAt (.gaor k d a b w)) ∧
  (∀ k d a b w, KeepsDataAt (.gaxor k d a b w)) ∧ (∀ k d a b, KeepsDataAt (.gafadd k d a b)) ∧
  (∀ k d a w sc, KeepsDataAt (.ldacq k d a w sc)) ∧ (∀ k d a w sc, KeepsDataAt (.strel k d a w sc)) ∧
  (∀ k d a b, KeepsDataAt (.scadd k d a b)) ∧ (∀ k d a b, KeepsDataAt (.scswap k d a b)) ∧ (∀ k d a b, KeepsDataAt (.sccas k d a b)) ∧
  (∀ k d a, KeepsDataAt (.scld k d a)) ∧ (∀ k d a, KeepsDataAt (.scst k d a)) ∧ (∀ k n a, KeepsDataAt (.monarm k n a)) ∧
  (∀ k d, KeepsData (.mbget k d)) ∧ (∀ k d e, KeepsData (.eqr k d e)) ∧
  (∀ (s t : State) (k : Bool), s.ctx.checked = true ∨ s.ready (specOf (.sret k)) = true → exec (.sret k) s = .next t →
    t.sameOutside s ∧ (t.mapTh Thread.anyMode).sameData (s.mapTh Thread.anyMode)) ∧
  (∀ (s t : State) (k : Bool), s.ctx.checked = true ∨ s.ready (specOf (.brk k)) = true → exec (.brk k) s = .next t →
    t.sameInside s ∧ t.sameDevice s [s.dbgOff 0, s.dbgOff 8] ∧ t.die = s.die ∧ (s.breaksOn = false → t.dev = s.dev)) ∧
  (∀ (s t : State) (k : Bool) (a : Field6), s.ctx.checked = true ∨ s.ready (specOf (.rqput k a)) = true → exec (.rqput k a) s = .next t →
    t.sameInside s ∧ t.sameDevice s [0x4C] ∧ (s.die.rowq.length < 1024 → t.dev = s.dev) ∧ (1024 ≤ s.die.rowq.length → t.die = s.die)) ∧
  (∀ (s t : State) (k : Bool) (e a : Field6), s.ctx.checked = true ∨ s.ready (specOf (.eqw k e a)) = true → exec (.eqw k e a) s = .next t →
    t.sameInside s ∧ (s.ctx.agent = .primary → t.sameOutside s))

/-- Major 0x0E decodes to cmpi.eq, ne, lt or ge by d[5:4], predicate d[3:0], register a and imm13; major 0x15 to cwld of the word imm13[7:0], and is refused with imm13[12:8] not 0; the immediate is imm13 or the literal in its place, sign-extended; the op lands 1 in bN where s[A] compares, signed, else 0; in a pawn stream d[3] = 1 takes 0x01E. (R44, R98.) -/
def Obligations.ImmediateCompares : Prop :=  (∀ (k : Bool) (n : BitVec 4) (a : Field6) (i : BitVec 13),
    decodeWord (mkWord k 0x0E#6 (0#2 ++ n) a i) = .ok (.cmpiEq k n a i) ∧
    decodeWord (mkWord k 0x0E#6 (1#2 ++ n) a i) = .ok (.cmpiNe k n a i) ∧
    decodeWord (mkWord k 0x0E#6 (2#2 ++ n) a i) = .ok (.cmpiLt k n a i) ∧
    decodeWord (mkWord k 0x0E#6 (3#2 ++ n) a i) = .ok (.cmpiGe k n a i)) ∧
  (∀ (k : Bool) (d a : Field6) (i : BitVec 13),
    (a = 0 → i.extractLsb' 8 5 = 0 → decodeWord (mkWord k 0x15#6 d a i) = .ok (.cwld k d (i.extractLsb' 0 8))) ∧
    (i.extractLsb' 8 5 ≠ 0 → decodeWord (mkWord k 0x15#6 d a i) = .error .unassignedWord)) ∧
  takesLiteral 0x0E#6 = true ∧
  (∀ (s : State) (i : BitVec 13), (s.ctx.lit = none → s.imm i = i.signExtend 64) ∧
    ∀ l, s.ctx.lit = some l → s.imm i = l.signExtend 64) ∧
  (∀ k n a i, Completes (.cmpiEq k n a i) (fun s => s.landB 1 n.toNat (decide (s.readS a = s.imm i))) ∧
    Completes (.cmpiNe k n a i) (fun s => s.landB 1 n.toNat (decide (s.readS a ≠ s.imm i))) ∧
    Completes (.cmpiLt k n a i) (fun s => s.landB 1 n.toNat ((s.readS a).slt (s.imm i))) ∧
    Completes (.cmpiGe k n a i) (fun s => s.landB 1 n.toNat (!(s.readS a).slt (s.imm i)))) ∧
  (∀ (s : State) (n : BitVec 4) (v : Bool), (s.ctx.agent = .primary →
      vget (s.setReg (.b n.toNat) (BitVec.ofNat 4096 (b2n v))).prim.b n.toNat false = v) ∧
    ∀ t < 16, n.toNat < 8 → s.ctx.agent = .pawn t →
      vget ((s.setReg (.b n.toNat) (BitVec.ofNat 4096 (b2n v))).pawn t).b n.toNat false = v) ∧
  (∀ (s : State) (t : Nat) (k : Bool) (n : BitVec 4) (a : Field6) (i : BitVec 13), s.ctx.agent = .pawn t → s.ctx.checked = false →
    n.getLsbD 3 = true →
    ∀ j ∈ [Instr.cmpiEq k n a i, .cmpiNe k n a i, .cmpiLt k n a i, .cmpiGe k n a i],
      exec j s = .next (s.trap (s.encTrap 3)) ∧ (s.encTrap 3).code = 0x01E)

/-- Major 0x10 decodes to shli, shri, sari and rotli by fn 0 to 3 with n in the b field, and every other fn is refused; each lands what its register form lands for sh = n, and the register forms land the shift by s[B][5:0]. (R100.) -/
def Obligations.ImmediateShifts : Prop :=  (∀ (k : Bool) (d a n : Field6),
    decodeWord (mkWord k 0x10#6 d a (n ++ 0#7)) = .ok (.shli k d a n) ∧
    decodeWord (mkWord k 0x10#6 d a (n ++ 1#7)) = .ok (.shri k d a n) ∧
    decodeWord (mkWord k 0x10#6 d a (n ++ 2#7)) = .ok (.sari k d a n) ∧
    decodeWord (mkWord k 0x10#6 d a (n ++ 3#7)) = .ok (.rotli k d a n) ∧
    ∀ fn : BitVec 7, 4 ≤ fn.toNat → decodeWord (mkWord k 0x10#6 d a (n ++ fn)) = .error .unassignedWord) ∧
  (∀ k d a b, Completes (.shl k d a b) (fun s => s.landS 1 d (s.readS a <<< ((s.readS b).toNat % 64))) ∧
    Completes (.shr k d a b) (fun s => s.landS 1 d (s.readS a >>> ((s.readS b).toNat % 64))) ∧
    Completes (.sar k d a b) (fun s => s.landS 1 d ((s.readS a).sshiftRight ((s.readS b).toNat % 64))) ∧
    Completes (.rotl k d a b) (fun s => s.landS 1 d ((s.readS a).rotateLeft ((s.readS b).toNat % 64)))) ∧
  (∀ k d a n, Completes (.shli k d a n) (fun s => s.landS 1 d (s.readS a <<< n.toNat)) ∧
    Completes (.shri k d a n) (fun s => s.landS 1 d (s.readS a >>> n.toNat)) ∧
    Completes (.sari k d a n) (fun s => s.landS 1 d ((s.readS a).sshiftRight n.toNat)) ∧
    Completes (.rotli k d a n) (fun s => s.landS 1 d ((s.readS a).rotateLeft n.toNat)))
end

