-- ==== Sys2Proof/Laws/State.lean ====
section
/-! SUPPORT. What each update of the state does to each of its fields. -/

namespace Sys2Proof.Machine

/-! ### updPrim -/

@[simp] theorem State.updPrim_ctx (s : State) (f : Primary → Primary) : (s.updPrim f).ctx = s.ctx := rfl
@[simp] theorem State.updPrim_prim (s : State) (f : Primary → Primary) : (s.updPrim f).prim = f s.prim := rfl
@[simp] theorem State.updPrim_pawns (s : State) (f : Primary → Primary) : (s.updPrim f).pawns = s.pawns := rfl
@[simp] theorem State.updPrim_core (s : State) (f : Primary → Primary) : (s.updPrim f).core = s.core := rfl
@[simp] theorem State.updPrim_lm (s : State) (f : Primary → Primary) : (s.updPrim f).lm = s.lm := rfl
@[simp] theorem State.updPrim_pm (s : State) (f : Primary → Primary) : (s.updPrim f).pm = s.pm := rfl
@[simp] theorem State.updPrim_hm (s : State) (f : Primary → Primary) : (s.updPrim f).hm = s.hm := rfl
@[simp] theorem State.updPrim_badLm (s : State) (f : Primary → Primary) : (s.updPrim f).badLm = s.badLm := rfl
@[simp] theorem State.updPrim_badPm (s : State) (f : Primary → Primary) : (s.updPrim f).badPm = s.badPm := rfl
@[simp] theorem State.updPrim_die (s : State) (f : Primary → Primary) : (s.updPrim f).die = s.die := rfl
@[simp] theorem State.updPrim_dev (s : State) (f : Primary → Primary) : (s.updPrim f).dev = s.dev := rfl
@[simp] theorem State.updPrim_part (s : State) (f : Primary → Primary) : (s.updPrim f).part = s.part := rfl
@[simp] theorem State.updPrim_agenda (s : State) (f : Primary → Primary) : (s.updPrim f).agenda = s.agenda := rfl
@[simp] theorem State.updPrim_work (s : State) (f : Primary → Primary) : (s.updPrim f).work = s.work := rfl
@[simp] theorem State.updPrim_oracle (s : State) (f : Primary → Primary) : (s.updPrim f).oracle = s.oracle := rfl
@[simp] theorem State.updPrim_inputs (s : State) (f : Primary → Primary) : (s.updPrim f).inputs = s.inputs := rfl
@[simp] theorem State.updPrim_turn (s : State) (f : Primary → Primary) : (s.updPrim f).turn = s.turn := rfl
@[simp] theorem State.updPrim_free (s : State) (f : Primary → Primary) : (s.updPrim f).free = s.free := rfl

/-! ### updCore -/

@[simp] theorem State.updCore_ctx (s : State) (f : CoreState → CoreState) : (s.updCore f).ctx = s.ctx := rfl
@[simp] theorem State.updCore_prim (s : State) (f : CoreState → CoreState) : (s.updCore f).prim = s.prim := rfl
@[simp] theorem State.updCore_pawns (s : State) (f : CoreState → CoreState) : (s.updCore f).pawns = s.pawns := rfl
@[simp] theorem State.updCore_core (s : State) (f : CoreState → CoreState) : (s.updCore f).core = f s.core := rfl
@[simp] theorem State.updCore_lm (s : State) (f : CoreState → CoreState) : (s.updCore f).lm = s.lm := rfl
@[simp] theorem State.updCore_pm (s : State) (f : CoreState → CoreState) : (s.updCore f).pm = s.pm := rfl
@[simp] theorem State.updCore_hm (s : State) (f : CoreState → CoreState) : (s.updCore f).hm = s.hm := rfl
@[simp] theorem State.updCore_badLm (s : State) (f : CoreState → CoreState) : (s.updCore f).badLm = s.badLm := rfl
@[simp] theorem State.updCore_badPm (s : State) (f : CoreState → CoreState) : (s.updCore f).badPm = s.badPm := rfl
@[simp] theorem State.updCore_die (s : State) (f : CoreState → CoreState) : (s.updCore f).die = s.die := rfl
@[simp] theorem State.updCore_dev (s : State) (f : CoreState → CoreState) : (s.updCore f).dev = s.dev := rfl
@[simp] theorem State.updCore_part (s : State) (f : CoreState → CoreState) : (s.updCore f).part = s.part := rfl
@[simp] theorem State.updCore_agenda (s : State) (f : CoreState → CoreState) : (s.updCore f).agenda = s.agenda := rfl
@[simp] theorem State.updCore_work (s : State) (f : CoreState → CoreState) : (s.updCore f).work = s.work := rfl
@[simp] theorem State.updCore_oracle (s : State) (f : CoreState → CoreState) : (s.updCore f).oracle = s.oracle := rfl
@[simp] theorem State.updCore_inputs (s : State) (f : CoreState → CoreState) : (s.updCore f).inputs = s.inputs := rfl
@[simp] theorem State.updCore_turn (s : State) (f : CoreState → CoreState) : (s.updCore f).turn = s.turn := rfl
@[simp] theorem State.updCore_free (s : State) (f : CoreState → CoreState) : (s.updCore f).free = s.free := rfl

/-! ### updDie -/

@[simp] theorem State.updDie_ctx (s : State) (f : Die → Die) : (s.updDie f).ctx = s.ctx := rfl
@[simp] theorem State.updDie_prim (s : State) (f : Die → Die) : (s.updDie f).prim = s.prim := rfl
@[simp] theorem State.updDie_pawns (s : State) (f : Die → Die) : (s.updDie f).pawns = s.pawns := rfl
@[simp] theorem State.updDie_core (s : State) (f : Die → Die) : (s.updDie f).core = s.core := rfl
@[simp] theorem State.updDie_lm (s : State) (f : Die → Die) : (s.updDie f).lm = s.lm := rfl
@[simp] theorem State.updDie_pm (s : State) (f : Die → Die) : (s.updDie f).pm = s.pm := rfl
@[simp] theorem State.updDie_hm (s : State) (f : Die → Die) : (s.updDie f).hm = s.hm := rfl
@[simp] theorem State.updDie_badLm (s : State) (f : Die → Die) : (s.updDie f).badLm = s.badLm := rfl
@[simp] theorem State.updDie_badPm (s : State) (f : Die → Die) : (s.updDie f).badPm = s.badPm := rfl
@[simp] theorem State.updDie_die (s : State) (f : Die → Die) : (s.updDie f).die = f s.die := rfl
@[simp] theorem State.updDie_dev (s : State) (f : Die → Die) : (s.updDie f).dev = s.dev := rfl
@[simp] theorem State.updDie_part (s : State) (f : Die → Die) : (s.updDie f).part = s.part := rfl
@[simp] theorem State.updDie_agenda (s : State) (f : Die → Die) : (s.updDie f).agenda = s.agenda := rfl
@[simp] theorem State.updDie_work (s : State) (f : Die → Die) : (s.updDie f).work = s.work := rfl
@[simp] theorem State.updDie_oracle (s : State) (f : Die → Die) : (s.updDie f).oracle = s.oracle := rfl
@[simp] theorem State.updDie_inputs (s : State) (f : Die → Die) : (s.updDie f).inputs = s.inputs := rfl
@[simp] theorem State.updDie_turn (s : State) (f : Die → Die) : (s.updDie f).turn = s.turn := rfl
@[simp] theorem State.updDie_free (s : State) (f : Die → Die) : (s.updDie f).free = s.free := rfl

/-! ### updDev -/

@[simp] theorem State.updDev_ctx (s : State) (f : Dev → Dev) : (s.updDev f).ctx = s.ctx := rfl
@[simp] theorem State.updDev_prim (s : State) (f : Dev → Dev) : (s.updDev f).prim = s.prim := rfl
@[simp] theorem State.updDev_pawns (s : State) (f : Dev → Dev) : (s.updDev f).pawns = s.pawns := rfl
@[simp] theorem State.updDev_core (s : State) (f : Dev → Dev) : (s.updDev f).core = s.core := rfl
@[simp] theorem State.updDev_lm (s : State) (f : Dev → Dev) : (s.updDev f).lm = s.lm := rfl
@[simp] theorem State.updDev_pm (s : State) (f : Dev → Dev) : (s.updDev f).pm = s.pm := rfl
@[simp] theorem State.updDev_hm (s : State) (f : Dev → Dev) : (s.updDev f).hm = s.hm := rfl
@[simp] theorem State.updDev_badLm (s : State) (f : Dev → Dev) : (s.updDev f).badLm = s.badLm := rfl
@[simp] theorem State.updDev_badPm (s : State) (f : Dev → Dev) : (s.updDev f).badPm = s.badPm := rfl
@[simp] theorem State.updDev_die (s : State) (f : Dev → Dev) : (s.updDev f).die = s.die := rfl
@[simp] theorem State.updDev_dev (s : State) (f : Dev → Dev) : (s.updDev f).dev = f s.dev := rfl
@[simp] theorem State.updDev_part (s : State) (f : Dev → Dev) : (s.updDev f).part = s.part := rfl
@[simp] theorem State.updDev_agenda (s : State) (f : Dev → Dev) : (s.updDev f).agenda = s.agenda := rfl
@[simp] theorem State.updDev_work (s : State) (f : Dev → Dev) : (s.updDev f).work = s.work := rfl
@[simp] theorem State.updDev_oracle (s : State) (f : Dev → Dev) : (s.updDev f).oracle = s.oracle := rfl
@[simp] theorem State.updDev_inputs (s : State) (f : Dev → Dev) : (s.updDev f).inputs = s.inputs := rfl
@[simp] theorem State.updDev_turn (s : State) (f : Dev → Dev) : (s.updDev f).turn = s.turn := rfl
@[simp] theorem State.updDev_free (s : State) (f : Dev → Dev) : (s.updDev f).free = s.free := rfl

/-! ### setPawns -/

@[simp] theorem State.setPawns_ctx (s : State) (p : Vector Pawn 16) : (s.setPawns p).ctx = s.ctx := rfl
@[simp] theorem State.setPawns_prim (s : State) (p : Vector Pawn 16) : (s.setPawns p).prim = s.prim := rfl
@[simp] theorem State.setPawns_pawns (s : State) (p : Vector Pawn 16) : (s.setPawns p).pawns = p := rfl
@[simp] theorem State.setPawns_core (s : State) (p : Vector Pawn 16) : (s.setPawns p).core = s.core := rfl
@[simp] theorem State.setPawns_lm (s : State) (p : Vector Pawn 16) : (s.setPawns p).lm = s.lm := rfl
@[simp] theorem State.setPawns_pm (s : State) (p : Vector Pawn 16) : (s.setPawns p).pm = s.pm := rfl
@[simp] theorem State.setPawns_hm (s : State) (p : Vector Pawn 16) : (s.setPawns p).hm = s.hm := rfl
@[simp] theorem State.setPawns_badLm (s : State) (p : Vector Pawn 16) : (s.setPawns p).badLm = s.badLm := rfl
@[simp] theorem State.setPawns_badPm (s : State) (p : Vector Pawn 16) : (s.setPawns p).badPm = s.badPm := rfl
@[simp] theorem State.setPawns_die (s : State) (p : Vector Pawn 16) : (s.setPawns p).die = s.die := rfl
@[simp] theorem State.setPawns_dev (s : State) (p : Vector Pawn 16) : (s.setPawns p).dev = s.dev := rfl
@[simp] theorem State.setPawns_part (s : State) (p : Vector Pawn 16) : (s.setPawns p).part = s.part := rfl
@[simp] theorem State.setPawns_agenda (s : State) (p : Vector Pawn 16) : (s.setPawns p).agenda = s.agenda := rfl
@[simp] theorem State.setPawns_work (s : State) (p : Vector Pawn 16) : (s.setPawns p).work = s.work := rfl
@[simp] theorem State.setPawns_oracle (s : State) (p : Vector Pawn 16) : (s.setPawns p).oracle = s.oracle := rfl
@[simp] theorem State.setPawns_inputs (s : State) (p : Vector Pawn 16) : (s.setPawns p).inputs = s.inputs := rfl
@[simp] theorem State.setPawns_turn (s : State) (p : Vector Pawn 16) : (s.setPawns p).turn = s.turn := rfl
@[simp] theorem State.setPawns_free (s : State) (p : Vector Pawn 16) : (s.setPawns p).free = s.free := rfl

/-! ### setCtx -/

@[simp] theorem State.setCtx_ctx (s : State) (c : Ctx) : (s.setCtx c).ctx = c := rfl
@[simp] theorem State.setCtx_prim (s : State) (c : Ctx) : (s.setCtx c).prim = s.prim := rfl
@[simp] theorem State.setCtx_pawns (s : State) (c : Ctx) : (s.setCtx c).pawns = s.pawns := rfl
@[simp] theorem State.setCtx_core (s : State) (c : Ctx) : (s.setCtx c).core = s.core := rfl
@[simp] theorem State.setCtx_lm (s : State) (c : Ctx) : (s.setCtx c).lm = s.lm := rfl
@[simp] theorem State.setCtx_pm (s : State) (c : Ctx) : (s.setCtx c).pm = s.pm := rfl
@[simp] theorem State.setCtx_hm (s : State) (c : Ctx) : (s.setCtx c).hm = s.hm := rfl
@[simp] theorem State.setCtx_badLm (s : State) (c : Ctx) : (s.setCtx c).badLm = s.badLm := rfl
@[simp] theorem State.setCtx_badPm (s : State) (c : Ctx) : (s.setCtx c).badPm = s.badPm := rfl
@[simp] theorem State.setCtx_die (s : State) (c : Ctx) : (s.setCtx c).die = s.die := rfl
@[simp] theorem State.setCtx_dev (s : State) (c : Ctx) : (s.setCtx c).dev = s.dev := rfl
@[simp] theorem State.setCtx_part (s : State) (c : Ctx) : (s.setCtx c).part = s.part := rfl
@[simp] theorem State.setCtx_agenda (s : State) (c : Ctx) : (s.setCtx c).agenda = s.agenda := rfl
@[simp] theorem State.setCtx_work (s : State) (c : Ctx) : (s.setCtx c).work = s.work := rfl
@[simp] theorem State.setCtx_oracle (s : State) (c : Ctx) : (s.setCtx c).oracle = s.oracle := rfl
@[simp] theorem State.setCtx_inputs (s : State) (c : Ctx) : (s.setCtx c).inputs = s.inputs := rfl
@[simp] theorem State.setCtx_turn (s : State) (c : Ctx) : (s.setCtx c).turn = s.turn := rfl
@[simp] theorem State.setCtx_free (s : State) (c : Ctx) : (s.setCtx c).free = s.free := rfl

/-! ### setLm -/

@[simp] theorem State.setLm_ctx (s : State) (m : Memory) : (s.setLm m).ctx = s.ctx := rfl
@[simp] theorem State.setLm_prim (s : State) (m : Memory) : (s.setLm m).prim = s.prim := rfl
@[simp] theorem State.setLm_pawns (s : State) (m : Memory) : (s.setLm m).pawns = s.pawns := rfl
@[simp] theorem State.setLm_core (s : State) (m : Memory) : (s.setLm m).core = s.core := rfl
@[simp] theorem State.setLm_lm (s : State) (m : Memory) : (s.setLm m).lm = m := rfl
@[simp] theorem State.setLm_pm (s : State) (m : Memory) : (s.setLm m).pm = s.pm := rfl
@[simp] theorem State.setLm_hm (s : State) (m : Memory) : (s.setLm m).hm = s.hm := rfl
@[simp] theorem State.setLm_badLm (s : State) (m : Memory) : (s.setLm m).badLm = s.badLm := rfl
@[simp] theorem State.setLm_badPm (s : State) (m : Memory) : (s.setLm m).badPm = s.badPm := rfl
@[simp] theorem State.setLm_die (s : State) (m : Memory) : (s.setLm m).die = s.die := rfl
@[simp] theorem State.setLm_dev (s : State) (m : Memory) : (s.setLm m).dev = s.dev := rfl
@[simp] theorem State.setLm_part (s : State) (m : Memory) : (s.setLm m).part = s.part := rfl
@[simp] theorem State.setLm_agenda (s : State) (m : Memory) : (s.setLm m).agenda = s.agenda := rfl
@[simp] theorem State.setLm_work (s : State) (m : Memory) : (s.setLm m).work = s.work := rfl
@[simp] theorem State.setLm_oracle (s : State) (m : Memory) : (s.setLm m).oracle = s.oracle := rfl
@[simp] theorem State.setLm_inputs (s : State) (m : Memory) : (s.setLm m).inputs = s.inputs := rfl
@[simp] theorem State.setLm_turn (s : State) (m : Memory) : (s.setLm m).turn = s.turn := rfl
@[simp] theorem State.setLm_free (s : State) (m : Memory) : (s.setLm m).free = s.free := rfl

/-! ### setPm -/

@[simp] theorem State.setPm_ctx (s : State) (m : Memory) : (s.setPm m).ctx = s.ctx := rfl
@[simp] theorem State.setPm_prim (s : State) (m : Memory) : (s.setPm m).prim = s.prim := rfl
@[simp] theorem State.setPm_pawns (s : State) (m : Memory) : (s.setPm m).pawns = s.pawns := rfl
@[simp] theorem State.setPm_core (s : State) (m : Memory) : (s.setPm m).core = s.core := rfl
@[simp] theorem State.setPm_lm (s : State) (m : Memory) : (s.setPm m).lm = s.lm := rfl
@[simp] theorem State.setPm_pm (s : State) (m : Memory) : (s.setPm m).pm = m := rfl
@[simp] theorem State.setPm_hm (s : State) (m : Memory) : (s.setPm m).hm = s.hm := rfl
@[simp] theorem State.setPm_badLm (s : State) (m : Memory) : (s.setPm m).badLm = s.badLm := rfl
@[simp] theorem State.setPm_badPm (s : State) (m : Memory) : (s.setPm m).badPm = s.badPm := rfl
@[simp] theorem State.setPm_die (s : State) (m : Memory) : (s.setPm m).die = s.die := rfl
@[simp] theorem State.setPm_dev (s : State) (m : Memory) : (s.setPm m).dev = s.dev := rfl
@[simp] theorem State.setPm_part (s : State) (m : Memory) : (s.setPm m).part = s.part := rfl
@[simp] theorem State.setPm_agenda (s : State) (m : Memory) : (s.setPm m).agenda = s.agenda := rfl
@[simp] theorem State.setPm_work (s : State) (m : Memory) : (s.setPm m).work = s.work := rfl
@[simp] theorem State.setPm_oracle (s : State) (m : Memory) : (s.setPm m).oracle = s.oracle := rfl
@[simp] theorem State.setPm_inputs (s : State) (m : Memory) : (s.setPm m).inputs = s.inputs := rfl
@[simp] theorem State.setPm_turn (s : State) (m : Memory) : (s.setPm m).turn = s.turn := rfl
@[simp] theorem State.setPm_free (s : State) (m : Memory) : (s.setPm m).free = s.free := rfl

/-! ### setTurn -/

@[simp] theorem State.setTurn_ctx (s : State) (t : Turn) : (s.setTurn t).ctx = s.ctx := rfl
@[simp] theorem State.setTurn_prim (s : State) (t : Turn) : (s.setTurn t).prim = s.prim := rfl
@[simp] theorem State.setTurn_pawns (s : State) (t : Turn) : (s.setTurn t).pawns = s.pawns := rfl
@[simp] theorem State.setTurn_core (s : State) (t : Turn) : (s.setTurn t).core = s.core := rfl
@[simp] theorem State.setTurn_lm (s : State) (t : Turn) : (s.setTurn t).lm = s.lm := rfl
@[simp] theorem State.setTurn_pm (s : State) (t : Turn) : (s.setTurn t).pm = s.pm := rfl
@[simp] theorem State.setTurn_hm (s : State) (t : Turn) : (s.setTurn t).hm = s.hm := rfl
@[simp] theorem State.setTurn_badLm (s : State) (t : Turn) : (s.setTurn t).badLm = s.badLm := rfl
@[simp] theorem State.setTurn_badPm (s : State) (t : Turn) : (s.setTurn t).badPm = s.badPm := rfl
@[simp] theorem State.setTurn_die (s : State) (t : Turn) : (s.setTurn t).die = s.die := rfl
@[simp] theorem State.setTurn_dev (s : State) (t : Turn) : (s.setTurn t).dev = s.dev := rfl
@[simp] theorem State.setTurn_part (s : State) (t : Turn) : (s.setTurn t).part = s.part := rfl
@[simp] theorem State.setTurn_agenda (s : State) (t : Turn) : (s.setTurn t).agenda = s.agenda := rfl
@[simp] theorem State.setTurn_work (s : State) (t : Turn) : (s.setTurn t).work = s.work := rfl
@[simp] theorem State.setTurn_oracle (s : State) (t : Turn) : (s.setTurn t).oracle = s.oracle := rfl
@[simp] theorem State.setTurn_inputs (s : State) (t : Turn) : (s.setTurn t).inputs = s.inputs := rfl
@[simp] theorem State.setTurn_turn (s : State) (t : Turn) : (s.setTurn t).turn = t := rfl
@[simp] theorem State.setTurn_free (s : State) (t : Turn) : (s.setTurn t).free = s.free := rfl

/-! ### setAgenda -/

@[simp] theorem State.setAgenda_ctx (s : State) (l : List (Ctx × Instr)) : (s.setAgenda l).ctx = s.ctx := rfl
@[simp] theorem State.setAgenda_prim (s : State) (l : List (Ctx × Instr)) : (s.setAgenda l).prim = s.prim := rfl
@[simp] theorem State.setAgenda_pawns (s : State) (l : List (Ctx × Instr)) : (s.setAgenda l).pawns = s.pawns := rfl
@[simp] theorem State.setAgenda_core (s : State) (l : List (Ctx × Instr)) : (s.setAgenda l).core = s.core := rfl
@[simp] theorem State.setAgenda_lm (s : State) (l : List (Ctx × Instr)) : (s.setAgenda l).lm = s.lm := rfl
@[simp] theorem State.setAgenda_pm (s : State) (l : List (Ctx × Instr)) : (s.setAgenda l).pm = s.pm := rfl
@[simp] theorem State.setAgenda_hm (s : State) (l : List (Ctx × Instr)) : (s.setAgenda l).hm = s.hm := rfl
@[simp] theorem State.setAgenda_badLm (s : State) (l : List (Ctx × Instr)) : (s.setAgenda l).badLm = s.badLm := rfl
@[simp] theorem State.setAgenda_badPm (s : State) (l : List (Ctx × Instr)) : (s.setAgenda l).badPm = s.badPm := rfl
@[simp] theorem State.setAgenda_die (s : State) (l : List (Ctx × Instr)) : (s.setAgenda l).die = s.die := rfl
@[simp] theorem State.setAgenda_dev (s : State) (l : List (Ctx × Instr)) : (s.setAgenda l).dev = s.dev := rfl
@[simp] theorem State.setAgenda_part (s : State) (l : List (Ctx × Instr)) : (s.setAgenda l).part = s.part := rfl
@[simp] theorem State.setAgenda_agenda (s : State) (l : List (Ctx × Instr)) : (s.setAgenda l).agenda = l := rfl
@[simp] theorem State.setAgenda_work (s : State) (l : List (Ctx × Instr)) : (s.setAgenda l).work = s.work := rfl
@[simp] theorem State.setAgenda_oracle (s : State) (l : List (Ctx × Instr)) : (s.setAgenda l).oracle = s.oracle := rfl
@[simp] theorem State.setAgenda_inputs (s : State) (l : List (Ctx × Instr)) : (s.setAgenda l).inputs = s.inputs := rfl
@[simp] theorem State.setAgenda_turn (s : State) (l : List (Ctx × Instr)) : (s.setAgenda l).turn = s.turn := rfl
@[simp] theorem State.setAgenda_free (s : State) (l : List (Ctx × Instr)) : (s.setAgenda l).free = s.free := rfl

/-! ### setWork -/

@[simp] theorem State.setWork_ctx (s : State) (l : List (Ctx × Instr)) : (s.setWork l).ctx = s.ctx := rfl
@[simp] theorem State.setWork_prim (s : State) (l : List (Ctx × Instr)) : (s.setWork l).prim = s.prim := rfl
@[simp] theorem State.setWork_pawns (s : State) (l : List (Ctx × Instr)) : (s.setWork l).pawns = s.pawns := rfl
@[simp] theorem State.setWork_core (s : State) (l : List (Ctx × Instr)) : (s.setWork l).core = s.core := rfl
@[simp] theorem State.setWork_lm (s : State) (l : List (Ctx × Instr)) : (s.setWork l).lm = s.lm := rfl
@[simp] theorem State.setWork_pm (s : State) (l : List (Ctx × Instr)) : (s.setWork l).pm = s.pm := rfl
@[simp] theorem State.setWork_hm (s : State) (l : List (Ctx × Instr)) : (s.setWork l).hm = s.hm := rfl
@[simp] theorem State.setWork_badLm (s : State) (l : List (Ctx × Instr)) : (s.setWork l).badLm = s.badLm := rfl
@[simp] theorem State.setWork_badPm (s : State) (l : List (Ctx × Instr)) : (s.setWork l).badPm = s.badPm := rfl
@[simp] theorem State.setWork_die (s : State) (l : List (Ctx × Instr)) : (s.setWork l).die = s.die := rfl
@[simp] theorem State.setWork_dev (s : State) (l : List (Ctx × Instr)) : (s.setWork l).dev = s.dev := rfl
@[simp] theorem State.setWork_part (s : State) (l : List (Ctx × Instr)) : (s.setWork l).part = s.part := rfl
@[simp] theorem State.setWork_agenda (s : State) (l : List (Ctx × Instr)) : (s.setWork l).agenda = s.agenda := rfl
@[simp] theorem State.setWork_work (s : State) (l : List (Ctx × Instr)) : (s.setWork l).work = l := rfl
@[simp] theorem State.setWork_oracle (s : State) (l : List (Ctx × Instr)) : (s.setWork l).oracle = s.oracle := rfl
@[simp] theorem State.setWork_inputs (s : State) (l : List (Ctx × Instr)) : (s.setWork l).inputs = s.inputs := rfl
@[simp] theorem State.setWork_turn (s : State) (l : List (Ctx × Instr)) : (s.setWork l).turn = s.turn := rfl
@[simp] theorem State.setWork_free (s : State) (l : List (Ctx × Instr)) : (s.setWork l).free = s.free := rfl

/-! ### setOracle -/

@[simp] theorem State.setOracle_ctx (s : State) (l : List Nat) : (s.setOracle l).ctx = s.ctx := rfl
@[simp] theorem State.setOracle_prim (s : State) (l : List Nat) : (s.setOracle l).prim = s.prim := rfl
@[simp] theorem State.setOracle_pawns (s : State) (l : List Nat) : (s.setOracle l).pawns = s.pawns := rfl
@[simp] theorem State.setOracle_core (s : State) (l : List Nat) : (s.setOracle l).core = s.core := rfl
@[simp] theorem State.setOracle_lm (s : State) (l : List Nat) : (s.setOracle l).lm = s.lm := rfl
@[simp] theorem State.setOracle_pm (s : State) (l : List Nat) : (s.setOracle l).pm = s.pm := rfl
@[simp] theorem State.setOracle_hm (s : State) (l : List Nat) : (s.setOracle l).hm = s.hm := rfl
@[simp] theorem State.setOracle_badLm (s : State) (l : List Nat) : (s.setOracle l).badLm = s.badLm := rfl
@[simp] theorem State.setOracle_badPm (s : State) (l : List Nat) : (s.setOracle l).badPm = s.badPm := rfl
@[simp] theorem State.setOracle_die (s : State) (l : List Nat) : (s.setOracle l).die = s.die := rfl
@[simp] theorem State.setOracle_dev (s : State) (l : List Nat) : (s.setOracle l).dev = s.dev := rfl
@[simp] theorem State.setOracle_part (s : State) (l : List Nat) : (s.setOracle l).part = s.part := rfl
@[simp] theorem State.setOracle_agenda (s : State) (l : List Nat) : (s.setOracle l).agenda = s.agenda := rfl
@[simp] theorem State.setOracle_work (s : State) (l : List Nat) : (s.setOracle l).work = s.work := rfl
@[simp] theorem State.setOracle_oracle (s : State) (l : List Nat) : (s.setOracle l).oracle = l := rfl
@[simp] theorem State.setOracle_inputs (s : State) (l : List Nat) : (s.setOracle l).inputs = s.inputs := rfl
@[simp] theorem State.setOracle_turn (s : State) (l : List Nat) : (s.setOracle l).turn = s.turn := rfl
@[simp] theorem State.setOracle_free (s : State) (l : List Nat) : (s.setOracle l).free = s.free := rfl

/-! ### bumpFree -/

@[simp] theorem State.bumpFree_ctx (s : State) : (s.bumpFree).ctx = s.ctx := rfl
@[simp] theorem State.bumpFree_prim (s : State) : (s.bumpFree).prim = s.prim := rfl
@[simp] theorem State.bumpFree_pawns (s : State) : (s.bumpFree).pawns = s.pawns := rfl
@[simp] theorem State.bumpFree_core (s : State) : (s.bumpFree).core = s.core := rfl
@[simp] theorem State.bumpFree_lm (s : State) : (s.bumpFree).lm = s.lm := rfl
@[simp] theorem State.bumpFree_pm (s : State) : (s.bumpFree).pm = s.pm := rfl
@[simp] theorem State.bumpFree_hm (s : State) : (s.bumpFree).hm = s.hm := rfl
@[simp] theorem State.bumpFree_badLm (s : State) : (s.bumpFree).badLm = s.badLm := rfl
@[simp] theorem State.bumpFree_badPm (s : State) : (s.bumpFree).badPm = s.badPm := rfl
@[simp] theorem State.bumpFree_die (s : State) : (s.bumpFree).die = s.die := rfl
@[simp] theorem State.bumpFree_dev (s : State) : (s.bumpFree).dev = s.dev := rfl
@[simp] theorem State.bumpFree_part (s : State) : (s.bumpFree).part = s.part := rfl
@[simp] theorem State.bumpFree_agenda (s : State) : (s.bumpFree).agenda = s.agenda := rfl
@[simp] theorem State.bumpFree_work (s : State) : (s.bumpFree).work = s.work := rfl
@[simp] theorem State.bumpFree_oracle (s : State) : (s.bumpFree).oracle = s.oracle := rfl
@[simp] theorem State.bumpFree_inputs (s : State) : (s.bumpFree).inputs = s.inputs := rfl
@[simp] theorem State.bumpFree_turn (s : State) : (s.bumpFree).turn = s.turn := rfl
@[simp] theorem State.bumpFree_free (s : State) : (s.bumpFree).free = s.free + 1 := rfl

/-! ### updPawn -/

@[simp] theorem State.updPawn_ctx (s : State) (t : Nat) (f : Pawn → Pawn) : (s.updPawn t f).ctx = s.ctx := rfl
@[simp] theorem State.updPawn_prim (s : State) (t : Nat) (f : Pawn → Pawn) : (s.updPawn t f).prim = s.prim := rfl
@[simp] theorem State.updPawn_core (s : State) (t : Nat) (f : Pawn → Pawn) : (s.updPawn t f).core = s.core := rfl
@[simp] theorem State.updPawn_lm (s : State) (t : Nat) (f : Pawn → Pawn) : (s.updPawn t f).lm = s.lm := rfl
@[simp] theorem State.updPawn_pm (s : State) (t : Nat) (f : Pawn → Pawn) : (s.updPawn t f).pm = s.pm := rfl
@[simp] theorem State.updPawn_hm (s : State) (t : Nat) (f : Pawn → Pawn) : (s.updPawn t f).hm = s.hm := rfl
@[simp] theorem State.updPawn_badLm (s : State) (t : Nat) (f : Pawn → Pawn) : (s.updPawn t f).badLm = s.badLm := rfl
@[simp] theorem State.updPawn_badPm (s : State) (t : Nat) (f : Pawn → Pawn) : (s.updPawn t f).badPm = s.badPm := rfl
@[simp] theorem State.updPawn_die (s : State) (t : Nat) (f : Pawn → Pawn) : (s.updPawn t f).die = s.die := rfl
@[simp] theorem State.updPawn_dev (s : State) (t : Nat) (f : Pawn → Pawn) : (s.updPawn t f).dev = s.dev := rfl
@[simp] theorem State.updPawn_part (s : State) (t : Nat) (f : Pawn → Pawn) : (s.updPawn t f).part = s.part := rfl
@[simp] theorem State.updPawn_agenda (s : State) (t : Nat) (f : Pawn → Pawn) : (s.updPawn t f).agenda = s.agenda := rfl
@[simp] theorem State.updPawn_work (s : State) (t : Nat) (f : Pawn → Pawn) : (s.updPawn t f).work = s.work := rfl
@[simp] theorem State.updPawn_oracle (s : State) (t : Nat) (f : Pawn → Pawn) : (s.updPawn t f).oracle = s.oracle := rfl
@[simp] theorem State.updPawn_inputs (s : State) (t : Nat) (f : Pawn → Pawn) : (s.updPawn t f).inputs = s.inputs := rfl
@[simp] theorem State.updPawn_turn (s : State) (t : Nat) (f : Pawn → Pawn) : (s.updPawn t f).turn = s.turn := rfl
@[simp] theorem State.updPawn_free (s : State) (t : Nat) (f : Pawn → Pawn) : (s.updPawn t f).free = s.free := rfl

theorem vget_vset_same {α : Type} {n : Nat} (v : Vector α n) (i : Nat) (x d : α) (h : i < n) : vget (vset v i x) i d = x := by
  simp [vget, vset, h]

theorem vget_vset_other {α : Type} {n : Nat} (v : Vector α n) (i j : Nat) (x d : α) (h : i ≠ j) :
    vget (vset v i x) j d = vget v j d := by
  simp only [vget, vset]
  by_cases hj : j < n <;> simp [hj, h]

@[simp] theorem State.updPawn_pawn_same (s : State) (t : Nat) (f : Pawn → Pawn) (h : t < 16) :
    (s.updPawn t f).pawn t = f (s.pawn t) := vget_vset_same _ _ _ _ h

theorem State.updPawn_pawn_other (s : State) (t u : Nat) (f : Pawn → Pawn) (h : t ≠ u) :
    (s.updPawn t f).pawn u = s.pawn u := vget_vset_other _ _ _ _ _ h

end Sys2Proof.Machine
end

