-- ==== Sys2Proof/Laws/Commands.lean ====
section
/-! SUPPORT. What a command does once the bytes it reads are held. -/

namespace Sys2Proof.Machine

theorem State.withPages_held {s : State} {j : Job} {pages : List (Nat × Nat)} (k : State → State)
    (h : pages.all (s.pageOk j.cx) = true) : s.withPages j pages k = k (s.touchPages j pages) := by
  have : (pages.find? fun p => !s.pageOk j.cx p) = none := by
    rw [List.find?_eq_none]
    intro p hp
    simp [List.all_eq_true.mp h p hp]
  simp [State.withPages, this, State.touchPages]

/-- A run that is held is read. -/
theorem State.withRun_held {s : State} {j : Job} {va n acc : Nat} (k : State → State) (h : s.runHeld j va n acc = true) :
    s.withRun j va n acc k = k (s.touchRun j va n acc) := by
  simp only [State.runHeld, Bool.and_eq_true, Bool.not_eq_true'] at h
  rw [State.withRun, State.withPages_held _ h.1]
  simp [h.2, State.touchRun]

/-- A launch whose bytes are held goes on. -/
theorem State.withLaunch_held {s : State} {j : Job} {h : BitVec 512} (k : State → State) (hh : s.launchHeld j h = true) :
    s.withLaunch j h k = k (s.touchLaunch j h) := by
  simp only [State.launchHeld, Bool.and_eq_true, Bool.not_eq_true', Bool.and_eq_false_iff] at hh
  obtain ⟨⟨h1, h2⟩, h3⟩ := hh
  rw [State.withLaunch, State.withPages_held _ h1, State.touchLaunch]
  rw [if_neg (by simp [h2]), if_neg]
  simp only [Bool.and_eq_true, not_and, Bool.not_eq_true]
  rcases h3 with h3 | h3
  · have h3' : j.consts = 0 ∨ hdrConstHi h = 0 := by simpa using h3
    rcases h3' with h3' | h3' <;> simp [h3']
  · simp [h3]

/-- A command at its start whose record keeps its limits runs. -/
theorem State.atHead_start {s : State} {j : Job} {kind : Nat} (k : State → State) (h : j.atStart kind = true)
    (hr : s.recordOk j = true) : s.atHead j kind k = k s := by
  simp only [Job.atStart, Bool.and_eq_true, decide_eq_true_eq] at h
  obtain ⟨⟨⟨h1, h2⟩, h3⟩, h4⟩ := h
  obtain ⟨a, ha⟩ := Option.isSome_iff_exists.mp h3
  rw [State.atHead, if_neg (by simp [h1, h2, h4, ha]), if_neg (by simp [hr])]

end Sys2Proof.Machine
end

