-- ==== Sys2Proof/Laws/Counts.lean ====
section
/-! SUPPORT. Reading pages whose accessed bits are set: a walk then changes nothing but the counts that the home keeps (R362, R368,
R377). -/

namespace Sys2Proof.Machine

/-- The state with other counts of requests and bytes, other lines in L2, and another place among the free values. -/
def State.counted (s : State) (a : List AcctEntry) (p : List PactEntry) (c : List Nat) (f : Nat) : State :=
  { s with dev := { s.dev with acct := a, pact := p, l2 := c }, free := f }

/-- A register other than PACTCNT, which holds the counts, reads the same. -/
theorem devReg_counted (s : State) (a p c f) (off : Nat) (h : off ≠ 0x338) : (s.counted a p c f).devReg off = s.devReg off := by
  unfold State.devReg
  simp only [h, if_false]
  rfl

theorem descend_counted (s : State) (a p c f) (va n table : Nat) (l : List Nat) :
    (s.counted a p c f).descend va n table l = s.descend va n table l := by
  induction n generalizing table l with
  | zero => rfl
  | succ n ih =>
    unfold State.descend
    dsimp only
    rw [show (s.counted a p c f).part = s.part from rfl, show ∀ x k, (s.counted a p c f).homeRead x k = s.homeRead x k from fun _ _ => rfl, ih]

theorem pageWalk_counted (s : State) (a p c f) (cx va : Nat) : (s.counted a p c f).pageWalk cx va = s.pageWalk cx va := by
  unfold State.pageWalk; rw [devReg_counted _ _ _ _ _ _ (by omega), descend_counted]

theorem jobVerdict_counted (s : State) (a p c f) (cx va acc : Nat) : (s.counted a p c f).jobVerdict cx va acc = s.jobVerdict cx va acc := by
  unfold State.jobVerdict State.verdict State.cowRoom
  rw [pageWalk_counted, devReg_counted _ _ _ _ _ _ (by decide)]; rfl

theorem pmBad_counted (s : State) (a p c f) (pa n : Nat) : (s.counted a p c f).pmBad pa n = s.pmBad pa n := by
  unfold State.pmBad State.rangeFenced
  simp only [devReg_counted _ _ _ _ _ 0x728 (by decide)]; rfl

theorem pageOk_counted (s : State) (a p c f) (cx : Nat) (x : Nat × Nat) : (s.counted a p c f).pageOk cx x = s.pageOk cx x := by
  unfold State.pageOk State.walkBad; simp only [jobVerdict_counted, pageWalk_counted, pmBad_counted]

theorem ctxPa_counted (s : State) (a p c f) (cx va : Nat) : (s.counted a p c f).ctxPa cx va = s.ctxPa cx va := by
  unfold State.ctxPa; rw [pageWalk_counted]

theorem ctxRead_counted (s : State) (a p c f) (cx va n : Nat) : (s.counted a p c f).ctxRead cx va n = s.ctxRead cx va n := by
  unfold State.ctxRead; simp only [ctxPa_counted]; rfl

theorem ctxBad_counted (s : State) (a p c f) (cx va n : Nat) : (s.counted a p c f).ctxBad cx va n = s.ctxBad cx va n := by
  unfold State.ctxBad
  simp only [ctxPa_counted, pmBad_counted]

/-- No count of a page is above m. -/
def countsTo (m : Nat) (p : List PactEntry) : Prop := ∀ e ∈ p, e.count ≤ m

theorem pactCount_counted (s : State) (src pa cx m : Nat) (h : countsTo m s.dev.pact)
    (ht : m + 1 < max 1 (bits (s.devReg 0x300) 0 16)) :
    ∃ p, s.pactCount src pa cx = s.counted s.dev.acct p s.dev.l2 s.free ∧ countsTo (m + 1) p := by
  have key : ∀ e : PactEntry, e.count ≤ m + 1 → ∀ t : List PactEntry, countsTo (m + 1) t →
      ∃ p, (if max 1 (bits (s.devReg 0x300) 0 16) ≤ e.count then (s.updDev fun d => { d with pact := t }).notify e.count (pa / 65536) src cx
        else s.updDev fun d => { d with pact := t ++ [e] }) = s.counted s.dev.acct p s.dev.l2 s.free ∧ countsTo (m + 1) p := by
    intro e he t hc
    refine ⟨t ++ [e], ?_, ?_⟩
    · rw [if_neg (by omega)]; rfl
    · intro x hx
      rcases List.mem_append.1 hx with hx | hx
      · exact hc x hx
      · rw [List.mem_singleton.1 hx]; exact he
  have sub : ∀ q : PactEntry → Bool, countsTo (m + 1) (s.dev.pact.filter q) := fun q x hx =>
    Nat.le_succ_of_le (h x (List.mem_filter.1 hx).1)
  unfold State.pactCount
  refine key _ ?_ _ (sub _)
  split
  · rename_i e he
    have := h e (List.mem_filter.1 (List.mem_of_find?_eq_some he)).1
    simpa using this
  · split
    · exact Nat.le_add_left 1 m
    · split <;> exact Nat.le_add_left 1 m

theorem acctBytes_counted (s : State) (pa cx : Nat) : ∃ a, s.acctBytes pa cx = s.counted a s.dev.pact s.dev.l2 s.free := by
  unfold State.acctBytes State.acctAdd
  split
  · rw [if_neg (by decide)]; exact ⟨_, rfl⟩
  · exact ⟨_, rfl⟩

theorem reach_counted (s : State) (src pa cx m : Nat) (h : countsTo m s.dev.pact) (ht : m + 1 < max 1 (bits (s.devReg 0x300) 0 16)) :
    ∃ a p, s.reach src pa (some cx) = s.counted a p s.dev.l2 s.free ∧ countsTo (m + 1) p := by
  obtain ⟨a, ha⟩ := acctBytes_counted s pa cx
  obtain ⟨p, hp, hc⟩ := pactCount_counted (s.counted a s.dev.pact s.dev.l2 s.free) src pa cx m h
    (by rw [devReg_counted _ _ _ _ _ _ (by decide)]; exact ht)
  refine ⟨a, p, ?_, hc⟩
  unfold State.reach
  dsimp only
  rw [ha]
  exact hp

theorem countFill_counted (s : State) (pa cx m : Nat) (hit k : Bool) (h : countsTo m s.dev.pact)
    (ht : m + 1 < max 1 (bits (s.devReg 0x300) 0 16)) :
    ∃ a p c f, s.countFill pa (some cx) hit k = s.counted a p c f ∧ countsTo (m + 1) p := by
  unfold State.countFill
  dsimp only
  split
  · obtain ⟨a, p, hp, hc⟩ := reach_counted s 6 pa cx m h ht
    exact ⟨a, p, _, _, hp, hc⟩
  · have hb : (s.bumpFree.updDev fun d => { d with l2 := if k && decide (pa / 64 ∉ d.l2) then pa / 64 :: d.l2 else d.l2 }) =
        s.counted s.dev.acct s.dev.pact (if k && decide (pa / 64 ∉ s.dev.l2) then pa / 64 :: s.dev.l2 else s.dev.l2) (s.free + 1) := rfl
    rw [hb]
    generalize (if k && decide (pa / 64 ∉ s.dev.l2) then pa / 64 :: s.dev.l2 else s.dev.l2) = l
    split
    · obtain ⟨a, p, hp, hc⟩ := reach_counted (s.counted s.dev.acct s.dev.pact l (s.free + 1)) (s.part.homeDie pa) pa cx m h
        (by rw [devReg_counted _ _ _ _ _ _ (by decide)]; exact ht)
      exact ⟨a, p, _, s.free + 1, hp, hc⟩
    · exact ⟨s.dev.acct, s.dev.pact, _, s.free + 1, rfl, fun e he => Nat.le_succ_of_le (h e he)⟩

theorem countWalk_counted (die : Nat) (l : List Nat) (s : State) (cx m left : Nat) (h : countsTo m s.dev.pact)
    (ht : m + l.length < max 1 (bits (s.devReg 0x300) 0 16)) :
    ∃ a p c f, s.countWalk die cx left l = s.counted a p c f ∧ countsTo (m + l.length) p := by
  induction l generalizing s m left with
  | nil => exact ⟨s.dev.acct, s.dev.pact, s.dev.l2, s.free, rfl, h⟩
  | cons x l ih =>
    rw [List.length_cons] at ht
    unfold State.countWalk
    dsimp only
    generalize s.l2Alloc x none (some cx) = k
    generalize (decide (s.part.tierOf x = some 0) && decide (left < 300 - s.homeTicks die x k)) = hit
    obtain ⟨a, p, c, f, he, hc⟩ := countFill_counted s x cx m hit k h (by omega)
    rw [he]
    obtain ⟨a', p', c', f', he', hc'⟩ := ih (s.counted a p c f) (m + 1) _ hc (by rw [devReg_counted _ _ _ _ _ _ (by decide)]; omega)
    refine ⟨a', p', c', f', ?_, ?_⟩
    · rw [he']; rfl
    · rw [List.length_cons, show m + (l.length + 1) = m + 1 + l.length by omega]; exact hc'

/-- The walk for the page ends at an entry that is as the walk would leave it, and no dump wants a copy of the page. -/
def State.walkClean (s : State) (cx : Nat) (p : Nat × Nat) : Bool :=
  !s.cowPage cx p.1 p.2 && match s.jobVerdict cx p.1 p.2 with
  | .fill _ ea e => decide (s.homeRead ea 8 = e)
  | _ => false

theorem cowPage_counted (s : State) (a p c f) (cx va acc : Nat) : (s.counted a p c f).cowPage cx va acc = s.cowPage cx va acc := rfl

/-- A page that no dump wants is not copied. -/
theorem cowCopy_off (s : State) (cx va acc : Nat) (h : s.cowPage cx va acc = false) : s.cowCopy cx va acc = s := by
  unfold State.cowCopy; rw [h]; rfl

theorem touchPage_counted (s : State) (cx m : Nat) (p : Nat × Nat) (hw : s.walkClean cx p = true) (h : countsTo m s.dev.pact)
    (ht : m + (s.pageWalk cx p.1).2.length < max 1 (bits (s.devReg 0x300) 0 16)) :
    ∃ a q c f, s.touchPage cx p = s.counted a q c f ∧ countsTo (m + (s.pageWalk cx p.1).2.length) q := by
  obtain ⟨a, q, c, f, he, hc⟩ := countWalk_counted s.dev.master (s.pageWalk cx p.1).2 s cx m
    (0 - s.walkTicks s.dev.master cx (s.pageWalk cx p.1).2) h ht
  refine ⟨a, q, c, f, ?_, hc⟩
  unfold State.walkClean at hw
  rw [Bool.and_eq_true, Bool.not_eq_true'] at hw
  obtain ⟨hd, hw⟩ := hw
  suffices hs : s.walkEffects (s.pageWalk cx p.1).2 (s.jobVerdict cx p.1 p.2) cx s.dev.master 0 = s.counted a q c f by
    unfold State.touchPage
    rw [hs]
    exact cowCopy_off _ _ _ _ hd
  unfold State.walkEffects
  rw [he]
  revert hw
  cases s.jobVerdict cx p.1 p.2 with
  | fill t ea e => exact fun hw => if_pos (of_decide_eq_true hw)
  | block => exact fun hw => nomatch hw
  | hostOff => exact fun hw => nomatch hw
  | fault k l e => exact fun hw => nomatch hw

theorem walkClean_counted (s : State) (a p c f) (cx : Nat) : (s.counted a p c f).walkClean cx = s.walkClean cx := by
  funext x; unfold State.walkClean; rw [jobVerdict_counted, cowPage_counted]; rfl

/-- Entries that the walks for the pages read. -/
def State.walkLoad (s : State) (cx : Nat) (pages : List (Nat × Nat)) : Nat := (pages.map fun p => (s.pageWalk cx p.1).2.length).sum

theorem walkLoad_counted (s : State) (a p c f) (cx : Nat) (l : List (Nat × Nat)) : (s.counted a p c f).walkLoad cx l = s.walkLoad cx l := by
  unfold State.walkLoad; simp only [pageWalk_counted]

theorem touchPages_counted (j : Job) (pages : List (Nat × Nat)) (s : State) (m : Nat) (hw : pages.all (s.walkClean j.cx) = true)
    (h : countsTo m s.dev.pact) (ht : m + s.walkLoad j.cx pages < max 1 (bits (s.devReg 0x300) 0 16)) :
    ∃ a q c f, s.touchPages j pages = s.counted a q c f ∧ countsTo (m + s.walkLoad j.cx pages) q := by
  induction pages generalizing s m with
  | nil => exact ⟨s.dev.acct, s.dev.pact, s.dev.l2, s.free, rfl, h⟩
  | cons p l ih =>
    rw [List.all_cons, Bool.and_eq_true] at hw
    have hl : s.walkLoad j.cx (p :: l) = (s.pageWalk j.cx p.1).2.length + s.walkLoad j.cx l := rfl
    rw [hl] at ht
    obtain ⟨a, q, c, f, he, hc⟩ := touchPage_counted s j.cx m p hw.1 h (by omega)
    obtain ⟨a', q', c', f', he', hc'⟩ := ih (s.counted a q c f) _ (by rw [walkClean_counted]; exact hw.2) hc
      (by rw [walkLoad_counted, devReg_counted _ _ _ _ _ _ (by decide)]; omega)
    rw [walkLoad_counted] at hc'
    refine ⟨a', q', c', f', ?_, ?_⟩
    · show (s.touchPage j.cx p).touchPages j l = _
      rw [he, he']; rfl
    · rw [hl, ← Nat.add_assoc]; exact hc'

theorem chargeLine_counted (s : State) (cx : Nat) (cls : Option Nat) (pa : Nat) : ∃ a l f, s.chargeLine cx cls pa = s.counted a s.dev.pact l f := by
  unfold State.chargeLine
  generalize s.l2Alloc pa cls (some cx) = k
  dsimp only
  split
  · obtain ⟨a, ha⟩ := acctBytes_counted s pa cx
    exact ⟨a, _, _, ha⟩
  · split
    · obtain ⟨a, ha⟩ := acctBytes_counted (s.bumpFree.updDev fun d => { d with l2 := if k && decide (pa / 64 ∉ d.l2) then pa / 64 :: d.l2 else d.l2 }) pa cx
      exact ⟨a, _, _, ha⟩
    · exact ⟨s.dev.acct, _, _, rfl⟩

/-- A fold of steps that change accounting entries, lines in L2 and the place among the free values changes nothing else. -/
theorem charged_fold {α : Type} (g : State → α → State) (hg : ∀ s x, ∃ a l f, g s x = s.counted a s.dev.pact l f) (xs : List α) (s : State) :
    ∃ a l f, xs.foldl g s = s.counted a s.dev.pact l f := by
  induction xs generalizing s with
  | nil => exact ⟨s.dev.acct, s.dev.l2, s.free, rfl⟩
  | cons x xs ih =>
    obtain ⟨a, l, f, h⟩ := hg s x
    obtain ⟨a', l', f', h'⟩ := ih (s.counted a s.dev.pact l f)
    exact ⟨a', l', f', by rw [List.foldl_cons, h, h']; rfl⟩

/-- The charge for a run changes accounting entries and the lines in L2 alone, and draws free values. -/
theorem chargeRun_counted (s : State) (cx va n : Nat) : ∃ a l f, s.chargeRun cx va n = s.counted a s.dev.pact l f :=
  charged_fold _ (fun s _ => charged_fold _ (fun s _ => chargeLine_counted s cx _ _) _ s) _ s

/-- The walks for a run and its requests change counts alone, where the walks find their entries as they would leave them. -/
theorem touchRun_counted (s : State) (j : Job) (va n acc m : Nat) (hw : (needRun va n acc).all (s.walkClean j.cx) = true)
    (h : countsTo m s.dev.pact) (ht : m + s.walkLoad j.cx (needRun va n acc) < max 1 (bits (s.devReg 0x300) 0 16)) :
    ∃ a q c f, s.touchRun j va n acc = s.counted a q c f ∧ countsTo (m + s.walkLoad j.cx (needRun va n acc)) q := by
  obtain ⟨a, q, c, f, he, hc⟩ := touchPages_counted j (needRun va n acc) s m hw h ht
  obtain ⟨b, l, g, hg⟩ := chargeRun_counted (s.counted a q c f) j.cx va n
  exact ⟨b, q, l, g, by rw [State.touchRun, he, hg]; rfl, hc⟩

/-- A run whose pages translate, are accessed already and hold no bad byte can be read. -/
theorem runHeld_of (s : State) (j : Job) (va n acc m : Nat) (hp : (needRun va n acc).all (s.pageOk j.cx) = true)
    (hw : (needRun va n acc).all (s.walkClean j.cx) = true) (h : countsTo m s.dev.pact)
    (ht : m + s.walkLoad j.cx (needRun va n acc) < max 1 (bits (s.devReg 0x300) 0 16)) (hb : s.ctxBad j.cx va n = false) :
    s.runHeld j va n acc = true := by
  obtain ⟨a, q, c, f, he, -⟩ := touchPages_counted j (needRun va n acc) s m hw h ht
  unfold State.runHeld
  rw [he, hp]
  rw [ctxBad_counted, hb]; rfl

/-- The same for the pages of a launch. -/
theorem launchHeld_of (s : State) (j : Job) (h : BitVec 512) (m : Nat) (hp : (launchPages j h).all (s.pageOk j.cx) = true)
    (hw : (launchPages j h).all (s.walkClean j.cx) = true) (hc : countsTo m s.dev.pact)
    (ht : m + s.walkLoad j.cx (launchPages j h) < max 1 (bits (s.devReg 0x300) 0 16))
    (hb : s.ctxBad j.cx j.hdrVa (64 + hdrImage h) = false) (h0 : j.consts = 0) : s.launchHeld j h = true := by
  obtain ⟨a, q, c, f, he, -⟩ := touchPages_counted j (launchPages j h) s m hw hc ht
  unfold State.launchHeld
  dsimp only
  rw [he, hp, h0, ctxBad_counted, hb]; rfl

end Sys2Proof.Machine
end

