-- ==== Sys2Proof/Laws/Decode.lean ====
section
/-! SUPPORT. The fields of an op word (R29): what the encoder puts together the decoder takes apart. -/

namespace Sys2Proof

@[simp] theorem wordK_mkWord (k : Bool) (mj d a : BitVec 6) (lo : BitVec 13) : wordK (mkWord k mj d a lo) = k := by
  simp only [wordK, mkWord, BitVec.getLsbD_append]
  simp

@[simp] theorem wordMajor_mkWord (k : Bool) (mj d a : BitVec 6) (lo : BitVec 13) : wordMajor (mkWord k mj d a lo) = mj := by
  simp (disch := omega) only [wordMajor, mkWord, BitVec.extractLsb'_append_eq_of_le, BitVec.extractLsb'_append_eq_of_add_le,
    BitVec.extractLsb'_eq_self, Nat.reduceSub]

@[simp] theorem wordD_mkWord (k : Bool) (mj d a : BitVec 6) (lo : BitVec 13) : wordD (mkWord k mj d a lo) = d := by
  simp (disch := omega) only [wordD, mkWord, BitVec.extractLsb'_append_eq_of_le, BitVec.extractLsb'_append_eq_of_add_le,
    BitVec.extractLsb'_eq_self, Nat.reduceSub]

@[simp] theorem wordA_mkWord (k : Bool) (mj d a : BitVec 6) (lo : BitVec 13) : wordA (mkWord k mj d a lo) = a := by
  simp (disch := omega) only [wordA, mkWord, BitVec.extractLsb'_append_eq_of_le, BitVec.extractLsb'_append_eq_of_add_le,
    BitVec.extractLsb'_eq_self, Nat.reduceSub]

@[simp] theorem wordLo_mkWord (k : Bool) (mj d a : BitVec 6) (lo : BitVec 13) : wordLo (mkWord k mj d a lo) = lo := by
  simp (disch := omega) only [wordLo, mkWord, BitVec.extractLsb'_append_eq_of_add_le, BitVec.extractLsb'_eq_self]

/-! ### The row of each assigned major -/

theorem decodeFields_00 (k : Bool) (d a : BitVec 6) (lo : BitVec 13) :
    decodeFields k 0x00#6 d a lo = decodeMajor00 k d a lo := rfl
theorem decodeFields_01 (k : Bool) (d a : BitVec 6) (lo : BitVec 13) :
    decodeFields k 0x01#6 d a lo = decodeMajor01 k d a lo := rfl
theorem decodeFields_02 (k : Bool) (d a : BitVec 6) (lo : BitVec 13) :
    decodeFields k 0x02#6 d a lo = decodeMajor02 k d a lo := rfl
theorem decodeFields_03 (k : Bool) (d a : BitVec 6) (lo : BitVec 13) :
    decodeFields k 0x03#6 d a lo = decodeMajor03 k d a lo := rfl
theorem decodeFields_04 (k : Bool) (d a : BitVec 6) (lo : BitVec 13) :
    decodeFields k 0x04#6 d a lo = decodeMajor04 k d a lo := rfl
theorem decodeFields_05 (k : Bool) (d a : BitVec 6) (lo : BitVec 13) :
    decodeFields k 0x05#6 d a lo = decodeMajor05 k d a lo := rfl
theorem decodeFields_06 (k : Bool) (d a : BitVec 6) (lo : BitVec 13) :
    decodeFields k 0x06#6 d a lo = decodeMajor06 k d a lo := rfl
theorem decodeFields_07 (k : Bool) (d a : BitVec 6) (lo : BitVec 13) :
    decodeFields k 0x07#6 d a lo = decodeMajor07 k d a lo := rfl
theorem decodeFields_08 (k : Bool) (d a : BitVec 6) (lo : BitVec 13) :
    decodeFields k 0x08#6 d a lo = decodeMajor08 k d a lo := rfl
theorem decodeFields_09 (k : Bool) (d a : BitVec 6) (lo : BitVec 13) :
    decodeFields k 0x09#6 d a lo = decodeMajor09 k d a lo := rfl
theorem decodeFields_0A (k : Bool) (d a : BitVec 6) (lo : BitVec 13) :
    decodeFields k 0x0A#6 d a lo = decodeMajor0A k d a lo := rfl
theorem decodeFields_0B (k : Bool) (d a : BitVec 6) (lo : BitVec 13) :
    decodeFields k 0x0B#6 d a lo = decodeMajor0B k d a lo := rfl
theorem decodeFields_0C (k : Bool) (d a : BitVec 6) (lo : BitVec 13) :
    decodeFields k 0x0C#6 d a lo = decodeMajor0C k d a lo := rfl
theorem decodeFields_0D (k : Bool) (d a : BitVec 6) (lo : BitVec 13) :
    decodeFields k 0x0D#6 d a lo = decodeMajor0D k d a lo := rfl
theorem decodeFields_0E (k : Bool) (d a : BitVec 6) (lo : BitVec 13) :
    decodeFields k 0x0E#6 d a lo = decodeMajor0E k d a lo := rfl
theorem decodeFields_0F (k : Bool) (d a : BitVec 6) (lo : BitVec 13) :
    decodeFields k 0x0F#6 d a lo = decodeMajor0F k d a lo := rfl
theorem decodeFields_10 (k : Bool) (d a : BitVec 6) (lo : BitVec 13) :
    decodeFields k 0x10#6 d a lo = decodeMajor10 k d a lo := rfl
theorem decodeFields_11 (k : Bool) (d a : BitVec 6) (lo : BitVec 13) :
    decodeFields k 0x11#6 d a lo = decodeMajor11 k d a lo := rfl
theorem decodeFields_12 (k : Bool) (d a : BitVec 6) (lo : BitVec 13) :
    decodeFields k 0x12#6 d a lo = decodeMajor12 k d a lo := rfl
theorem decodeFields_13 (k : Bool) (d a : BitVec 6) (lo : BitVec 13) :
    decodeFields k 0x13#6 d a lo = decodeMajor13 k d a lo := rfl
theorem decodeFields_14 (k : Bool) (d a : BitVec 6) (lo : BitVec 13) :
    decodeFields k 0x14#6 d a lo = decodeMajor14 k d a lo := rfl
theorem decodeFields_15 (k : Bool) (d a : BitVec 6) (lo : BitVec 13) :
    decodeFields k 0x15#6 d a lo = decodeMajor15 k d a lo := rfl
theorem decodeFields_16 (k : Bool) (d a : BitVec 6) (lo : BitVec 13) :
    decodeFields k 0x16#6 d a lo = decodeMajor16 k d a lo := rfl
theorem decodeFields_17 (k : Bool) (d a : BitVec 6) (lo : BitVec 13) :
    decodeFields k 0x17#6 d a lo = decodeMajor17 k d a lo := rfl
theorem decodeFields_18 (k : Bool) (d a : BitVec 6) (lo : BitVec 13) :
    decodeFields k 0x18#6 d a lo = decodeMajor18 k d a lo := rfl
theorem decodeFields_19 (k : Bool) (d a : BitVec 6) (lo : BitVec 13) :
    decodeFields k 0x19#6 d a lo = decodeMajor19 k d a lo := rfl
theorem decodeFields_1A (k : Bool) (d a : BitVec 6) (lo : BitVec 13) :
    decodeFields k 0x1A#6 d a lo = decodeMajor1A k d a lo := rfl
theorem decodeFields_1B (k : Bool) (d a : BitVec 6) (lo : BitVec 13) :
    decodeFields k 0x1B#6 d a lo = decodeMajor1B k d a lo := rfl
theorem decodeFields_1C (k : Bool) (d a : BitVec 6) (lo : BitVec 13) :
    decodeFields k 0x1C#6 d a lo = decodeMajor1C k d a lo := rfl
theorem decodeFields_1D (k : Bool) (d a : BitVec 6) (lo : BitVec 13) :
    decodeFields k 0x1D#6 d a lo = decodeMajor1D k d a lo := rfl
theorem decodeFields_1E (k : Bool) (d a : BitVec 6) (lo : BitVec 13) :
    decodeFields k 0x1E#6 d a lo = decodeMajor1E k d a lo := rfl
theorem decodeFields_1F (k : Bool) (d a : BitVec 6) (lo : BitVec 13) :
    decodeFields k 0x1F#6 d a lo = decodeMajor1F k d a lo := rfl
theorem decodeFields_20 (k : Bool) (d a : BitVec 6) (lo : BitVec 13) :
    decodeFields k 0x20#6 d a lo = decodeMajor20 k d a lo := rfl
theorem decodeFields_22 (k : Bool) (d a : BitVec 6) (lo : BitVec 13) :
    decodeFields k 0x22#6 d a lo = decodeMajor22 k d a lo := rfl
theorem decodeFields_23 (k : Bool) (d a : BitVec 6) (lo : BitVec 13) :
    decodeFields k 0x23#6 d a lo = decodeMajor23 k d a lo := rfl
theorem decodeFields_24 (k : Bool) (d a : BitVec 6) (lo : BitVec 13) :
    decodeFields k 0x24#6 d a lo = decodeMajor24 k d a lo := rfl
theorem decodeFields_25 (k : Bool) (d a : BitVec 6) (lo : BitVec 13) :
    decodeFields k 0x25#6 d a lo = decodeMajor25 k d a lo := rfl
theorem decodeFields_26 (k : Bool) (d a : BitVec 6) (lo : BitVec 13) :
    decodeFields k 0x26#6 d a lo = decodeMajor26 k d a lo := rfl
theorem decodeFields_27 (k : Bool) (d a : BitVec 6) (lo : BitVec 13) :
    decodeFields k 0x27#6 d a lo = decodeMajor27 k d a lo := rfl
theorem decodeFields_28 (k : Bool) (d a : BitVec 6) (lo : BitVec 13) :
    decodeFields k 0x28#6 d a lo = decodeMajor28 k d a lo := rfl
theorem decodeFields_29 (k : Bool) (d a : BitVec 6) (lo : BitVec 13) :
    decodeFields k 0x29#6 d a lo = decodeMajor29 k d a lo := rfl
theorem decodeFields_2A (k : Bool) (d a : BitVec 6) (lo : BitVec 13) :
    decodeFields k 0x2A#6 d a lo = decodeMajor2A k d a lo := rfl
theorem decodeFields_2B (k : Bool) (d a : BitVec 6) (lo : BitVec 13) :
    decodeFields k 0x2B#6 d a lo = decodeMajor2B k d a lo := rfl
theorem decodeFields_2C (k : Bool) (d a : BitVec 6) (lo : BitVec 13) :
    decodeFields k 0x2C#6 d a lo = decodeMajor2C k d a lo := rfl
theorem decodeFields_2D (k : Bool) (d a : BitVec 6) (lo : BitVec 13) :
    decodeFields k 0x2D#6 d a lo = decodeMajor2D k d a lo := rfl
theorem decodeFields_32 (k : Bool) (d a : BitVec 6) (lo : BitVec 13) :
    decodeFields k 0x32#6 d a lo = decodeMajor32 k d a lo := rfl
theorem decodeFields_33 (k : Bool) (d a : BitVec 6) (lo : BitVec 13) :
    decodeFields k 0x33#6 d a lo = decodeMajor33 k d a lo := rfl
theorem decodeFields_34 (k : Bool) (d a : BitVec 6) (lo : BitVec 13) :
    decodeFields k 0x34#6 d a lo = decodeMajor34 k d a lo := rfl
theorem decodeFields_36 (k : Bool) (d a : BitVec 6) (lo : BitVec 13) :
    decodeFields k 0x36#6 d a lo = decodeMajor36 k d a lo := rfl
theorem decodeFields_37 (k : Bool) (d a : BitVec 6) (lo : BitVec 13) :
    decodeFields k 0x37#6 d a lo = decodeMajor37 k d a lo := rfl
theorem decodeFields_38 (k : Bool) (d a : BitVec 6) (lo : BitVec 13) :
    decodeFields k 0x38#6 d a lo = decodeMajor38 k d a lo := rfl
theorem decodeFields_39 (k : Bool) (d a : BitVec 6) (lo : BitVec 13) :
    decodeFields k 0x39#6 d a lo = decodeMajor39 k d a lo := rfl
theorem decodeFields_3A (k : Bool) (d a : BitVec 6) (lo : BitVec 13) :
    decodeFields k 0x3A#6 d a lo = decodeMajor3A k d a lo := rfl
theorem decodeFields_3B (k : Bool) (d a : BitVec 6) (lo : BitVec 13) :
    decodeFields k 0x3B#6 d a lo = decodeMajor3B k d a lo := rfl
theorem decodeFields_3C (k : Bool) (d a : BitVec 6) (lo : BitVec 13) :
    decodeFields k 0x3C#6 d a lo = decodeMajor3C k d a lo := rfl
theorem decodeFields_3D (k : Bool) (d a : BitVec 6) (lo : BitVec 13) :
    decodeFields k 0x3D#6 d a lo = decodeMajor3D k d a lo := rfl

end Sys2Proof
end

