-- ==== Sys2Proof/Laws/Device.lean ====
section
/-! SUPPORT. What a write of a device register does to the reads of device registers. -/

namespace Sys2Proof.Machine

theorem assocGet_set_same {β : Type} (l : List (Nat × β)) (a : Nat) (v d : β) : assocGet (assocSet l a v) a d = v := by
  induction l with
  | nil => exact if_pos rfl
  | cons x l ih =>
    unfold assocSet
    split
    · exact if_pos rfl
    · split
      · exact if_pos rfl
      · next h => unfold assocGet; rw [if_neg (Ne.symm h), ih]

theorem assocGet_set_other {β : Type} (l : List (Nat × β)) (a b : Nat) (v d : β) (h : b ≠ a) :
    assocGet (assocSet l a v) b d = assocGet l b d := by
  induction l with
  | nil => exact if_neg (Ne.symm h)
  | cons x l ih =>
    unfold assocSet
    split
    · exact if_neg (Ne.symm h)
    · split
      · next hx => simp only [assocGet, ← hx, if_neg (Ne.symm h)]
      · simp only [assocGet, ih]

theorem assocGet_erase_same {β : Type} (l : List (Nat × β)) (a : Nat) (d : β) : assocGet (assocErase l a) a d = d := by
  unfold assocErase
  induction l with
  | nil => rfl
  | cons x l ih =>
    rw [List.filter_cons]
    split
    · next h => simp only [assocGet, if_neg (of_decide_eq_true h), ih]
    · exact ih

theorem assocGet_erase_other {β : Type} (l : List (Nat × β)) (a b : Nat) (d : β) (h : b ≠ a) :
    assocGet (assocErase l a) b d = assocGet l b d := by
  unfold assocErase
  induction l with
  | nil => rfl
  | cons x l ih =>
    rw [List.filter_cons]
    split
    · simp only [assocGet, ih]
    · next hx =>
      have : x.1 = a := by simpa using hx
      simp only [assocGet, this, if_neg (Ne.symm h), ih]

/-- The registers that the part itself answers, and the counts of live L2 slices, that are read from other registers. -/
def ownRegister (p : Part) (off : Nat) : Bool :=
  decide (off ≠ 0x40) && (p.reg off).isNone && !(decide (0x1094 ≤ off) && decide (off < 0x1600) && decide ((off - 0x1094) % 0x100 = 0))

/-- A write of one register leaves every other as it was (R8). -/
theorem State.devReg_set_other (s : State) (a b v : Nat) (hb : ownRegister s.part b = true) (h : b ≠ a) : (s.setDevReg a v).devReg b = s.devReg b := by
  simp only [ownRegister, Bool.and_eq_true, decide_eq_true_eq, Bool.not_eq_true', Bool.and_eq_false_iff, decide_eq_false_iff_not,
    Option.isNone_iff_eq_none] at hb
  have e : assocGet (s.setDevReg a v).dev.regs b (regReset b) = assocGet s.dev.regs b (regReset b) := by
    show assocGet (if v = regReset a then assocErase s.dev.regs a else assocSet s.dev.regs a v) b (regReset b) = _
    split
    · exact assocGet_erase_other _ _ _ _ h
    · exact assocGet_set_other _ _ _ _ _ h
  unfold State.devReg
  rw [if_neg hb.1.1, if_neg hb.1.1, show (s.setDevReg a v).part = s.part from rfl, hb.1.2]
  dsimp only
  rw [if_neg (by omega : ¬(0x1094 ≤ b ∧ b < 0x1600 ∧ (b - 0x1094) % 0x100 = 0)), if_neg (by omega : ¬(0x1094 ≤ b ∧ b < 0x1600 ∧ (b - 0x1094) % 0x100 = 0)), e]
  rfl

/-- A register that reads as it was written, of those without fuses beneath them, reads so after a write (R8). -/
theorem State.devReg_set_same (s : State) (a v : Nat) (ha : ownRegister s.part a = true) (hf : s.part.fencedBits a = 0) (h1 : a ≠ 0x330)
    (h2 : a ≠ 0x338) : (s.setDevReg a v).devReg a = v := by
  simp only [ownRegister, Bool.and_eq_true, decide_eq_true_eq, Bool.not_eq_true', Bool.and_eq_false_iff, decide_eq_false_iff_not,
    Option.isNone_iff_eq_none] at ha
  have e : assocGet (s.setDevReg a v).dev.regs a (regReset a) = v := by
    show assocGet (if v = regReset a then assocErase s.dev.regs a else assocSet s.dev.regs a v) a (regReset a) = v
    split
    · next h => rw [assocGet_erase_same, h]
    · exact assocGet_set_same _ _ _ _
  unfold State.devReg
  rw [if_neg ha.1.1, show (s.setDevReg a v).part = s.part from rfl, ha.1.2]
  dsimp only
  rw [if_neg (by omega), if_neg h1, if_neg h2, e, hf, Nat.or_zero]

@[simp] theorem State.setDevReg_lm (s : State) (a v : Nat) : (s.setDevReg a v).lm = s.lm := rfl
@[simp] theorem State.setDevReg_pm (s : State) (a v : Nat) : (s.setDevReg a v).pm = s.pm := rfl
@[simp] theorem State.setDevReg_hm (s : State) (a v : Nat) : (s.setDevReg a v).hm = s.hm := rfl
@[simp] theorem State.setDevReg_part (s : State) (a v : Nat) : (s.setDevReg a v).part = s.part := rfl
@[simp] theorem State.setDevReg_noSupply (s : State) (a v : Nat) : (s.setDevReg a v).dev.noSupply = s.dev.noSupply := rfl

/-- A reset of the device leaves local memory empty and of device memory the host tier alone, and host memory and the part as they were (R16, R430). -/
theorem State.afterReset_memory (s : State) : s.afterReset.lm = [] ∧ s.afterReset.pm = s.pm.filter (fun e => decide (s.part.tierOf e.1 = some 2)) ∧
    s.afterReset.hm = s.hm ∧ s.afterReset.part = s.part := ⟨rfl, rfl, rfl, rfl⟩

end Sys2Proof.Machine
end

