-- ==== Sys2Proof/Laws/Issue.lean ====
section
/-! SUPPORT. What the issue of an op can answer, and when it is the op's own effect. -/

namespace Sys2Proof.Machine

/-- Issue always answers a next state: the effect, a trap, a freeze, or the stop of a watchpoint. -/
theorem issue_cases (sp : OpSpec) (s : State) (eff : State → State) :
    ∃ t, issue sp s eff = .next t ∧
      (t = s.perform sp eff ∨ (∃ r, t = s.trap r) ∨ (∃ r, t = (s.discardFor sp r).trap r) ∨ t = s.freezeWith (s.freezes sp) ∨
        ∃ n a, t = s.watchStop n a) := by
  unfold issue
  split
  · exact ⟨_, rfl, .inl rfl⟩
  · split
    · exact ⟨_, rfl, .inr (.inl ⟨_, rfl⟩)⟩
    · split
      · exact ⟨_, rfl, .inr (.inr (.inr (.inl rfl)))⟩
      · split
        · exact ⟨_, rfl, .inr (.inr (.inl ⟨_, rfl⟩))⟩
        · unfold State.performWatched
          split
          · exact ⟨_, rfl, .inr (.inr (.inr (.inr ⟨_, _, rfl⟩)))⟩
          · exact ⟨_, rfl, .inl rfl⟩

theorem findSome_none_of_all {α β : Type} (l : List α) (f : α → Option β) (h : l.all (fun x => (f x).isNone) = true) :
    l.findSome? f = none := by
  rw [List.findSome?_eq_none_iff]
  intro x hx
  have := List.all_eq_true.mp h x hx
  simpa using this

/-- An op that is clear has no check that traps it at its encoding. -/
theorem State.clear_encoding {s : State} {sp : OpSpec} (h : s.clear sp = true) : s.encodingTrap sp = none := by
  simp only [State.clear, Bool.and_eq_true, Bool.or_eq_true, decide_eq_true_eq] at h
  obtain ⟨⟨⟨⟨⟨h1, h2⟩, h3⟩, h4⟩, _⟩, _⟩ := h
  have hk : (!s.isPawn && sp.k) = false := by cases h1 <;> simp_all
  have hs : s.stageTrap sp .enc = none := by
    rw [State.stageTrap, List.findSome?_eq_none_iff]
    intro c hc
    have := List.all_eq_true.mp h4 c hc
    split
    · simpa using this
    · rfl
  have hr : (sp.regs.any fun u => !s.regOk u) = false := by
    rw [List.any_eq_false]
    intro u hu
    have := List.all_eq_true.mp h3 u hu
    simp [this]
  simp [State.encodingTrap, hk, hs, h2, hr]

/-- Nor one that traps it later. -/
theorem State.clear_late {s : State} {sp : OpSpec} (h : s.clear sp = true) :
    (lateStages.findSome? fun st => s.lateTrap sp st []) = none := by
  simp only [State.clear, Bool.and_eq_true, Bool.or_eq_true, decide_eq_true_eq] at h
  obtain ⟨⟨⟨_, h4⟩, h5⟩, _⟩ := h
  have hs : ∀ st, s.stageTrap sp st = none := by
    intro st
    rw [State.stageTrap, List.findSome?_eq_none_iff]
    intro c hc
    have := List.all_eq_true.mp h4 c hc
    split
    · simpa using this
    · rfl
  have hp : s.portsTrap sp [] = none := findSome_none_of_all _ _ h5
  rw [List.findSome?_eq_none_iff]
  intro st _
  simp only [State.lateTrap, hs, hp]
  split <;> rfl

theorem State.clear_freezes {s : State} {sp : OpSpec} (h : s.clear sp = true) : s.freezes sp = [] := by
  simp only [State.clear, Bool.and_eq_true, decide_eq_true_eq] at h
  exact h.2

/-- An op that is ready, or whose bundle has been checked, issues with its effect. -/
theorem issue_ready {sp : OpSpec} {s : State} (eff : State → State) (h : s.ctx.checked = true ∨ s.ready sp = true) :
    issue sp s eff = .next (s.perform sp eff) := by
  unfold issue
  split
  · rfl
  · next hc =>
    have hr : s.ready sp = true := by simpa [hc] using h
    simp only [State.ready, Bool.and_eq_true, Option.isNone_iff_eq_none] at hr
    rw [State.clear_encoding hr.1, State.clear_late hr.1]
    simp [State.clear_freezes hr.1, State.performWatched, hr.2]

/-- The same for an op that translates an address. -/
theorem issueG_ready {sp : OpSpec} {va : State → Word64} {acc : Nat} {post : State → TlbEntry → Option TrapRec} {s : State}
    {e : TlbEntry} (eff : State → State) (hc : s.ctx.checked = false) (h : s.clear sp = true)
    (he : s.gHit (va s) acc = some e) (ht : ¬(2 ≤ acc ∧ pteTier e.attrs.toNat = 2)) (hp : post s e = none)
    (hw : (s.translated e (va s)).opWatch sp = none) :
    issueG sp va acc post s eff = .next ((s.translated e (va s)).perform sp eff) := by
  simp only [issueG, hc, State.clear_encoding h, State.clear_late h, he, if_neg ht, hp]
  simp only [State.translated] at hw ⊢
  simp [State.performWatched, hw]

/-- An instruction that issues with an effect completes with it. -/
theorem completes_of {i : Instr} {eff : State → State} (h : ∀ s, exec i s = issue (specOf i) s eff) : Completes i eff :=
  fun s hr => (h s).trans (issue_ready eff hr)

/-- And one that translates an address. -/
theorem completesAt_of {i : Instr} {va : State → Word64} {acc : Nat} {post : State → TlbEntry → Option TrapRec} {eff : State → State}
    (h : ∀ s, exec i s = issueG (specOf i) va acc post s eff) : CompletesAt i va acc post eff :=
  ⟨fun s _ h0 h1 h2 h3 h4 h5 => (h s).trans (issueG_ready eff h0 h1 h2 h3 h4 h5),
    fun s hc => (h s).trans (by simp [issueG, hc])⟩

end Sys2Proof.Machine
end

