-- ==== Sys2Proof/Laws/Frames.lean ====
section
/-! SUPPORT. What the issue of an op leaves alone: the frames of the operations that ops share, and how they carry over to `exec`. -/

namespace Sys2Proof.Machine

/-! ### The relations -/

theorem State.sameOutside_refl (s : State) : s.sameOutside s := ⟨rfl, rfl, rfl, rfl, rfl, rfl, rfl, rfl⟩

theorem State.sameOutside_trans {a b c : State} (h : a.sameOutside b) (k : b.sameOutside c) : a.sameOutside c := by
  obtain ⟨h1, h2, h3, h4, h5, h6, h7, h8⟩ := h
  obtain ⟨k1, k2, k3, k4, k5, k6, k7, k8⟩ := k
  exact ⟨h1.trans k1, h2.trans k2, h3.trans k3, h4.trans k4, h5.trans k5, h6.trans k6, h7.trans k7, h8.trans k8⟩

theorem Thread.sameBut_refl (a : Thread) : Thread.sameBut a a := rfl

theorem Pawn.sameRegs_refl (p : Pawn) : p.sameRegs p := ⟨rfl, rfl, rfl, rfl, rfl, rfl, rfl, rfl, rfl, rfl, rfl⟩

theorem Pawn.sameRegs_trans {a b c : Pawn} (h : a.sameRegs b) (k : b.sameRegs c) : a.sameRegs c := by
  obtain ⟨h1, h2, h3, h4, h5, h6, h7, h8, h9, h10, h11⟩ := h
  obtain ⟨k1, k2, k3, k4, k5, k6, k7, k8, k9, k10, k11⟩ := k
  exact ⟨h1.trans k1, h2.trans k2, h3.trans k3, h4.trans k4, Eq.trans h5 k5, h6.trans k6, h7.trans k7, h8.trans k8, h9.trans k9,
    h10.trans k10, h11.trans k11⟩

theorem Primary.sameButIssue_refl (p : Primary) : p.sameButIssue p := rfl

theorem Primary.sameButIssue_trans {a b c : Primary} (h : a.sameButIssue b) (k : b.sameButIssue c) : a.sameButIssue c := by
  simp only [Primary.sameButIssue, Primary.mk.injEq] at h k ⊢
  simp_all

theorem State.sameCore_refl (s : State) : s.sameCore s := ⟨rfl, rfl, rfl, rfl, rfl, rfl⟩

theorem State.sameCore_trans {a b c : State} (h : a.sameCore b) (k : b.sameCore c) : a.sameCore c := by
  obtain ⟨h1, h2, h3, h4, h5, h6⟩ := h
  obtain ⟨k1, k2, k3, k4, k5, k6⟩ := k
  exact ⟨h1.trans k1, h2.trans k2, h3.trans k3, h4.trans k4, h5.trans k5, h6.trans k6⟩

theorem State.sameRegs_refl (s : State) : s.sameRegs s := ⟨rfl, s.sameCore_refl, fun _ => Pawn.sameRegs_refl _⟩

theorem State.sameRegs_trans {a b c : State} (h : a.sameRegs b) (k : b.sameRegs c) : a.sameRegs c :=
  ⟨Primary.sameButIssue_trans h.1 k.1, State.sameCore_trans h.2.1 k.2.1, fun n => Pawn.sameRegs_trans (h.2.2 n) (k.2.2 n)⟩

/-- Nothing outside and no register has changed. -/
def State.quiet (t s : State) : Prop := t.sameOutside s ∧ t.sameRegs s

theorem State.quiet_refl (s : State) : s.quiet s := ⟨s.sameOutside_refl, s.sameRegs_refl⟩

theorem State.quiet_trans {a b c : State} (h : a.quiet b) (k : b.quiet c) : a.quiet c :=
  ⟨State.sameOutside_trans h.1 k.1, State.sameRegs_trans h.2 k.2⟩

/-! ### Updates that are quiet -/

theorem State.updCore_quiet (s : State) (f : CoreState → CoreState) (h : (s.updCore f).sameCore s) : (s.updCore f).quiet s :=
  ⟨⟨rfl, rfl, rfl, rfl, rfl, rfl, rfl, rfl⟩, rfl, h, fun _ => Pawn.sameRegs_refl _⟩

theorem State.updPrim_quiet (s : State) (f : Primary → Primary) (h : (f s.prim).sameButIssue s.prim) : (s.updPrim f).quiet s :=
  ⟨⟨rfl, rfl, rfl, rfl, rfl, rfl, rfl, rfl⟩, h, s.sameCore_refl, fun _ => Pawn.sameRegs_refl _⟩

/-- Reading a vector at any place after one place is set. -/
theorem vget_vset {α : Type} {n : Nat} (v : Vector α n) (i j : Nat) (x d : α) :
    vget (vset v i x) j d = if i = j ∧ i < n then x else vget v j d := by
  by_cases h : i = j
  · subst h
    by_cases hi : i < n
    · simp [hi, vget_vset_same _ _ _ _ hi]
    · simp only [hi, and_false, if_false]
      simp [vset, vget, hi]
  · simp [h, vget_vset_other _ _ _ _ _ h]

theorem State.updPawn_pawn (s : State) (t n : Nat) (f : Pawn → Pawn) :
    (s.updPawn t f).pawn n = if t = n ∧ t < 16 then f (s.pawn t) else s.pawn n := vget_vset _ _ _ _ _

theorem State.updPawn_quiet (s : State) (t : Nat) (f : Pawn → Pawn) (h : (f (s.pawn t)).sameRegs (s.pawn t)) :
    (s.updPawn t f).quiet s := by
  refine ⟨⟨rfl, rfl, rfl, rfl, rfl, rfl, rfl, rfl⟩, rfl, s.sameCore_refl, fun n => ?_⟩
  rw [State.updPawn_pawn]
  split
  · next hn => rw [← hn.1]; exact h
  · exact Pawn.sameRegs_refl _

theorem State.emit_quiet (s : State) (n : Nat) (e : Eff) : (s.emit n e).quiet s := by
  unfold State.emit
  split
  · exact s.updPrim_quiet _ rfl
  · exact s.updPawn_quiet _ _ ⟨rfl, rfl, rfl, rfl, rfl, rfl, rfl, rfl, rfl, rfl, rfl⟩

theorem State.land_quiet (s : State) (n : Nat) (d : Dst) (v : Nat) : (s.land n d v).quiet s := s.emit_quiet _ _

theorem State.raise_quiet (s : State) (n : Nat) (f : BitVec 6) : (s.raise n f).quiet s := by
  unfold State.raise
  split
  · exact s.quiet_refl
  · exact s.emit_quiet _ _

theorem State.landS_quiet (s : State) (n : Nat) (d : Field6) (v : Word64) : (s.landS n d v).quiet s := s.emit_quiet _ _
theorem State.landV_quiet (s : State) (n : Nat) (d : Field6) (v : VecWord) : (s.landV n d v).quiet s := s.emit_quiet _ _
theorem State.landB_quiet (s : State) (n d : Nat) (v : Bool) : (s.landB n d v).quiet s := s.emit_quiet _ _
theorem State.landM_quiet (s : State) (n d : Nat) (v : Word64) : (s.landM n d v).quiet s := s.emit_quiet _ _

theorem State.hold_quiet (s : State) (n : Nat) : (s.hold n).quiet s := by
  unfold State.hold
  split
  · exact s.updPrim_quiet _ rfl
  · exact s.quiet_refl

theorem State.inUse_quiet (s : State) (n : Nat) (r : Res) : (s.inUse n r).quiet s := s.updPrim_quiet _ rfl

/-! ### The issue of an op -/

theorem State.clearFresh_quiet (s : State) (u : RegUse) : (s.clearFresh u).quiet s := by
  unfold State.clearFresh
  split
  · split
    · exact s.quiet_refl
    · exact s.updPrim_quiet _ rfl
    · exact s.updPrim_quiet _ rfl
  · exact s.quiet_refl

theorem State.clearFreshAll_quiet (l : List RegUse) : ∀ s : State, (l.foldl State.clearFresh s).quiet s := by
  induction l with
  | nil => intro s; exact s.quiet_refl
  | cons u l ih => intro s; exact State.quiet_trans (ih _) (s.clearFresh_quiet u)

theorem State.advance_quiet (s : State) : s.advance.quiet s := by
  unfold State.advance
  split
  · exact s.updPrim_quiet _ rfl
  · exact s.updPawn_quiet _ _ ⟨rfl, rfl, rfl, rfl, rfl, rfl, rfl, rfl, rfl, rfl, rfl⟩

theorem State.switchPoint_quiet (s : State) (k : Bool) : (s.switchPoint k).quiet s := by
  unfold State.switchPoint
  split
  · exact s.quiet_refl
  · split
    · exact s.updPawn_quiet _ _ ⟨rfl, rfl, rfl, rfl, rfl, rfl, rfl, rfl, rfl, rfl, rfl⟩
    · exact s.quiet_refl

theorem State.closeChunk_quiet (s : State) (t : Nat) (c : Option Ctx) : (s.closeChunk t c).quiet s :=
  s.updPawn_quiet _ _ ⟨rfl, rfl, rfl, rfl, rfl, rfl, rfl, rfl, rfl, rfl, rfl⟩

theorem State.openChunk_quiet (s : State) (t : Nat) : (s.openChunk t).quiet s := by
  unfold State.openChunk
  split
  · exact s.updPawn_quiet _ _ ⟨rfl, rfl, rfl, rfl, rfl, rfl, rfl, rfl, rfl, rfl, rfl⟩
  · exact s.quiet_refl

theorem State.countChunk_quiet (s : State) (t : Nat) : (s.countChunk t).quiet s := by
  have h : (s.updPawn t fun p => { p with chunk := { p.chunk with ops := p.chunk.ops + 1 } }).quiet s :=
    s.updPawn_quiet _ _ ⟨rfl, rfl, rfl, rfl, rfl, rfl, rfl, rfl, rfl, rfl, rfl⟩
  unfold State.countChunk
  dsimp only
  split
  · exact State.quiet_trans (State.closeChunk_quiet _ _ _) h
  · exact h

/-- Taking back the operands of a thread leaves what was quiet beside them quiet: a closing op reads its operands as it issued (R61). -/
theorem State.operands_quiet {u v s : State} {t : Nat} (r : PawnRegs) (h : u.quiet v) (ho : v.sameOutside s)
    (hp : v.prim.sameButIssue s.prim ∧ v.sameCore s)
    (hn : ∀ n, ∃ q, ((v.pawn n).withOperands q).sameRegs (s.pawn n) ∧ (n ≠ t ∨ 16 ≤ t → (v.pawn n).sameRegs (s.pawn n)))
    (hr : t < 16 → r.x = (s.pawn t).x ∧ r.y = (s.pawn t).y ∧ r.b = (s.pawn t).b ∧ r.m = (s.pawn t).m) :
    (u.updPawn t fun p => p.withOperands r).quiet s := by
  refine ⟨State.sameOutside_trans h.1 ho, Primary.sameButIssue_trans h.2.1 hp.1, State.sameCore_trans h.2.2.1 hp.2, fun n => ?_⟩
  obtain ⟨q, hq, hother⟩ := hn n
  have hu := h.2.2.2 n
  rw [State.updPawn_pawn]
  split
  · next hc =>
    obtain ⟨rfl, hlt⟩ := hc
    obtain ⟨r1, r2, r3, r4⟩ := hr hlt
    obtain ⟨-, -, -, -, u5, u6, u7, u8, u9, u10, u11⟩ := hu
    obtain ⟨-, -, -, -, q5, q6, q7, q8, q9, q10, q11⟩ := hq
    exact ⟨r1, r2, r3, r4, Eq.trans u5 q5, u6.trans q6, u7.trans q7, u8.trans q8, u9.trans q9, u10.trans q10, u11.trans q11⟩
  · next hc => exact Pawn.sameRegs_trans hu (hother (by omega))

/-- A thread that takes other operands differs in them alone. -/
theorem State.withOperands_pawn (s : State) (t : Nat) (r : PawnRegs) (n : Nat) :
    ∃ q, (((s.updPawn t fun p => p.withOperands r).pawn n).withOperands q).sameRegs (s.pawn n) ∧
      (n ≠ t ∨ 16 ≤ t → ((s.updPawn t fun p => p.withOperands r).pawn n).sameRegs (s.pawn n)) := by
  refine ⟨(s.pawn n).toPawnRegs, ?_, fun h => ?_⟩
  · rw [State.updPawn_pawn]
    split
    · next hc => rw [hc.1]; exact ⟨rfl, rfl, rfl, rfl, rfl, rfl, rfl, rfl, rfl, rfl, rfl⟩
    · exact ⟨rfl, rfl, rfl, rfl, rfl, rfl, rfl, rfl, rfl, rfl, rfl⟩
  · rw [State.updPawn_pawn, if_neg (by omega)]; exact Pawn.sameRegs_refl _

/-- An op whose effect is quiet issues quietly. -/
theorem State.perform_quiet (s : State) (sp : OpSpec) {eff : State → State} (h : ∀ u : State, (eff u).quiet u) :
    (s.perform sp eff).quiet s := by
  unfold State.perform
  split
  · exact State.quiet_trans (State.clearFreshAll_quiet _ _) (State.quiet_trans (h _) s.advance_quiet)
  · next t _ =>
    split
    · exact State.quiet_trans (State.switchPoint_quiet _ _) (State.operands_quiet _ (h _) ⟨rfl, rfl, rfl, rfl, rfl, rfl, rfl, rfl⟩
        ⟨rfl, rfl, rfl, rfl, rfl, rfl, rfl⟩
        (s.withOperands_pawn t _) fun _ => ⟨rfl, rfl, rfl, rfl⟩)
    · split
      · dsimp only
        split
        · exact State.quiet_trans (State.closeChunk_quiet _ _ _) (State.quiet_trans (State.advance_quiet _) (s.openChunk_quiet t))
        · exact State.quiet_trans (State.countChunk_quiet _ _) (State.quiet_trans (State.switchPoint_quiet _ _)
            (State.quiet_trans (h _) (State.quiet_trans (State.advance_quiet _) (s.openChunk_quiet t))))
      · exact State.quiet_trans (State.switchPoint_quiet _ _) (State.quiet_trans (h _) s.advance_quiet)

/-- An op whose effect is quiet keeps memory and registers. -/
theorem keepsRegs_of {i : Instr} {eff : State → State} (h : ∀ s, exec i s = issue (specOf i) s eff)
    (q : ∀ u : State, (eff u).quiet u) : KeepsRegs i := by
  intro s t hr ht
  rw [h, issue_ready eff hr] at ht
  cases ht
  exact s.perform_quiet _ q

/-! ### Ops with a rounding mode (R263) -/

/-- Quiet, in the same context. -/
def State.quietIn (t s : State) : Prop := t.quiet s ∧ t.ctx = s.ctx

theorem State.quietIn_trans {a b c : State} (h : a.quietIn b) (k : b.quietIn c) : a.quietIn c :=
  ⟨State.quiet_trans h.1 k.1, h.2.trans k.2⟩

theorem State.emit_quietIn (s : State) (n : Nat) (e : Eff) : (s.emit n e).quietIn s := by
  refine ⟨s.emit_quiet n e, ?_⟩
  unfold State.emit
  split <;> rfl

theorem State.raise_quietIn (s : State) (n : Nat) (f : BitVec 6) : (s.raise n f).quietIn s := by
  unfold State.raise
  split
  · exact ⟨s.quiet_refl, rfl⟩
  · exact s.emit_quietIn _ _

theorem State.advance_quietIn (s : State) : s.advance.quietIn s := by
  refine ⟨s.advance_quiet, ?_⟩
  unfold State.advance
  split <;> rfl

theorem State.openChunk_quietIn (s : State) (t : Nat) : (s.openChunk t).quietIn s := by
  refine ⟨s.openChunk_quiet t, ?_⟩
  unfold State.openChunk
  split <;> rfl

theorem State.hold_quietIn (s : State) (n : Nat) : (s.hold n).quietIn s := by
  refine ⟨s.hold_quiet n, ?_⟩
  unfold State.hold
  split <;> rfl

theorem State.updCore_quietIn (s : State) (f : CoreState → CoreState) (h : (s.updCore f).sameCore s) : (s.updCore f).quietIn s :=
  ⟨s.updCore_quiet f h, rfl⟩

/-- Counting a draw on both sides keeps the relation. -/
theorem State.countRound_quiet {a b : State} (h : a.quietIn b) (r : Nat) : (a.countRound r).quiet (b.countRound r) := by
  obtain ⟨⟨ho, hp, hk, hn⟩, hc⟩ := h
  unfold State.countRound
  split
  · unfold State.updTh
    rw [hc]
    split
    · refine ⟨ho, ?_, hk, hn⟩
      simp only [State.updPrim, Primary.sameButIssue, Primary.mk.injEq] at hp ⊢
      simp_all
    · next t _ =>
      refine ⟨ho, hp, hk, fun n => ?_⟩
      rw [State.updPawn_pawn, State.updPawn_pawn]
      split
      · obtain ⟨h1, h2, h3, h4, h5, h6, h7, h8, h9, h10, h11⟩ := hn t
        refine ⟨h1, h2, h3, h4, ?_, h6, h7, h8, h9, h10, h11⟩
        simp only [Thread.sameBut, Thread.mk.injEq] at h5 ⊢
        simp_all
      · exact hn n
  · exact ⟨ho, hp, hk, hn⟩

theorem State.countRound_outside (s : State) (r : Nat) : (s.countRound r).sameOutside s := by
  unfold State.countRound State.updTh
  split
  · split <;> exact ⟨rfl, rfl, rfl, rfl, rfl, rfl, rfl, rfl⟩
  · exact s.sameOutside_refl

/-- Other operands of a thread change nothing of a draw counted but those operands. -/
theorem State.countRound_operands (s : State) (t r : Nat) (x : PawnRegs) :
    ((s.updPawn t fun p => p.withOperands x).countRound r).sameOutside (s.countRound r) ∧
      (((s.updPawn t fun p => p.withOperands x).countRound r).prim.sameButIssue (s.countRound r).prim ∧
        ((s.updPawn t fun p => p.withOperands x).countRound r).sameCore (s.countRound r)) ∧
      ∀ n, ∃ q, ((((s.updPawn t fun p => p.withOperands x).countRound r).pawn n).withOperands q).sameRegs ((s.countRound r).pawn n) ∧
        (n ≠ t ∨ 16 ≤ t → (((s.updPawn t fun p => p.withOperands x).countRound r).pawn n).sameRegs ((s.countRound r).pawn n)) := by
  have key : ∀ f : Thread → Thread, ∀ n, ∃ q, ((((s.updPawn t fun p => p.withOperands x).updTh f).pawn n).withOperands q).sameRegs ((s.updTh f).pawn n) ∧
      (n ≠ t ∨ 16 ≤ t → (((s.updPawn t fun p => p.withOperands x).updTh f).pawn n).sameRegs ((s.updTh f).pawn n)) := by
    intro f n
    unfold State.updTh
    rw [show (s.updPawn t fun p => p.withOperands x).ctx = s.ctx from rfl]
    split
    · exact s.withOperands_pawn t x n
    · next m _ =>
      simp only [State.updPawn_pawn]
      refine ⟨(s.pawn n).toPawnRegs, ?_⟩
      by_cases hn : n < 16
      · by_cases hm : m = n
        · subst hm
          by_cases ht : t = m
          · subst ht
            simp only [hn, and_self, if_true]
            exact ⟨⟨rfl, rfl, rfl, rfl, rfl, rfl, rfl, rfl, rfl, rfl, rfl⟩, fun h => by omega⟩
          · simp only [hn, ht, and_self, false_and, if_true, if_false]
            exact ⟨⟨rfl, rfl, rfl, rfl, rfl, rfl, rfl, rfl, rfl, rfl, rfl⟩, fun _ => ⟨rfl, rfl, rfl, rfl, rfl, rfl, rfl, rfl, rfl, rfl, rfl⟩⟩
        · by_cases ht : t = n
          · subst ht
            simp only [hn, hm, and_self, false_and, if_true, if_false]
            exact ⟨⟨rfl, rfl, rfl, rfl, rfl, rfl, rfl, rfl, rfl, rfl, rfl⟩, fun h => by omega⟩
          · simp only [hm, ht, false_and, if_false]
            exact ⟨⟨rfl, rfl, rfl, rfl, rfl, rfl, rfl, rfl, rfl, rfl, rfl⟩, fun _ => ⟨rfl, rfl, rfl, rfl, rfl, rfl, rfl, rfl, rfl, rfl, rfl⟩⟩
      · rw [if_neg (by omega), if_neg (by omega), if_neg (by omega)]
        exact ⟨⟨rfl, rfl, rfl, rfl, rfl, rfl, rfl, rfl, rfl, rfl, rfl⟩, fun _ => ⟨rfl, rfl, rfl, rfl, rfl, rfl, rfl, rfl, rfl, rfl, rfl⟩⟩
  unfold State.countRound
  split
  · refine ⟨?_, ?_, key _⟩
    · unfold State.updTh
      rw [show (s.updPawn t fun p => p.withOperands x).ctx = s.ctx from rfl]
      split <;> exact ⟨rfl, rfl, rfl, rfl, rfl, rfl, rfl, rfl⟩
    · unfold State.updTh
      rw [show (s.updPawn t fun p => p.withOperands x).ctx = s.ctx from rfl]
      split <;> exact ⟨rfl, rfl, rfl, rfl, rfl, rfl, rfl⟩
  · exact ⟨⟨rfl, rfl, rfl, rfl, rfl, rfl, rfl, rfl⟩, ⟨rfl, rfl, rfl, rfl, rfl, rfl, rfl⟩, s.withOperands_pawn t x⟩

/-- The operands of a thread stand as they did once a draw is counted. -/
theorem State.countRound_regs (s : State) (r t : Nat) : let p := (s.countRound r).pawn t
    (s.pawn t).x = p.x ∧ (s.pawn t).y = p.y ∧ (s.pawn t).b = p.b ∧ (s.pawn t).m = p.m := by
  unfold State.countRound State.updTh
  split
  · split
    · exact ⟨rfl, rfl, rfl, rfl⟩
    · dsimp only
      rw [State.updPawn_pawn]
      split
      · next h => rw [h.1]; exact ⟨rfl, rfl, rfl, rfl⟩
      · exact ⟨rfl, rfl, rfl, rfl⟩
  · exact ⟨rfl, rfl, rfl, rfl⟩

/-- An effect that is quiet but for one draw counted. -/
theorem State.perform_rounding (s : State) {sp : OpSpec} {eff : State → State} (r : Nat) (hs : sp.sync = false)
    (h : ∀ u : State, (eff u).quiet (u.countRound r)) : (s.perform sp eff).quiet (s.countRound r) := by
  unfold State.perform
  split
  · exact State.quiet_trans (State.clearFreshAll_quiet _ _) (State.quiet_trans (h _) (State.countRound_quiet s.advance_quietIn r))
  · next t _ =>
    split
    · obtain ⟨ho, hp, hn⟩ := s.countRound_operands t r (s.pawn t).chunk.src
      refine State.quiet_trans (State.switchPoint_quiet _ _) ?_
      exact State.operands_quiet _ (h _) ho hp hn fun _ => s.countRound_regs r t
    · split
      · dsimp only
        rw [hs]
        exact State.quiet_trans (State.countChunk_quiet _ _) (State.quiet_trans (State.switchPoint_quiet _ _) (State.quiet_trans (h _)
          (State.countRound_quiet (State.quietIn_trans (State.advance_quietIn _) (s.openChunk_quietIn t)) r)))
      · exact State.quiet_trans (State.switchPoint_quiet _ _) (State.quiet_trans (h _) (State.countRound_quiet s.advance_quietIn r))

/-- An op that lands quietly and counts a draw keeps memory, and registers but for SRCTR. -/
theorem keepsRounding_of {i : Instr} {eff : State → State} {r : Nat} (h : ∀ s, exec i s = issue (specOf i) s eff)
    (hs : (specOf i).sync = false) (q : ∀ u : State, (eff u).quiet (u.countRound r)) : KeepsRegsRounding i r := by
  intro s t hr ht
  rw [h, issue_ready _ hr] at ht
  cases ht
  have k := s.perform_rounding r hs q
  exact ⟨State.sameOutside_trans k.1 (s.countRound_outside r), k.2⟩

/-! ### Data registers -/

theorem Thread.sameData_refl (a : Thread) : Thread.sameData a a := rfl

theorem Thread.sameData_trans {a b c : Thread} (h : Thread.sameData a b) (k : Thread.sameData b c) : Thread.sameData a c := by
  simp only [Thread.sameData, Thread.mk.injEq] at h k ⊢
  simp_all

/-- Nothing outside and no register that holds data has changed. -/
def State.still (t s : State) : Prop := t.sameOutside s ∧ t.sameData s

theorem State.still_refl (s : State) : s.still s :=
  ⟨s.sameOutside_refl, ⟨rfl, rfl, rfl, rfl, rfl, rfl, rfl, rfl, rfl, rfl⟩, ⟨rfl, rfl, rfl, rfl, rfl, rfl⟩,
    fun _ => ⟨rfl, rfl, rfl, rfl, rfl, rfl⟩⟩

theorem State.still_trans {a b c : State} (h : a.still b) (k : b.still c) : a.still c := by
  obtain ⟨ho, hp, hc, hn⟩ := h
  obtain ⟨ko, kp, kc, kn⟩ := k
  refine ⟨State.sameOutside_trans ho ko, ?_, ?_, fun n => ?_⟩
  · obtain ⟨h1, h2, h3, h4, h5, h6, h7, h8, h9, h10⟩ := hp
    obtain ⟨k1, k2, k3, k4, k5, k6, k7, k8, k9, k10⟩ := kp
    exact ⟨h1.trans k1, h2.trans k2, h3.trans k3, h4.trans k4, h5.trans k5, h6.trans k6, h7.trans k7, h8.trans k8, h9.trans k9,
      Thread.sameData_trans h10 k10⟩
  · obtain ⟨h1, h2, h3, h4, h5, h6⟩ := hc
    obtain ⟨k1, k2, k3, k4, k5, k6⟩ := kc
    exact ⟨h1.trans k1, h2.trans k2, h3.trans k3, h4.trans k4, h5.trans k5, h6.trans k6⟩
  · obtain ⟨h1, h2, h3, h4, h5, h6⟩ := hn n
    obtain ⟨k1, k2, k3, k4, k5, k6⟩ := kn n
    exact ⟨h1.trans k1, h2.trans k2, h3.trans k3, h4.trans k4, Thread.sameData_trans h5 k5, h6.trans k6⟩

theorem State.updPrim_still (s : State) (f : Primary → Primary)
    (h : (f s.prim).s = s.prim.s ∧ (f s.prim).v = s.prim.v ∧ (f s.prim).b = s.prim.b ∧ (f s.prim).m = s.prim.m ∧
      (f s.prim).ib = s.prim.ib ∧ (f s.prim).loops = s.prim.loops ∧ (f s.prim).q = s.prim.q ∧ (f s.prim).vq = s.prim.vq ∧
      (f s.prim).route = s.prim.route ∧ Thread.sameData (f s.prim).th s.prim.th) : (s.updPrim f).still s :=
  ⟨⟨rfl, rfl, rfl, rfl, rfl, rfl, rfl, rfl⟩, h, ⟨rfl, rfl, rfl, rfl, rfl, rfl⟩, fun _ => ⟨rfl, rfl, rfl, rfl, rfl, rfl⟩⟩

theorem State.updCore_still (s : State) (f : CoreState → CoreState)
    (h : (f s.core).fd = s.core.fd ∧ (f s.core).t = s.core.t ∧ (f s.core).w = s.core.w ∧ (f s.core).acc = s.core.acc ∧
      (f s.core).z = s.core.z ∧ (f s.core).wptr = s.core.wptr) : (s.updCore f).still s :=
  ⟨⟨rfl, rfl, rfl, rfl, rfl, rfl, rfl, rfl⟩, ⟨rfl, rfl, rfl, rfl, rfl, rfl, rfl, rfl, rfl, rfl⟩, h, fun _ => ⟨rfl, rfl, rfl, rfl, rfl, rfl⟩⟩

/-- The part of a pawn that `sameData` compares. -/
def Pawn.sameData (a b : Pawn) : Prop :=
  a.x = b.x ∧ a.y = b.y ∧ a.b = b.b ∧ a.m = b.m ∧ Thread.sameData a.th b.th ∧ a.mbox = b.mbox

theorem State.updPawn_still (s : State) (t : Nat) (f : Pawn → Pawn) (h : (f (s.pawn t)).sameData (s.pawn t)) :
    (s.updPawn t f).still s := by
  refine ⟨⟨rfl, rfl, rfl, rfl, rfl, rfl, rfl, rfl⟩, ⟨rfl, rfl, rfl, rfl, rfl, rfl, rfl, rfl, rfl, rfl⟩, ⟨rfl, rfl, rfl, rfl, rfl, rfl⟩,
    fun n => ?_⟩
  rw [State.updPawn_pawn]
  split
  · next hn => rw [← hn.1]; exact h
  · exact ⟨rfl, rfl, rfl, rfl, rfl, rfl⟩

theorem State.emit_still (s : State) (n : Nat) (e : Eff) : (s.emit n e).still s := by
  unfold State.emit
  split
  · exact s.updPrim_still _ ⟨rfl, rfl, rfl, rfl, rfl, rfl, rfl, rfl, rfl, rfl⟩
  · exact s.updPawn_still _ _ ⟨rfl, rfl, rfl, rfl, rfl, rfl⟩

theorem State.raise_still (s : State) (n : Nat) (f : BitVec 6) : (s.raise n f).still s := by
  unfold State.raise
  split
  · exact s.still_refl
  · exact s.emit_still _ _

theorem State.access_still (s : State) (r q : Bool) (a : BankAccess) : (s.accessOrd r q a).still s := by
  unfold State.accessOrd
  split
  · exact s.updPrim_still _ ⟨rfl, rfl, rfl, rfl, rfl, rfl, rfl, rfl, rfl, rfl⟩
  · exact s.updPawn_still _ _ ⟨rfl, rfl, rfl, rfl, rfl, rfl⟩

theorem State.updTh_still (s : State) (f : Thread → Thread) (h : ∀ t, Thread.sameData (f t) t) : (s.updTh f).still s := by
  unfold State.updTh
  split
  · exact s.updPrim_still _ ⟨rfl, rfl, rfl, rfl, rfl, rfl, rfl, rfl, rfl, h _⟩
  · exact s.updPawn_still _ _ ⟨rfl, rfl, rfl, rfl, h _, rfl⟩

theorem State.touch_still (s : State) (l : List Nat) (n : Nat) (r : Bool) : (s.touch l n r).still s := by
  unfold State.touch
  split
  · exact s.still_refl
  · exact s.updTh_still _ fun _ => rfl

theorem State.gSend_still (s : State) (k : GKind) (d p : Dst) (va : Word64) : (s.gSend k d p va).still s := by
  unfold State.gSend
  split
  · exact s.still_refl
  · exact State.still_trans (State.updPawn_still _ _ _ ⟨rfl, rfl, rfl, rfl, rfl, rfl⟩)
      (s.updCore_still _ ⟨rfl, rfl, rfl, rfl, rfl, rfl⟩)

theorem State.redirect_still (s : State) (a : Word64) : (s.redirect a).still s := by
  unfold State.redirect
  split
  · exact s.updPrim_still _ ⟨rfl, rfl, rfl, rfl, rfl, rfl, rfl, rfl, rfl, rfl⟩
  · exact s.updPawn_still _ _ ⟨rfl, rfl, rfl, rfl, rfl, rfl⟩

theorem State.fence_still (s : State) (n : Nat) : (s.fence n).still s := by
  unfold State.fence
  split
  · exact s.still_refl
  · exact s.updPawn_still _ _ ⟨rfl, rfl, rfl, rfl, rfl, rfl⟩

theorem State.hold_still (s : State) (n : Nat) : (s.hold n).still s := by
  unfold State.hold
  split
  · exact s.updPrim_still _ ⟨rfl, rfl, rfl, rfl, rfl, rfl, rfl, rfl, rfl, rfl⟩
  · exact s.still_refl

theorem State.inUse_still (s : State) (n : Nat) (r : Res) : (s.inUse n r).still s :=
  s.updPrim_still _ ⟨rfl, rfl, rfl, rfl, rfl, rfl, rfl, rfl, rfl, rfl⟩

theorem State.landZreg_still (s : State) (z : BitVec 5) (f : Bool) (k : BitVec 1) (r : List (Nat × FlagSet)) :
    (s.landZreg z f k r).still s := State.still_trans (State.raise_still _ _ _) (s.emit_still _ _)

theorem State.remoteAccess_still (s : State) (x : Word64) (w : Bool) (n : Nat) (v : Wide) (d : Dst) :
    (s.remoteAccess x w n v d).still s := by
  have h : ∀ r : Remote, (((s.touch [lmOffset x] n true).updCore fun c =>
      { c with remotes := c.remotes ++ [r], nextId := s.core.nextId + 1 })).still s := fun r =>
    State.still_trans (State.updCore_still _ _ ⟨rfl, rfl, rfl, rfl, rfl, rfl⟩) (s.touch_still _ _ _)
  unfold State.remoteAccess
  dsimp only
  split
  · split
    · exact h _
    · exact State.still_trans (State.emit_still _ _ _) (h _)
  · exact State.still_trans (State.updPawn_still _ _ _ ⟨rfl, rfl, rfl, rfl, rfl, rfl⟩) (h _)

theorem State.present_still (nr : Nat) (l : List (List Nat)) : ∀ (s : State) (i : Nat), (s.present nr i l).still s := by
  induction l with
  | nil => intro s i; exact s.still_refl
  | cons r l ih => intro s i; exact State.still_trans (ih _ _) (s.emit_still _ _)

theorem State.inUseAll_still (n : Nat) (l : List Nat) : ∀ s : State, (l.foldl (fun s k => s.inUse n (.tile k)) s).still s := by
  induction l with
  | nil => intro s; exact s.still_refl
  | cons k l ih => intro s; exact State.still_trans (ih _) (s.inUse_still _ _)

theorem State.multiply_still (s : State) (y d : BitVec 3) (t : BitVec 4) (w : BitVec 5) (f : BitVec 4) (fwd sat : Bool) :
    (s.multiply y d t w f fwd sat).still s := by
  unfold State.multiply
  refine State.still_trans (State.raise_still _ _ _) (State.still_trans (State.emit_still _ _ _) ?_)
  have h : ∀ n, ((s.mmaTiles t w).foldl (fun s k => s.inUse n (.tile k))
      (((s.hold n).inUse (n + 12) (.acc d.toNat)).inUse n (.wslot w.toNat))).still s := fun n =>
    State.still_trans (State.inUseAll_still _ _ _) (State.still_trans (State.inUse_still _ _ _)
      (State.still_trans (State.inUse_still _ _ _) (s.hold_still n)))
  cases fwd
  · exact h _
  · exact State.still_trans (State.present_still _ _ _ _) (h _)

theorem State.request_still (s : State) (c d : Cause) : (s.request c d).still s := s.updCore_still _ ⟨rfl, rfl, rfl, rfl, rfl, rfl⟩

theorem State.pawnTrap_still (s : State) (t : Nat) (r : TrapRec) (a : Word64) : (s.pawnTrap t r a).still s := by
  unfold State.pawnTrap
  repeat' split
  all_goals first
    | exact State.still_trans (State.updPawn_still _ _ _ ⟨rfl, rfl, rfl, rfl, rfl, rfl⟩) (s.request_still _ _)
    | exact s.updPawn_still _ _ ⟨rfl, rfl, rfl, rfl, rfl, rfl⟩

theorem State.trapAfter_still (s : State) (r : TrapRec) : (s.trapAfter r).still s := by
  unfold State.trapAfter
  split
  · exact s.updPrim_still _ ⟨rfl, rfl, rfl, rfl, rfl, rfl, rfl, rfl, rfl, rfl⟩
  · exact s.pawnTrap_still _ _ _

theorem State.dropPhv_still (s : State) (n : Nat) (b : Bool) : (s.updPrim fun p => { p.dropPhv n with exited := b }).still s := by
  refine s.updPrim_still _ ?_
  unfold Primary.dropPhv
  split <;> exact ⟨rfl, rfl, rfl, rfl, rfl, rfl, rfl, rfl, rfl, rfl⟩

theorem State.clearFreshAll_still (l : List RegUse) : ∀ s : State, (l.foldl State.clearFresh s).still s := by
  induction l with
  | nil => intro s; exact s.still_refl
  | cons u l ih =>
    intro s
    refine State.still_trans (ih _) ?_
    unfold State.clearFresh
    split
    · split
      · exact s.still_refl
      · exact s.updPrim_still _ ⟨rfl, rfl, rfl, rfl, rfl, rfl, rfl, rfl, rfl, rfl⟩
      · exact s.updPrim_still _ ⟨rfl, rfl, rfl, rfl, rfl, rfl, rfl, rfl, rfl, rfl⟩
    · exact s.still_refl

theorem State.advance_still (s : State) : s.advance.still s := by
  unfold State.advance
  split
  · exact s.updPrim_still _ ⟨rfl, rfl, rfl, rfl, rfl, rfl, rfl, rfl, rfl, rfl⟩
  · exact s.updPawn_still _ _ ⟨rfl, rfl, rfl, rfl, rfl, rfl⟩

theorem State.switchPoint_still (s : State) (k : Bool) : (s.switchPoint k).still s := by
  unfold State.switchPoint
  split
  · exact s.still_refl
  · split
    · exact s.updPawn_still _ _ ⟨rfl, rfl, rfl, rfl, rfl, rfl⟩
    · exact s.still_refl

theorem State.closeChunk_still (s : State) (t : Nat) (c : Option Ctx) : (s.closeChunk t c).still s :=
  s.updPawn_still _ _ ⟨rfl, rfl, rfl, rfl, rfl, rfl⟩

theorem State.openChunk_still (s : State) (t : Nat) : (s.openChunk t).still s := by
  unfold State.openChunk
  split
  · exact s.updPawn_still _ _ ⟨rfl, rfl, rfl, rfl, rfl, rfl⟩
  · exact s.still_refl

theorem State.countChunk_still (s : State) (t : Nat) : (s.countChunk t).still s := by
  have h : (s.updPawn t fun p => { p with chunk := { p.chunk with ops := p.chunk.ops + 1 } }).still s :=
    s.updPawn_still _ _ ⟨rfl, rfl, rfl, rfl, rfl, rfl⟩
  unfold State.countChunk
  dsimp only
  split
  · exact State.still_trans (State.closeChunk_still _ _ _) h
  · exact h

/-- Taking back the operands of a thread leaves what kept data beside them keeping it. -/
theorem State.operands_still {u s : State} {t : Nat} (x : PawnRegs) (h : u.still (s.updPawn t fun p => p.withOperands x)) :
    (u.updPawn t fun p => p.withOperands (s.pawn t).toPawnRegs).still s := by
  refine ⟨State.sameOutside_trans h.1 ⟨rfl, rfl, rfl, rfl, rfl, rfl, rfl, rfl⟩, h.2.1, h.2.2.1, fun n => ?_⟩
  have hn := h.2.2.2 n
  rw [State.updPawn_pawn] at hn ⊢
  split
  · next hc =>
    rw [if_pos hc] at hn
    obtain ⟨rfl, -⟩ := hc
    exact ⟨rfl, rfl, rfl, rfl, hn.2.2.2.2.1, hn.2.2.2.2.2⟩
  · next hc => rw [if_neg hc] at hn; exact hn

theorem State.perform_still (s : State) (sp : OpSpec) {eff : State → State} (h : ∀ u : State, (eff u).still u) :
    (s.perform sp eff).still s := by
  unfold State.perform
  split
  · exact State.still_trans (State.clearFreshAll_still _ _) (State.still_trans (h _) s.advance_still)
  · next t _ =>
    split
    · exact State.still_trans (State.switchPoint_still _ _) (State.operands_still _ (h _))
    · split
      · dsimp only
        split
        · exact State.still_trans (State.closeChunk_still _ _ _) (State.still_trans (State.advance_still _) (s.openChunk_still t))
        · exact State.still_trans (State.countChunk_still _ _) (State.still_trans (State.switchPoint_still _ _)
            (State.still_trans (h _) (State.still_trans (State.advance_still _) (s.openChunk_still t))))
      · exact State.still_trans (State.switchPoint_still _ _) (State.still_trans (h _) s.advance_still)

/-- An op whose effect keeps data keeps it. -/
theorem keepsData_of {i : Instr} {eff : State → State} (h : ∀ s, exec i s = issue (specOf i) s eff)
    (q : ∀ u : State, (eff u).still u) : KeepsData i := by
  intro s t hr ht
  rw [h, issue_ready eff hr] at ht
  cases ht
  exact s.perform_still _ q

/-- The same for an op that translates an address. -/
theorem keepsDataAt_of {i : Instr} {va : State → Word64} {acc : Nat} {post : State → TlbEntry → Option TrapRec}
    {eff : State → State} (h : ∀ s, exec i s = issueG (specOf i) va acc post s eff) (q : ∀ u : State, (eff u).still u) :
    KeepsDataAt i := by
  intro s t hc ht
  rw [h] at ht
  simp only [issueG, hc, if_true] at ht
  cases ht
  exact s.perform_still _ q

end Sys2Proof.Machine
end

