-- ==== Sys2Proof/Laws/Landing.lean ====
section
/-! SUPPORT. What the landing of one result leaves (R56, R57, R61): the register that it names and nothing else. -/

namespace Sys2Proof.Machine

theorem State.landZs_none (s : State) (e : PEntry) (h : e.zDst = none) (z : Nat) : s.landZs [e] z = s := by
  simp [State.landZs, h]

theorem foldl_same {α β : Type} (f : α → β → α) (a : α) (l : List β) (h : ∀ x b, f x b = x) : l.foldl f a = a := by
  induction l with
  | nil => rfl
  | cons x l ih => simp [h, ih]

/-- One entry that lands in a register, by itself. -/
theorem State.landAll_reg (s : State) (e : PEntry) (d : Dst) (v : Wide) (h : e.eff = .reg d v) (hz : e.zDst = none) :
    s.landAll [e] = s.setReg d v := by
  unfold State.landAll
  simp only [List.foldl_cons, List.foldl_nil]
  rw [foldl_same (fun s z => State.landZs s [e] z) _ _ (fun x b => x.landZs_none e hz b)]
  simp [State.landReg, State.landBind, State.landFlag, h]

/-- What a pawn reads is not touched by the advance to the next op word. -/
theorem State.readS_advance {s : State} {t : Nat} (h : s.ctx.agent = .pawn t) (ht : t < 16) (f : Field6) : s.advance.readS f = s.readS f := by
  have ha : s.advance.ctx.agent = .pawn t := by simp only [State.advance, h]; exact h
  have hx : (s.advance.pawn t).x = (s.pawn t).x := by
    simp only [State.advance, h]; rw [State.updPawn_pawn]; simp [ht]
  simp only [State.readS, h, ha, hx]

theorem State.readS_pawn {s : State} {t : Nat} (h : s.ctx.agent = .pawn t) (f : Field6) :
    s.readS f = if f = 0 then 0 else vget (s.pawn t).x f.toNat 0 := by
  simp [State.readS, h]

theorem State.pawnX_eq (s : State) (t : Nat) (f : Field6) : s.pawnX t f = if f = 0 then 0 else vget (s.pawn t).x f.toNat 0 := rfl

theorem field6_lt (r : Field6) : r.toNat < 64 := r.isLt

/-- The landing of a thread with one entry, due, that goes to a register. -/
theorem State.land_one (u : State) (t : Nat) (e : PEntry) (d : Dst) (v : Wide) (hp : (u.pawn t).pend = [e])
    (hc : e.count = 1) (he : e.eff = .reg d v) (hz : e.zDst = none) (hk : u.core.struck = []) :
    exec .resultLanding (u.setCtx (agentCtx (.pawn t))) =
      .next (((u.setCtx (agentCtx (.pawn t))).updPawn t fun p => { p with pend := [] }).setReg d v) := by
  show Host.Outcome.next (State.landPawn (u.setCtx (agentCtx (.pawn t))) t) = _
  have hq : (State.pawn (u.setCtx (agentCtx (.pawn t))) t).pend = [e] := hp
  have hk' : (u.setCtx (agentCtx (.pawn t))).core.struck = [] := hk
  unfold State.landPawn
  simp only [State.sound, hk', List.isEmpty_nil, if_true, List.not_mem_nil, not_false_eq_true, decide_true, hq, tickDown, List.map_cons, List.map_nil, hc]
  simp only [Nat.sub_self, List.filter_cons, decide_true, if_true, List.filter_nil, sortEntries, List.foldl_cons, List.foldl_nil,
    insertEntry, ne_eq, not_true, decide_false, Bool.false_eq_true, if_false]
  exact congrArg _ (State.landAll_reg _ { e with count := 0 } d v he hz)

/-- Two updates of one pawn are one. -/
theorem State.updPawn_updPawn (u : State) {t : Nat} (f g : Pawn → Pawn) (h : t < 16) :
    (u.updPawn t f).updPawn t g = u.updPawn t fun p => g (f p) := by
  have : (u.updPawn t f).pawn t = f (u.pawn t) := by rw [State.updPawn_pawn]; simp [h]
  show (u.updPawn t f).setPawns (vset (vset u.pawns t _) t (g ((u.updPawn t f).pawn t))) = _
  rw [this]
  show u.setPawns _ = u.setPawns _
  congr 1
  simp [vset]

/-- An op whose whole effect is one scalar result of latency 1 leaves it in its register one barrel cycle later (R56, R61). -/
theorem pawnWrites_land {i : Instr} {d : Field6} {val : State → Word64}
    (hx : ∀ s, s.ctx.checked = true ∨ s.ready (specOf i) = true → exec i s = .next (s.perform (specOf i) fun s => s.landS 1 d (val s)))
    (hv : ∀ (s : State) (t : Nat), s.ctx.agent = .pawn t → t < 16 → val s.advance = val s) : PawnWrites i d val := by
  intro s t ht ha hd hcm hp hk hr
  have hval := hv s t ha ht
  obtain ⟨D, hD⟩ : ∃ D : Dst, D = if d = 0 then .discard else .s d.toNat := ⟨_, rfl⟩
  have haa : s.advance.ctx.agent = .pawn t := by simp only [State.advance, ha]; exact ha
  obtain ⟨e, he⟩ : ∃ e, e = s.advance.entry 1 (.reg D (BitVec.ofNat 4096 (val s).toNat)) := ⟨_, rfl⟩
  have hland : (s.advance).landS 1 d (val s.advance) = s.advance.updPawn t fun p => { p with pend := p.pend ++ [e] } := by
    simp only [State.landS, State.land, State.emit, State.dstS, haa, hval, he, hD]
  have hz : e.zDst = none := by
    by_cases h : d = 0
    · rw [if_pos h] at hD; subst hD; rw [he]; rfl
    · rw [if_neg h] at hD; subst hD; rw [he]; rfl
  have hadv : s.advance = s.updPawn t fun p => { p with opCount := p.opCount + 1, pc := s.ctx.pc + 4, buf := p.buf.tail, th := { p.th with exempt := false } } := by
    simp only [State.advance, ha]
  have hperf : s.perform (specOf i) (fun s => s.landS 1 d (val s)) =
      (s.advance.updPawn t fun p => { p with pend := p.pend ++ [e] }).switchPoint (specOf i).k := by
    simp only [State.perform, ha, hcm, hd, Bool.false_eq_true, if_false, hland]
  obtain ⟨f, hP, h1, h2, h3, h4⟩ : ∃ f : Pawn → Pawn, (s.perform (specOf i) fun s => s.landS 1 d (val s)) = s.updPawn t f ∧
      (f (s.pawn t)).pend = [e] ∧ (f (s.pawn t)).pc = s.ctx.pc + 4 ∧ (f (s.pawn t)).x = (s.pawn t).x ∧ (f (s.pawn t)).sameButX (s.pawn t) := by
    rw [hperf, hadv, State.updPawn_updPawn _ _ _ ht]
    simp only [State.switchPoint]
    rw [show (s.updPawn t _).ctx.agent = _ from ha]
    simp only
    split
    · rw [State.updPawn_updPawn _ _ _ ht]
      exact ⟨_, rfl, by simp [hp], rfl, rfl, rfl, rfl, rfl, rfl, rfl, rfl, rfl, rfl, rfl, rfl, rfl, rfl⟩
    · exact ⟨_, rfl, by simp [hp], rfl, rfl, rfl, rfl, rfl, rfl, rfl, rfl, rfl, rfl, rfl, rfl, rfl, rfl⟩
  have hl := State.land_one (s.updPawn t f) t e D (BitVec.ofNat 4096 (val s).toNat) (by rw [State.updPawn_pawn]; simp [ht, h1]) (by rw [he]; rfl) (by rw [he]; rfl) hz hk
  refine ⟨_, _, (hx s hr).trans (congrArg _ hP), hl, ?_⟩
  have hset : ∀ g : State, g.ctx.agent = .pawn t → g.setReg D (BitVec.ofNat 4096 (val s).toNat) =
      if d = 0 then g else g.updPawn t fun p => { p with x := vset p.x d.toNat (val s) } := by
    intro g hg
    by_cases h : d = 0
    · rw [if_pos h] at hD ⊢; subst hD; simp [State.setReg, hg]
    · rw [if_neg h] at hD ⊢; subst hD
      simp [State.setReg, hg, BitVec.setWidth_setWidth_of_le]
  rw [hset _ rfl]
  have hset2 : (if d = 0 then ((s.updPawn t f).setCtx (agentCtx (.pawn t))).updPawn t (fun p => { p with pend := [] }) else
      (((s.updPawn t f).setCtx (agentCtx (.pawn t))).updPawn t (fun p => { p with pend := [] })).updPawn t fun p => { p with x := vset p.x d.toNat (val s) }) =
      ((s.updPawn t fun p => { f p with pend := [], x := if d = 0 then (f p).x else vset (f p).x d.toNat (val s) })).setCtx (agentCtx (.pawn t)) := by
    have hc : ∀ (u : State) g, ((u.updPawn t f).setCtx (agentCtx (.pawn t))).updPawn t g = ((u.updPawn t f).updPawn t g).setCtx (agentCtx (.pawn t)) := fun _ _ => rfl
    by_cases h : d = 0
    · simp only [h, if_true]; rw [hc, State.updPawn_updPawn _ _ _ ht]
    · simp only [h, if_false]; rw [State.updPawn_updPawn _ _ _ ht, hc, State.updPawn_updPawn _ _ _ ht]
  rw [hset2]
  have hv2 : ∀ n, State.pawn ((s.updPawn t fun p => { f p with pend := [], x := if d = 0 then (f p).x else vset (f p).x d.toNat (val s) }).setCtx (agentCtx (.pawn t))) n =
      if t = n ∧ t < 16 then { f (s.pawn t) with pend := [], x := if d = 0 then (f (s.pawn t)).x else vset (f (s.pawn t)).x d.toNat (val s) } else s.pawn n := fun n => State.updPawn_pawn s t n fun p => { f p with pend := [], x := if d = 0 then (f p).x else vset (f p).x d.toNat (val s) }
  refine ⟨?_, ?_, ?_, ?_, ?_, rfl, rfl, rfl, rfl, rfl, rfl, rfl, rfl, rfl⟩
  · rw [hv2]; simp [ht, h2]
  · rw [hv2]; simp [ht]
  · intro r
    rw [State.pawnX_eq, State.pawnX_eq, hv2]
    simp only [ht, and_self, if_true]
    by_cases hd0 : d = 0
    · simp [hd0, h3]
    · simp only [hd0, if_false, h3]
      rw [vget_vset]
      have : (d.toNat = r.toNat ∧ d.toNat < 64) ↔ r = d := by
        constructor
        · intro h; exact BitVec.eq_of_toNat_eq h.1.symm
        · intro h; exact ⟨by rw [h], d.isLt⟩
      by_cases hr' : r = d
      · subst hr'; have := field6_lt r; have h0 : ¬(r = 0#6) := hd0; simp [h0, this]
      · have h' : ¬(d.toNat = r.toNat ∧ d.toNat < 64) := fun h => hr' (this.mp h)
        simp [hr', h']
  · rw [hv2]; simp only [ht, and_self, if_true]; exact h4
  · intro n hn; rw [hv2]; simp [Ne.symm hn]
end Sys2Proof.Machine
end

