-- ==== Sys2Proof/Laws/Memory.lean ====
section
/-! SUPPORT. Memories: a read after a write, and that every operation keeps the canonical form. -/

namespace Sys2Proof.Machine

/-! ### The canonical form -/

theorem wfFrom_mono {lo lo' : Option Nat} {m : Memory} (h : ∀ l, lo' = some l → ∃ k, lo = some k ∧ l ≤ k)
    (hm : Memory.wfFrom lo m = true) : Memory.wfFrom lo' m = true := by
  cases m with
  | nil => rfl
  | cons e m =>
    obtain ⟨k, v⟩ := e
    simp only [Memory.wfFrom, Bool.and_eq_true] at hm ⊢
    refine ⟨⟨?_, hm.1.2⟩, hm.2⟩
    cases lo' with
    | none => rfl
    | some l =>
      obtain ⟨j, rfl, hj⟩ := h l rfl
      have := hm.1.1
      simp only [decide_eq_true_eq] at this ⊢
      omega

theorem memSet_wfFrom (m : Memory) : ∀ (lo : Option Nat) (a : Nat) (b : Byte), (∀ l, lo = some l → l < a) →
    Memory.wfFrom lo m = true → Memory.wfFrom lo (memSet m a b) = true := by
  induction m with
  | nil =>
    intro lo a b ha _
    unfold memSet
    split
    · rfl
    · next hb => cases lo <;> simp_all [Memory.wfFrom]
  | cons e m ih =>
    obtain ⟨k, v⟩ := e
    intro lo a b ha hm
    have hm' := hm
    simp only [Memory.wfFrom, Bool.and_eq_true] at hm'
    obtain ⟨⟨h1, h2⟩, h3⟩ := hm'
    unfold memSet
    split
    · next hak =>
      split
      · exact hm
      · next hb => cases lo <;> simp_all [Memory.wfFrom]
    · split
      · next hak =>
        subst hak
        split
        · refine wfFrom_mono (lo := some a) ?_ h3
          intro l hl
          exact ⟨a, rfl, Nat.le_of_lt (ha l hl)⟩
        · next hb => cases lo <;> simp_all [Memory.wfFrom]
      · next h4 h5 =>
        have h6 : k < a := by omega
        simp only [Memory.wfFrom, Bool.and_eq_true]
        exact ⟨⟨h1, h2⟩, ih (some k) a b (by rintro l ⟨⟩; exact h6) h3⟩

/-- Writing a byte keeps the canonical form. -/
theorem memSet_wf {m : Memory} (a : Nat) (b : Byte) (h : m.wf = true) : (memSet m a b).wf = true :=
  memSet_wfFrom m none a b (by simp) h

/-- Writing a number keeps the canonical form. -/
theorem memWrite_wf (n : Nat) : ∀ (m : Memory) (a v : Nat), m.wf = true → (memWrite m a n v).wf = true := by
  induction n with
  | zero => intro m a v h; exact h
  | succ n ih => intro m a v h; exact ih _ _ _ (memSet_wf _ _ h)

/-- So does a write under a byte mask. -/
theorem memWriteMask_wf (n : Nat) : ∀ (m : Memory) (a v k : Nat), m.wf = true → (memWriteMask m a n v k).wf = true := by
  induction n with
  | zero => intro m a v k h; exact h
  | succ n ih =>
    intro m a v k h
    refine ih _ _ _ _ ?_
    split
    · exact memSet_wf _ _ h
    · exact h

theorem filter_wfFrom (p : Host.Cell → Bool) (m : Memory) : ∀ lo, Memory.wfFrom lo m = true → Memory.wfFrom lo (m.filter p) = true := by
  induction m with
  | nil => intro lo h; exact h
  | cons e m ih =>
    obtain ⟨k, v⟩ := e
    intro lo h
    simp only [Memory.wfFrom, Bool.and_eq_true] at h
    obtain ⟨⟨h1, h2⟩, h3⟩ := h
    rw [List.filter_cons]
    split
    · simp only [Memory.wfFrom, Bool.and_eq_true]
      exact ⟨⟨h1, h2⟩, ih _ h3⟩
    · refine ih lo (wfFrom_mono (lo := some k) ?_ h3)
      rintro l rfl
      simp only [decide_eq_true_eq] at h1
      exact ⟨k, rfl, Nat.le_of_lt h1⟩

/-- Zeroing a range keeps the canonical form. -/
theorem memZero_wf {m : Memory} (a n : Nat) (h : m.wf = true) : (memZero m a n).wf = true := filter_wfFrom _ _ _ h

/-! ### A read after a write -/

theorem memGet_below {m : Memory} : ∀ {l a : Nat}, Memory.wfFrom (some l) m = true → a ≤ l → memGet m a = 0 := by
  induction m with
  | nil => intro l a _ _; rfl
  | cons e m ih =>
    obtain ⟨k, v⟩ := e
    intro l a h ha
    simp only [Memory.wfFrom, Bool.and_eq_true, decide_eq_true_eq] at h
    have hk : k ≠ a := by omega
    simp only [memGet, if_neg hk]
    exact ih h.2 (by omega)

theorem memGet_memSet_from (m : Memory) : ∀ (lo : Option Nat) (a : Nat) (b : Byte) (c : Nat), Memory.wfFrom lo m = true →
    memGet (memSet m a b) c = if c = a then b else memGet m c := by
  induction m with
  | nil =>
    intro lo a b c _
    unfold memSet
    by_cases hc : c = a
    · subst hc
      by_cases hb : b = 0
      · rw [if_pos hb, if_pos rfl]; exact hb.symm
      · rw [if_neg hb, if_pos rfl, memGet, if_pos rfl]
    · have hc' : a ≠ c := fun x => hc x.symm
      by_cases hb : b = 0
      · rw [if_pos hb, if_neg hc]
      · rw [if_neg hb, if_neg hc]
        simp [memGet, hc']
  | cons e m ih =>
    obtain ⟨k, v⟩ := e
    intro lo a b c h
    have h' := h
    simp only [Memory.wfFrom, Bool.and_eq_true] at h'
    obtain ⟨⟨_, _⟩, h3⟩ := h'
    unfold memSet
    split
    · next hak =>
      by_cases hc : c = a
      · subst hc
        by_cases hb : b = 0
        · have hk : k ≠ c := by omega
          simp only [if_pos hb, if_pos trivial, memGet, if_neg hk]
          rw [memGet_below h3 (by omega), hb]
        · rw [if_neg hb, if_pos rfl, memGet, if_pos rfl]
      · have hc' : a ≠ c := fun x => hc x.symm
        by_cases hb : b = 0
        · rw [if_pos hb, if_neg hc]
        · rw [if_neg hb, if_neg hc, memGet, if_neg hc']
    · split
      · next hak =>
        subst hak
        by_cases hc : c = a
        · subst hc
          by_cases hb : b = 0
          · simp only [if_pos hb, if_pos trivial]
            rw [memGet_below h3 (Nat.le_refl _), hb]
          · rw [if_neg hb, if_pos rfl, memGet, if_pos rfl]
        · have hc' : a ≠ c := fun x => hc x.symm
          by_cases hb : b = 0
          · rw [if_pos hb, if_neg hc, memGet, if_neg hc']
          · rw [if_neg hb, if_neg hc, memGet, if_neg hc', memGet, if_neg hc']
      · next h4 h5 =>
        simp only [memGet]
        split
        · next hkc =>
          have : c ≠ a := by omega
          simp [this]
        · exact ih _ a b c h3

/-- A byte read after a byte write in a canonical memory. -/
theorem memGet_memSet {m : Memory} (h : m.wf = true) (a : Nat) (b : Byte) (c : Nat) :
    memGet (memSet m a b) c = if c = a then b else memGet m c := memGet_memSet_from m none a b c h

/-- Bytes outside a write read as before. -/
theorem memGet_memWrite_outside (n : Nat) : ∀ (m : Memory) (a v c : Nat), m.wf = true → c < a ∨ a + n ≤ c →
    memGet (memWrite m a n v) c = memGet m c := by
  induction n with
  | zero => intro m a v c _ _; rfl
  | succ n ih =>
    intro m a v c h hc
    have hca : c ≠ a := by omega
    rw [memWrite, ih _ _ _ _ (memSet_wf _ _ h) (by omega), memGet_memSet h, if_neg hca]

/-- A number read back where it was written is the number's low bytes. -/
theorem memRead_memWrite (n : Nat) : ∀ (m : Memory) (a v : Nat), m.wf = true → memRead (memWrite m a n v) a n = v % 256 ^ n := by
  induction n with
  | zero => intro m a v _; simp [memRead, Nat.mod_one]
  | succ n ih =>
    intro m a v h
    have h1 := memSet_wf a (BitVec.ofNat 8 v) h
    rw [memWrite, memRead, ih _ _ _ h1, memGet_memWrite_outside n _ (a + 1) _ a h1 (by omega), memGet_memSet h, if_pos rfl]
    have h2 : (BitVec.ofNat 8 v).toNat = v % 256 := by simp
    rw [h2, Nat.pow_succ, Nat.mul_comm (256 ^ n) 256, Nat.mod_mul]

/-- Numbers outside a write read as before. -/
theorem memRead_memWrite_outside (k : Nat) : ∀ (m : Memory) (a n v c : Nat), m.wf = true → c + k ≤ a ∨ a + n ≤ c →
    memRead (memWrite m a n v) c k = memRead m c k := by
  induction k with
  | zero => intro m a n v c _ _; rfl
  | succ k ih =>
    intro m a n v c h hc
    rw [memRead, memRead, memGet_memWrite_outside n m a v c h (by omega), ih m a n v (c + 1) h (by omega)]

end Sys2Proof.Machine
end

