-- ==== Sys2Proof/Laws/Shape.lean ====
section
/-! SUPPORT. What exec is of each constructor: the issue of an op, the issue of an op that translates an address, or a step of another
agent, which needs nothing. -/

namespace Sys2Proof.Machine

/-- The instruction issues as an op with an effect of its own. -/
def Issues (i : Instr) : Prop := ∃ eff : State → State, ∀ s, exec i s = issue (specOf i) s eff

/-- The instruction issues as an op that translates an address. -/
def IssuesAt (i : Instr) : Prop :=
  ∃ (va : State → Word64) (acc : Nat) (post : State → TlbEntry → Option TrapRec) (eff : State → State), ∀ s,
    exec i s = issueG (specOf i) va acc post s eff

theorem issues_of {i : Instr} {eff : State → State} (h : ∀ s, exec i s = issue (specOf i) s eff) : Issues i := ⟨eff, h⟩

theorem issuesAt_of {i : Instr} {va : State → Word64} {acc : Nat} {post : State → TlbEntry → Option TrapRec} {eff : State → State}
    (h : ∀ s, exec i s = issueG (specOf i) va acc post s eff) : IssuesAt i := ⟨va, acc, post, eff, h⟩

theorem shape_nop x0 : Issues (.nop x0) := issues_of fun _ => rfl
theorem shape_br x0 x1 : Issues (.br x0 x1) := issues_of fun _ => rfl
theorem shape_brT x0 x1 x2 : Issues (.brT x0 x1 x2) := issues_of fun _ => rfl
theorem shape_brF x0 x1 x2 : Issues (.brF x0 x1 x2) := issues_of fun _ => rfl
theorem shape_loop x0 x1 x2 : Issues (.loop x0 x1 x2) := issues_of fun _ => rfl
theorem shape_call x0 x1 x2 : Issues (.call x0 x1 x2) := issues_of fun _ => rfl
theorem shape_calli x0 x1 x2 x3 : Issues (.calli x0 x1 x2 x3) := issues_of fun _ => rfl
theorem shape_jr x0 x1 x2 : Issues (.jr x0 x1 x2) := issues_of fun _ => rfl
theorem shape_holdEq x0 x1 : Issues (.holdEq x0 x1) := issues_of fun _ => rfl
theorem shape_holdNe x0 x1 : Issues (.holdNe x0 x1) := issues_of fun _ => rfl
theorem shape_holdLt x0 x1 : Issues (.holdLt x0 x1) := issues_of fun _ => rfl
theorem shape_holdGe x0 x1 : Issues (.holdGe x0 x1) := issues_of fun _ => rfl
theorem shape_holdLtu x0 x1 : Issues (.holdLtu x0 x1) := issues_of fun _ => rfl
theorem shape_holdGeu x0 x1 : Issues (.holdGeu x0 x1) := issues_of fun _ => rfl
theorem shape_holdEqWp x0 x1 : Issues (.holdEqWp x0 x1) := issues_of fun _ => rfl
theorem shape_holdNeWp x0 x1 : Issues (.holdNeWp x0 x1) := issues_of fun _ => rfl
theorem shape_holdLtWp x0 x1 : Issues (.holdLtWp x0 x1) := issues_of fun _ => rfl
theorem shape_holdGeWp x0 x1 : Issues (.holdGeWp x0 x1) := issues_of fun _ => rfl
theorem shape_holdLtuWp x0 x1 : Issues (.holdLtuWp x0 x1) := issues_of fun _ => rfl
theorem shape_holdGeuWp x0 x1 : Issues (.holdGeuWp x0 x1) := issues_of fun _ => rfl
theorem shape_tempo x0 : Issues (.tempo x0) := issues_of fun _ => rfl
theorem shape_eqw x0 x1 x2 : Issues (.eqw x0 x1 x2) := issues_of fun _ => rfl
theorem shape_eqr x0 x1 x2 : Issues (.eqr x0 x1 x2) := issues_of fun _ => rfl
theorem shape_eqcnt x0 x1 x2 : Issues (.eqcnt x0 x1 x2) := issues_of fun _ => rfl
theorem shape_trap x0 x1 : Issues (.trap x0 x1) := issues_of fun _ => rfl
theorem shape_brk x0 : Issues (.brk x0) := issues_of fun _ => rfl
theorem shape_sret x0 : Issues (.sret x0) := issues_of fun _ => rfl
theorem shape_exit x0 : Issues (.exit x0) := issues_of fun _ => rfl
theorem shape_fenceCore x0 : Issues (.fenceCore x0) := issues_of fun _ => rfl
theorem shape_fenceClus x0 : Issues (.fenceClus x0) := issues_of fun _ => rfl
theorem shape_fenceDie x0 : Issues (.fenceDie x0) := issues_of fun _ => rfl
theorem shape_fencePkg x0 : Issues (.fencePkg x0) := issues_of fun _ => rfl
theorem shape_fenceSys x0 : Issues (.fenceSys x0) := issues_of fun _ => rfl
theorem shape_xfenceCore x0 : Issues (.xfenceCore x0) := issues_of fun _ => rfl
theorem shape_xfenceClus x0 : Issues (.xfenceClus x0) := issues_of fun _ => rfl
theorem shape_xfenceDie x0 : Issues (.xfenceDie x0) := issues_of fun _ => rfl
theorem shape_xfencePkg x0 : Issues (.xfencePkg x0) := issues_of fun _ => rfl
theorem shape_xfenceSys x0 : Issues (.xfenceSys x0) := issues_of fun _ => rfl
theorem shape_csrr x0 x1 x2 : Issues (.csrr x0 x1 x2) := issues_of fun _ => rfl
theorem shape_csrw x0 x1 x2 : Issues (.csrw x0 x1 x2) := issues_of fun _ => rfl
theorem shape_add x0 x1 x2 x3 : Issues (.add x0 x1 x2 x3) := issues_of fun _ => rfl
theorem shape_sub x0 x1 x2 x3 : Issues (.sub x0 x1 x2 x3) := issues_of fun _ => rfl
theorem shape_and x0 x1 x2 x3 : Issues (.and x0 x1 x2 x3) := issues_of fun _ => rfl
theorem shape_or x0 x1 x2 x3 : Issues (.or x0 x1 x2 x3) := issues_of fun _ => rfl
theorem shape_xor x0 x1 x2 x3 : Issues (.xor x0 x1 x2 x3) := issues_of fun _ => rfl
theorem shape_andn x0 x1 x2 x3 : Issues (.andn x0 x1 x2 x3) := issues_of fun _ => rfl
theorem shape_min x0 x1 x2 x3 : Issues (.min x0 x1 x2 x3) := issues_of fun _ => rfl
theorem shape_max x0 x1 x2 x3 : Issues (.max x0 x1 x2 x3) := issues_of fun _ => rfl
theorem shape_minu x0 x1 x2 x3 : Issues (.minu x0 x1 x2 x3) := issues_of fun _ => rfl
theorem shape_maxu x0 x1 x2 x3 : Issues (.maxu x0 x1 x2 x3) := issues_of fun _ => rfl
theorem shape_addw x0 x1 x2 x3 : Issues (.addw x0 x1 x2 x3) := issues_of fun _ => rfl
theorem shape_subw x0 x1 x2 x3 : Issues (.subw x0 x1 x2 x3) := issues_of fun _ => rfl
theorem shape_mov x0 x1 x2 : Issues (.mov x0 x1 x2) := issues_of fun _ => rfl
theorem shape_addi x0 x1 x2 x3 : Issues (.addi x0 x1 x2 x3) := issues_of fun _ => rfl
theorem shape_andi x0 x1 x2 x3 : Issues (.andi x0 x1 x2 x3) := issues_of fun _ => rfl
theorem shape_ori x0 x1 x2 x3 : Issues (.ori x0 x1 x2 x3) := issues_of fun _ => rfl
theorem shape_lui x0 x1 x2 : Issues (.lui x0 x1 x2) := issues_of fun _ => rfl
theorem shape_cmpEq x0 x1 x2 x3 : Issues (.cmpEq x0 x1 x2 x3) := issues_of fun _ => rfl
theorem shape_cmpNe x0 x1 x2 x3 : Issues (.cmpNe x0 x1 x2 x3) := issues_of fun _ => rfl
theorem shape_cmpLt x0 x1 x2 x3 : Issues (.cmpLt x0 x1 x2 x3) := issues_of fun _ => rfl
theorem shape_cmpGe x0 x1 x2 x3 : Issues (.cmpGe x0 x1 x2 x3) := issues_of fun _ => rfl
theorem shape_cmpLtu x0 x1 x2 x3 : Issues (.cmpLtu x0 x1 x2 x3) := issues_of fun _ => rfl
theorem shape_cmpGeu x0 x1 x2 x3 : Issues (.cmpGeu x0 x1 x2 x3) := issues_of fun _ => rfl
theorem shape_pand x0 x1 x2 x3 : Issues (.pand x0 x1 x2 x3) := issues_of fun _ => rfl
theorem shape_por x0 x1 x2 x3 : Issues (.por x0 x1 x2 x3) := issues_of fun _ => rfl
theorem shape_pxor x0 x1 x2 x3 : Issues (.pxor x0 x1 x2 x3) := issues_of fun _ => rfl
theorem shape_pandn x0 x1 x2 x3 : Issues (.pandn x0 x1 x2 x3) := issues_of fun _ => rfl
theorem shape_pnot x0 x1 x2 : Issues (.pnot x0 x1 x2) := issues_of fun _ => rfl
theorem shape_cmpiEq x0 x1 x2 x3 : Issues (.cmpiEq x0 x1 x2 x3) := issues_of fun _ => rfl
theorem shape_cmpiNe x0 x1 x2 x3 : Issues (.cmpiNe x0 x1 x2 x3) := issues_of fun _ => rfl
theorem shape_cmpiLt x0 x1 x2 x3 : Issues (.cmpiLt x0 x1 x2 x3) := issues_of fun _ => rfl
theorem shape_cmpiGe x0 x1 x2 x3 : Issues (.cmpiGe x0 x1 x2 x3) := issues_of fun _ => rfl
theorem shape_shl x0 x1 x2 x3 : Issues (.shl x0 x1 x2 x3) := issues_of fun _ => rfl
theorem shape_shr x0 x1 x2 x3 : Issues (.shr x0 x1 x2 x3) := issues_of fun _ => rfl
theorem shape_sar x0 x1 x2 x3 : Issues (.sar x0 x1 x2 x3) := issues_of fun _ => rfl
theorem shape_rotl x0 x1 x2 x3 : Issues (.rotl x0 x1 x2 x3) := issues_of fun _ => rfl
theorem shape_rotr x0 x1 x2 x3 : Issues (.rotr x0 x1 x2 x3) := issues_of fun _ => rfl
theorem shape_clz x0 x1 x2 : Issues (.clz x0 x1 x2) := issues_of fun _ => rfl
theorem shape_ctz x0 x1 x2 : Issues (.ctz x0 x1 x2) := issues_of fun _ => rfl
theorem shape_popc x0 x1 x2 : Issues (.popc x0 x1 x2) := issues_of fun _ => rfl
theorem shape_bswap x0 x1 x2 : Issues (.bswap x0 x1 x2) := issues_of fun _ => rfl
theorem shape_bfx x0 x1 x2 x3 : Issues (.bfx x0 x1 x2 x3) := issues_of fun _ => rfl
theorem shape_bfxu x0 x1 x2 x3 : Issues (.bfxu x0 x1 x2 x3) := issues_of fun _ => rfl
theorem shape_bfi x0 x1 x2 x3 : Issues (.bfi x0 x1 x2 x3) := issues_of fun _ => rfl
theorem shape_shli x0 x1 x2 x3 : Issues (.shli x0 x1 x2 x3) := issues_of fun _ => rfl
theorem shape_shri x0 x1 x2 x3 : Issues (.shri x0 x1 x2 x3) := issues_of fun _ => rfl
theorem shape_sari x0 x1 x2 x3 : Issues (.sari x0 x1 x2 x3) := issues_of fun _ => rfl
theorem shape_rotli x0 x1 x2 x3 : Issues (.rotli x0 x1 x2 x3) := issues_of fun _ => rfl
theorem shape_mul x0 x1 x2 x3 : Issues (.mul x0 x1 x2 x3) := issues_of fun _ => rfl
theorem shape_mulh x0 x1 x2 x3 : Issues (.mulh x0 x1 x2 x3) := issues_of fun _ => rfl
theorem shape_mulhu x0 x1 x2 x3 : Issues (.mulhu x0 x1 x2 x3) := issues_of fun _ => rfl
theorem shape_mulw x0 x1 x2 x3 : Issues (.mulw x0 x1 x2 x3) := issues_of fun _ => rfl
theorem shape_div x0 x1 x2 x3 : Issues (.div x0 x1 x2 x3) := issues_of fun _ => rfl
theorem shape_divu x0 x1 x2 x3 : Issues (.divu x0 x1 x2 x3) := issues_of fun _ => rfl
theorem shape_rem x0 x1 x2 x3 : Issues (.rem x0 x1 x2 x3) := issues_of fun _ => rfl
theorem shape_remu x0 x1 x2 x3 : Issues (.remu x0 x1 x2 x3) := issues_of fun _ => rfl
theorem shape_fadd x0 x1 x2 x3 x4 : Issues (.fadd x0 x1 x2 x3 x4) := issues_of fun _ => rfl
theorem shape_fsub x0 x1 x2 x3 x4 : Issues (.fsub x0 x1 x2 x3 x4) := issues_of fun _ => rfl
theorem shape_fmul x0 x1 x2 x3 x4 : Issues (.fmul x0 x1 x2 x3 x4) := issues_of fun _ => rfl
theorem shape_fdiv x0 x1 x2 x3 x4 : Issues (.fdiv x0 x1 x2 x3 x4) := issues_of fun _ => rfl
theorem shape_fsqrt x0 x1 x2 x3 : Issues (.fsqrt x0 x1 x2 x3) := issues_of fun _ => rfl
theorem shape_fmin x0 x1 x2 x3 : Issues (.fmin x0 x1 x2 x3) := issues_of fun _ => rfl
theorem shape_fmax x0 x1 x2 x3 : Issues (.fmax x0 x1 x2 x3) := issues_of fun _ => rfl
theorem shape_fabs x0 x1 x2 : Issues (.fabs x0 x1 x2) := issues_of fun _ => rfl
theorem shape_fneg x0 x1 x2 : Issues (.fneg x0 x1 x2) := issues_of fun _ => rfl
theorem shape_fcmpEq x0 x1 x2 x3 : Issues (.fcmpEq x0 x1 x2 x3) := issues_of fun _ => rfl
theorem shape_fcmpLt x0 x1 x2 x3 : Issues (.fcmpLt x0 x1 x2 x3) := issues_of fun _ => rfl
theorem shape_fcmpLe x0 x1 x2 x3 : Issues (.fcmpLe x0 x1 x2 x3) := issues_of fun _ => rfl
theorem shape_fcmpUn x0 x1 x2 x3 : Issues (.fcmpUn x0 x1 x2 x3) := issues_of fun _ => rfl
theorem shape_cvtFI x0 x1 x2 x3 : Issues (.cvtFI x0 x1 x2 x3) := issues_of fun _ => rfl
theorem shape_cvtFU x0 x1 x2 x3 : Issues (.cvtFU x0 x1 x2 x3) := issues_of fun _ => rfl
theorem shape_cvtIF x0 x1 x2 x3 : Issues (.cvtIF x0 x1 x2 x3) := issues_of fun _ => rfl
theorem shape_cvtUF x0 x1 x2 x3 : Issues (.cvtUF x0 x1 x2 x3) := issues_of fun _ => rfl
theorem shape_cvtBfF x0 x1 x2 x3 : Issues (.cvtBfF x0 x1 x2 x3) := issues_of fun _ => rfl
theorem shape_cvtHF x0 x1 x2 x3 : Issues (.cvtHF x0 x1 x2 x3) := issues_of fun _ => rfl
theorem shape_cvtFBf x0 x1 x2 : Issues (.cvtFBf x0 x1 x2) := issues_of fun _ => rfl
theorem shape_cvtFH x0 x1 x2 : Issues (.cvtFH x0 x1 x2) := issues_of fun _ => rfl
theorem shape_ibw x0 x1 : Issues (.ibw x0 x1) := issues_of fun _ => rfl
theorem shape_ibr x0 x1 : Issues (.ibr x0 x1) := issues_of fun _ => rfl
theorem shape_ppack x0 x1 : Issues (.ppack x0 x1) := issues_of fun _ => rfl
theorem shape_punpk x0 x1 : Issues (.punpk x0 x1) := issues_of fun _ => rfl
theorem shape_sel x0 x1 x2 x3 x4 : Issues (.sel x0 x1 x2 x3 x4) := issues_of fun _ => rfl
theorem shape_cwld x0 x1 x2 : Issues (.cwld x0 x1 x2) := issues_of fun _ => rfl
theorem shape_ldb x0 x1 x2 x3 : Issues (.ldb x0 x1 x2 x3) := issues_of fun _ => rfl
theorem shape_ldbu x0 x1 x2 x3 : Issues (.ldbu x0 x1 x2 x3) := issues_of fun _ => rfl
theorem shape_ldh x0 x1 x2 x3 : Issues (.ldh x0 x1 x2 x3) := issues_of fun _ => rfl
theorem shape_ldhu x0 x1 x2 x3 : Issues (.ldhu x0 x1 x2 x3) := issues_of fun _ => rfl
theorem shape_ldw x0 x1 x2 x3 : Issues (.ldw x0 x1 x2 x3) := issues_of fun _ => rfl
theorem shape_ldwu x0 x1 x2 x3 : Issues (.ldwu x0 x1 x2 x3) := issues_of fun _ => rfl
theorem shape_ld x0 x1 x2 x3 : Issues (.ld x0 x1 x2 x3) := issues_of fun _ => rfl
theorem shape_stb x0 x1 x2 x3 : Issues (.stb x0 x1 x2 x3) := issues_of fun _ => rfl
theorem shape_sth x0 x1 x2 x3 : Issues (.sth x0 x1 x2 x3) := issues_of fun _ => rfl
theorem shape_stw x0 x1 x2 x3 : Issues (.stw x0 x1 x2 x3) := issues_of fun _ => rfl
theorem shape_st x0 x1 x2 x3 : Issues (.st x0 x1 x2 x3) := issues_of fun _ => rfl
theorem shape_vld x0 x1 x2 : Issues (.vld x0 x1 x2) := issues_of fun _ => rfl
theorem shape_vst x0 x1 x2 : Issues (.vst x0 x1 x2) := issues_of fun _ => rfl
theorem shape_vldh x0 x1 x2 x3 : Issues (.vldh x0 x1 x2 x3) := issues_of fun _ => rfl
theorem shape_vsth x0 x1 x2 x3 : Issues (.vsth x0 x1 x2 x3) := issues_of fun _ => rfl
theorem shape_vldb x0 x1 x2 x3 : Issues (.vldb x0 x1 x2 x3) := issues_of fun _ => rfl
theorem shape_tld x0 x1 : Issues (.tld x0 x1) := issues_of fun _ => rfl
theorem shape_tldBind x0 x1 x2 : Issues (.tldBind x0 x1 x2) := issues_of fun _ => rfl
theorem shape_tst x0 x1 : Issues (.tst x0 x1) := issues_of fun _ => rfl
theorem shape_vgathW x0 x1 x2 x3 : Issues (.vgathW x0 x1 x2 x3) := issues_of fun _ => rfl
theorem shape_vgathH x0 x1 x2 x3 : Issues (.vgathH x0 x1 x2 x3) := issues_of fun _ => rfl
theorem shape_vgathB x0 x1 x2 x3 : Issues (.vgathB x0 x1 x2 x3) := issues_of fun _ => rfl
theorem shape_vscatW x0 x1 x2 x3 : Issues (.vscatW x0 x1 x2 x3) := issues_of fun _ => rfl
theorem shape_vscatH x0 x1 x2 x3 : Issues (.vscatH x0 x1 x2 x3) := issues_of fun _ => rfl
theorem shape_vscatB x0 x1 x2 x3 : Issues (.vscatB x0 x1 x2 x3) := issues_of fun _ => rfl
theorem shape_lmadd x0 x1 x2 x3 : Issues (.lmadd x0 x1 x2 x3) := issues_of fun _ => rfl
theorem shape_lmxchg x0 x1 x2 x3 : Issues (.lmxchg x0 x1 x2 x3) := issues_of fun _ => rfl
theorem shape_lmcas x0 x1 x2 x3 : Issues (.lmcas x0 x1 x2 x3) := issues_of fun _ => rfl
theorem shape_lmmin x0 x1 x2 x3 : Issues (.lmmin x0 x1 x2 x3) := issues_of fun _ => rfl
theorem shape_lmmax x0 x1 x2 x3 : Issues (.lmmax x0 x1 x2 x3) := issues_of fun _ => rfl
theorem shape_lmand x0 x1 x2 x3 : Issues (.lmand x0 x1 x2 x3) := issues_of fun _ => rfl
theorem shape_lmor x0 x1 x2 x3 : Issues (.lmor x0 x1 x2 x3) := issues_of fun _ => rfl
theorem shape_flrel x0 x1 x2 : Issues (.flrel x0 x1 x2) := issues_of fun _ => rfl
theorem shape_flacq x0 x1 x2 : Issues (.flacq x0 x1 x2) := issues_of fun _ => rfl
theorem shape_rld x0 x1 x2 : Issues (.rld x0 x1 x2) := issues_of fun _ => rfl
theorem shape_rst x0 x1 x2 : Issues (.rst x0 x1 x2) := issues_of fun _ => rfl
theorem shape_rvld x0 x1 x2 : Issues (.rvld x0 x1 x2) := issues_of fun _ => rfl
theorem shape_rvst x0 x1 x2 : Issues (.rvst x0 x1 x2) := issues_of fun _ => rfl
theorem shape_rqput x0 x1 : Issues (.rqput x0 x1) := issues_of fun _ => rfl
theorem shape_zld x0 x1 x2 x3 x4 : Issues (.zld x0 x1 x2 x3 x4) := issues_of fun _ => rfl
theorem shape_zst x0 x1 x2 x3 : Issues (.zst x0 x1 x2 x3) := issues_of fun _ => rfl
theorem shape_zbind x0 x1 x2 : Issues (.zbind x0 x1 x2) := issues_of fun _ => rfl
theorem shape_zbindNone x0 : Issues (.zbindNone x0) := issues_of fun _ => rfl
theorem shape_zbindw x0 x1 x2 : Issues (.zbindw x0 x1 x2) := issues_of fun _ => rfl
theorem shape_zgenZ x0 x1 : Issues (.zgenZ x0 x1) := issues_of fun _ => rfl
theorem shape_zgenT x0 x1 : Issues (.zgenT x0 x1) := issues_of fun _ => rfl
theorem shape_zgenW x0 x1 : Issues (.zgenW x0 x1) := issues_of fun _ => rfl
theorem shape_zmul x0 x1 x2 x3 : Issues (.zmul x0 x1 x2 x3) := issues_of fun _ => rfl
theorem shape_zadde x0 x1 x2 x3 : Issues (.zadde x0 x1 x2 x3) := issues_of fun _ => rfl
theorem shape_zmax x0 x1 x2 x3 : Issues (.zmax x0 x1 x2 x3) := issues_of fun _ => rfl
theorem shape_zcvt x0 x1 x2 x3 : Issues (.zcvt x0 x1 x2 x3) := issues_of fun _ => rfl
theorem shape_zfill x0 x1 x2 x3 : Issues (.zfill x0 x1 x2 x3) := issues_of fun _ => rfl
theorem shape_zmov x0 x1 x2 : Issues (.zmov x0 x1 x2) := issues_of fun _ => rfl
theorem shape_zamax x0 x1 x2 x3 : Issues (.zamax x0 x1 x2 x3) := issues_of fun _ => rfl
theorem shape_vadd x0 x1 x2 x3 x4 : Issues (.vadd x0 x1 x2 x3 x4) := issues_of fun _ => rfl
theorem shape_vsub x0 x1 x2 x3 x4 : Issues (.vsub x0 x1 x2 x3 x4) := issues_of fun _ => rfl
theorem shape_vmul x0 x1 x2 x3 x4 : Issues (.vmul x0 x1 x2 x3 x4) := issues_of fun _ => rfl
theorem shape_vdiv x0 x1 x2 x3 x4 : Issues (.vdiv x0 x1 x2 x3 x4) := issues_of fun _ => rfl
theorem shape_vmin x0 x1 x2 x3 : Issues (.vmin x0 x1 x2 x3) := issues_of fun _ => rfl
theorem shape_vmax x0 x1 x2 x3 : Issues (.vmax x0 x1 x2 x3) := issues_of fun _ => rfl
theorem shape_vabs x0 x1 x2 : Issues (.vabs x0 x1 x2) := issues_of fun _ => rfl
theorem shape_vneg x0 x1 x2 : Issues (.vneg x0 x1 x2) := issues_of fun _ => rfl
theorem shape_vsqrt x0 x1 x2 x3 : Issues (.vsqrt x0 x1 x2 x3) := issues_of fun _ => rfl
theorem shape_vfma x0 x1 x2 x3 x4 : Issues (.vfma x0 x1 x2 x3 x4) := issues_of fun _ => rfl
theorem shape_vfms x0 x1 x2 x3 x4 : Issues (.vfms x0 x1 x2 x3 x4) := issues_of fun _ => rfl
theorem shape_vfnma x0 x1 x2 x3 x4 : Issues (.vfnma x0 x1 x2 x3 x4) := issues_of fun _ => rfl
theorem shape_viadd x0 x1 x2 x3 : Issues (.viadd x0 x1 x2 x3) := issues_of fun _ => rfl
theorem shape_visub x0 x1 x2 x3 : Issues (.visub x0 x1 x2 x3) := issues_of fun _ => rfl
theorem shape_vimul x0 x1 x2 x3 : Issues (.vimul x0 x1 x2 x3) := issues_of fun _ => rfl
theorem shape_viand x0 x1 x2 x3 : Issues (.viand x0 x1 x2 x3) := issues_of fun _ => rfl
theorem shape_vior x0 x1 x2 x3 : Issues (.vior x0 x1 x2 x3) := issues_of fun _ => rfl
theorem shape_vixor x0 x1 x2 x3 : Issues (.vixor x0 x1 x2 x3) := issues_of fun _ => rfl
theorem shape_vishl x0 x1 x2 x3 : Issues (.vishl x0 x1 x2 x3) := issues_of fun _ => rfl
theorem shape_vishr x0 x1 x2 x3 : Issues (.vishr x0 x1 x2 x3) := issues_of fun _ => rfl
theorem shape_visar x0 x1 x2 x3 : Issues (.visar x0 x1 x2 x3) := issues_of fun _ => rfl
theorem shape_vimin x0 x1 x2 x3 : Issues (.vimin x0 x1 x2 x3) := issues_of fun _ => rfl
theorem shape_vimax x0 x1 x2 x3 : Issues (.vimax x0 x1 x2 x3) := issues_of fun _ => rfl
theorem shape_viminu x0 x1 x2 x3 : Issues (.viminu x0 x1 x2 x3) := issues_of fun _ => rfl
theorem shape_vimaxu x0 x1 x2 x3 : Issues (.vimaxu x0 x1 x2 x3) := issues_of fun _ => rfl
theorem shape_vcmpEq x0 x1 x2 x3 : Issues (.vcmpEq x0 x1 x2 x3) := issues_of fun _ => rfl
theorem shape_vcmpLt x0 x1 x2 x3 : Issues (.vcmpLt x0 x1 x2 x3) := issues_of fun _ => rfl
theorem shape_vcmpLe x0 x1 x2 x3 : Issues (.vcmpLe x0 x1 x2 x3) := issues_of fun _ => rfl
theorem shape_vcmpUn x0 x1 x2 x3 : Issues (.vcmpUn x0 x1 x2 x3) := issues_of fun _ => rfl
theorem shape_vicmpEq x0 x1 x2 x3 : Issues (.vicmpEq x0 x1 x2 x3) := issues_of fun _ => rfl
theorem shape_vicmpLt x0 x1 x2 x3 : Issues (.vicmpLt x0 x1 x2 x3) := issues_of fun _ => rfl
theorem shape_vicmpLtu x0 x1 x2 x3 : Issues (.vicmpLtu x0 x1 x2 x3) := issues_of fun _ => rfl
theorem shape_vsel x0 x1 x2 x3 x4 : Issues (.vsel x0 x1 x2 x3 x4) := issues_of fun _ => rfl
theorem shape_mand x0 x1 x2 x3 : Issues (.mand x0 x1 x2 x3) := issues_of fun _ => rfl
theorem shape_mor x0 x1 x2 x3 : Issues (.mor x0 x1 x2 x3) := issues_of fun _ => rfl
theorem shape_mxor x0 x1 x2 x3 : Issues (.mxor x0 x1 x2 x3) := issues_of fun _ => rfl
theorem shape_mnot x0 x1 x2 : Issues (.mnot x0 x1 x2) := issues_of fun _ => rfl
theorem shape_mpop x0 x1 x2 : Issues (.mpop x0 x1 x2) := issues_of fun _ => rfl
theorem shape_mmovToMask x0 x1 x2 : Issues (.mmovToMask x0 x1 x2) := issues_of fun _ => rfl
theorem shape_mmovFromMask x0 x1 x2 : Issues (.mmovFromMask x0 x1 x2) := issues_of fun _ => rfl
theorem shape_vpack x0 x1 x2 x3 : Issues (.vpack x0 x1 x2 x3) := issues_of fun _ => rfl
theorem shape_vunpack x0 x1 x2 x3 : Issues (.vunpack x0 x1 x2 x3) := issues_of fun _ => rfl
theorem shape_vquant x0 x1 x2 x3 x4 : Issues (.vquant x0 x1 x2 x3 x4) := issues_of fun _ => rfl
theorem shape_vquantRs x0 x1 x2 x3 x4 : Issues (.vquantRs x0 x1 x2 x3 x4) := issues_of fun _ => rfl
theorem shape_vpackRs x0 x1 x2 x3 : Issues (.vpackRs x0 x1 x2 x3) := issues_of fun _ => rfl
theorem shape_vcvtFI x0 x1 x2 x3 : Issues (.vcvtFI x0 x1 x2 x3) := issues_of fun _ => rfl
theorem shape_vcvtIF x0 x1 x2 x3 : Issues (.vcvtIF x0 x1 x2 x3) := issues_of fun _ => rfl
theorem shape_vcvtBfF x0 x1 x2 x3 : Issues (.vcvtBfF x0 x1 x2 x3) := issues_of fun _ => rfl
theorem shape_vcvtHF x0 x1 x2 x3 : Issues (.vcvtHF x0 x1 x2 x3) := issues_of fun _ => rfl
theorem shape_vcvtFBf x0 x1 x2 : Issues (.vcvtFBf x0 x1 x2) := issues_of fun _ => rfl
theorem shape_vcvtFH x0 x1 x2 : Issues (.vcvtFH x0 x1 x2) := issues_of fun _ => rfl
theorem shape_vnarrowI8 x0 x1 x2 : Issues (.vnarrowI8 x0 x1 x2) := issues_of fun _ => rfl
theorem shape_vnarrowI4 x0 x1 x2 : Issues (.vnarrowI4 x0 x1 x2) := issues_of fun _ => rfl
theorem shape_vwidenI8 x0 x1 x2 : Issues (.vwidenI8 x0 x1 x2) := issues_of fun _ => rfl
theorem shape_vwidenI4 x0 x1 x2 : Issues (.vwidenI4 x0 x1 x2) := issues_of fun _ => rfl
theorem shape_vperm x0 x1 x2 x3 : Issues (.vperm x0 x1 x2 x3) := issues_of fun _ => rfl
theorem shape_vbcl x0 x1 x2 x3 : Issues (.vbcl x0 x1 x2 x3) := issues_of fun _ => rfl
theorem shape_vbcs x0 x1 x2 : Issues (.vbcs x0 x1 x2) := issues_of fun _ => rfl
theorem shape_vrot x0 x1 x2 x3 : Issues (.vrot x0 x1 x2 x3) := issues_of fun _ => rfl
theorem shape_vext x0 x1 x2 x3 : Issues (.vext x0 x1 x2 x3) := issues_of fun _ => rfl
theorem shape_vins x0 x1 x2 x3 : Issues (.vins x0 x1 x2 x3) := issues_of fun _ => rfl
theorem shape_vcompress x0 x1 x2 x3 : Issues (.vcompress x0 x1 x2 x3) := issues_of fun _ => rfl
theorem shape_vexpand x0 x1 x2 x3 : Issues (.vexpand x0 x1 x2 x3) := issues_of fun _ => rfl
theorem shape_vscanAdd x0 x1 x2 x3 : Issues (.vscanAdd x0 x1 x2 x3) := issues_of fun _ => rfl
theorem shape_vscanMax x0 x1 x2 x3 : Issues (.vscanMax x0 x1 x2 x3) := issues_of fun _ => rfl
theorem shape_vscanIadd x0 x1 x2 x3 : Issues (.vscanIadd x0 x1 x2 x3) := issues_of fun _ => rfl
theorem shape_vredAdd x0 x1 x2 x3 : Issues (.vredAdd x0 x1 x2 x3) := issues_of fun _ => rfl
theorem shape_vredMax x0 x1 x2 x3 : Issues (.vredMax x0 x1 x2 x3) := issues_of fun _ => rfl
theorem shape_vredMin x0 x1 x2 x3 : Issues (.vredMin x0 x1 x2 x3) := issues_of fun _ => rfl
theorem shape_vredIadd x0 x1 x2 x3 : Issues (.vredIadd x0 x1 x2 x3) := issues_of fun _ => rfl
theorem shape_vargmax x0 x1 x2 x3 : Issues (.vargmax x0 x1 x2 x3) := issues_of fun _ => rfl
theorem shape_vcx x0 x1 x2 x3 : Issues (.vcx x0 x1 x2 x3) := issues_of fun _ => rfl
theorem shape_vcxD x0 x1 x2 x3 : Issues (.vcxD x0 x1 x2 x3) := issues_of fun _ => rfl
theorem shape_vmrg x0 x1 x2 x3 : Issues (.vmrg x0 x1 x2 x3) := issues_of fun _ => rfl
theorem shape_vmrgD x0 x1 x2 x3 : Issues (.vmrgD x0 x1 x2 x3) := issues_of fun _ => rfl
theorem shape_vdraw x0 x1 x2 x3 : Issues (.vdraw x0 x1 x2 x3) := issues_of fun _ => rfl
theorem shape_vdrawF x0 x1 x2 x3 : Issues (.vdrawF x0 x1 x2 x3) := issues_of fun _ => rfl
theorem shape_vexp2 x0 x1 x2 : Issues (.vexp2 x0 x1 x2) := issues_of fun _ => rfl
theorem shape_vrcp x0 x1 x2 : Issues (.vrcp x0 x1 x2) := issues_of fun _ => rfl
theorem shape_vrsqrt x0 x1 x2 : Issues (.vrsqrt x0 x1 x2) := issues_of fun _ => rfl
theorem shape_vlog2 x0 x1 x2 : Issues (.vlog2 x0 x1 x2) := issues_of fun _ => rfl
theorem shape_mldw x0 x1 x2 x3 : Issues (.mldw x0 x1 x2 x3) := issues_of fun _ => rfl
theorem shape_mldwS x0 x1 x2 x3 : Issues (.mldwS x0 x1 x2 x3) := issues_of fun _ => rfl
theorem shape_mma x0 x1 x2 x3 x4 : Issues (.mma x0 x1 x2 x3 x4) := issues_of fun _ => rfl
theorem shape_mmaFwd x0 x1 x2 x3 x4 : Issues (.mmaFwd x0 x1 x2 x3 x4) := issues_of fun _ => rfl
theorem shape_mmaSat x0 x1 x2 x3 x4 : Issues (.mmaSat x0 x1 x2 x3 x4) := issues_of fun _ => rfl
theorem shape_mmaFwdSat x0 x1 x2 x3 x4 : Issues (.mmaFwdSat x0 x1 x2 x3 x4) := issues_of fun _ => rfl
theorem shape_mrd x0 x1 x2 x3 : Issues (.mrd x0 x1 x2 x3) := issues_of fun _ => rfl
theorem shape_mclr x0 : Issues (.mclr x0) := issues_of fun _ => rfl
theorem shape_gldb k d a o : IssuesAt (.gldb k d a o) := issuesAt_of (va := (fun s => s.ea a o 1)) (acc := 0) (post := (fun _ _ => none)) (eff := fun s => s.gSend (.load 1 true none) (s.dstS d) .discard (s.ea a o 1)) fun _ => rfl
theorem shape_gldbu k d a o : IssuesAt (.gldbu k d a o) := issuesAt_of (va := (fun s => s.ea a o 1)) (acc := 0) (post := (fun _ _ => none)) (eff := fun s => s.gSend (.load 1 false none) (s.dstS d) .discard (s.ea a o 1)) fun _ => rfl
theorem shape_gldh k d a o : IssuesAt (.gldh k d a o) := issuesAt_of (va := (fun s => s.ea a o 2)) (acc := 0) (post := (fun _ _ => none)) (eff := fun s => s.gSend (.load 2 true none) (s.dstS d) .discard (s.ea a o 2)) fun _ => rfl
theorem shape_gldhu k d a o : IssuesAt (.gldhu k d a o) := issuesAt_of (va := (fun s => s.ea a o 2)) (acc := 0) (post := (fun _ _ => none)) (eff := fun s => s.gSend (.load 2 false none) (s.dstS d) .discard (s.ea a o 2)) fun _ => rfl
theorem shape_gldw k d a o : IssuesAt (.gldw k d a o) := issuesAt_of (va := (fun s => s.ea a o 4)) (acc := 0) (post := (fun _ _ => none)) (eff := fun s => s.gSend (.load 4 true none) (s.dstS d) .discard (s.ea a o 4)) fun _ => rfl
theorem shape_gldwu k d a o : IssuesAt (.gldwu k d a o) := issuesAt_of (va := (fun s => s.ea a o 4)) (acc := 0) (post := (fun _ _ => none)) (eff := fun s => s.gSend (.load 4 false none) (s.dstS d) .discard (s.ea a o 4)) fun _ => rfl
theorem shape_gld k d a o : IssuesAt (.gld k d a o) := issuesAt_of (va := (fun s => s.ea a o 8)) (acc := 0) (post := (fun _ _ => none)) (eff := fun s => s.gSend (.load 8 false none) (s.dstS d) .discard (s.ea a o 8)) fun _ => rfl
theorem shape_gstb k d a o : IssuesAt (.gstb k d a o) := issuesAt_of (va := (fun s => s.ea a o 1)) (acc := 1) (post := (fun _ _ => none)) (eff := fun s => s.gSend (.store 1 none (s.readS d)) .discard .discard (s.ea a o 1)) fun _ => rfl
theorem shape_gsth k d a o : IssuesAt (.gsth k d a o) := issuesAt_of (va := (fun s => s.ea a o 2)) (acc := 1) (post := (fun _ _ => none)) (eff := fun s => s.gSend (.store 2 none (s.readS d)) .discard .discard (s.ea a o 2)) fun _ => rfl
theorem shape_gstw k d a o : IssuesAt (.gstw k d a o) := issuesAt_of (va := (fun s => s.ea a o 4)) (acc := 1) (post := (fun _ _ => none)) (eff := fun s => s.gSend (.store 4 none (s.readS d)) .discard .discard (s.ea a o 4)) fun _ => rfl
theorem shape_gst k d a o : IssuesAt (.gst k d a o) := issuesAt_of (va := (fun s => s.ea a o 8)) (acc := 1) (post := (fun _ _ => none)) (eff := fun s => s.gSend (.store 8 none (s.readS d)) .discard .discard (s.ea a o 8)) fun _ => rfl
theorem shape_gaadd k d a b w : IssuesAt (.gaadd k d a b w) := issuesAt_of (va := (fun s => s.readS a)) (acc := 2) (post := (fun _ _ => none)) (eff := fun s => s.gSend (.atomic 0 (gaSize w) (s.readS b) (s.readS d)) (s.dstS d) .discard (s.readS a)) fun _ => rfl
theorem shape_gaswap k d a b w : IssuesAt (.gaswap k d a b w) := issuesAt_of (va := (fun s => s.readS a)) (acc := 2) (post := (fun _ _ => none)) (eff := fun s => s.gSend (.atomic 1 (gaSize w) (s.readS b) (s.readS d)) (s.dstS d) .discard (s.readS a)) fun _ => rfl
theorem shape_gacas k d a b w : IssuesAt (.gacas k d a b w) := issuesAt_of (va := (fun s => s.readS a)) (acc := 2) (post := (fun _ _ => none)) (eff := fun s => s.gSend (.atomic 2 (gaSize w) (s.readS b) (s.readS d)) (s.dstS d) .discard (s.readS a)) fun _ => rfl
theorem shape_gamin k d a b w : IssuesAt (.gamin k d a b w) := issuesAt_of (va := (fun s => s.readS a)) (acc := 2) (post := (fun _ _ => none)) (eff := fun s => s.gSend (.atomic 3 (gaSize w) (s.readS b) (s.readS d)) (s.dstS d) .discard (s.readS a)) fun _ => rfl
theorem shape_gamax k d a b w : IssuesAt (.gamax k d a b w) := issuesAt_of (va := (fun s => s.readS a)) (acc := 2) (post := (fun _ _ => none)) (eff := fun s => s.gSend (.atomic 4 (gaSize w) (s.readS b) (s.readS d)) (s.dstS d) .discard (s.readS a)) fun _ => rfl
theorem shape_gaminu k d a b w : IssuesAt (.gaminu k d a b w) := issuesAt_of (va := (fun s => s.readS a)) (acc := 2) (post := (fun _ _ => none)) (eff := fun s => s.gSend (.atomic 5 (gaSize w) (s.readS b) (s.readS d)) (s.dstS d) .discard (s.readS a)) fun _ => rfl
theorem shape_gamaxu k d a b w : IssuesAt (.gamaxu k d a b w) := issuesAt_of (va := (fun s => s.readS a)) (acc := 2) (post := (fun _ _ => none)) (eff := fun s => s.gSend (.atomic 6 (gaSize w) (s.readS b) (s.readS d)) (s.dstS d) .discard (s.readS a)) fun _ => rfl
theorem shape_gaand k d a b w : IssuesAt (.gaand k d a b w) := issuesAt_of (va := (fun s => s.readS a)) (acc := 2) (post := (fun _ _ => none)) (eff := fun s => s.gSend (.atomic 7 (gaSize w) (s.readS b) (s.readS d)) (s.dstS d) .discard (s.readS a)) fun _ => rfl
theorem shape_gaor k d a b w : IssuesAt (.gaor k d a b w) := issuesAt_of (va := (fun s => s.readS a)) (acc := 2) (post := (fun _ _ => none)) (eff := fun s => s.gSend (.atomic 8 (gaSize w) (s.readS b) (s.readS d)) (s.dstS d) .discard (s.readS a)) fun _ => rfl
theorem shape_gaxor k d a b w : IssuesAt (.gaxor k d a b w) := issuesAt_of (va := (fun s => s.readS a)) (acc := 2) (post := (fun _ _ => none)) (eff := fun s => s.gSend (.atomic 9 (gaSize w) (s.readS b) (s.readS d)) (s.dstS d) .discard (s.readS a)) fun _ => rfl
theorem shape_gafadd k d a b : IssuesAt (.gafadd k d a b) := issuesAt_of (va := (fun s => s.readS a)) (acc := 2) (post := (fun _ _ => none)) (eff := fun s => s.gSend (.atomic 10 4 (s.readS b) (s.readS d)) (s.dstS d) .discard (s.readS a)) fun _ => rfl
theorem shape_ldacq k d a w sc : IssuesAt (.ldacq k d a w sc) := issuesAt_of (va := (fun s => s.readS a)) (acc := 0) (post := (fun _ _ => none)) (eff := fun s => s.gSend (.load (gaSize w) false (some sc.toNat)) (s.dstS d) .discard (s.readS a)) fun _ => rfl
theorem shape_strel k d a w sc : IssuesAt (.strel k d a w sc) := issuesAt_of (va := (fun s => s.readS a)) (acc := 1) (post := (fun _ _ => none)) (eff := fun s => s.gSend (.store (gaSize w) (some sc.toNat) (s.readS d)) .discard .discard (s.readS a)) fun _ => rfl
theorem shape_scadd k d a b : IssuesAt (.scadd k d a b) := issuesAt_of (va := (fun s => s.readS a)) (acc := 2) (post := (fun _ _ => none)) (eff := fun s => s.scSend 0 (s.readS b) 0 (s.dstS d) a) fun _ => rfl
theorem shape_scswap k d a b : IssuesAt (.scswap k d a b) := issuesAt_of (va := (fun s => s.readS a)) (acc := 2) (post := (fun _ _ => none)) (eff := fun s => s.scSend 1 (s.readS b) 0 (s.dstS d) a) fun _ => rfl
theorem shape_sccas k d a b : IssuesAt (.sccas k d a b) := issuesAt_of (va := (fun s => s.readS a)) (acc := 2) (post := (fun _ _ => none)) (eff := fun s => s.scSend 2 (s.readS b) (s.readS d) (s.dstS d) a) fun _ => rfl
theorem shape_scld k d a : IssuesAt (.scld k d a) := issuesAt_of (va := (fun s => s.readS a)) (acc := 2) (post := (fun _ _ => none)) (eff := fun s => s.scSend 3 0 0 (s.dstS d) a) fun _ => rfl
theorem shape_scst k d a : IssuesAt (.scst k d a) := issuesAt_of (va := (fun s => s.readS a)) (acc := 2) (post := (fun _ _ => none)) (eff := fun s => s.scSend 4 (s.readS d) 0 .discard a) fun _ => rfl
theorem shape_monarm k n a : IssuesAt (.monarm k n a) := issuesAt_of (va := (fun s => s.readS a)) (acc := 3) (post := (fun s e => s.lineTrap n.toNat a e)) (eff := fun s => (s.setMonitor s.threadNo n.toNat ⟨true, false, false, s.ctx.pa / 64, false⟩).gSend (.monarm n.toNat) .discard .discard (s.readS a)) fun _ => rfl
theorem shape_monarmLm x0 x1 x2 : Issues (.monarmLm x0 x1 x2) := issues_of fun _ => rfl
theorem shape_monwait x0 x1 x2 : Issues (.monwait x0 x1 x2) := issues_of fun _ => rfl
theorem shape_monclr x0 x1 : Issues (.monclr x0 x1) := issues_of fun _ => rfl
theorem shape_mbput x0 x1 x2 x3 : Issues (.mbput x0 x1 x2 x3) := issues_of fun _ => rfl
theorem shape_mbget x0 x1 : Issues (.mbget x0 x1) := issues_of fun _ => rfl
theorem shape_ringput x0 x1 x2 x3 : Issues (.ringput x0 x1 x2 x3) := issues_of fun _ => rfl
theorem shape_ringget x0 x1 x2 x3 : Issues (.ringget x0 x1 x2 x3) := issues_of fun _ => rfl
theorem shape_callat x0 x1 x2 x3 : Issues (.callat x0 x1 x2 x3) := issues_of fun _ => rfl
theorem shape_twait x0 : Issues (.twait x0) := issues_of fun _ => rfl
theorem shape_rqclm x0 x1 x2 : Issues (.rqclm x0 x1 x2) := issues_of fun _ => rfl
theorem shape_tempoAny : Issues (.tempoAny) := issues_of fun _ => rfl
theorem shape_ibar : Issues (.ibar) := issues_of fun _ => rfl

theorem exec_shape (i : Instr) : Issues i ∨ IssuesAt i ∨ specOf i = { cls := .any } :=
  match i with
  | .pawnSwitchRejoin _ => .inr (.inr rfl)
  | .pawnLmGrant _ => .inr (.inr rfl)
  | .pawnFetch _ => .inr (.inr rfl)
  | .pawnPushRetry _ => .inr (.inr rfl)
  | .trapEntry _ => .inr (.inr rfl)
  | .pawnTrapEntry _ => .inr (.inr rfl)
  | .doorbell _ _ _ => .inr (.inr rfl)
  | .launch _ => .inr (.inr rfl)
  | .launchPlacement _ => .inr (.inr rfl)
  | .launchCompletion _ => .inr (.inr rfl)
  | .queueCopy _ => .inr (.inr rfl)
  | .queueCollective _ => .inr (.inr rfl)
  | .hostNotification _ => .inr (.inr rfl)
  | .eventWait _ => .inr (.inr rfl)
  | .eventWaitRecheck _ => .inr (.inr rfl)
  | .conditional _ => .inr (.inr rfl)
  | .runGraph _ => .inr (.inr rfl)
  | .graphNodeStart _ _ => .inr (.inr rfl)
  | .graphNodeCompletion _ => .inr (.inr rfl)
  | .hostRingTimeExpiry _ => .inr (.inr rfl)
  | .hrptrWrite _ _ => .inr (.inr rfl)
  | .featlockWrite _ => .inr (.inr rfl)
  | .copy _ => .inr (.inr rfl)
  | .copy2d _ => .inr (.inr rfl)
  | .split _ => .inr (.inr rfl)
  | .gather _ => .inr (.inr rfl)
  | .scatter _ => .inr (.inr rfl)
  | .fill _ => .inr (.inr rfl)
  | .wpset _ => .inr (.inr rfl)
  | .engineCommandCompletion _ => .inr (.inr rfl)
  | .completionRecordPush _ => .inr (.inr rfl)
  | .collectiveIncompleteReply _ => .inr (.inr rfl)
  | .pawnCacheFill _ => .inr (.inr rfl)
  | .homeAtomic _ => .inr (.inr rfl)
  | .atomicReply _ => .inr (.inr rfl)
  | .monitorRegisterAck _ _ => .inr (.inr rfl)
  | .monitorHit _ _ => .inr (.inr rfl)
  | .monwaitTimeout _ => .inr (.inr rfl)
  | .mailboxDeposit _ _ _ => .inr (.inr rfl)
  | .ackLanding _ _ => .inr (.inr rfl)
  | .ringOperation _ => .inr (.inr rfl)
  | .taskEntryArrival _ _ _ _ _ _ => .inr (.inr rfl)
  | .rowClaimReply _ => .inr (.inr rfl)
  | .translationWalk _ => .inr (.inr rfl)
  | .fqrespWalkAgain _ _ => .inr (.inr rfl)
  | .fqrespDeliver _ _ => .inr (.inr rfl)
  | .tlbinv _ _ => .inr (.inr rfl)
  | .tlbinvFlush _ _ => .inr (.inr rfl)
  | .tickExchange _ => .inr (.inr rfl)
  | .tickStamp _ _ => .inr (.inr rfl)
  | .portDeposit _ _ _ _ _ => .inr (.inr rfl)
  | .heartbeat _ => .inr (.inr rfl)
  | .heartbeatLoss _ => .inr (.inr rfl)
  | .moveOrderVisit _ => .inr (.inr rfl)
  | .preemptionRequest _ => .inr (.inr rfl)
  | .contextRestore _ => .inr (.inr rfl)
  | .ctxslotWrite _ _ => .inr (.inr rfl)
  | .ctxslotEvict _ => .inr (.inr rfl)
  | .evictionCompletion _ => .inr (.inr rfl)
  | .sintrWrite _ _ => .inr (.inr rfl)
  | .accountingBoundary _ _ => .inr (.inr rfl)
  | .acctclr _ => .inr (.inr rfl)
  | .accountingReadout _ _ => .inr (.inr rfl)
  | .getCertificate _ _ => .inr (.inr rfl)
  | .challenge _ => .inr (.inr rfl)
  | .getMeasurements _ _ => .inr (.inr rfl)
  | .unsupportedSpdmRequest _ => .inr (.inr rfl)
  | .quoteStart _ => .inr (.inr rfl)
  | .patrolScrub _ _ _ => .inr (.inr rfl)
  | .selfTestVerdict _ _ _ _ => .inr (.inr rfl)
  | .linkRetrainTimeout _ => .inr (.inr rfl)
  | .dbgHaltreq _ => .inr (.inr rfl)
  | .dbgResume _ => .inr (.inr rfl)
  | .breakpointHit _ => .inr (.inr rfl)
  | .watchpointHit _ _ _ _ => .inr (.inr rfl)
  | .crossTriggerHalt _ => .inr (.inr rfl)
  | .dumpStart _ => .inr (.inr rfl)
  | .registerWrite _ _ => .inr (.inr rfl)
  | .hostApertureAccess _ _ _ => .inr (.inr rfl)
  | .fabricWrite _ _ => .inr (.inr rfl)
  | .planeMaskChange _ => .inr (.inr rfl)
  | .inputVoltageChange _ => .inr (.inr rfl)
  | .nop _ => .inl (shape_nop _)
  | .br _ _ => .inl (shape_br _ _)
  | .brT _ _ _ => .inl (shape_brT _ _ _)
  | .brF _ _ _ => .inl (shape_brF _ _ _)
  | .loop _ _ _ => .inl (shape_loop _ _ _)
  | .call _ _ _ => .inl (shape_call _ _ _)
  | .calli _ _ _ _ => .inl (shape_calli _ _ _ _)
  | .jr _ _ _ => .inl (shape_jr _ _ _)
  | .holdEq _ _ => .inl (shape_holdEq _ _)
  | .holdNe _ _ => .inl (shape_holdNe _ _)
  | .holdLt _ _ => .inl (shape_holdLt _ _)
  | .holdGe _ _ => .inl (shape_holdGe _ _)
  | .holdLtu _ _ => .inl (shape_holdLtu _ _)
  | .holdGeu _ _ => .inl (shape_holdGeu _ _)
  | .holdEqWp _ _ => .inl (shape_holdEqWp _ _)
  | .holdNeWp _ _ => .inl (shape_holdNeWp _ _)
  | .holdLtWp _ _ => .inl (shape_holdLtWp _ _)
  | .holdGeWp _ _ => .inl (shape_holdGeWp _ _)
  | .holdLtuWp _ _ => .inl (shape_holdLtuWp _ _)
  | .holdGeuWp _ _ => .inl (shape_holdGeuWp _ _)
  | .tempo _ => .inl (shape_tempo _)
  | .eqw _ _ _ => .inl (shape_eqw _ _ _)
  | .eqr _ _ _ => .inl (shape_eqr _ _ _)
  | .eqcnt _ _ _ => .inl (shape_eqcnt _ _ _)
  | .trap _ _ => .inl (shape_trap _ _)
  | .brk _ => .inl (shape_brk _)
  | .sret _ => .inl (shape_sret _)
  | .exit _ => .inl (shape_exit _)
  | .fenceCore _ => .inl (shape_fenceCore _)
  | .fenceClus _ => .inl (shape_fenceClus _)
  | .fenceDie _ => .inl (shape_fenceDie _)
  | .fencePkg _ => .inl (shape_fencePkg _)
  | .fenceSys _ => .inl (shape_fenceSys _)
  | .xfenceCore _ => .inl (shape_xfenceCore _)
  | .xfenceClus _ => .inl (shape_xfenceClus _)
  | .xfenceDie _ => .inl (shape_xfenceDie _)
  | .xfencePkg _ => .inl (shape_xfencePkg _)
  | .xfenceSys _ => .inl (shape_xfenceSys _)
  | .csrr _ _ _ => .inl (shape_csrr _ _ _)
  | .csrw _ _ _ => .inl (shape_csrw _ _ _)
  | .add _ _ _ _ => .inl (shape_add _ _ _ _)
  | .sub _ _ _ _ => .inl (shape_sub _ _ _ _)
  | .and _ _ _ _ => .inl (shape_and _ _ _ _)
  | .or _ _ _ _ => .inl (shape_or _ _ _ _)
  | .xor _ _ _ _ => .inl (shape_xor _ _ _ _)
  | .andn _ _ _ _ => .inl (shape_andn _ _ _ _)
  | .min _ _ _ _ => .inl (shape_min _ _ _ _)
  | .max _ _ _ _ => .inl (shape_max _ _ _ _)
  | .minu _ _ _ _ => .inl (shape_minu _ _ _ _)
  | .maxu _ _ _ _ => .inl (shape_maxu _ _ _ _)
  | .addw _ _ _ _ => .inl (shape_addw _ _ _ _)
  | .subw _ _ _ _ => .inl (shape_subw _ _ _ _)
  | .mov _ _ _ => .inl (shape_mov _ _ _)
  | .addi _ _ _ _ => .inl (shape_addi _ _ _ _)
  | .andi _ _ _ _ => .inl (shape_andi _ _ _ _)
  | .ori _ _ _ _ => .inl (shape_ori _ _ _ _)
  | .lui _ _ _ => .inl (shape_lui _ _ _)
  | .cmpEq _ _ _ _ => .inl (shape_cmpEq _ _ _ _)
  | .cmpNe _ _ _ _ => .inl (shape_cmpNe _ _ _ _)
  | .cmpLt _ _ _ _ => .inl (shape_cmpLt _ _ _ _)
  | .cmpGe _ _ _ _ => .inl (shape_cmpGe _ _ _ _)
  | .cmpLtu _ _ _ _ => .inl (shape_cmpLtu _ _ _ _)
  | .cmpGeu _ _ _ _ => .inl (shape_cmpGeu _ _ _ _)
  | .pand _ _ _ _ => .inl (shape_pand _ _ _ _)
  | .por _ _ _ _ => .inl (shape_por _ _ _ _)
  | .pxor _ _ _ _ => .inl (shape_pxor _ _ _ _)
  | .pandn _ _ _ _ => .inl (shape_pandn _ _ _ _)
  | .pnot _ _ _ => .inl (shape_pnot _ _ _)
  | .cmpiEq _ _ _ _ => .inl (shape_cmpiEq _ _ _ _)
  | .cmpiNe _ _ _ _ => .inl (shape_cmpiNe _ _ _ _)
  | .cmpiLt _ _ _ _ => .inl (shape_cmpiLt _ _ _ _)
  | .cmpiGe _ _ _ _ => .inl (shape_cmpiGe _ _ _ _)
  | .shl _ _ _ _ => .inl (shape_shl _ _ _ _)
  | .shr _ _ _ _ => .inl (shape_shr _ _ _ _)
  | .sar _ _ _ _ => .inl (shape_sar _ _ _ _)
  | .rotl _ _ _ _ => .inl (shape_rotl _ _ _ _)
  | .rotr _ _ _ _ => .inl (shape_rotr _ _ _ _)
  | .clz _ _ _ => .inl (shape_clz _ _ _)
  | .ctz _ _ _ => .inl (shape_ctz _ _ _)
  | .popc _ _ _ => .inl (shape_popc _ _ _)
  | .bswap _ _ _ => .inl (shape_bswap _ _ _)
  | .bfx _ _ _ _ => .inl (shape_bfx _ _ _ _)
  | .bfxu _ _ _ _ => .inl (shape_bfxu _ _ _ _)
  | .bfi _ _ _ _ => .inl (shape_bfi _ _ _ _)
  | .shli _ _ _ _ => .inl (shape_shli _ _ _ _)
  | .shri _ _ _ _ => .inl (shape_shri _ _ _ _)
  | .sari _ _ _ _ => .inl (shape_sari _ _ _ _)
  | .rotli _ _ _ _ => .inl (shape_rotli _ _ _ _)
  | .mul _ _ _ _ => .inl (shape_mul _ _ _ _)
  | .mulh _ _ _ _ => .inl (shape_mulh _ _ _ _)
  | .mulhu _ _ _ _ => .inl (shape_mulhu _ _ _ _)
  | .mulw _ _ _ _ => .inl (shape_mulw _ _ _ _)
  | .div _ _ _ _ => .inl (shape_div _ _ _ _)
  | .divu _ _ _ _ => .inl (shape_divu _ _ _ _)
  | .rem _ _ _ _ => .inl (shape_rem _ _ _ _)
  | .remu _ _ _ _ => .inl (shape_remu _ _ _ _)
  | .fadd _ _ _ _ _ => .inl (shape_fadd _ _ _ _ _)
  | .fsub _ _ _ _ _ => .inl (shape_fsub _ _ _ _ _)
  | .fmul _ _ _ _ _ => .inl (shape_fmul _ _ _ _ _)
  | .fdiv _ _ _ _ _ => .inl (shape_fdiv _ _ _ _ _)
  | .fsqrt _ _ _ _ => .inl (shape_fsqrt _ _ _ _)
  | .fmin _ _ _ _ => .inl (shape_fmin _ _ _ _)
  | .fmax _ _ _ _ => .inl (shape_fmax _ _ _ _)
  | .fabs _ _ _ => .inl (shape_fabs _ _ _)
  | .fneg _ _ _ => .inl (shape_fneg _ _ _)
  | .fcmpEq _ _ _ _ => .inl (shape_fcmpEq _ _ _ _)
  | .fcmpLt _ _ _ _ => .inl (shape_fcmpLt _ _ _ _)
  | .fcmpLe _ _ _ _ => .inl (shape_fcmpLe _ _ _ _)
  | .fcmpUn _ _ _ _ => .inl (shape_fcmpUn _ _ _ _)
  | .cvtFI _ _ _ _ => .inl (shape_cvtFI _ _ _ _)
  | .cvtFU _ _ _ _ => .inl (shape_cvtFU _ _ _ _)
  | .cvtIF _ _ _ _ => .inl (shape_cvtIF _ _ _ _)
  | .cvtUF _ _ _ _ => .inl (shape_cvtUF _ _ _ _)
  | .cvtBfF _ _ _ _ => .inl (shape_cvtBfF _ _ _ _)
  | .cvtHF _ _ _ _ => .inl (shape_cvtHF _ _ _ _)
  | .cvtFBf _ _ _ => .inl (shape_cvtFBf _ _ _)
  | .cvtFH _ _ _ => .inl (shape_cvtFH _ _ _)
  | .ibw _ _ => .inl (shape_ibw _ _)
  | .ibr _ _ => .inl (shape_ibr _ _)
  | .ppack _ _ => .inl (shape_ppack _ _)
  | .punpk _ _ => .inl (shape_punpk _ _)
  | .sel _ _ _ _ _ => .inl (shape_sel _ _ _ _ _)
  | .cwld _ _ _ => .inl (shape_cwld _ _ _)
  | .ldb _ _ _ _ => .inl (shape_ldb _ _ _ _)
  | .ldbu _ _ _ _ => .inl (shape_ldbu _ _ _ _)
  | .ldh _ _ _ _ => .inl (shape_ldh _ _ _ _)
  | .ldhu _ _ _ _ => .inl (shape_ldhu _ _ _ _)
  | .ldw _ _ _ _ => .inl (shape_ldw _ _ _ _)
  | .ldwu _ _ _ _ => .inl (shape_ldwu _ _ _ _)
  | .ld _ _ _ _ => .inl (shape_ld _ _ _ _)
  | .stb _ _ _ _ => .inl (shape_stb _ _ _ _)
  | .sth _ _ _ _ => .inl (shape_sth _ _ _ _)
  | .stw _ _ _ _ => .inl (shape_stw _ _ _ _)
  | .st _ _ _ _ => .inl (shape_st _ _ _ _)
  | .vld _ _ _ => .inl (shape_vld _ _ _)
  | .vst _ _ _ => .inl (shape_vst _ _ _)
  | .vldh _ _ _ _ => .inl (shape_vldh _ _ _ _)
  | .vsth _ _ _ _ => .inl (shape_vsth _ _ _ _)
  | .vldb _ _ _ _ => .inl (shape_vldb _ _ _ _)
  | .tld _ _ => .inl (shape_tld _ _)
  | .tldBind _ _ _ => .inl (shape_tldBind _ _ _)
  | .tst _ _ => .inl (shape_tst _ _)
  | .vgathW _ _ _ _ => .inl (shape_vgathW _ _ _ _)
  | .vgathH _ _ _ _ => .inl (shape_vgathH _ _ _ _)
  | .vgathB _ _ _ _ => .inl (shape_vgathB _ _ _ _)
  | .vscatW _ _ _ _ => .inl (shape_vscatW _ _ _ _)
  | .vscatH _ _ _ _ => .inl (shape_vscatH _ _ _ _)
  | .vscatB _ _ _ _ => .inl (shape_vscatB _ _ _ _)
  | .lmadd _ _ _ _ => .inl (shape_lmadd _ _ _ _)
  | .lmxchg _ _ _ _ => .inl (shape_lmxchg _ _ _ _)
  | .lmcas _ _ _ _ => .inl (shape_lmcas _ _ _ _)
  | .lmmin _ _ _ _ => .inl (shape_lmmin _ _ _ _)
  | .lmmax _ _ _ _ => .inl (shape_lmmax _ _ _ _)
  | .lmand _ _ _ _ => .inl (shape_lmand _ _ _ _)
  | .lmor _ _ _ _ => .inl (shape_lmor _ _ _ _)
  | .flrel _ _ _ => .inl (shape_flrel _ _ _)
  | .flacq _ _ _ => .inl (shape_flacq _ _ _)
  | .rld _ _ _ => .inl (shape_rld _ _ _)
  | .rst _ _ _ => .inl (shape_rst _ _ _)
  | .rvld _ _ _ => .inl (shape_rvld _ _ _)
  | .rvst _ _ _ => .inl (shape_rvst _ _ _)
  | .rqput _ _ => .inl (shape_rqput _ _)
  | .zld _ _ _ _ _ => .inl (shape_zld _ _ _ _ _)
  | .zst _ _ _ _ => .inl (shape_zst _ _ _ _)
  | .zbind _ _ _ => .inl (shape_zbind _ _ _)
  | .zbindNone _ => .inl (shape_zbindNone _)
  | .zbindw _ _ _ => .inl (shape_zbindw _ _ _)
  | .zgenZ _ _ => .inl (shape_zgenZ _ _)
  | .zgenT _ _ => .inl (shape_zgenT _ _)
  | .zgenW _ _ => .inl (shape_zgenW _ _)
  | .zmul _ _ _ _ => .inl (shape_zmul _ _ _ _)
  | .zadde _ _ _ _ => .inl (shape_zadde _ _ _ _)
  | .zmax _ _ _ _ => .inl (shape_zmax _ _ _ _)
  | .zcvt _ _ _ _ => .inl (shape_zcvt _ _ _ _)
  | .zfill _ _ _ _ => .inl (shape_zfill _ _ _ _)
  | .zmov _ _ _ => .inl (shape_zmov _ _ _)
  | .zamax _ _ _ _ => .inl (shape_zamax _ _ _ _)
  | .vadd _ _ _ _ _ => .inl (shape_vadd _ _ _ _ _)
  | .vsub _ _ _ _ _ => .inl (shape_vsub _ _ _ _ _)
  | .vmul _ _ _ _ _ => .inl (shape_vmul _ _ _ _ _)
  | .vdiv _ _ _ _ _ => .inl (shape_vdiv _ _ _ _ _)
  | .vmin _ _ _ _ => .inl (shape_vmin _ _ _ _)
  | .vmax _ _ _ _ => .inl (shape_vmax _ _ _ _)
  | .vabs _ _ _ => .inl (shape_vabs _ _ _)
  | .vneg _ _ _ => .inl (shape_vneg _ _ _)
  | .vsqrt _ _ _ _ => .inl (shape_vsqrt _ _ _ _)
  | .vfma _ _ _ _ _ => .inl (shape_vfma _ _ _ _ _)
  | .vfms _ _ _ _ _ => .inl (shape_vfms _ _ _ _ _)
  | .vfnma _ _ _ _ _ => .inl (shape_vfnma _ _ _ _ _)
  | .viadd _ _ _ _ => .inl (shape_viadd _ _ _ _)
  | .visub _ _ _ _ => .inl (shape_visub _ _ _ _)
  | .vimul _ _ _ _ => .inl (shape_vimul _ _ _ _)
  | .viand _ _ _ _ => .inl (shape_viand _ _ _ _)
  | .vior _ _ _ _ => .inl (shape_vior _ _ _ _)
  | .vixor _ _ _ _ => .inl (shape_vixor _ _ _ _)
  | .vishl _ _ _ _ => .inl (shape_vishl _ _ _ _)
  | .vishr _ _ _ _ => .inl (shape_vishr _ _ _ _)
  | .visar _ _ _ _ => .inl (shape_visar _ _ _ _)
  | .vimin _ _ _ _ => .inl (shape_vimin _ _ _ _)
  | .vimax _ _ _ _ => .inl (shape_vimax _ _ _ _)
  | .viminu _ _ _ _ => .inl (shape_viminu _ _ _ _)
  | .vimaxu _ _ _ _ => .inl (shape_vimaxu _ _ _ _)
  | .vcmpEq _ _ _ _ => .inl (shape_vcmpEq _ _ _ _)
  | .vcmpLt _ _ _ _ => .inl (shape_vcmpLt _ _ _ _)
  | .vcmpLe _ _ _ _ => .inl (shape_vcmpLe _ _ _ _)
  | .vcmpUn _ _ _ _ => .inl (shape_vcmpUn _ _ _ _)
  | .vicmpEq _ _ _ _ => .inl (shape_vicmpEq _ _ _ _)
  | .vicmpLt _ _ _ _ => .inl (shape_vicmpLt _ _ _ _)
  | .vicmpLtu _ _ _ _ => .inl (shape_vicmpLtu _ _ _ _)
  | .vsel _ _ _ _ _ => .inl (shape_vsel _ _ _ _ _)
  | .mand _ _ _ _ => .inl (shape_mand _ _ _ _)
  | .mor _ _ _ _ => .inl (shape_mor _ _ _ _)
  | .mxor _ _ _ _ => .inl (shape_mxor _ _ _ _)
  | .mnot _ _ _ => .inl (shape_mnot _ _ _)
  | .mpop _ _ _ => .inl (shape_mpop _ _ _)
  | .mmovToMask _ _ _ => .inl (shape_mmovToMask _ _ _)
  | .mmovFromMask _ _ _ => .inl (shape_mmovFromMask _ _ _)
  | .vpack _ _ _ _ => .inl (shape_vpack _ _ _ _)
  | .vunpack _ _ _ _ => .inl (shape_vunpack _ _ _ _)
  | .vquant _ _ _ _ _ => .inl (shape_vquant _ _ _ _ _)
  | .vquantRs _ _ _ _ _ => .inl (shape_vquantRs _ _ _ _ _)
  | .vpackRs _ _ _ _ => .inl (shape_vpackRs _ _ _ _)
  | .vcvtFI _ _ _ _ => .inl (shape_vcvtFI _ _ _ _)
  | .vcvtIF _ _ _ _ => .inl (shape_vcvtIF _ _ _ _)
  | .vcvtBfF _ _ _ _ => .inl (shape_vcvtBfF _ _ _ _)
  | .vcvtHF _ _ _ _ => .inl (shape_vcvtHF _ _ _ _)
  | .vcvtFBf _ _ _ => .inl (shape_vcvtFBf _ _ _)
  | .vcvtFH _ _ _ => .inl (shape_vcvtFH _ _ _)
  | .vnarrowI8 _ _ _ => .inl (shape_vnarrowI8 _ _ _)
  | .vnarrowI4 _ _ _ => .inl (shape_vnarrowI4 _ _ _)
  | .vwidenI8 _ _ _ => .inl (shape_vwidenI8 _ _ _)
  | .vwidenI4 _ _ _ => .inl (shape_vwidenI4 _ _ _)
  | .vperm _ _ _ _ => .inl (shape_vperm _ _ _ _)
  | .vbcl _ _ _ _ => .inl (shape_vbcl _ _ _ _)
  | .vbcs _ _ _ => .inl (shape_vbcs _ _ _)
  | .vrot _ _ _ _ => .inl (shape_vrot _ _ _ _)
  | .vext _ _ _ _ => .inl (shape_vext _ _ _ _)
  | .vins _ _ _ _ => .inl (shape_vins _ _ _ _)
  | .vcompress _ _ _ _ => .inl (shape_vcompress _ _ _ _)
  | .vexpand _ _ _ _ => .inl (shape_vexpand _ _ _ _)
  | .vscanAdd _ _ _ _ => .inl (shape_vscanAdd _ _ _ _)
  | .vscanMax _ _ _ _ => .inl (shape_vscanMax _ _ _ _)
  | .vscanIadd _ _ _ _ => .inl (shape_vscanIadd _ _ _ _)
  | .vredAdd _ _ _ _ => .inl (shape_vredAdd _ _ _ _)
  | .vredMax _ _ _ _ => .inl (shape_vredMax _ _ _ _)
  | .vredMin _ _ _ _ => .inl (shape_vredMin _ _ _ _)
  | .vredIadd _ _ _ _ => .inl (shape_vredIadd _ _ _ _)
  | .vargmax _ _ _ _ => .inl (shape_vargmax _ _ _ _)
  | .vcx _ _ _ _ => .inl (shape_vcx _ _ _ _)
  | .vcxD _ _ _ _ => .inl (shape_vcxD _ _ _ _)
  | .vmrg _ _ _ _ => .inl (shape_vmrg _ _ _ _)
  | .vmrgD _ _ _ _ => .inl (shape_vmrgD _ _ _ _)
  | .vdraw _ _ _ _ => .inl (shape_vdraw _ _ _ _)
  | .vdrawF _ _ _ _ => .inl (shape_vdrawF _ _ _ _)
  | .vexp2 _ _ _ => .inl (shape_vexp2 _ _ _)
  | .vrcp _ _ _ => .inl (shape_vrcp _ _ _)
  | .vrsqrt _ _ _ => .inl (shape_vrsqrt _ _ _)
  | .vlog2 _ _ _ => .inl (shape_vlog2 _ _ _)
  | .mldw _ _ _ _ => .inl (shape_mldw _ _ _ _)
  | .mldwS _ _ _ _ => .inl (shape_mldwS _ _ _ _)
  | .mma _ _ _ _ _ => .inl (shape_mma _ _ _ _ _)
  | .mmaFwd _ _ _ _ _ => .inl (shape_mmaFwd _ _ _ _ _)
  | .mmaSat _ _ _ _ _ => .inl (shape_mmaSat _ _ _ _ _)
  | .mmaFwdSat _ _ _ _ _ => .inl (shape_mmaFwdSat _ _ _ _ _)
  | .mrd _ _ _ _ => .inl (shape_mrd _ _ _ _)
  | .mclr _ => .inl (shape_mclr _)
  | .gldb _ _ _ _ => .inr (.inl (shape_gldb _ _ _ _))
  | .gldbu _ _ _ _ => .inr (.inl (shape_gldbu _ _ _ _))
  | .gldh _ _ _ _ => .inr (.inl (shape_gldh _ _ _ _))
  | .gldhu _ _ _ _ => .inr (.inl (shape_gldhu _ _ _ _))
  | .gldw _ _ _ _ => .inr (.inl (shape_gldw _ _ _ _))
  | .gldwu _ _ _ _ => .inr (.inl (shape_gldwu _ _ _ _))
  | .gld _ _ _ _ => .inr (.inl (shape_gld _ _ _ _))
  | .gstb _ _ _ _ => .inr (.inl (shape_gstb _ _ _ _))
  | .gsth _ _ _ _ => .inr (.inl (shape_gsth _ _ _ _))
  | .gstw _ _ _ _ => .inr (.inl (shape_gstw _ _ _ _))
  | .gst _ _ _ _ => .inr (.inl (shape_gst _ _ _ _))
  | .gaadd _ _ _ _ _ => .inr (.inl (shape_gaadd _ _ _ _ _))
  | .gaswap _ _ _ _ _ => .inr (.inl (shape_gaswap _ _ _ _ _))
  | .gacas _ _ _ _ _ => .inr (.inl (shape_gacas _ _ _ _ _))
  | .gamin _ _ _ _ _ => .inr (.inl (shape_gamin _ _ _ _ _))
  | .gamax _ _ _ _ _ => .inr (.inl (shape_gamax _ _ _ _ _))
  | .gaminu _ _ _ _ _ => .inr (.inl (shape_gaminu _ _ _ _ _))
  | .gamaxu _ _ _ _ _ => .inr (.inl (shape_gamaxu _ _ _ _ _))
  | .gaand _ _ _ _ _ => .inr (.inl (shape_gaand _ _ _ _ _))
  | .gaor _ _ _ _ _ => .inr (.inl (shape_gaor _ _ _ _ _))
  | .gaxor _ _ _ _ _ => .inr (.inl (shape_gaxor _ _ _ _ _))
  | .gafadd _ _ _ _ => .inr (.inl (shape_gafadd _ _ _ _))
  | .ldacq _ _ _ _ _ => .inr (.inl (shape_ldacq _ _ _ _ _))
  | .strel _ _ _ _ _ => .inr (.inl (shape_strel _ _ _ _ _))
  | .scadd _ _ _ _ => .inr (.inl (shape_scadd _ _ _ _))
  | .scswap _ _ _ _ => .inr (.inl (shape_scswap _ _ _ _))
  | .sccas _ _ _ _ => .inr (.inl (shape_sccas _ _ _ _))
  | .scld _ _ _ => .inr (.inl (shape_scld _ _ _))
  | .scst _ _ _ => .inr (.inl (shape_scst _ _ _))
  | .monarm _ _ _ => .inr (.inl (shape_monarm _ _ _))
  | .monarmLm _ _ _ => .inl (shape_monarmLm _ _ _)
  | .monwait _ _ _ => .inl (shape_monwait _ _ _)
  | .monclr _ _ => .inl (shape_monclr _ _)
  | .mbput _ _ _ _ => .inl (shape_mbput _ _ _ _)
  | .mbget _ _ => .inl (shape_mbget _ _)
  | .ringput _ _ _ _ => .inl (shape_ringput _ _ _ _)
  | .ringget _ _ _ _ => .inl (shape_ringget _ _ _ _)
  | .callat _ _ _ _ => .inl (shape_callat _ _ _ _)
  | .twait _ => .inl (shape_twait _)
  | .rqclm _ _ _ => .inl (shape_rqclm _ _ _)
  | .tempoAny => .inl (shape_tempoAny)
  | .ibar => .inl (shape_ibar)
  | .resultLanding => .inr (.inr rfl)
  | .remoteLoadReply => .inr (.inr rfl)
  | .remoteStorePerformed => .inr (.inr rfl)
  | .remoteStoreAck => .inr (.inr rfl)
  | .tileLoaderRow => .inr (.inr rfl)
  | .weightLoaderGranule => .inr (.inr rfl)
  | .watchdogExpiry => .inr (.inr rfl)
  | .corePartComplete => .inr (.inr rfl)
  | .loadLevelling => .inr (.inr rfl)
  | .allReduce => .inr (.inr rfl)
  | .reduceScatter => .inr (.inr rfl)
  | .allGather => .inr (.inr rfl)
  | .broadcast => .inr (.inr rfl)
  | .scWindowClose => .inr (.inr rfl)
  | .tlbinvCompletion => .inr (.inr rfl)
  | .beatRaise => .inr (.inr rfl)
  | .beatArrival => .inr (.inr rfl)
  | .beatOverdue => .inr (.inr rfl)
  | .contextSave => .inr (.inr rfl)
  | .getVersion => .inr (.inr rfl)
  | .getCapabilities => .inr (.inr rfl)
  | .negotiateAlgorithms => .inr (.inr rfl)
  | .getDigests => .inr (.inr rfl)
  | .quoteSigned => .inr (.inr rfl)
  | .dumpPageSend => .inr (.inr rfl)
  | .coldReset => .inr (.inr rfl)
  | .conventionalReset => .inr (.inr rfl)
  | .functionLevelReset => .inr (.inr rfl)
  | .inputUndervoltage => .inr (.inr rfl)

end Sys2Proof.Machine
end

