-- ==== Sys2Proof/Laws/Trap.lean ====
section
/-! SUPPORT. What taking a trap does to the primary (R220, R391, R398): the record of a late tempo changes TEMPOREC alone, and the four ways a trap can go. -/

namespace Sys2Proof.Machine

theorem Primary.recordLate_eq (p : Primary) (r : TrapRec) :
    p.recordLate r = { p with tempoRec := if r.code = 0x140 then r.arg.setWidth 54 else p.tempoRec } := by
  unfold Primary.recordLate
  split <;> rfl

@[simp] theorem Primary.recordLate_tempoRec (p : Primary) (r : TrapRec) :
    (p.recordLate r).tempoRec = if r.code = 0x140 then r.arg.setWidth 54 else p.tempoRec := by rw [Primary.recordLate_eq]

@[simp] theorem Primary.recordLate_th (p : Primary) (r : TrapRec) : (p.recordLate r).th = p.th := by rw [Primary.recordLate_eq]

/-- A machine check asks the runtime. -/
theorem State.primTrap_check {s : State} {r : TrapRec} (h : r.isCheck = true) :
    s.primTrap r = (s.updPrim fun p => p.recordLate r).request r.code 0 := by simp [State.primTrap, h]

/-- In supervisor mode: a double trap. -/
theorem State.primTrap_double {s : State} {r : TrapRec} (h : r.isCheck = false) (hm : s.prim.th.mode ≠ 0) :
    s.primTrap r = (s.updPrim fun p => p.recordLate r).request (BitVec.ofNat 9 (0x38 + r.code.toNat % 8)) r.code := by
  simp only [State.primTrap, h, Bool.false_eq_true, if_false]
  exact if_pos (by simpa using hm)

/-- In user mode without a handler. -/
theorem State.primTrap_noHandler {s : State} {r : TrapRec} (h : r.isCheck = false) (hm : s.prim.th.mode = 0) (ht : s.prim.th.tvec = 0) :
    s.primTrap r = (s.updPrim fun p => p.recordLate r).request 0x03F r.code := by
  simp only [State.primTrap, h, Bool.false_eq_true, if_false]
  rw [if_neg (by simpa using hm), if_pos (by simpa using ht)]

/-- In user mode with a handler: the handler is entered. -/
theorem State.primTrap_enters {s : State} {r : TrapRec} (h : r.isCheck = false) (hm : s.prim.th.mode = 0) (ht : s.prim.th.tvec ≠ 0) :
    s.primTrap r = s.updPrim fun p => (p.recordLate r).enterHandler r := by
  simp only [State.primTrap, h, Bool.false_eq_true, if_false]
  rw [if_neg (by simpa using hm), if_neg (by simpa using ht)]
  rfl

/-- Whatever it leads to, the record of a late tempo stands. -/
theorem State.primTrap_tempoRec (s : State) (r : TrapRec) :
    (s.primTrap r).prim.tempoRec = if r.code = 0x140 then r.arg.setWidth 54 else s.prim.tempoRec := by
  have key : ∀ p : Primary, (p.enterHandler r).tempoRec = p.tempoRec := by
    intro p
    unfold Primary.enterHandler Primary.holdUser Primary.dropPhv
    cases p.phv <;> rfl
  rw [← Primary.recordLate_tempoRec s.prim r]
  unfold State.primTrap
  dsimp only
  split
  · rfl
  · split
    · rfl
    · split
      · rfl
      · exact key _

end Sys2Proof.Machine
end

