-- ==== Sys2Proof/Tests/Slice0.lean ====
section
/-! SUPPORT. Tests of the model: words written out from the encodings of the manual, one step of a few instructions with a result
worked out by hand, and for every statement with hypotheses a state that meets them. -/

namespace Sys2Proof.Tests

open Sys2Proof.Machine

set_option maxRecDepth 100000
set_option Elab.async false

/-! ### The hash (FIPS 180-4's own vectors) -/

/-- The digest of the empty message. -/
theorem test_sha256_empty : sha256 [] = [0xe3, 0xb0, 0xc4, 0x42, 0x98, 0xfc, 0x1c, 0x14, 0x9a, 0xfb, 0xf4, 0xc8, 0x99, 0x6f, 0xb9, 0x24,
    0x27, 0xae, 0x41, 0xe4, 0x64, 0x9b, 0x93, 0x4c, 0xa4, 0x95, 0x99, 0x1b, 0x78, 0x52, 0xb8, 0x55] := by decide +kernel

/-- The first bytes of the digest of the three letters abc. -/
theorem test_sha256_abc : (sha256 [0x61, 0x62, 0x63]).take 8 = [0xba, 0x78, 0x16, 0xbf, 0x8f, 0x01, 0xcf, 0xea] := by decide +kernel

/-! ### Small states -/

/-- A launch of one cluster with one pawn thread a core, every feature accepted, beat 5 at phase 3, the format E4M3 in FD0 (R250),
tile 1 and weight slot 1 loaded and bound to scale register 0, and a ring's descriptor at 0x1800 (R204). -/
def enrich (s : State) : State :=
  let tag : Tag := ⟨true, 0, 0, 1⟩
  let s := s.updCore fun c => { c with
    cfg := { c.cfg with clusters := [0], threads := List.replicate 8 1 }
    fd := vset c.fd 0 0x739
    t := vset c.t 1 ⟨0, tag⟩
    w := vset c.w 1 { WSlot.unloaded with loaded := true, fd := 0x739, tag := tag } }
  let s := s.updDev fun d => { d with regs := assocSet d.regs 0x44 0xFF }
  let s := s.updDie fun d => { d with beat := 5, phase := 3 }
  s.setLm (memWrite s.lm 0x1800 8 0x0000010000002000)

/-- Register 2 holds an address of local memory, register 4 the number 5, register 5 the ring's address, others 0; the primary is
about to issue from the slot. -/
def primState (slot : Nat) : State :=
  ((enrich (State.reset.placeBundle slot 0)).updPrim fun p =>
    { p with s := vset (vset (vset p.s 2 0x1000) 4 5) 5 0x1800, tempoTgt := some 5 }).setCtx
      { agent := .primary, slot := slot, pc := placeAt }

/-- The same for pawn thread 0. -/
def pawnState (slot : Nat) : State :=
  ((enrich (State.reset.placePawn 0)).updPawn 0 fun p => { p with x := vset (vset (vset p.x 2 0x1000) 4 5) 5 0x1800 }).setCtx
    { agent := .pawn 0, slot := slot, pc := placeAt }

/-- The op may issue on each issuer that may issue it. -/
def readyOn (i : Instr) : Bool :=
  let sp := specOf i
  (decide (sp.who = .pawn) || (primState (sp.cls.slots.headD 0)).ready sp) &&
    (decide (sp.who = .prim) || (pawnState (sp.cls.pawnSlots.headD 15)).ready sp)

/-! ### Decoding: words written out from the manual's encodings -/

/-- Worked encoding of the manual's chapter on encoding, and the words of its examples of control and scalar ops (R41, R48, R80, R83,
R86, R88, R94, R97, R100). -/
theorem test_decode_control_scalar :
    decodeWord 0x02901FFD = .ok (.brT false 2 (-3)) ∧ decodeWord 0x07080064 = .ok (.call false 1 100) ∧
    decodeWord 0x06002000 = .ok (.jr false 1 0) ∧ decodeWord 0x0800A008 = .ok (.tempo 5) ∧ decodeWord 0x08000009 = .ok .tempoAny ∧
    decodeWord 0x09000185 = .ok (.holdGeuWp 0 3) ∧ decodeWord 0x0A014000 = .ok (.eqw false 0 10) ∧
    decodeWord 0x8A680001 = .ok (.eqr true 13 0) ∧ decodeWord 0x0C000012 = .ok (.xfenceDie false) ∧
    decodeWord 0x0C000004 = .ok (.exit false) ∧ decodeWord 0x0E400019 = .ok (.csrr false 8 0x019) ∧
    decodeWord 0x1230C000 = .ok (.addi false 6 6 0) ∧ decodeWord 0x1828000C = .ok (.lui false 5 12) ∧
    decodeWord 0x2038C100 = .ok (.shli false 7 6 2) ∧ decodeWord 0x28010003 = .ok (.punpk false 8) ∧
    decodeWord 0x2428C3C0 = .ok (.fadd false 5 6 7 4) :=
  ⟨rfl, rfl, rfl, rfl, rfl, rfl, rfl, rfl, rfl, rfl, rfl, rfl, rfl, rfl, rfl, rfl⟩

/-- The words of the manual's examples of memory ops (R152, R155, R191 to R210). -/
theorem test_decode_memory :
    decodeWord 0x2C391802 = .ok (.ld false 7 8 2) ∧ decodeWord 0x2E38182E = .ok (.st false 7 0 46) ∧
    decodeWord 0xB0081020 = .ok (.vldb true 1 0 32) ∧ decodeWord 0x30080C30 = .ok (.vsth false 1 0 48) ∧
    decodeWord 0x30212040 = .ok (.vld 4 9 64) ∧ decodeWord 0x3828A000 = .ok (.flrel false 5 5) ∧
    decodeWord 0xAA500013 = .ok (.cwld true 10 19) ∧ decodeWord 0x6C28D801 = .ok (.gld false 5 6 1) ∧
    decodeWord 0x6E285802 = .ok (.gst false 5 2 2) ∧ decodeWord 0x70390490 = .ok (.gaadd false 7 8 9 1) ∧
    decodeWord 0x7239000B = .ok (.strel false 7 8 0 3) ∧ decodeWord 0x72490003 = .ok (.ldacq false 9 8 0 3) ∧
    decodeWord 0x7428C380 = .ok (.scadd false 5 6 7) ∧ decodeWord 0x7608C000 = .ok (.monarm false 1 6) ∧
    decodeWord 0x7708C000 = .ok (.monarmLm false 1 6) ∧ decodeWord 0x76500581 = .ok (.monwait false 10 11) ∧
    decodeWord 0x7828C100 = .ok (.mbput false 5 6 2) ∧ decodeWord 0x78480001 = .ok (.mbget false 9) ∧
    decodeWord 0x7A090200 = .ok (.callat false 1 8 4) ∧ decodeWord 0x7A000001 = .ok (.twait false) ∧
    decodeWord 0x7A600002 = .ok (.rqclm false 12 0) :=
  ⟨rfl, rfl, rfl, rfl, rfl, rfl, rfl, rfl, rfl, rfl, rfl, rfl, rfl, rfl, rfl, rfl, rfl, rfl, rfl, rfl, rfl⟩

/-- The words of the manual's examples of scale, vector and matrix ops (R269, R271, R283, R290, R296, R302, R305, R306, R312). -/
theorem test_decode_vector :
    decodeWord 0x3C192500 = .ok (.zld 0 3 9 1 2) ∧ decodeWord 0x3C193C00 = .ok (.zld 0 3 9 7 0) ∧
    decodeWord 0x3E306200 = .ok (.zbind 6 3 4) ∧ decodeWord 0x44084180 = .ok (.vadd false 1 2 3 0) ∧
    decodeWord 0x4628C390 = .ok (.vfma false 5 6 7 1) ∧ decodeWord 0x4A108281 = .ok (.vcmpLt false 2 4 5) ∧
    decodeWord 0x4E080122 = .ok (.vquant false 1 0 2 4) ∧ decodeWord 0x54517008 = .ok (.vredAdd false 10 11 32) ∧
    decodeWord 0x56100082 = .ok (.vmrg false 2 0 1) ∧ decodeWord 0xD6180083 = .ok (.vmrgD true 3 0 1) ∧
    decodeWord 0xD6104280 = .ok (.vcx true 2 2 5) ∧ decodeWord 0x58106201 = .ok (.vdrawF false 2 3 4) ∧
    decodeWord 0x68A02180 = .ok (.mrd 20 1 0 3) ∧ decodeWord 0x68002001 = .ok (.mclr 1) :=
  ⟨rfl, rfl, rfl, rfl, rfl, rfl, rfl, rfl, rfl, rfl, rfl, rfl, rfl, rfl⟩

/-- The refusals of R48: unassigned words, and a word with the switch marker of an op no pawn may issue keeps its instruction. -/
theorem test_decode_refuses :
    decodeWord 0x7C000000 = .error .unassignedMajor ∧ decodeWord 0x00000001 = .error .unassignedWord ∧
    decodeWord 0x0A000003 = .error .unassignedWord ∧ decodeWord 0xBC192500 = .ok (.zld 0 3 9 1 2) :=
  ⟨rfl, rfl, rfl, rfl⟩

/-- The bundle of the worked encoding: br.t in C, addi with its literal, ld, and vadd with its index flag. -/
def workedBundle : BitVec 320 :=
  (0#32 ++ 0#32 ++ 0x44084180#32 ++ 0#32 ++ 0#32 ++ 0x2C391802#32 ++ 0x000186A0#32 ++ 0x1230C000#32 ++ 0x02901FFD#32 ++ 0x00010009#32)

theorem test_decode_bundle :
    decodeBundle workedBundle = .ok [.op (.brT false 2 (-3)) 0x02901FFD none false,
      .op (.addi false 6 6 0) 0x1230C000 (some 100000) false, .literal 100000, .op (.ld false 7 8 2) 0x2C391802 none false, .empty,
      .empty, .op (.vadd false 1 2 3 0) 0x44084180 none true, .empty, .empty] := rfl

/-- A bundle of a header and the words of slots C and S0. -/
def bundle2 (header c s0 : Word32) : BitVec 320 := (s0 ++ c ++ header : BitVec 96).setWidth 320

/-- Rows of the table of R48: a surrender after hold.geu, an index flag on slot C, a header without bit 0; a header that R28 allows. -/
theorem test_bundle_refused :
    badSurrender (bundle2 0x00000005 0x09000185 1) = some 0 ∧ headerOk (bundle2 0x00000401 0x09000185 0) = false ∧
    headerOk (bundle2 0x00000000 0x09000185 0) = false ∧ headerOk (bundle2 0x00000001 0x09000185 0) = true ∧
    headerOk workedBundle = true ∧ badSurrender workedBundle = none := by decide +kernel

/-! ### Ill-formed instructions -/

/-- A term for each condition on field values that WellFormed checks, which it refuses. -/
theorem test_ill_formed : ∀ i ∈ ([.loop 0 1 4096, .calli false 1 0 0, .jr false 0 0, .fadd false 1 2 3 5, .fsqrt false 1 2 5,
    .cvtFI false 1 2 7, .cvtHF false 1 2 5, .zld 0 1 2 4 4, .zst 1 2 7 1, .zbind 1 0x20 0, .zamax 1 2 7 1, .vadd false 1 2 3 5,
    .vsqrt false 1 2 6, .vfma false 1 2 3 5, .vquant false 1 2 1 0, .vquantRs false 1 2 1 0, .vcvtFI false 1 2 5, .vcvtHF false 1 2 5,
    .vcompress false 1 2 33, .vexpand false 1 2 33, .vscanAdd false 1 2 33, .vredMin false 1 2 33, .vargmax false 1 2 33,
    .mma 5 0 0 0 0, .mmaSat 1 0 0 0 1, .ldacq false 1 2 0 5, .strel false 1 2 0 5, .monclr false 5] : List Instr),
    i.wellFormed = false := by decide +kernel

/-! ### Witnesses: every op issues -/

/-- Witness of ControlTransfersComplete. -/
theorem test_ready_control_transfers : ∀ i ∈ ([
    .nop false, .br false 0, .brT false 0 0, .brF false 0 0, .loop 0 2 1, .call false 1 0, .calli false 1 2 0, .jr false 2 0,
    .holdEq 3 3, .holdNe 3 4, .holdLt 3 4, .holdGe 3 3, .holdLtu 3 4, .holdGeu 3 3, .holdEqWp 1 3, .holdNeWp 1 4, .holdLtWp 1 4,
    .holdGeWp 1 3, .holdLtuWp 1 4, .holdGeuWp 1 3, .tempo 4, .tempoAny] : List Instr),
    readyOn i = true := by decide +kernel

/-- Witness of SystemOpsComplete. -/
theorem test_ready_system_ops : ∀ i ∈ ([
    .eqw false 0 2, .eqcnt false 1 0, .trap false 2, .brk false, .exit false, .fenceCore false, .fenceClus false,
    .fenceDie false, .fencePkg false, .fenceSys false, .xfenceCore false, .xfenceClus false, .xfenceDie false, .xfencePkg false,
    .xfenceSys false, .csrr false 1 32, .csrw false 2 32, .ibar] : List Instr),
    readyOn i = true := by decide +kernel

/-- Witness of IntegerOpsComplete. -/
theorem test_ready_integer_ops : ∀ i ∈ ([
    .add false 1 2 3, .sub false 1 2 3, .and false 1 2 3, .or false 1 2 3, .xor false 1 2 3, .andn false 1 2 3, .min false 1 2 3,
    .max false 1 2 3, .minu false 1 2 3, .maxu false 1 2 3, .addw false 1 2 3, .subw false 1 2 3, .mov false 1 2,
    .addi false 1 2 0, .andi false 1 2 0, .ori false 1 2 0, .lui false 1 0, .cmpEq false 1 2 3, .cmpNe false 1 2 3,
    .cmpLt false 1 2 3, .cmpGe false 1 2 3, .cmpLtu false 1 2 3, .cmpGeu false 1 2 3, .pand false 1 2 3, .por false 1 2 3,
    .pxor false 1 2 3, .pandn false 1 2 3, .pnot false 1 2, .cmpiEq false 0 2 0, .cmpiNe false 0 2 0, .cmpiLt false 0 2 0,
    .cmpiGe false 0 2 0] : List Instr),
    readyOn i = true := by decide +kernel

/-- Witness of ShiftsMultipliesDivisionsComplete. -/
theorem test_ready_shifts_multiplies_divisions : ∀ i ∈ ([
    .shl false 1 2 3, .shr false 1 2 3, .sar false 1 2 3, .rotl false 1 2 3, .rotr false 1 2 3, .clz false 1 2, .ctz false 1 2,
    .popc false 1 2, .bswap false 1 2, .bfx false 1 2 3, .bfxu false 1 2 3, .bfi false 1 2 3, .shli false 1 2 0,
    .shri false 1 2 0, .sari false 1 2 0, .rotli false 1 2 0, .mul false 1 2 3, .mulh false 1 2 3, .mulhu false 1 2 3,
    .mulw false 1 2 3, .div false 1 2 3, .divu false 1 2 3, .rem false 1 2 3, .remu false 1 2 3, .ibw 1 2, .ibr 1 2,
    .ppack false 1, .punpk false 2, .sel false 1 2 3 0] : List Instr),
    readyOn i = true := by decide +kernel

/-- Witness of ScalarFloatComplete. -/
theorem test_ready_scalar_float : ∀ i ∈ ([
    .fadd false 1 2 3 0, .fsub false 1 2 3 0, .fmul false 1 2 3 0, .fdiv false 1 2 3 0, .fsqrt false 1 2 0, .fmin false 1 2 3,
    .fmax false 1 2 3, .fabs false 1 2, .fneg false 1 2, .fcmpEq false 1 2 3, .fcmpLt false 1 2 3, .fcmpLe false 1 2 3,
    .fcmpUn false 1 2 3, .cvtFI false 1 2 0, .cvtFU false 1 2 0, .cvtIF false 1 2 0, .cvtUF false 1 2 0, .cvtBfF false 1 2 0,
    .cvtHF false 1 2 0, .cvtFBf false 1 2, .cvtFH false 1 2] : List Instr),
    readyOn i = true := by decide +kernel

/-- Witness of LocalLoadsStoresComplete. -/
theorem test_ready_local_loads_stores : ∀ i ∈ ([
    .cwld false 1 0, .ldb false 1 2 0, .ldbu false 1 2 0, .ldh false 1 2 0, .ldhu false 1 2 0, .ldw false 1 2 0,
    .ldwu false 1 2 0, .ld false 1 2 0, .stb false 1 2 0, .sth false 1 2 0, .stw false 1 2 0, .st false 1 2 0, .vld 1 2 0,
    .vst 1 2 0, .vldh false 1 2 0, .vsth false 1 2 0, .vldb false 1 2 0] : List Instr),
    readyOn i = true := by decide +kernel

/-- Witness of TilesGathersAtomicsRemoteComplete. -/
theorem test_ready_tiles_gathers_atomics_remote : ∀ i ∈ ([
    .tld 1 2, .tldBind 1 2 1, .tst 1 2, .vgathW false 1 2 3, .vgathH false 1 2 3, .vgathB false 1 2 3, .vscatW false 1 2 3,
    .vscatH false 1 2 3, .vscatB false 1 2 3, .lmadd false 1 2 3, .lmxchg false 1 2 3, .lmcas false 1 2 3, .lmmin false 1 2 3,
    .lmmax false 1 2 3, .lmand false 1 2 3, .lmor false 1 2 3, .flrel false 1 2, .flacq false 1 2, .rld false 1 2,
    .rst false 1 2, .rvld false 1 2, .rvst false 1 2, .rqput false 2] : List Instr),
    readyOn i = true := by decide +kernel

/-- Witness of ScaleOpsComplete. -/
theorem test_ready_scale_ops : ∀ i ∈ ([
    .zld 0 1 2 0 0, .zst 1 2 0 0, .zbind 1 1 0, .zbindNone 1, .zbindw 1 1 0, .zgenZ 1 1, .zgenT 1 1, .zgenW 1 1, .zmul 1 2 3 0,
    .zadde 1 2 3 0, .zmax 1 2 3 0, .zcvt 0 1 2 0, .zfill 0 1 2 0, .zmov 1 2 0, .zamax 1 2 0 0] : List Instr),
    readyOn i = true := by decide +kernel

/-- Witness of VectorFloatComplete. -/
theorem test_ready_vector_float : ∀ i ∈ ([
    .vadd false 1 2 3 0, .vsub false 1 2 3 0, .vmul false 1 2 3 0, .vdiv false 1 2 3 0, .vmin false 1 2 3, .vmax false 1 2 3,
    .vabs false 1 2, .vneg false 1 2, .vsqrt false 1 2 0, .vfma false 1 2 3 0, .vfms false 1 2 3 0, .vfnma false 1 2 3 0] : List Instr),
    readyOn i = true := by decide +kernel

/-- Witness of VectorIntegerComplete. -/
theorem test_ready_vector_integer : ∀ i ∈ ([
    .viadd false 1 2 3, .visub false 1 2 3, .vimul false 1 2 3, .viand false 1 2 3, .vior false 1 2 3, .vixor false 1 2 3,
    .vishl false 1 2 3, .vishr false 1 2 3, .visar false 1 2 3, .vimin false 1 2 3, .vimax false 1 2 3, .viminu false 1 2 3,
    .vimaxu false 1 2 3, .vcmpEq false 1 2 3, .vcmpLt false 1 2 3, .vcmpLe false 1 2 3, .vcmpUn false 1 2 3,
    .vicmpEq false 1 2 3, .vicmpLt false 1 2 3, .vicmpLtu false 1 2 3, .vsel false 1 2 3 0, .mand false 1 2 3, .mor false 1 2 3,
    .mxor false 1 2 3, .mnot false 1 2, .mpop false 1 2, .mmovToMask false 1 2, .mmovFromMask false 1 2] : List Instr),
    readyOn i = true := by decide +kernel

/-- Witness of VectorConversionsComplete. -/
theorem test_ready_vector_conversions : ∀ i ∈ ([
    .vpack false 1 2 0, .vunpack false 1 2 0, .vquant false 1 2 3 0, .vquantRs false 1 2 3 0, .vpackRs false 1 2 0,
    .vcvtFI false 1 2 0, .vcvtIF false 1 2 0, .vcvtBfF false 1 2 0, .vcvtHF false 1 2 0, .vcvtFBf false 1 2, .vcvtFH false 1 2,
    .vnarrowI8 false 1 2, .vnarrowI4 false 1 2, .vwidenI8 false 1 2, .vwidenI4 false 1 2] : List Instr),
    readyOn i = true := by decide +kernel

/-- Witness of VectorPermutesComplete. -/
theorem test_ready_vector_permutes : ∀ i ∈ ([
    .vperm false 1 2 3, .vbcl false 1 2 3, .vbcs false 1 2, .vrot false 1 2 3, .vext false 1 2 3, .vins false 1 2 3,
    .vcompress false 1 2 0, .vexpand false 1 2 0, .vscanAdd false 1 2 0, .vscanMax false 1 2 0, .vscanIadd false 1 2 0,
    .vredAdd false 1 2 0, .vredMax false 1 2 0, .vredMin false 1 2 0, .vredIadd false 1 2 0, .vargmax false 1 2 0,
    .vcx false 1 2 3, .vcxD false 1 2 3, .vmrg false 1 2 3, .vmrgD false 1 2 3, .vdraw false 1 2 3, .vdrawF false 1 2 3,
    .vexp2 false 1 2, .vrcp false 1 2, .vrsqrt false 1 2, .vlog2 false 1 2] : List Instr),
    readyOn i = true := by decide +kernel

/-- Witness of MatrixOpsComplete. -/
theorem test_ready_matrix_ops : ∀ i ∈ ([
    .mldw 1 2 3 0, .mldwS 1 2 3 0, .mma 0 1 1 1 0, .mmaFwd 0 1 1 1 0, .mmaSat 0 1 1 1 0, .mmaFwdSat 0 1 1 1 0, .mrd 1 2 0 0,
    .mclr 2] : List Instr),
    readyOn i = true := by decide +kernel

/-- Witness of MessagesComplete. -/
theorem test_ready_messages : ∀ i ∈ ([
    .monarmLm false 0 2, .monwait false 1 3, .monclr false 0, .mbput false 1 3 3, .mbget false 1, .ringput false 3 5 1,
    .ringget false 3 5 1, .callat false 1 2 3, .twait false, .rqclm false 1 3] : List Instr),
    readyOn i = true := by decide +kernel

/-- The same where the TLB of the core holds the page at 0, readable, writable and dirty (R186). -/
def mappedState : State :=
  (pawnState 3).updCore fun c => { c with tlb := [⟨0, 0, 0, 0x10000, 0x37⟩] }

/-- The op that translates the address in x2 issues: its checks let it, the TLB holds the page for the access, and no watchpoint
covers it. -/
def readyAt (acc : Nat) (i : Instr) : Bool :=
  let s := mappedState
  (!s.ctx.checked) && s.clear (specOf i) &&
    (match s.gHit 0x1000 acc with
    | some e => (!(decide (2 ≤ acc) && decide (pteTier e.attrs.toNat = 2))) && (s.lineTrap 1 2 e).isNone &&
        ((s.translated e 0x1000).opWatch (specOf i)).isNone
    | none => false)

/-- Witness of PawnLoadsStoresComplete, PawnAtomicsComplete, MessagesComplete. -/
theorem test_ready_global : mappedState.readS 2 = 0x1000 ∧ mappedState.ea 2 0 8 = 0x1000 ∧
    (∀ i ∈ ([
    .gldb false 1 2 0, .gldbu false 1 2 0, .gldh false 1 2 0, .gldhu false 1 2 0, .gldw false 1 2 0, .gldwu false 1 2 0,
    .gld false 1 2 0, .ldacq false 1 2 1 0] : List Instr), readyAt 0 i = true) ∧
    (∀ i ∈ ([
    .gstb false 1 2 0, .gsth false 1 2 0, .gstw false 1 2 0, .gst false 1 2 0, .strel false 1 2 1 0] : List Instr), readyAt 1 i = true) ∧
    (∀ i ∈ ([
    .gaadd false 1 2 3 1, .gaswap false 1 2 3 1, .gacas false 1 2 3 1, .gamin false 1 2 3 1, .gamax false 1 2 3 1,
    .gaminu false 1 2 3 1, .gamaxu false 1 2 3 1, .gaand false 1 2 3 1, .gaor false 1 2 3 1, .gaxor false 1 2 3 1,
    .gafadd false 1 2 3, .scadd false 1 2 3, .scswap false 1 2 3, .sccas false 1 2 3, .scld false 1 2, .scst false 1 2] : List Instr),
      readyAt 2 i = true) ∧ readyAt 3 (.monarm false 0 2) = true := by decide +kernel

/-- A record of engine 0 waits for the primary. -/
def recordState : State := (primState 0).updCore fun k => { k with engQ := vset k.engQ 0 ⟨[], [7], [], false, false, []⟩ }

/-- A handler of the thread has control after a trap from user mode, with code c. -/
def inHandler (th : Thread) (c : BitVec 9) : Thread := { th with mode := 1, tcause := (0x1#8 ++ c), tpc := 0x880 }

def primHandler : State := (primState 0).updPrim fun p => { p with th := inHandler p.th 0x060 }
def pawnHandler : State := (pawnState 1).updPawn 0 fun p => { p with th := inHandler p.th 0x060 }

/-- Witness of SystemOpsComplete, SupervisorReturn and PawnTraps: eqr with a record waiting, and sret in supervisor mode after a trap
from user mode. -/
theorem test_ready_eqr_sret :
    recordState.ready (specOf (.eqr false 1 0)) = true ∧ (pawnState 1).ready (specOf (.eqr false 1 0)) = true ∧
    primHandler.th.valid = true ∧ primHandler.th.pmode = 0 ∧ primHandler.ready (specOf (.sret false)) = true ∧
    pawnHandler.th.valid = true ∧ pawnHandler.th.pmode = 0 ∧ pawnHandler.ready (specOf (.sret false)) = true := by decide +kernel

/-! ### Witnesses: reset, steps, bundles -/

/-- The outcome is a next state. -/
def isNext (o : Out) : Bool :=
  match o with
  | .next _ => true
  | _ => false

/-- The next state. -/
def after (o : Out) : State :=
  match o with
  | .next t => t
  | _ => State.reset

theorem test_isNext {o : Out} (h : isNext o = true) : o = .next (after o) := by
  cases o <;> first | rfl | cases h

/-- Witness of StepKeepsMemoryCanonical: a store of a pawn runs from memory that lists its word. -/
theorem test_canonical : (State.reset.withFetchWord 32 0x2E38182E).memCanonical = true ∧
    (State.reset.withFetchWord 32 0x2E38182E).lm ≠ [] ∧ isNext (step (State.reset.withFetchWord 32 0x2E38182E)) = true := by
  decide +kernel

/-- Witness of DecodeEncode. -/
theorem test_round_trip : (Instr.ld true 5 6 1).wellFormed = true ∧ encodeWord (.ld true 5 6 1) = some 0xAC28D801 := by decide +kernel

/-- Witness of MajorZeroWords: an empty slot, and slots whose word of major 0 is refused. -/
theorem test_major_zero_slots :
    headerSur (bundleWord (bundle2 1 0 1) 0) 0 = false ∧ bundleWord (bundle2 1 0 1) 1 = 0 ∧
    bundleWord (bundle2 1 0 1) 2 ≠ 0 ∧ wordMajor (bundleWord (bundle2 1 0 1) 2) = 0 ∧
    wordMajor (bundleWord (bundle2 1 0 0x80000000) 2) = 0 ∧ wordMajor 1 = 0 := by decide +kernel

/-- Pawn 0 about to be considered by the scan with the word first in its stream. -/
def scanState (w : Word32) : State := State.reset.placePawn w

/-- Witness of StepRunsDecodedInstruction, first and second clause: a landing that is due runs; a driver's event is lost once the host
link is closed, and heard before. -/
theorem test_due_step_runs :
    State.reset.heard .resultLanding = true ∧ (State.reset.setDevReg 0x600 3).heard (.doorbell 0 0 1) = false ∧
    State.reset.heard (.doorbell 0 0 1) = true ∧
    State.reset.core.commitOp = none ∧ (State.reset.setAgenda [({}, .resultLanding)]).agenda = [({}, .resultLanding)] ∧
    isNext (exec .resultLanding ((State.reset.setAgenda []).setCtx {})) = true := by decide +kernel

/-- Witness of its third and fourth clauses: a switch-marked no-operation resolves in the front end, an addition takes slot 1. -/
theorem test_scan_runs : (scanState 0x80000000).turn = .scan 1 0 none ∧ (scanState 0x12288001).turn = .scan 1 0 none ∧
    ((scanState 0).core.last + 1) % (scanState 0).core.cfg.nthreads = 0 ∧ (scanState 0).core.commitOp = none ∧ (scanState 0).agenda = [] ∧
    (scanState 0).dev.noSupply = false ∧ (scanState 0).barrelHalted = false ∧ 1 ≤ (scanState 0).core.cfg.nthreads ∧
    (scanState 0).inRotation 0 = true ∧ ((scanState 0).pawn 0).event = none ∧ ((scanState 0x12288001).pawn 0).buf = [0x12288001] ∧
    (scanState 0).core.iter = 0 ∧
    frontEnd (specOf (.nop true)) 0x80000000 = true ∧ frontEnd (specOf (.addi false 5 4 1)) 0x12288001 = false ∧
    (scanState 0x12288001).core.vacant.find? (fun k => decide (k ∈ (specOf (.addi false 5 4 1)).cls.pawnSlots)) = some 1 := by
  decide +kernel

theorem test_scan_words : decodeOp 0x80000000 = some (.nop true) ∧ decodeOp 0x12288001 = some (.addi false 5 4 1) := ⟨rfl, rfl⟩

theorem test_scan_checks :
    let s := (scanState 0x12288001).scanCounted 1
    let c := fun slot => ((scanState 0x12288001).pawn 0).opCtx 0 slot
    s.core.tokens ≠ some 0 ∧ ((specOf (.addi false 5 4 1)).guardPoint = true → ((scanState 0x12288001).pawn 0).th.guardPending = false) ∧
    (s.setCtx (c 15)).encodingTrap (specOf (.addi false 5 4 1)) = none ∧
    isNext (exec (.addi false 5 4 1) ((s.slotTaken 1).setCtx (c 1))) = true ∧
    (s.setCtx (c 15)).encodingTrap (specOf (.nop true)) = none ∧ isNext (exec (.nop true) (s.setCtx (c 15))) = true ∧
    (s.setCtx (c 15)).struckOp (specOf (.nop true)) = none ∧ (s.setCtx (c 15)).struckOp (specOf (.addi false 5 4 1)) = none ∧
    ((s.slotTaken 1).setCtx (c 1)).struckOp (specOf (.addi false 5 4 1)) = none ∧
    ((s.setCtx (c 1)).opWatch (specOf (.addi false 5 4 1))).isNone = true := by decide +kernel

/-- Witness of its last clause: a running pawn with an empty buffer at an address of user memory. -/
theorem test_fetch_runs :
    let s := (scanState 0x12288001).updPawn 0 fun p => { p with buf := [] }
    (s.pawn 0).wantsFetch = true ∧ s.barrelHalted = false ∧ (bankWords (s.fetchKeys 0) 4).all s.wordFree = true ∧
      ((after (exec (.pawnFetch 0) s)).pawn 0).buf = [0x12288001, 0, 0, 0] := by decide +kernel

/-- The primary about to issue a bundle that holds `addi s5, s4, 1` in S0 alone. -/
def bundleState : State := State.reset.placeBundle 1 0x12288001

set_option exponentiation.threshold 400 in
theorem test_bundle_ops : bundleState.presentStart.bundleOps opTable =
    .ok [⟨1, .addi false 5 4 1, 0x12288001, none, false⟩] := rfl

/-- Witness of BundleRunsDecodedOps. -/
theorem test_bundle_issues :
    let s := bundleState
    let t := s.presentStart
    let l : List (SlotIn Instr) := [⟨1, .addi false 5 4 1, 0x12288001, none, false⟩]
    s.core.commitOp = none ∧ s.agenda = [] ∧ s.dev.noSupply = false ∧ s.turn = .present ∧ s.core.cfg.running = true ∧
      s.prim.exited = false ∧ s.prim.frzClus = false ∧ s.prim.empties = 0 ∧ t.primEvent (t.atGuardPoint opTable) = none ∧
      t.breakpoint = none ∧ t.lmBad t.bundleBanks = false ∧ (t.bundleTrap opTable l).isNone = true ∧ (t.bundleWatch opTable l).isNone = true ∧
      (t.bundleStruck opTable l).isNone = true ∧
      s.prim.th.mode = 0 ∧ isNext (runSlots opTable l (t.spendToken.setVacant (t.advertised t.bundle))) = true ∧
      ((after (runSlots opTable l (t.spendToken.setVacant (t.advertised t.bundle)))).pushTrap t.prim.pc).isNone = true ∧
      isNext (exec (.addi false 5 4 1) (t.setCtx { agent := .primary, slot := 1, pc := t.prim.pc, word := 0x12288001, checked := true })) =
        true ∧
      s.fetchRefused = false ∧ s.prim.past.head? = some s.lm := by decide +kernel

/-- The bundle was read in the tick before: the last clause's age of the window. -/
theorem test_bundle_window : bundleState.prim.fetchAge = 1 := by decide +kernel

/-- Witness of EncodingFaultsIssueNothing: rows of R48's table, with their codes. -/
theorem test_encoding_traps :
    let prim := fun (slot : Nat) => primState slot
    let pawn := (pawnState 1).updCore fun c => { c with cfg := { c.cfg with cap := 32 } }
    pawn.isPawn = true ∧ (prim 8).ctx.slot < 9 ∧ pawn.ctx.checked = false ∧
      ((pawn.encodingTrap (specOf (.add false 40 1 2))).map fun r => r.code) = some 0x01E ∧
      ((pawn.encodingTrap (specOf (.zld 0 3 9 1 2))).map fun r => r.code) = some 0x00E ∧
      (((prim 7).encodingTrap (specOf (.vadd false 58 1 2 0))).map fun r => r.code) = some 0x01C ∧
      (((prim 8).encodingTrap (specOf (.vadd false 1 2 3 0))).map fun r => r.code) = some 0x00D := by decide +kernel

/-! ### One step, with results from the manual or worked out by hand -/

/-- The effects that an op of the primary leaves in flight. -/
def primEffects (i : Instr) (s : State) : List Eff := (after (exec i s)).prim.fl.pend.map fun e => e.eff

/-- Register d of pawn 0 after the op has issued and landed. -/
def pawnResult (i : Instr) (d : Field6) (s : State) : Word64 :=
  (after (exec .resultLanding ((after (exec i s)).setCtx (agentCtx (.pawn 0))))).pawnX 0 d

/-- Pawn 0 with values in x2 and x3. -/
def pawnWith (a b : Word64) : State := (pawnState 1).updPawn 0 fun p => { p with x := vset (vset p.x 2 a) 3 b }

/-- The example of R97: lui x5, 12, then the sign of an immediate. -/
theorem test_lui : pawnResult (.lui false 5 12) 5 (pawnState 1) = 98304 ∧ pawnResult (.addi false 5 4 (-6)) 5 (pawnState 1) = -1 := by
  decide +kernel

/-- Addition wraps; addw keeps the low word, sign-extended; x0 stays 0 (R79, R95). -/
theorem test_add : pawnResult (.add false 1 2 3) 1 (pawnWith 0xFFFFFFFFFFFFFFFF 2) = 1 ∧
    pawnResult (.addw false 1 2 3) 1 (pawnWith 0x7FFFFFFF 1) = 0xFFFFFFFF80000000 ∧ pawnResult (.add false 0 2 3) 0 (pawnWith 3 4) = 0 := by
  decide +kernel

/-- A source that is the destination, and the order of operands (R95, R98, R100). -/
theorem test_order : pawnResult (.sub false 2 2 3) 2 (pawnWith 10 3) = 7 ∧ pawnResult (.andn false 1 2 3) 1 (pawnWith 0xFF 0x0F) = 0xF0 ∧
    pawnResult (.sar false 1 2 3) 1 (pawnWith 0x8000000000000000 67) = 0xF000000000000000 ∧
    pawnResult (.shr false 1 2 3) 1 (pawnWith 0x8000000000000000 67) = 0x1000000000000000 := by decide +kernel

/-- Signed and unsigned minima differ; leading zeros of 0 (R95, R101). -/
theorem test_min_clz : pawnResult (.min false 1 2 3) 1 (pawnWith 0xFFFFFFFFFFFFFFFF 1) = 0xFFFFFFFFFFFFFFFF ∧
    pawnResult (.minu false 1 2 3) 1 (pawnWith 0xFFFFFFFFFFFFFFFF 1) = 1 ∧ pawnResult (.clz false 1 2) 1 (pawnWith 0 0) = 64 ∧
    pawnResult (.bswap false 1 2) 1 (pawnWith 0x0102030405060708 0) = 0x0807060504030201 := by decide +kernel

/-- The primary with values in s2 and s3, about to issue from S0. -/
def wideState (a b : Word64) : State := (primState 1).updPrim fun p => { p with s := vset (vset p.s 2 a) 3 b }

/-- High halves of products, and the corner of division (R102). -/
theorem test_products : primEffects (.mulh false 1 2 3) (wideState 0xFFFFFFFFFFFFFFFF 2) = [.reg (.s 1) 0xFFFFFFFFFFFFFFFF] ∧
    primEffects (.mulhu false 1 2 3) (wideState 0xFFFFFFFFFFFFFFFF 2) = [.reg (.s 1) 1] ∧
    divS 0xFFFFFFFFFFFFFFF9 2 = 0xFFFFFFFFFFFFFFFD ∧ remS 0xFFFFFFFFFFFFFFF9 2 = 0xFFFFFFFFFFFFFFFF := by decide +kernel

/-- The example of R81: call s1, sub at 0x4000 leaves 0x4050 in s1 and goes to 0x4FA0 after the delay bundle. -/
theorem test_call :
    let s := (primState 0).setCtx { agent := .primary, slot := 0, pc := 0x4000 }
    primEffects (.call false 1 100) s = [.reg (.s 1) 0x4050] ∧ (after (exec (.call false 1 100) s)).prim.xfer = some 0x4FA0 := by
  decide +kernel

/-- Lanes 0 to 3 of a vector register of the primary. -/
def lanes4 (a b c d : Nat) : VecWord := BitVec.ofNat 2048 (packElems 32 [a, b, c, d])

def vecState (x y z : VecWord) : State := (primState 6).updPrim fun p => { p with v := vset (vset (vset p.v 5 x) 6 y) 7 z }

/-- The result of a vector op of the primary, by lane, and the flags that it raises. -/
def vecResult (i : Instr) (s : State) : List Nat × BitVec 6 :=
  (primEffects i s).foldl (fun r e => match e with
    | .reg _ v => ((lanesOf 64 (v.setWidth 2048)).take 4, r.2)
    | .flags f => (r.1, r.2 ||| f)
    | _ => r) ([], 0)

/-- The example of R290: a fused product of 1 + 2^-23 and 1 - 2^-23 less 1 is -2^-46 with no flag in its lane. -/
theorem test_vfma : (vecResult (.vfma false 5 6 7 1) (vecState (lanes4 0xBF800000 0 0 0) (lanes4 0x3F800001 0 0 0) (lanes4 0x3F7FFFFE 0 0 0))) =
    ([0xA8800000, 0, 0, 0], 0) := by decide +kernel

/-- The example of R302: 2^24 + 1 + 1 in lane order stays 2^24 in every lane, with NX. -/
theorem test_vred : vecResult (.vredAdd false 5 6 32) (vecState 0 (lanes4 0x4B800000 0x3F800000 0x3F800000 0) 0) =
    ([0x4B800000, 0x4B800000, 0x4B800000, 0x4B800000], 0x10) := by decide +kernel

/-- The example of R296: a block of a pawn quantised into E2M1 with an E8M0 scale, with NX and UF. -/
theorem test_vquant :
    let y0 := BitVec.ofNat 1024 (packElems 32 ([0x41400000, 0xC0400000, 0x40A00000, 0x3F400000] ++ List.replicate 28 0x3F800000))
    let s := ((pawnState 6).updCore fun k => { k with fd := vset k.fd 4 0x20115 }).updPawn 0 fun p => { p with y := vset p.y 0 y0 }
    ((after (exec (.vquant false 1 0 2 4) s)).pawn 0).pend.map (fun e => e.eff) =
      [.reg (.v 1) (BitVec.ofNat 4096 (packElems 32 [0x111114B7, 0x11111111, 0x11111111, 0x11111111])), .flags 0x18, .reg (.v 2) 0x80] := by
  decide +kernel

/-- Local-memory atomics return the old value; compare and swap leaves a word that differs (R154). -/
theorem test_lm_atomics : LmOp.add.apply 5 7 0 = some 12 ∧ LmOp.cas.apply 5 7 4 = none ∧ LmOp.cas.apply 5 7 5 = some 7 ∧
    LmOp.min.apply 0xFFFFFFFFFFFFFFFF 1 0 = some 0xFFFFFFFFFFFFFFFF := by decide +kernel

/-! ### Witnesses: traps and returns -/

/-- The primary with a handler, in user mode. -/
def primUser : State := (primState 0).updPrim fun p => { p with th := { p.th with tvec := 0x900 } }

/-- A pawn with a handler, in user mode. -/
def pawnUser : State := (pawnState 1).updPawn 0 fun p => { p with th := { p.th with tvec := 0x900 } }

/-- Witness of PrimaryTrapEntry: a handler; a trap in supervisor mode; no handler; and a transfer pending at the trap. -/
theorem test_trap_entry_states :
    let r : TrapRec := ⟨0x1F0, 0x800, 7, 15⟩
    r.isCheck = false ∧ primUser.ctx.agent = .primary ∧ primUser.prim.th.mode = 0 ∧ primUser.prim.th.tvec ≠ 0 ∧
      primHandler.prim.th.mode ≠ 0 ∧ primHandler.core.saving = false ∧ primHandler.core.preempt = none ∧ (primState 0).prim.th.mode = 0 ∧
      (primState 0).prim.th.tvec = 0 ∧ (primUser.trap r).prim.pc = 0x900 ∧ (primUser.trap r).prim.th.tcause = 0x1E3F0 := by
  decide +kernel

/-- Witness of PawnTraps: a pawn with a handler; one that waits to enter it; one that has entries in flight; one in its handler. -/
theorem test_pawn_trap_states :
    let r : TrapRec := ⟨0x1F6, 0x800, 7, 15⟩
    let wait := pawnUser.updPawn 0 fun p => { p with status := .trapping r 0x804 }
    let busy := wait.updPawn 0 fun p => { p with pushes := [(0, 0, [1])] }
    pawnUser.ctx.agent = .pawn 0 ∧ (pawnUser.pawn 0).th.mode = 0 ∧ (pawnUser.pawn 0).th.tvec ≠ 0 ∧ pawnUser.core.cfg.det = false ∧
      pawnUser.ctx.commit = false ∧ pawnUser.breaksOn = false ∧ pawnUser.ready (specOf (.trap false 2)) = true ∧
      pawnUser.ready (specOf (.brk false)) = true ∧ (wait.pawn 0).status = .trapping r 0x804 ∧ wait.pawnQuiet 0 = true ∧
      (busy.pawn 0).status = .trapping r 0x804 ∧ busy.pawnQuiet 0 = false ∧ (pawnHandler.pawn 0).status = .running ∧
      pawnHandler.engParked 0 = false ∧ (pawnHandler.pawn 0).th.pmode = 0 ∧ pawnHandler.core.cfg.det = false := by decide +kernel

/-- Witness of SupervisorReturn: sret in a handler (test_ready_eqr_sret), with and without a transfer pending, and the end of a
return, with and without a last supervisor write that lands in that step. -/
theorem test_return_states :
    let back := (primState 0).updPrim fun p => { p with resuming := true, empties := 0, flUser := some Flight.empty }
    primHandler.prim.th.delay = false ∧
      (primHandler.updPrim fun p => { p with th := { p.th with tcause := 0x01260 } }).prim.th.delay = true ∧
      back.ctx.agent = .primary ∧ back.prim.resuming = true ∧ back.prim.empties = 0 ∧ back.prim.flUser = some Flight.empty ∧
      back.prim.fl.pend = [] ∧ back.core.pushing = none ∧ back.tracing 7 = false ∧ back.core.struck = [] ∧ back.badLm = [] ∧
      (let last : PEntry := ⟨1, 2, 1, 1, 0x800, true, .reg (.s 59) 5, false⟩
       let s := back.updPrim fun p => { p with fl := { p.fl with pend := [last] } }
       s.prim.fl.pend = [last] ∧ last.count = 1 ∧ last.eff = .reg (.s 59) 5 ∧ s.prim.resuming = true ∧ isNext (exec .resultLanding s) = true) := by
  decide +kernel

/-- The primary in supervisor mode with TCAUSE c. -/
def supState (c : BitVec 17) : State := (primState 0).updPrim fun p => { p with th := { p.th with mode := 1, tcause := c } }

/-- Witness of PrivilegeTraps, at the ends of each range. -/
theorem test_privilege_user :
    (primState 0).userMode = true ∧ (primState 0).ctx.checked = false ∧ (primState 0).isPawn = false ∧ (primState 0).ctx.slot = 0 ∧
      (primState 0).encodingTrap (specOf (.csrr false 1 0x030)) = none ∧ (primState 0).encodingTrap (specOf (.csrr false 1 0x03A)) = none ∧
      (primState 0).encodingTrap (specOf (.csrw false 2 0x030)) = none ∧ (primState 0).encodingTrap (specOf (.csrw false 2 0x03A)) = none ∧
      (primState 0).encodingTrap (specOf (.csrw false 2 0x0C1)) = none ∧ (primState 0).encodingTrap (specOf (.sret false)) = none := by
  decide +kernel

theorem test_privilege_supervisor :
    (supState 0).userMode = false ∧ (supState 0).encodingTrap (specOf (.sret false)) = none ∧ (supState 0).th.valid = false ∧
      (supState 0x00600).userMode = false ∧ (supState 0x00600).encodingTrap (specOf (.sret false)) = none ∧
      (supState 0x00600).th.valid = true ∧ (supState 0x00600).th.pmode ≠ 0 := by decide +kernel

/-- A lock of the bytes 0x1000 to 0x10FF of local memory against all, and of the page at 0x1000 of global memory (R180). -/
def lockState : State :=
  (pawnState 3).updCore fun k => { k with locks := [⟨0, true, 0, 0x1000, 0x10FF, true, none, none, false⟩,
    ⟨0, false, 0, 0x1000, 0x10FF, true, none, none, false⟩] }

/-- Witness of LocalAccessTraps: every form meets a lock at the address in x2; and each clause of the order of checks at the ends of
its range, one address for each. -/
theorem test_local_traps :
    (∀ p ∈ ([(.ldb false 1 2 0, 1), (.ldbu false 1 2 0, 1), (.ldh false 1 2 0, 2), (.ldhu false 1 2 0, 2), (.ldw false 1 2 0, 4),
        (.ldwu false 1 2 0, 4), (.ld false 1 2 0, 8)] : List (Instr × Nat)),
      lockState.encodingTrap (specOf p.1) = none ∧ (lockState.lmCheck (lockState.ea 2 0 p.2) p.2 p.2 false).isSome = true) ∧
    (∀ p ∈ ([(.stb false 1 2 0, 1), (.sth false 1 2 0, 2), (.stw false 1 2 0, 4), (.st false 1 2 0, 8)] : List (Instr × Nat)),
      lockState.encodingTrap (specOf p.1) = none ∧ (lockState.lmCheck (lockState.ea 2 0 p.2) p.2 p.2 true).isSome = true) ∧
    (let s := (primState 3).updCore fun k => { k with locks := lockState.core.locks }
     ∀ p ∈ ([(.vld 1 2 0, 4, false), (.vst 1 2 0, 4, true), (.vldh false 1 2 0, 2, false), (.vsth false 1 2 0, 2, true),
        (.vldb false 1 2 0, 1, false)] : List (Instr × Nat × Bool)),
      s.encodingTrap (specOf p.1) = none ∧ (s.lmCheck (s.ea 2 0 8) (s.lanes * p.2.1) 8 p.2.2).isSome = true) ∧
    (let code := fun (ea : Word64) (write : Bool) => ((pawnState 3).lmCheck ea 8 8 write).map fun r => r.code
     code 0x1FFFFC false = some 0x08E ∧ code 0x1004 false = some 0x08E ∧ code 0x200000 true = some 0x08E ∧
      code 0x1F0000 false = some 0x0B6 ∧ code 0x1EFFF8 true = none ∧ code 0x78 true = some 0x096 ∧ code 0x80 true = none ∧
      code 0 false = none) ∧
    (lockState.lmCheck 0x10F8 8 8 false).isSome = true ∧ lockState.lmCheck 0x1100 8 8 true = none := by decide +kernel

/-- The pawn with an address in x2. -/
def pawnAt (x : Word64) : State := (pawnState 3).updPawn 0 fun p => { p with x := vset p.x 2 x }

/-- Witness of GlobalAddressTraps: an address above bit 55, a misaligned one, and a locked one. -/
theorem test_global_traps :
    ∀ p ∈ ([(.gldb false 1 2 0, 1, false), (.gldbu false 1 2 0, 1, false), (.gldh false 1 2 0, 2, false), (.gldhu false 1 2 0, 2, false),
        (.gldw false 1 2 0, 4, false), (.gldwu false 1 2 0, 4, false), (.gld false 1 2 0, 8, false), (.gstb false 1 2 0, 1, true),
        (.gsth false 1 2 0, 2, true), (.gstw false 1 2 0, 4, true), (.gst false 1 2 0, 8, true)] : List (Instr × Nat × Bool)),
      (∀ s ∈ [pawnAt 0x100000000000000, pawnAt 0xFFFFFFFFFFFFF1, lockState], s.encodingTrap (specOf p.1) = none ∧
        (p.2.2 = true → s.stackCheck 2 (s.ea 2 0 p.2.1) = none)) ∧
      bits ((pawnAt 0x100000000000000).ea 2 0 p.2.1).toNat 56 8 ≠ 0 ∧
      bits ((pawnAt 0xFFFFFFFFFFFFF1).ea 2 0 p.2.1).toNat 56 8 = 0 ∧
      (p.2.1 ≠ 1 → ((pawnAt 0xFFFFFFFFFFFFF1).ea 2 0 p.2.1).toNat % p.2.1 ≠ 0) ∧
      bits (lockState.ea 2 0 p.2.1).toNat 56 8 = 0 ∧ (lockState.ea 2 0 p.2.1).toNat % p.2.1 = 0 ∧
      lockState.globalLocked (lockState.ea 2 0 p.2.1).toNat p.2.1 p.2.2 = true := by decide +kernel

/-! ### Witnesses: division, ports, holds, flags, landings -/

/-- The division trap is enabled (R102, R105). -/
def divState (s : State) : State := s.updCore fun k => { k with cfg := { k.cfg with trapen := 1 } }

/-- Witness of DivisionEdgeCases: ops that run (test_ready_shifts_multiplies_divisions); a zero divisor in s3 with the trap
enabled, in S0, S1 and a pawn; and a nonzero one in s4. -/
theorem test_division_states :
    (∀ i ∈ ([.div false 1 2 3, .divu false 1 2 3, .rem false 1 2 3, .remu false 1 2 3] : List Instr),
      (∀ s ∈ [divState (primState 1), divState (primState 2), divState (pawnState 1)], s.ctx.checked = false ∧
        s.encodingTrap (specOf i) = none ∧ bit s.core.cfg.trapen.toNat 0 = true ∧ s.readS 3 = 0 ∧ s.readS 4 ≠ 0) ∧
      isNext (exec i (primState 1)) = true) ∧
    (primState 2).ctx.slot ∈ [1, 2] ∧ (primState 1).ctx.slot < 9 := by decide +kernel

/-- A bundle of `div s1, s4, s0` in S0 with the trap enabled. -/
def divBundle : State := divState (State.reset.placeBundle 1 0x22088004)

set_option exponentiation.threshold 400 in
/-- The bundle's checks end in the trap of its division (R46, R102, R396). -/
theorem test_division_bundle : divBundle.bundleOps opTable = .ok [⟨1, .div false 1 4 0, 0x22088004, none, false⟩] := rfl

theorem test_division_trap :
    (divBundle.bundleTrap opTable [⟨1, .div false 1 4 0, 0x22088004, none, false⟩]).map (fun r => r.1.code) = some 0x079 := by decide +kernel

theorem test_division_word : decodeOp 0x22088004 = some (.div false 1 4 0) := rfl

/-- The primary with q0 unrouted, too far, far, and near with a send pending; and a far source with nothing received. -/
def portState (route : Word64) (phv : Bool) (pend : List PEntry) : State :=
  (primState 1).updPrim fun p => { p with route := Vector.replicate 8 route, phv := phv, fl := { p.fl with pend := pend } }

/-- Witness of PortFieldTraps. -/
theorem test_port_states :
    let send : PEntry := ⟨1, 0, 0, 0, 0, false, .reg (.sport 0 0) 0, false⟩
    let none3 := portState 0x00C0000000000000 true []
    let deep := portState 0x0042010000000000 true []
    let far := portState 0x0041000000000000 false []
    let near := portState 0 true [send]
    let listens := portState 0x80000000 false []
    (∀ s ∈ [none3, deep, far, near], s.encodingTrap (specOf (.mov false 60 2)) = none ∧ s.ctx.checked = false) ∧
      (∀ s ∈ [near, listens], s.encodingTrap (specOf (.mov false 1 60)) = none) ∧
      routePath (none3.routeOf false 0) = 3 ∧
      routePath (deep.routeOf false 0) = 1 ∧ routeSpan (deep.routeOf false 0) = 1 ∧ routeHops (deep.routeOf false 0) = 2 ∧
      routePath (far.routeOf false 0) = 1 ∧ routeSpan (far.routeOf false 0) = 0 ∧ far.prim.phv = false ∧
      routePath (near.routeOf false 0) = 0 ∧ near.sendPending false 0 1 = true ∧ near.fresh false 0 = false ∧
      routeFar (near.routeOf false 0) = false ∧ routeFar (listens.routeOf false 0) = true ∧ listens.prim.phv = false := by decide +kernel

/-- Witness of HoldWaits: each hold with an operand pair that fails it. -/
theorem test_hold_states :
    (primState 0).holdCheck 3 = none ∧ (primState 0).ctx.checked = false ∧
    (∀ p ∈ ([(.holdEq 3 4, .eq, 4), (.holdNe 3 3, .ne, 3), (.holdLt 3 3, .lt, 3), (.holdGe 3 4, .ge, 4), (.holdLtu 3 3, .ltu, 3),
        (.holdGeu 3 4, .geu, 4)] : List (Instr × HoldCmp × Field6)),
      (primState 0).encodingTrap (specOf p.1) = none ∧
      p.2.1.holds ((primState 0).watched 3) ((primState 0).readS p.2.2) = false) ∧
    (∀ p ∈ ([(.holdEqWp 1 4, .eq, 4), (.holdNeWp 1 3, .ne, 3), (.holdLtWp 1 3, .lt, 3), (.holdGeWp 1 4, .ge, 4), (.holdLtuWp 1 3, .ltu, 3),
        (.holdGeuWp 1 4, .geu, 4)] : List (Instr × HoldCmp × Field6)),
      (primState 0).encodingTrap (specOf p.1) = none ∧
      p.2.1.holds ((vget (primState 0).core.wptr 1 0).setWidth 64) ((primState 0).readS p.2.2) = false) := by decide +kernel

/-- An entry of an op with an effect that lands now. -/
def entryOf (op : Nat) (e : Eff) : PEntry := ⟨0, op, 1, 1, 0x800, false, e, false⟩

/-- Witness of FlagsLand: flags with DZ and OF while OF alone is enabled, of an op in user and in supervisor mode; and with a trap that
is pending already. -/
theorem test_flag_states :
    let s := (primState 0).updCore fun k => { k with cfg := { k.cfg with trapen := 0x8 } }
    (entryOf 1 (.csr 0x020 0x3F)).eff = .csr 0x020 0x3F ∧ (entryOf 2 (.flags 0x6)).eff = .flags 0x6 ∧ s.ctx.agent = .primary ∧
      (enabledFlags s.core.cfg.trapen 0x6).getLsbD 2 = true ∧ (enabledFlags s.core.cfg.trapen 0x6).getLsbD 1 = false ∧
      (enabledFlags s.core.cfg.trapen 0x6).getLsbD 0 = false ∧ s.th.mode = 0 ∧ s.th.flagTrap = none ∧
      ((s.landAll [entryOf 2 (.flags 0x6)]).th.flagTrap.map fun r => r.code) = some 0x051 ∧
      ({ entryOf 2 (.flags 0x6) with sup := true } : PEntry).sup = true ∧ enabledFlags 0x8 0x1 = 0 ∧
      (let old : TrapRec := ⟨0x041, 0x7D8, 0, 1⟩
       let u := s.updTh fun t => { t with flagTrap := some old }
       u.ctx.agent = .primary ∧ u.th.flagTrap = some old ∧ (u.landAll [entryOf 2 (.flags 0x6)]).th.flagTrap = some old) := by decide +kernel

/-- Witness of LandingOrder: the later op's value stands in the last register of each file whichever entry is listed first. -/
theorem test_landing_order :
    let e1 := entryOf 1 (.reg (.s 59) 5)
    let e2 := entryOf 2 (.reg (.s 59) 9)
    e1.op < e2.op ∧ vget ((primState 0).landAll (sortEntries [e2, e1])).prim.s 59 0 = 9 ∧
      ((pawnState 1).landAll (sortEntries [entryOf 2 (.reg (.s 63) 9), entryOf 1 (.reg (.s 63) 5)])).pawnX 0 63 = 9 ∧
      (entryOf 1 (.reg (.v 57) 5)).op < (entryOf 2 (.reg (.v 57) 9)).op ∧
      (let p := fun a b => (primState 0).landAll (sortEntries [entryOf 2 b, entryOf 1 a])
       let q := fun a b => ((pawnState 1).landAll (sortEntries [entryOf 2 b, entryOf 1 a])).pawn 0
       vget (p (.reg (.b 15) 0) (.reg (.b 15) 1)).prim.b 15 false = true ∧ vget (p (.reg (.m 7) 5) (.reg (.m 7) 9)).prim.m 7 0 = 9 ∧
        vget (p (.reg (.ib 3) 5) (.reg (.ib 3) 9)).prim.ib 3 0 = 9 ∧ vget (p (.mx 5) (.mx 9)).prim.v 56 0 = 9 ∧
        vget (q (.reg (.v 7) 5) (.reg (.v 7) 9)).y 7 0 = 9 ∧ vget (q (.reg (.b 7) 0) (.reg (.b 7) 1)).b 7 false = true ∧
        vget (q (.reg (.m 3) 5) (.reg (.m 3) 9)).m 3 0 = 9 ∧ vget (p (.acc 7 5 1) (.acc 7 9 0)).core.acc 7 0 = 9 ∧
        (vget (p (.bindTile 15 none) (.bindTile 15 (some (31, 3)))).core.t 15 ⟨0, Tag.unbound⟩).tag = (primState 0).bindTag 31 3 ∧
        (vget (p (.bindSlot 31 1 2) (.bindSlot 31 30 3)).core.w 31 WSlot.unloaded).tag = (primState 0).bindTag 30 3) := by decide +kernel

/-- Witness of ScaleRegisterWrites at the last entries of the last register, for a tile bound to it and one that is not; and after
the last generation. -/
theorem test_scale_states :
    let s := (primState 5).updCore fun c => { c with z := vset c.z 31 ⟨0, false, 0xFFFFFFFF⟩, t := vset c.t 2 ⟨0, ⟨true, 31, 0, 0xFFFFFFFF⟩⟩ }
    31 < 32 ∧ 448 + 64 ≤ 512 ∧ (s.zreg 31).gen = 0xFFFFFFFF ∧ ((s.landZ 31 448 64 true true 0).zreg 31).gen = 1 ∧
      (entryOf 1 (.reg (.z 31 448 64 true true) 0)).zDst = some 31 ∧
      (vget s.core.t 2 ⟨0, Tag.unbound⟩).tag.bound = true ∧ (vget s.core.t 2 ⟨0, Tag.unbound⟩).tag.z = 31 ∧
      (vget s.core.t 1 ⟨0, Tag.unbound⟩).tag.z ≠ 31 ∧
      (let u := s.updCore fun c => { c with w := vset c.w 31 { WSlot.unloaded with tag := ⟨true, 31, 0, 0xFFFFFFFF⟩ } }
       (vget u.core.w 31 WSlot.unloaded).tag.bound = true ∧ (vget u.core.w 31 WSlot.unloaded).tag.z = 31 ∧
        (vget u.core.w 30 WSlot.unloaded).tag.bound = false ∧ (vget (u.landZ 31 448 64 true true 0).core.w 31 WSlot.unloaded).tag.gen = 1 ∧
        (vget (u.landZ 31 448 64 true false 0).core.w 31 WSlot.unloaded).tag.gen = 0) := by decide +kernel

/-- Witness of ControlRegisters, StoresWriteTheirBytes and the frames: states of each issuer, whose stores issue. -/
theorem test_store_states :
    (primState 3).lm.wf = true ∧ (pawnState 3).lm.wf = true ∧ (primState 3).ctx.agent = .primary ∧ (pawnState 3).ctx.agent = .pawn 0 ∧
    (pawnState 3).core.cfg.det = false ∧
    (∀ i ∈ ([.stb false 4 2 0, .sth false 4 2 0, .stw false 4 2 0, .st false 4 2 0, .vsth false 1 2 0] : List Instr),
      isNext (exec i (primState 3)) = true ∧ isNext (exec i (pawnState 3)) = true ∧ (primState 3).ready (specOf i) = true) ∧
    isNext (exec (.vst 1 2 0) (primState 3)) = true ∧
    (∀ a ∈ [0x1000], 0xFFF < a ∨ a + 8 ≤ 0xFFF) ∧
    (let w : Waiting := ⟨2, 1, .write [0x1000] 8 [7], false, false, [], false⟩
     (pawnState 3).buffers w = false ∧ ((pawnState 3).updCore fun k => { k with cfg := { k.cfg with det := true } }).buffers w = true) := by
  decide +kernel

/-- ControlRegisters on the routes and TSTAT: a route to the own core has PATH 0, and a write of TSTAT clears EXC where bit 2 is 1 (R222, R224). -/
theorem test_route_tstat :
    let s := (primState 0).updPrim fun p => { p with exc := true }
    ((s.csrWrite 0xFF 0xFFFFFFFFFFFFFFFF).csrRead 0xFF).extractLsb' 0 48 = 0x3F00FFE00003#48 ∧ (s.csrWrite 0xF8 0x80000002).csrRead 0xF9 = s.csrRead 0xF9 ∧
      ((s.csrWrite 0xF3 4).csrRead 0xF3).getLsbD 2 = false ∧ ((s.csrWrite 0xF3 3).csrRead 0xF3).getLsbD 2 = true := by decide +kernel

/-- Witness of DataFrame for the ops that may change more than their results: mbget, eqr and sret (test_ready_messages, test_ready_eqr_sret), brk with
breaks off and on, rqput with room and without, eqw. -/
theorem test_data_frame_states :
    let on := (primState 0).setDevReg ((primState 0).dbgOff 0) 0x40001
    let room := (pawnState 2).updDie fun d => { d with rowq := [] }
    (primState 0).ready (specOf (.brk false)) = true ∧ (primState 0).breaksOn = false ∧ on.ready (specOf (.brk false)) = true ∧ on.breaksOn = true ∧ on.dbgRoute = false ∧
      1024 ≤ (room.updDie fun d => { d with rowq := List.replicate 1024 (0, 0) }).die.rowq.length ∧
      (room.updDie fun d => { d with rowq := List.replicate 1024 (0, 0) }).ready (specOf (.rqput false 2)) = true ∧
      (primState 0).ready (specOf (.eqw false 0 2)) = true ∧ (pawnState 1).ready (specOf (.eqw false 0 2)) = true ∧
      room.ready (specOf (.rqput false 2)) = true ∧ room.die.rowq.length < 1024 := by decide +kernel

/-- A fetch-and-add of a pawn is next at its home: 7 to the doubleword at 0x10008 of device memory, which holds 10. -/
def atomicState : State :=
  ((((pawnState 3).updPawn 0 fun p =>
    { p with reqs := [⟨3, .atomic 0 8 7 0, .s 1, .discard, 0x1008, 0x10008, 0, none, 0, 0, true, 0, 0, 0, false, 0⟩] }).setPm (memWrite [] 0x10008 8 10)).updDev
      fun d => { d with regs := assocSet d.regs 0x300 4, pact := [⟨0, 0, 1, 2⟩] })

/-- Witness of AtomicFrame; and the sum and reply of the atomic function (R193). -/
theorem test_atomic_home :
    (atomicState.firstReq 0 (fun r => r.kind.isAtomic)).isSome = true ∧ atomicState.pm.wf = true ∧
      atomicState.pmBad 0x10008 8 = false ∧ atomicState.cacheLine (0x10008 / 64) = none ∧ atomicState.dev.pact = [⟨0, 0, 1, 2⟩] ∧
      (∀ e ∈ atomicState.dev.pact, e.count + 1 < bits (atomicState.devReg 0x300) 0 16) ∧ 2 ≤ bits (atomicState.devReg 0x300) 0 16 ∧ memRead atomicState.pm 0x10008 8 = 10 ∧ gaNew 0 64 10 7 0 = some 17 ∧
      gaReply 0 8 10 = 10 ∧ gaNew 2 64 10 7 3 = none := by decide +kernel

/-- Witness of PawnScalarResults and ImmediateCompares: a pawn with nothing in flight that may issue (test_ready_integer_ops). -/
theorem test_pawn_states :
    (pawnState 1).ctx.agent = .pawn 0 ∧ (pawnState 1).core.cfg.det = false ∧ (pawnState 1).ctx.commit = false ∧
      ((pawnState 1).pawn 0).pend = [] ∧ (pawnState 1).core.struck = [] ∧ (pawnState 1).ctx.checked = false ∧ (8 : BitVec 4).getLsbD 3 = true ∧
      (pawnState 1).ready (specOf (.add false 1 2 4)) = true := by decide +kernel

/-! ### Witnesses: steps of other agents -/

/-- A request of pawn 0 on its way. -/
def reqState (k : GKind) (done : Option (Wide × Bool)) (age : Nat) : State :=
  (pawnState 3).updPawn 0 fun p => { p with reqs := [⟨3, k, .s 1, .b 1, 0x1000, 0x10000, 0, done, 0, age, true, 0, 0, 0, false, 0⟩] }

/-- Pawn 0 with a status. -/
def statusState (st : PStatus) : State := (pawnState 3).updPawn 0 fun p => { p with status := st }

/-- A remote access of the primary to a second core of its cluster. -/
def remoteOf (write performed : Bool) : Remote := ⟨5, .primary, 1, 3, 0x201000, write, 8, 0, performed, false, false⟩

def remoteState (r : Remote) : State := (primState 3).updCore fun k => { k with remotes := [r] }

/-- The chunk of pawn 0 has ended in a deterministic launch whose order stands at slot 0. -/
def moveState (stale : Bool) : State :=
  ((pawnState 1).updCore fun k => { k with cfg := { k.cfg with det := true }, moveNext := 0, moveOpen := false }).updPawn 0 fun p =>
    { p with chunk := { p.chunk with ended := true, stale := stale, closing := none } }

def partState : State :=
  ((primState 0).updPrim fun p => { p with exited := true }).setPawns (Vector.replicate 16 Pawn.initial)

/-- A store of one word, and a scatter of two words that share a bank. -/
def waitingAccess : Waiting := ⟨2, 1, .write [0x1000] 8 [7], false, false, [], false⟩
def waitingTwo : Waiting := ⟨2, 1, .write [0x1000, 0x1200] 8 [7, 8], false, false, [], false⟩

def waitState (w : Waiting) : State := (pawnState 3).updPawn 0 fun p => { p with waiting := [w] }

def pushState : State := (pawnState 3).updPawn 0 fun p => { p with pushes := [(0, 0, [0])] }

/-- Witness of CoreStepsComplete: switch points, grants, pushes, remote accesses. -/
theorem test_core_steps :
    (statusState .switching).ctx.agent = .pawn 0 ∧ ((statusState .switching).pawn 0).status = .switching ∧
    (statusState .switching).pawnQuiet 0 = true ∧ ((statusState (.fencing 2)).pawn 0).status = .fencing 2 ∧
    (statusState (.fencing 2)).pawnQuiet 0 = true ∧ ((statusState .exiting).pawn 0).status = .exiting ∧
    (statusState .exiting).pawnQuiet 0 = true ∧ ((statusState .waking).pawn 0).status = .waking ∧
    (∀ w ∈ [waitingAccess, waitingTwo], ((waitState w).pawn 0).waiting = [w] ∧ (waitState w).mayAccess 0 w = true ∧
      (onePerBank (w.acc.words.filter fun x => x ∉ w.got.map fun g => g.1)).all (waitState w).wordFree = true) ∧
    waitingAccess.acc.words.length ≤ (onePerBank waitingAccess.acc.words).length ∧
    (onePerBank waitingTwo.acc.words).length < waitingTwo.acc.words.length ∧
    (pushState.pawn 0).pushes = [(0, 0, [0])] ∧ pushState.pushFirst 0 0 = true ∧
    pushState.room 0 true [0] (pushState.readIndex pushState.lm [0]) = true ∧
    ((remoteState (remoteOf false false)).core.remotes.find? fun r =>
        decide (r.agent = (remoteState (remoteOf false false)).ctx.agent) && !r.write && (remoteState (remoteOf false false)).remoteReady r) =
      some (remoteOf false false) ∧
    ((remoteState (remoteOf true false)).core.remotes.find? fun r =>
        decide (r.agent = (remoteState (remoteOf true false)).ctx.agent) && r.write && (remoteState (remoteOf true false)).remoteReady r) =
      some (remoteOf true false) ∧
    ((remoteState (remoteOf true true)).core.remotes.find? fun r => r.write && r.performed) = some (remoteOf true true) := by
  decide +kernel

/-- Witness of CoreStepsComplete: loaders, the end of a part, load levelling, the move order. -/
theorem test_core_steps_2 :
    (((primState 3).updCore fun k => { k with tileQ := [⟨1, 0x1000, false, none, 0, 0, 1⟩] }).tileReady).isSome = true ∧
    (((primState 3).updCore fun k => { k with wQ := [⟨1, 0x1000, 0, 0x739, false, none, 4, 0, 0, 0, 1, 0, 0⟩] }).weightReady).isSome = true ∧
    partState.partDone = true ∧ (primState 0).core.cfg.running = true ∧ (primState 0).core.cfg.det = false ∧
    (primState 0).feature 6 = true ∧ (primState 0).core.cfg.cycle % 1024 = 0 ∧
    (∀ b ∈ [false, true], (moveState b).movesRun = true ∧ (moveState b).core.moveNext = 0 ∧ (moveState b).core.commitOp = none ∧
      (moveState b).core.moveOpen = false ∧ ((moveState b).pawn 0).status ≠ .absent ∧ ((moveState b).pawn 0).status ≠ .exited ∧
      ((moveState b).pawn 0).chunk.full = false ∧ ((moveState b).pawn 0).quiet = true ∧ (moveState b).moveWaits 0 = false ∧ ((moveState b).pawn 0).chunk.ended = true ∧
      ((moveState b).pawn 0).chunk.stale = b) := by decide +kernel

/-- The cluster's debug module is owned by context 0; with bit 5 its events trap. -/
def dbgState (v : Nat) : State := (primState 0).setDevReg ((primState 0).dbgOff 0) v

/-- Witness of TrapEventsComplete, the rest of which needs no more than test_pawn_trap_states and test_fetch_runs show. -/
theorem test_trap_events :
    let s := primUser.updPrim fun p => { p with sintr := 4 }
    s.primEvent (decide ((0x1EF : BitVec 9).toNat / 8 = 0x13)) = some ⟨0x1EF, 0, 4, 15⟩ ∧ (dbgState 0x40020).dbgRoute = true ∧
      (dbgState 0x40000).dbgRoute = false ∧ (scanState 0).badLm = [] := by decide +kernel

/-- A command of a channel: copy of 8 bytes to local memory, or another of R172's codes. -/
def cmdOf (op : Nat) (started : Bool) (status : Option (BitVec 4)) : EngCmd :=
  ⟨3, 0, [BitVec.ofNat 64 op, 0x10000, 0x1000, 8, 0, 0, 0, 0], none, 0, started, 0, 0, [], [], [(0x10000, 0x10000, 0)], none, status, 0, [], 0, 0, false, false⟩

/-- A collective of packages 0 and 1, 8 elements each. -/
def colCmd (op : Nat) (started : Bool) : EngCmd :=
  { cmdOf op started none with words := [BitVec.ofNat 64 op, 0x10000, 0x20000, 0x30000, 8, 1, 0, 0], idx := [0, 1] }

def engState (ch : Nat) (c : EngCmd) : State := (primState 0).updCore fun k => { k with engQ := vset k.engQ ch ⟨[c], [], [], false, false, []⟩ }

/-- Witness of EngineStepsComplete: for each command its start and a later tick, on both channels, the collectives, completions. -/
theorem test_engine_steps :
    (∀ op ∈ List.range 7, ∀ ch ∈ [0, 1], (engState ch (cmdOf op false none)).headCmd ch = some (cmdOf op false none) ∧
      cmdOp (cmdOf op false none).words = op ∧ (engState ch (cmdOf op false none)).mayStart ch (cmdOf op false none) = true ∧
      (engState ch (cmdOf op true none)).headCmd ch = some (cmdOf op true none) ∧
      (engState ch (cmdOf op true none)).mayStart ch (cmdOf op true none) = false ∧ (cmdOf op true none).running = true) ∧
    (∀ op ∈ List.range 4, (engState 2 (cmdOf op true none)).headCmd 2 = some (cmdOf op true none) ∧
      cmdOp (cmdOf op true none).words = op ∧ (cmdOf op true none).started = true ∧ (cmdOf op true none).status = none ∧
      (engState 2 (cmdOf op true none)).colJob = none ∧ (engState 2 (cmdOf op true none)).mayStart 2 (cmdOf op true none) = false ∧
      ((engState 2 (cmdOf op true none)).sendChunk (cmdOf op true none)).isNone = true ∧
      (engState 2 (cmdOf op true none)).colKept.isNone = true ∧ (engState 2 (cmdOf op true none)).colCheck (cmdOf op true none) = none ∧
      (let c := colCmd op true
       (engState 2 c).headCmd 2 = some c ∧ cmdOp c.words = op ∧ (engState 2 c).mayStart 2 c = false ∧ c.started = true ∧ c.status = none ∧
        ((engState 2 c).sendChunk c).isSome = true) ∧
      (let c := colCmd op false
       (engState 2 c).headCmd 2 = some c ∧ cmdOp c.words = op ∧ (engState 2 c).mayStart 2 c = true ∧ (engState 2 c).colJob = none ∧
        c.status = none ∧ c.idx ≠ [] ∧ (engState 2 c).seqFresh c.idx (wd c.words 5) = true)) ∧
    (colCmd 0 true).streaming = true ∧ (colCmd 2 true).streaming = false ∧
    (engState 0 (cmdOf 0 true (some 0))).doneCmd 0 = some (cmdOf 0 true (some 0)) ∧ (cmdOf 0 true (some 0)).status = some 0 ∧
    cmdRec (cmdOf 0 true (some 0)).words = false ∧ cmdRec (cmdOf 0x200 true (some 0)).words = true := by decide +kernel

/-- Witness of EngineStepsComplete: a record that found its queue full, and commands whose words can be read. -/
theorem test_record_push :
    (((((primState 0).updCore fun k => { k with engQ := vset k.engQ 0 ⟨[], [], [], false, false, [(false, 9)]⟩ }).engineQ 0).pushable 0) =
      some (false, 9)) ∧ (primState 0).anyStruck (cmdLocs 3) = false ∧
    (((primState 0).updCore fun k => { k with engQ := vset k.engQ 0 ⟨[], [], [], false, false, [(false, 9)]⟩ }).engineQ 0).blocked =
      [(false, 9)] := by decide +kernel

/-- A job of the distributor: a record of eight words in context 0's queue 0. -/
def jobOf (words : List Word64) (phase : JobPhase) : Job where
  id := 7
  cx := 0
  slot := 0
  queue := 0
  index := 0
  prio := 0
  words := some words
  node := none
  phase := phase
  todo := []
  fault := none
  blocked := false
  hdr := 0
  clusters := []
  ownIdx := none
  launchNo := 0
  startBeat := 0
  cmd := none
  graph := none
  chose := false

def jobState (j : Job) : State := (primState 0).updDev fun d => { d with jobs := [j], nextJob := 8 }

/-- A graph of two nodes, the second waiting for one node. -/
def twoNodes : GraphRun := ⟨0x10000, 2, [0, 1], [0, 0], [], none, false⟩

def nodeJob (phase : JobPhase) : Job := { jobOf [4, 0, 0, 0, 0, 0, 0, 0] phase with id := 9, node := some (7, 0) }

/-- Witness of EngineStepsComplete: commands of a queue. -/
theorem test_queue_engines :
    (∀ k ∈ [2, 3], (jobState { jobOf [BitVec.ofNat 64 k, 0, 0, 0, 0, 0, 0, 0] .running with cmd := some (cmdOf 0 true none) }).job 7 =
        some { jobOf [BitVec.ofNat 64 k, 0, 0, 0, 0, 0, 0, 0] .running with cmd := some (cmdOf 0 true none) } ∧
      (jobOf [BitVec.ofNat 64 k, 0, 0, 0, 0, 0, 0, 0] .running).kind = k ∧ (jobOf [BitVec.ofNat 64 k] .running).todo = [] ∧
      (jobOf [BitVec.ofNat 64 k] .running).phase = .running) ∧ (cmdOf 0 true none).status = none ∧
    ((primState 0).sendChunk (cmdOf 0 true none)).isNone = true ∧ (primState 0).colCheck (cmdOf 0 true none) = none ∧ ((primState 0).sendChunk (colCmd 0 true)).isSome = true := by
  decide +kernel

/-- A resident context 0 in slot 0 whose queue 0 is enabled; host ring 3 accepts 64 entries (R113, R125). -/
def queueState : State :=
  ((((primState 0).setDevReg 0x400 0x1000).setDevReg 0x100020 0x20000).setPm (memWrite (memWrite [] 0x20000 8 0x30000) 0x20008 2 0x8006)).setDevReg
    (hrBase 3 + 8) 0x8000000000000006

/-- Witness of CommandStepsComplete: doorbells, rings, features. -/
theorem test_host_commands :
    queueState.slotCtx 0 = some 0 ∧ queueState.pmBad (queueState.descAt 0 0) 64 = false ∧ (queueState.readDesc 0 0).log2 = 6 ∧ subMod 32 64 (queueState.readDesc 0 0).head ≤ 2 ^ 6 ∧
    queueState.hrFull 3 = false ∧ (jobOf [4, 3, 0x55, 0, 0, 0, 0, 0] .running).kind = 4 ∧ (jobOf [4, 3, 0x55, 0, 0, 0, 0, 0] .running).w 1 = 3 ∧
    (let s := queueState.updDev fun d => { d with rings := [(3, (1, 50))] }
     0 < (assocGet s.dev.rings 3 (0, 0)).1 ∧ s.hrTime 3 ≤ (assocGet s.dev.rings 3 (0, 0)).2) ∧
    (let s := queueState.setDevReg (hrBase 3 + 0x10) 0x0000000500000002
     subMod 32 5 (s.hrHead 3) ≤ subMod 32 (s.hrTail 3) (s.hrHead 3) ∧ subMod 32 2 (s.hrHead 3) ≤ subMod 32 (s.hrTail 3) (s.hrHead 3)) ∧
    (1 : Word32).getLsbD 0 = true := by decide +kernel

/-- Witness of CommandStepsComplete: the end of a launch that holds another core, and graphs. -/
theorem test_graphs :
    let g := { jobOf [7, 0x10000, 128, 0, 0, 0, 0, 0] .running with graph := some twoNodes }
    let s := (primState 0).updDev fun d => { d with jobs := [g, nodeJob (.over 0)], nextJob := 10 }
    let f := (primState 0).updDev fun d => { d with jobs := [g, nodeJob (.over 2)], nextJob := 10 }
    let l := { jobOf [1, 0, 1, 0, 0, 0, 0, 0] .running with clusters := [3] }
    (jobState l).job 7 = some l ∧ l.kind = 1 ∧ l.todo = [] ∧ l.phase = .running ∧ l.clusters ≠ [] ∧ (jobState l).holdsOwn l = false ∧
      s.job 7 = some g ∧ g.graph = some twoNodes ∧ s.startable 0 twoNodes 0 = true ∧ s.startable 0 twoNodes 1 = false ∧
      s.job 9 = some (nodeJob (.over 0)) ∧ (nodeJob (.over 0)).node = some (7, 0) ∧ (nodeJob (.over 0)).phase = .over 0 ∧
      f.job 9 = some (nodeJob (.over 2)) := by decide +kernel

/-- A load that waits for its line. -/
def loadState : State := reqState (.load 8 false none) none 300

/-- Witness of HomeStepsComplete. -/
theorem test_home_steps :
    (loadState.firstReq 0 fun r => r.kind.isLoad && decide (loadState.leastAge r ≤ r.age)).isSome = true ∧
    ((reqState (.atomic 0 8 7 0) none 0).firstReq 0 fun r => r.kind.isAtomic).isSome = true ∧
    (((reqState (.atomic 0 8 7 0) (some (10, false)) 300).pawn 0).reqs.find? fun r => (r.kind.isAtomic || r.kind.isSc) && r.done.isSome &&
      decide ((reqState (.atomic 0 8 7 0) (some (10, false)) 300).leastAge r ≤ r.age)).isSome = true ∧
    (((reqState (.sc 0 7 0 1 0) (some (10, false)) 300).pawn 0).reqs.find? fun r => (r.kind.isAtomic || r.kind.isSc) && r.done.isSome &&
      decide ((reqState (.sc 0 7 0 1 0) (some (10, false)) 300).leastAge r ≤ r.age)).isSome = true ∧
    (GKind.atomic 0 8 7 0).isSc = false ∧ (GKind.sc 0 7 0 1 0).isSc = true ∧
    (let s := (reqState (.monarm 2) none 0).setMonitor 0 2 ⟨true, false, false, 0x10000 / 64, false⟩
     ((s.pawn 0).reqs.find? fun r => decide (r.kind = .monarm 2)).isSome = true ∧ ((s.pawn 0).monitor 2).armed = true ∧
      ((s.pawn 0).monitor 2).isLocal = false ∧ ((s.pawn 0).monitor 2).line = 0x10000 / 64) ∧
    ((statusState (.monWait (.s 1) (some 0) false)).pawn 0).status = .monWait (.s 1) (some 0) false ∧
    0 < (pawnState 3).core.cfg.nthreads ∧ ((pawnState 3).pawn 0).mboxFull = false ∧
    (∀ ok ∈ [false, true], (((reqState (.mbput 0 0 5) (some (0, ok)) 0).pawn 0).reqs.find? fun r =>
      r.kind.isAcked && decide (r.done = some (0, ok))).isSome = true) ∧
    (let s := reqState (.ringget 0x1800 0x1000 64) none 0
     (s.firstReq 0 fun r => r.kind.isRing).isSome = true ∧ (s.ringServes (.ringget 0x1800 0x1000 64)).all s.wordFree = true ∧
      s.ringAhead 0x1800 (ringPlace 0 s.core.cfg.coreIdx 0) = false) ∧
    (let e : Task := ⟨0x800, [], 2, false, 0⟩
     let s := (pawnState 3).updCore fun k => { k with tasks := List.replicate 62 e, taskIn := [(0x31, e), (0x20, { e with issuer := 3 })] }
     s.core.tasks.length < 63 ∧ s.core.taskIn = [(0x31, e), (0x20, { e with issuer := 3 })] ∧
      64 ≤ (s.tasksFrom fun _ => true).core.tasks.length) ∧
    ((reqState .rqclm none 0).firstReq 0 fun r => decide (r.kind = .rqclm)).isSome = true ∧
    takeRow 0 [(1, 8), (0, 9)] = (some 9, [(1, 8)]) ∧ takeRow 0 [(1, 8)] = (none, [(1, 8)]) := by decide +kernel

/-- A pawn parked at an address whose walk faulted with the record's identifier 6. -/
def parkOf (fault : Option (Word32 × Nat)) : Park := ⟨0x1000, 0, fault, false, 0⟩

/-- A command, and a job, that wait for a walk, or for the answer to the record with identifier 6. -/
def walkCmdOf (id : Option (Option Word32)) : EngCmd :=
  { cmdOf 0 false none with todo := [(0x10000, false)], fault := id.map fun i => (0x10000, 0, i) }

def walkJob (id : Option (Option Word32)) : Job :=
  { jobOf [5, 0x10000, 1, 0, 0, 0, 0, 0] .head with todo := [(0x10000, 0)], fault := id.map fun i => (0x10000, 0, 0, i) }

/-- A saved launch whose thread 0 waits for the answer to the record with identifier 6 (R213). -/
def restoreParked : State := (primState 0).updDev fun d => { d with saved := [⟨{ jobOf [1, 0x10000, 1, 0, 0, 0, 0, 0] .running with clusters := [0] },
  Primary.initial, vset (Vector.replicate 16 Pawn.initial) 0 { Pawn.initial with status := .xlateWait (parkOf (some (6, 1))) },
  CoreState.initial, none, true, 0x4000000, 0x1810000, 0x1E8⟩] }

/-- Witness of TranslationStepsComplete: walks, answers to records, invalidations. -/
theorem test_translation_steps :
    ((statusState (.xlateWait (parkOf none))).pawn 0).status = .xlateWait (parkOf none) ∧ (parkOf none).blocked = false ∧
    (parkOf none).fault = none ∧
    (∀ ch ∈ [0, 2], (engState ch (walkCmdOf none)).walkCmd ch = some (walkCmdOf none)) ∧
    (jobState (walkJob none)).job 7 = some (walkJob none) ∧ (jobState (walkJob none)).jobWants (walkJob none) = true ∧
    (match (statusState (.xlateWait (parkOf (some (6, 1))))).waiter 0 6 with
      | some (.pawn t k kind) => decide (t = 0 ∧ k = parkOf (some (6, 1)) ∧ kind = 1)
      | _ => false) = true ∧
    (match (engState 1 (walkCmdOf (some (some 6)))).waiter 0 6 with
      | some (.engine ch c) => decide (ch = 1 ∧ c = walkCmdOf (some (some 6)))
      | _ => false) = true ∧
    (match (jobState (walkJob (some (some 6)))).waiter 0 6 with
      | some (.job j) => decide (j = walkJob (some (some 6)))
      | _ => false) = true ∧
    (match (restoreParked.waiter 0 6) with
      | some (.saved n t k kind) => decide (n = 7 ∧ t = 0 ∧ k = parkOf (some (6, 1)) ∧ kind = 1)
      | _ => false) = true ∧
    (primState 0).invBusy = false ∧ ((primState 0).setDevReg 0x328 0x80000000).invBusy = true ∧
    ((primState 0).setDevReg 0x328 0x80000000).invDrained = true := by decide +kernel

/-- Witness of ClockStepsComplete: the bounds of a beat and of a tick exchange (R214, R217). -/
theorem test_clock_steps :
    let late := (primState 0).updDie fun d => { d with exempt := false, phase := d.beatPeriod + d.slack, sinceRaised := 8192, tick := 4096 }
    let stamps := fun (n : Word64) => late.updDie fun d => { d with stamps := [(1, List.replicate 16 n)] }
    late.dev.master = late.core.cfg.die ∧ late.die.beatPeriod ≤ late.die.sinceRaised ∧ late.die.exempt = false ∧
      late.die.beatPeriod + late.die.slack ≤ late.die.phase ∧ linked late.core.cfg.die 1 = true ∧ late.die.tick.toNat % 256 = 0 ∧
      (assocGet (stamps 4).die.stamps 1 [])[15]? = some 4 ∧ absDiff ((stamps 4).die.tick - 4).toNat 4096 ≤ 4 ∧
      (assocGet (stamps 5).die.stamps 1 [])[15]? = some 5 ∧ 4 < absDiff ((stamps 5).die.tick - 5).toNat 4096 := by decide +kernel

/-- Witness of ClockStepsComplete: patrol reads of each store, and a test of a core's memory, of L2, of HBM and of a link with each
verdict (R416 to R418). -/
theorem test_errors :
    let s := primState 0
    let bad := (({ s with badPm := [0x800] } : State).updCore fun c => { c with struck := [ErrLoc.l2 0x2000] })
    let waits := fun (store unit : Nat) => s.updDev fun d => { d with tests := [⟨true, store, 3, unit, 0, 0⟩] }
    (∀ p ∈ [(1, 0x10000), (2, 0x10000), (3, 0x10000000000)], s.patrols p.1 p.2 = true ∧ s.storeBad p.1 p.2 = false) ∧
      bad.storeBad 1 0x10000 = true ∧ bad.storeBad 2 0x10000 = true ∧ bad.patrols 2 0x10000 = true ∧
      ((waits 0 5).testAt 0 3 5).isSome = true ∧ ((waits 1 6).testAt 1 3 6).isSome = true ∧ ((waits 2 5).testAt 2 3 5).isSome = true ∧
      ((waits 4 5).testAt 4 3 5).isSome = true ∧
      verdictOf 2 1 = 1 ∧ verdictOf 2 2 = 2 ∧ verdictOf 0 2 = 3 ∧ verdictOf 1 3 = 3 ∧ verdictOf 4 3 = 2 := by decide +kernel

/-- A launch of context 0 on the modelled core's cluster. -/
def ownLaunch : Job := { jobOf [1, 0x10000, 1, 0, 0, 0, 0, 0] .running with clusters := [0], ownIdx := some 0, mask := 1 }

/-- Its context resident in slot 0 with a save pool of 32 MiB, firmware running, features locked (R136, R380, R404). -/
def poolState (j : List Job) : State :=
  (([(0x48, 1), (0x400, 0x1000), (0x600, 2), (0x50000, 0x4000000), (0x50008, 0x2000000), (0x140000, 1)].foldl
    (fun s x => s.setDevReg x.1 x.2) (primState 0)).updDev fun d => { d with jobs := j, nextJob := 8, featRo := true })

def savingState : State := (poolState [ownLaunch]).updCore fun k => { k with saving := true, preempt := some (0x1E8, 0) }

/-- The launch as saved. -/
def savedOwn : SavedLaunch := ⟨ownLaunch, Primary.initial, Vector.replicate 16 Pawn.initial, CoreState.initial, none, true, 0x4000000, 0x1810000, 0x1E8⟩

def restoreState : State := (poolState []).updDev fun d => { d with saved := [savedOwn] }

/-- Witness of TenancyStepsComplete: requests, save, restore. -/
theorem test_preemption :
    (∀ c ∈ ([0x1D8, 0x1E8] : List (BitVec 9)), ((primState 0).request c 0).core.preempt = some (c, 0)) ∧
    (0x1D8 : BitVec 9).toNat / 8 = 0x3B ∧ (0x1E8 : BitVec 9).toNat / 8 ≠ 0x3B ∧ (primState 0).core.saving = false ∧
    savingState.core.saving = true ∧ savingState.drained = true ∧ savingState.ownJob = some ownLaunch ∧
    savingState.launchBad ownLaunch = false ∧ savingState.recordStruck = none ∧ savingState.rangeFenced 0x4000000 0x1810000 = false ∧ savingState.saveRegion 0 8 = some (0x4000000, 0x1810000) ∧
    (restoreState.dev.saved.find? fun x => decide (x.job.id = 7)) = some savedOwn ∧ savedOwn.cause ≠ 0x1DF ∧ restoreState.restoreWaits savedOwn = false ∧
    restoreState.restorePlace savedOwn = some [0] ∧ restoreState.pmBad 0x4000000 0x1810000 = false ∧
    (restoreState.beatFor ownLaunch).1 = true := by decide +kernel

/-- Witness of TenancyStepsComplete: slots, sintr, the ends of the ranges of a readout. -/
theorem test_slots :
    (primState 0).evicting 63 = false ∧ bit (0x005 : BitVec 64).toNat 12 = false ∧ bit (0x005 : BitVec 64).toNat 13 = false ∧
    (primState 0).slotOf (bits (0x3005 : BitVec 64).toNat 0 12) = none ∧
    bit (0x2005 : BitVec 64).toNat 13 = true ∧ (primState 0).slotOf (bits (0x2005 : BitVec 64).toNat 0 12) = none ∧
    (let s := (primState 0).setDevReg 0x400 0x3005
     s.slotCtx 0 = some 5 ∧ s.evicting 0 = true ∧ s.ctxQuiet 5 = true ∧ s.slotOf (bits (0x1005 : BitVec 64).toNat 0 12) = some 0) ∧
    8 * (primState 0).clusterNo + (primState 0).core.cfg.coreInClus = 0 ∧ (primState 0).core.cfg.running = true := by decide +kernel

/-- Witness of TrustStepsComplete: a manifest block that is valid and current, and a challenge to sign. -/
theorem test_quote :
    let s := (primState 0).setDevReg 0x170008 0x1000
    s.quoteBusy = false ∧ bit (s.devReg (0x170000 + 256 * bits (0 : BitVec 64).toNat 0 6 + 8)) 12 = true ∧
      s.devReg (0x170000 + 256 * bits (0 : BitVec 64).toNat 0 6) = s.devReg 0x6A8 ∧ bit (s.devReg (0x170000 + 256 * 1 + 8)) 12 = false ∧
      (s.setDevReg 0x6A8 9).devReg 0x170000 ≠ (s.setDevReg 0x6A8 9).devReg 0x6A8 ∧
      (∀ r ∈ [SignReq.challenge 5 [1], .measurements [] 5, .quote [1, 2]],
        ((primState 0).updDev fun d => { d with signQ := [r] }).dev.signQ = [r]) := by decide +kernel

/-- Witness of DebugStepsComplete. -/
theorem test_debug :
    let owned := (primState 0).setDevReg ((primState 0).dbgOff 0) 0x40008
    owned.clusterNo = 0 ∧ owned.core.cfg.running = true ∧ owned.dbgOwned = true ∧ owned.core.saving = false ∧
      bit (owned.devReg (dbgBase owned.clusterNo)) 3 = true ∧ owned.core.winWrites = [] ∧ (owned.updPrim fun p => { p with halted := true }).prim.halted = true ∧
      bit ((primState 0).devReg 0x70000) 13 = false ∧
      (let s := (poolState []).updDev fun d => { d with dump := some ⟨0, true, [⟨some 0x10000, 0x10000, []⟩], [], 0, false⟩ }
       (s.slotOf 0).isSome = true ∧ s.dev.dump = some ⟨0, true, [⟨some 0x10000, 0x10000, []⟩], [], 0, false⟩) := by decide +kernel

/-- Witness of PlatformStepsComplete: an address on each tier, and the voltages at the limit of R431. -/
theorem test_platform :
    (∀ pa ∈ [0x10000, 0x10000000000, 0x8000000000000], ((primState 0).part.tierOf pa).isSome = true) ∧
    (∀ p ∈ [(0x10000, 64), (0x10000000000, 8), (0x10000000000 + 2 ^ 36 - 8, 8)],
      ((primState 0).updDev fun d => { d with bar2 := p.1 / 2 ^ 36 * 2 ^ 36 }).inBar2 p.1 p.2 = true) ∧
    ((primState 0).updDev fun d => { d with noSupply := true }).dev.noSupply = true ∧
    (let s := State.reset
     s.dev.jobs = [] ∧ s.dev.saved = [] ∧ s.dev.dump = none ∧ s.core.cfg.running = false ∧ s.core.saving = false ∧ s.core.cache = []) ∧
    ((primState 0).rangeFenced ((primState 0).descAt 0 0 + 0x20) 4 = false ∧ (primState 0).pm.wf = true ∧
      (jobState (jobOf [4] .running)).job 7 = some (jobOf [4] .running) ∧ (jobOf [4] .running).node = none) ∧
    (primState 0).hostOpen = true ∧ ((primState 0).setDevReg 0x600 3).hostOpen = false ∧ (primState 0).pmBad 0x10000 8 = false ∧ (primState 0).rangeFenced 0x10000 8 = false ∧
    memRead (primState 0).pm 0x10000 8 = (0 : Word64).toNat ∧ (45999 : BitVec 16).toNat < 46000 ∧ 46000 ≤ (46000 : BitVec 16).toNat := by decide +kernel

/-! ### Witnesses: commands that read memory -/

/-- A page table at 0 whose one leaf maps the first 64 GB on themselves, accessed, readable and writable; and at 0x10000 the header of
a launch of one core role, none of whose fields asks for more than the least (R111, R355). -/
def mappedMemory : Memory :=
  memWrite (memWrite (memWrite (memWrite [] 0 8 0x2001) 0x2000 8 0x2F) 0x10000 5 0x14B365956) 0x1000C 4 0x40201

/-- A resident context with the table, a job, and room for counts (R362). -/
def runState (j : Job) : State := ((poolState [j]).setPm mappedMemory).setDevReg 0x300 0x100

theorem test_counts_empty (j : Job) : countsTo 0 (runState j).dev.pact := fun _ h => nomatch h

/-- The state is one in which the job's run of n bytes at 0x10000 may be read. -/
def runReady (j : Job) (n : Nat) : Bool :=
  let s := runState j
  (needRun 0x10000 n 0).all (s.pageOk j.cx) && (needRun 0x10000 n 0).all (s.walkClean j.cx) &&
    decide (s.walkLoad j.cx (needRun 0x10000 n 0) < max 1 (bits (s.devReg 0x300) 0 16)) && !s.ctxBad j.cx 0x10000 n

theorem test_run_held (j : Job) (n : Nat) (h : runReady j n = true) : (runState j).runHeld j 0x10000 n 0 = true := by
  unfold runReady at h
  simp only [Bool.and_eq_true, decide_eq_true_eq, Bool.not_eq_true'] at h
  exact runHeld_of _ _ _ _ _ 0 h.1.1.1 h.1.1.2 (test_counts_empty j) (by rw [Nat.zero_add]; exact h.1.2) h.2

/-- Witness of CommandStepsComplete: event waits, conditionals, graphs. -/
theorem test_commands_read :
    (∀ p ∈ [(5, 1, 8), (6, 7, 8), (7, 128, 128)],
      let j := jobOf [BitVec.ofNat 64 p.1, 0x10000, BitVec.ofNat 64 p.2.1, 0, 0, 0, 0, 0] .head
      (runState j).job 7 = some j ∧ j.atStart p.1 = true ∧ (runState j).recordOk j = true ∧ j.w 1 = 0x10000 ∧ j.w 2 = p.2.1 ∧
        runReady j p.2.2 = true) ∧
    (let j := jobOf [5, 0x10000, 1, 0, 0, 0, 0, 0] .running
     (runState j).job 7 = some j ∧ j.phase = .running ∧ j.kind = 5 ∧ j.todo = [] ∧ runReady j 8 = true) := by decide +kernel

/-- A launch of one cluster at its head, and one that waits for its clusters. -/
def launchJob (phase : JobPhase) (h : BitVec 512) : Job := { jobOf [1, 0x10000, 1, 0, 0, 0, 0, 0] phase with hdr := h }

/-- The header in memory. -/
def launchHeader : BitVec 512 := BitVec.ofNat 512 (0x14B365956 + 0x40201 * 2 ^ 96)

/-- Witness of CommandStepsComplete: a launch at its head and at its placement. -/
theorem test_launch_states :
    let j := launchJob .head 0
    let k := launchJob .placing launchHeader
    (runState j).job 7 = some j ∧ j.atStart 1 = true ∧ (runState j).launchesRun = true ∧ j.launchOk = true ∧ (runState j).nodeOk j = true ∧ j.hdrVa = 0x10000 ∧ j.consts = 0 ∧ runReady j 64 = true ∧
      BitVec.ofNat 512 ((runState j).ctxRead j.cx j.hdrVa 64) = launchHeader ∧ (runState j).hdrStatus launchHeader = 0 ∧
      (runState j).placeStatus j = 0 ∧
      (runState k).job 7 = some k ∧ k.phase = .placing ∧ k.todo = [] ∧ (runState k).launchesRun = true ∧ (runState k).queueHeld k = false ∧ 255 ∉ k.clusters ∧
      (runState k).launchWaits k = false ∧ (runState k).resumeWaits k = false ∧ (runState k).placeStatus k = 0 ∧
      ((runState k).beatFor k).1 = true ∧ (runState k).chooseClusters k ((runState k).clusterFree k.cx) = some [0] := by decide +kernel

theorem test_launch_pages :
    ∀ j ∈ [launchJob .head 0, launchJob .placing launchHeader],
      (launchPages j launchHeader).all ((runState j).pageOk j.cx) = true ∧ (launchPages j launchHeader).all ((runState j).walkClean j.cx) = true ∧
      (runState j).walkLoad j.cx (launchPages j launchHeader) < 100 ∧ max 1 (bits ((runState j).devReg 0x300) 0 16) = 0x100 ∧
      (runState j).walkLoad j.cx (needRun 0x10000 64 0) < 100 ∧
      (runState j).ctxBad j.cx j.hdrVa (64 + hdrImage launchHeader) = false := by decide +kernel

theorem test_launch_placement : (runState (launchJob .placing launchHeader)).launchHeld (launchJob .placing launchHeader) launchHeader = true := by
  obtain ⟨h1, h2, h3, h4, -, h5⟩ := test_launch_pages (launchJob .placing launchHeader) (by simp)
  exact launchHeld_of _ _ _ 0 h1 h2 (test_counts_empty _) (by omega) h5 rfl

theorem test_placeStatus_counted (s : State) (a p c f) (j : Job) : (s.counted a p c f).placeStatus j = s.placeStatus j := by
  have h1 : ∀ d, (s.counted a p c f).devReg (0x730 + 8 * d) = s.devReg (0x730 + 8 * d) := fun d => devReg_counted _ _ _ _ _ _ (by omega)
  have h2 : ∀ d, (s.counted a p c f).devReg (0x140000 + 32 * d) = s.devReg (0x140000 + 32 * d) := fun d => devReg_counted _ _ _ _ _ _ (by omega)
  have h3 : ∀ d, (s.counted a p c f).devReg (0x140008 + 32 * d) = s.devReg (0x140008 + 32 * d) := fun d => devReg_counted _ _ _ _ _ _ (by omega)
  unfold State.placeStatus State.clusterLive State.clusterAllowed State.clusterMask
  simp only [devReg_counted _ _ _ _ _ 0x728 (by decide), h1, h2, h3]
  rfl

/-- Every hypothesis of the launch's clause, in the state after the header has been read. -/
theorem test_launch_head (j : Job) (s u : State) (h : BitVec 512) (hj : j = launchJob .head 0) (hs : s = runState j)
    (hu : u = s.touchRun j j.hdrVa 64 0) (hh : h = BitVec.ofNat 512 (u.ctxRead j.cx j.hdrVa 64)) :
    s.runHeld j j.hdrVa 64 0 = true ∧ u.hdrStatus h = 0 ∧ u.placeStatus j = 0 ∧ u.launchHeld j h = true := by
  obtain ⟨-, -, -, -, -, hv, hk, hr, hc, hst, hp, -⟩ := test_launch_states
  obtain ⟨h1, h2, h3, h4, h6, h5⟩ := test_launch_pages (launchJob .head 0) (by simp)
  have hr' := hr
  unfold runReady at hr'
  simp only [Bool.and_eq_true, decide_eq_true_eq, Bool.not_eq_true'] at hr'
  have hrun := test_run_held _ _ hr
  rw [← hj] at hv hk hr' hc hp h1 h2 h3 h4 h5 h6 hst hrun
  have hpact := test_counts_empty j
  rw [← hs] at hr' hc hp h1 h2 h3 h4 h5 h6 hst hrun hpact
  obtain ⟨a, q, c, f, he, hb⟩ := touchRun_counted s j 0x10000 64 0 0 hr'.1.1.2 hpact (by rw [Nat.zero_add]; exact hr'.1.2)
  have hu' : u = s.counted a q c f := by rw [hu, hv]; exact he
  have hh' : h = launchHeader := by rw [hh, hu', ctxRead_counted, hc]
  rw [hh', hu']
  refine ⟨by rw [hv]; exact hrun, hst, by rw [test_placeStatus_counted]; exact hp, launchHeld_of _ _ _ _ ?_ ?_ hb ?_ ?_ hk⟩
  · rw [show (s.counted a q c f).pageOk j.cx = s.pageOk j.cx from funext fun _ => pageOk_counted _ _ _ _ _ _ _]; exact h1
  · rw [walkClean_counted]; exact h2
  · rw [walkLoad_counted, devReg_counted _ _ _ _ _ _ (by decide), h4]
    exact Nat.lt_of_lt_of_le (Nat.add_lt_add (Nat.lt_of_le_of_lt (Nat.le_of_eq (Nat.zero_add _)) h6) h3) (by decide)
  · rw [ctxBad_counted]; exact h5

end Sys2Proof.Tests
end

section
/-! O3: every step keeps the three memories in canonical form. One lemma for each function of the state that a step is made of says
that it keeps the form, in the order of the model's files; `exec` and `step` are then put together from these lemmas. -/

namespace Sys2Proof.Machine

/-- Every memory of the machine is in canonical form (log 2): `State.memCanonical` by its parts. -/
structure State.Canon (s : State) : Prop where
  lm : s.lm.wf = true
  pm : s.pm.wf = true
  hm : s.hm.wf = true

/-- The three memories of the machine. -/
def State.mems (s : State) : Memory × Memory × Memory := (s.lm, s.pm, s.hm)

/-- Whatever next state an outcome gives is canonical. -/
def Canonical (o : Out) : Prop := ∀ t, o = .next t → t.Canon

theorem State.memCanonical_iff (s : State) : s.memCanonical = true ↔ s.Canon := by
  simp only [State.memCanonical, Bool.and_eq_true]
  exact ⟨fun ⟨⟨a, b⟩, c⟩ => ⟨a, b, c⟩, fun ⟨a, b, c⟩ => ⟨⟨a, b⟩, c⟩⟩

namespace State.Canon

/-- A change that leaves the memories as they are keeps the canonical form: `same rfl`, or `same (by rfl)` where the goal says only
later what the change is. -/
theorem same {s t : State} (h : s.Canon) (e : t.mems = s.mems) : t.Canon := by
  simp only [State.mems, Prod.mk.injEq] at e
  obtain ⟨hl, hp, hh⟩ := e
  exact ⟨hl ▸ h.lm, hp ▸ h.pm, hh ▸ h.hm⟩

theorem ite {c : Prop} {_ : Decidable c} {a b : State} (ha : a.Canon) (hb : b.Canon) : (if c then a else b).Canon := by
  split
  · exact ha
  · exact hb

theorem foldl {α : Type} {f : State → α → State} (hf : ∀ u x, u.Canon → (f u x).Canon) (l : List α) {s : State} (h : s.Canon) :
    (l.foldl f s).Canon := by
  induction l generalizing s with
  | nil => exact h
  | cons x l ih => exact ih (hf s x h)

theorem setLm {s : State} {m : Memory} (h : s.Canon) (hm : m.wf = true) : (s.setLm m).Canon := ⟨hm, h.pm, h.hm⟩
theorem setPm {s : State} {m : Memory} (h : s.Canon) (hm : m.wf = true) : (s.setPm m).Canon := ⟨h.lm, hm, h.hm⟩

theorem foldlFst {α β : Type} {f : State × β → α → State × β} (hf : ∀ x a, x.1.Canon → (f x a).1.Canon) (l : List α) {x : State × β}
    (h : x.1.Canon) : (l.foldl f x).1.Canon := by
  induction l generalizing x with
  | nil => exact h
  | cons a l ih => exact ih (hf x a h)

theorem getD {o : Option State} {s : State} (ho : ∀ t, o = some t → t.Canon) (h : s.Canon) : (o.getD s).Canon := by
  cases o with
  | none => exact h
  | some t => exact ho t rfl

theorem getDFst {α : Type} {o : Option (State × α)} {x : State × α} (ho : ∀ t, o = some t → t.1.Canon) (h : x.1.Canon) :
    (o.getD x).1.Canon := by
  cases o with
  | none => exact h
  | some t => exact ho t rfl

theorem map {α : Type} {o : Option α} {f : α → State} (hf : ∀ a, (f a).Canon) : ∀ t, o.map f = some t → t.Canon := by
  intro t e
  obtain ⟨a, -, rfl⟩ := Option.map_eq_some_iff.mp e
  exact hf a

end State.Canon

/-- What an op's refusal discards keeps the memories canonical (R177). -/
def OpSpec.Keeps (sp : OpSpec) : Prop := ∀ u, u.Canon → (sp.refused u).Canon

/-- Every op of a table of instructions keeps the memories canonical, as does its refusal. -/
structure OpTable.Keeps {α : Type} (tb : OpTable α) : Prop where
  run : ∀ i u, u.Canon → Canonical (tb.run i u)
  spec : ∀ i, (tb.spec i).Keeps

theorem foldl_wf {α : Type} {f : Memory → α → Memory} (hf : ∀ m x, m.wf = true → (f m x).wf = true) (l : List α) {m : Memory}
    (h : m.wf = true) : (l.foldl f m).wf = true := by
  induction l generalizing m with
  | nil => exact h
  | cons x l ih => exact ih (hf m x h)

theorem memPut_wf {m : Memory} {a : Nat} {l : List Byte} (h : m.wf = true) : (memPut m a l).wf = true :=
  foldl_wf (fun _ _ h => memSet_wf _ _ h) _ h

theorem memPutWords_wf {m : Memory} {a : Nat} {l : List Nat} (h : m.wf = true) : (memPutWords m a l).wf = true :=
  foldl_wf (fun _ _ h => memWrite_wf _ _ _ _ h) _ h

theorem memMove_wf {src : Memory} {a n : Nat} {m : Memory} {b : Nat} (h : m.wf = true) : (memMove src a n m b).wf = true :=
  foldl_wf (fun _ _ h => memSet_wf _ _ h) _ (memZero_wf _ _ h)

theorem fillCore_wf {s : State} {m : Memory} {j : Job} {idx core : Nat} {image : List Byte} (h : m.wf = true) :
    (s.fillCore m j idx core image).wf = true := memPut_wf (memZero_wf _ _ (memPut_wf (memPutWords_wf h)))

theorem launchRecord_wf {s : State} {j : Job} {col : Option EngCmd} {m : Memory} {base : Nat} (h : m.wf = true) :
    (s.launchRecord j col m base).wf = true := foldl_wf (fun _ _ h => memWrite_wf _ _ _ _ h) _ (memZero_wf _ _ h)

theorem coreRecord_wf {s : State} {j : Job} {cause inner : Cause} {m : Memory} {base i : Nat} (h : m.wf = true) :
    (s.coreRecord j cause inner m base i).wf = true :=
  foldl_wf (fun _ _ h => memWrite_wf _ _ _ _ h) _ (memMove_wf (memZero_wf _ _ h))

theorem Canonical.next {s : State} (h : s.Canon) : Canonical (.next s) := by rintro t ⟨⟩; exact h

theorem Canonical.ite {c : Prop} {_ : Decidable c} {a b : Out} (ha : Canonical a) (hb : Canonical b) : Canonical (if c then a else b) := by
  split
  · exact ha
  · exact hb

namespace State.Canon
variable {s : State}

/-! ### Updates of one part of the state, and what an op does when it performs (R45, R63) -/

theorem updPrim {f} (h : s.Canon) : (s.updPrim f).Canon := h.same rfl
theorem updCore {f} (h : s.Canon) : (s.updCore f).Canon := h.same rfl
theorem updDie {f} (h : s.Canon) : (s.updDie f).Canon := h.same rfl
theorem updDev {f} (h : s.Canon) : (s.updDev f).Canon := h.same rfl
theorem setPawns {p} (h : s.Canon) : (s.setPawns p).Canon := h.same rfl
theorem setCtx {c} (h : s.Canon) : (s.setCtx c).Canon := h.same rfl
theorem setTurn {t} (h : s.Canon) : (s.setTurn t).Canon := h.same rfl
theorem setAgenda {l} (h : s.Canon) : (s.setAgenda l).Canon := h.same rfl
theorem setWork {l} (h : s.Canon) : (s.setWork l).Canon := h.same rfl
theorem setOracle {l} (h : s.Canon) : (s.setOracle l).Canon := h.same rfl
theorem bumpFree (h : s.Canon) : s.bumpFree.Canon := h.same rfl
theorem withhold (h : s.Canon) : s.withhold.Canon := h.same rfl
theorem spendToken (h : s.Canon) : s.spendToken.Canon := h.same rfl
theorem spendMesh (h : s.Canon) : s.spendMesh.Canon := h.same rfl
theorem updPawn {t f} (h : s.Canon) : (s.updPawn t f).Canon := h.same rfl
theorem due {c i} (h : s.Canon) : (s.due c i).Canon := h.same rfl

theorem updTh {f} (h : s.Canon) : (s.updTh f).Canon := by
  unfold State.updTh
  split <;> exact h.same rfl

theorem emit {count e} (h : s.Canon) : (s.emit count e).Canon := by
  unfold State.emit
  split <;> exact h.same rfl

theorem land {lat d v} (h : s.Canon) : (s.land lat d v).Canon := h.emit
theorem raise {lat f} (h : s.Canon) : (s.raise lat f).Canon := .ite h h.emit
theorem landS {lat f v} (h : s.Canon) : (s.landS lat f v).Canon := h.land
theorem landV {lat f v} (h : s.Canon) : (s.landV lat f v).Canon := h.land
theorem landB {lat n v} (h : s.Canon) : (s.landB lat n v).Canon := h.land
theorem landM {lat n v} (h : s.Canon) : (s.landM lat n v).Canon := h.land

theorem accessOrd {rel acq a} (h : s.Canon) : (s.accessOrd rel acq a).Canon := by
  unfold State.accessOrd
  split <;> exact h.same rfl

theorem access {a} (h : s.Canon) : (s.access a).Canon := h.accessOrd

theorem hold {n} (h : s.Canon) : (s.hold n).Canon := by
  unfold State.hold
  split
  · exact h.same rfl
  · exact h

theorem inUse {n r} (h : s.Canon) : (s.inUse n r).Canon := h.same rfl
theorem hitLocal {key n} (h : s.Canon) : (s.hitLocal key n).Canon := h.same rfl
theorem healLm {key n} (h : s.Canon) : (s.healLm key n).Canon := h.same rfl
theorem lmWrite {key n v} (h : s.Canon) : (s.lmWrite key n v).Canon := (h.setLm (memWrite_wf _ _ _ _ h.lm)).hitLocal.healLm

theorem lmWriteAll {size as vs} (h : s.Canon) : (s.lmWriteAll size as vs).Canon := by
  induction as generalizing s vs with
  | nil => exact h
  | cons a as ih =>
    cases vs with
    | nil => exact h
    | cons v vs => exact ih h.lmWrite

theorem lmStore {size addrs vals} (h : s.Canon) : (s.lmStore size addrs vals).Canon := h.lmWriteAll.same rfl
theorem request {code inner} (h : s.Canon) : (s.request code inner).Canon := h.same rfl
theorem primTrap {r} (h : s.Canon) : (s.primTrap r).Canon := .ite (h.same rfl) (.ite (h.same rfl) (.ite (h.same rfl) (h.same rfl)))
theorem pawnTrap {t r resume} (h : s.Canon) : (s.pawnTrap t r resume).Canon := .ite (h.same rfl) (.ite (h.same rfl) (.ite (h.same rfl) (h.same rfl)))

theorem trap {r} (h : s.Canon) : (s.trap r).Canon := by
  unfold State.trap
  split
  · exact h.primTrap
  · exact h.pawnTrap

theorem clearFresh {u} (h : s.Canon) : (s.clearFresh u).Canon := .ite (by
  split
  · exact h
  · exact h.same rfl
  · exact h.same rfl) h

theorem advance (h : s.Canon) : s.advance.Canon := by
  unfold State.advance
  split <;> exact h.same rfl

theorem switchPoint {k} (h : s.Canon) : (s.switchPoint k).Canon := by
  unfold State.switchPoint
  split
  · exact h
  · exact .ite (h.same rfl) h

theorem closeChunk {t closing} (h : s.Canon) : (s.closeChunk t closing).Canon := h.same rfl
theorem countChunk {t} (h : s.Canon) : (s.countChunk t).Canon := .ite (h.same rfl) (h.same rfl)
theorem openChunk {t} (h : s.Canon) : (s.openChunk t).Canon := .ite (h.same rfl) h

theorem perform {sp} {eff : State → State} (h : s.Canon) (hk : ∀ u : State, u.Canon → (eff u).Canon) : (s.perform sp eff).Canon := by
  unfold State.perform
  split
  · exact .foldl (fun _ _ h => h.clearFresh) _ (hk _ h.advance)
  · refine .ite (.switchPoint (.updPawn (hk _ (h.same rfl)))) (.ite (.ite ?_ ?_) (.switchPoint (hk _ h.advance)))
    · exact h.openChunk.advance.closeChunk
    · exact .countChunk (.switchPoint (hk _ h.openChunk.advance))

theorem discardFor {sp r} (h : s.Canon) (hs : sp.Keeps) : (s.discardFor sp r).Canon := by
  unfold State.discardFor
  split
  · exact .ite (hs s h).updTh h
  · exact h

theorem bump {i n} (h : s.Canon) : (s.bump i n).Canon := h.same rfl

/-! ### Operand groups -/

theorem touch {offs len remote} (h : s.Canon) : (s.touch offs len remote).Canon := by
  unfold State.touch
  split
  · exact h
  · exact h.updTh

/-! ### Rounding draws -/

theorem countRound {mode} (h : s.Canon) : (s.countRound mode).Canon := .ite h.updTh h

/-! ### Control registers (R89) -/

theorem csrWrite {i v} (h : s.Canon) : (s.csrWrite i v).Canon := by
  unfold State.csrWrite
  refine .ite (h.same rfl) (.ite (h.same rfl) ?_)
  iterate 11 refine .ite h.updTh ?_
  exact .ite h.updCore (.ite h.updPrim (.ite h.updPrim (.ite h.updCore h)))

/-! ### Device registers and halts -/

theorem setDevReg {off v} (h : s.Canon) : (s.setDevReg off v).Canon := h.same rfl
theorem clearHalted {g} (h : s.Canon) : (s.clearHalted g).Canon := h.same rfl
theorem clearHalts {l} (h : s.Canon) : (s.clearHalts l).Canon := .foldl (fun _ _ h => .ite (h.same (by rfl)) h) _ h
theorem crossHalts {l} (h : s.Canon) : (s.crossHalts l).Canon := h.same rfl
theorem markHalt (h : s.Canon) : s.markHalt.Canon := h.same rfl

theorem haltBy {core source index who addr} (h : s.Canon) : (s.haltBy core source index who addr).Canon := by
  unfold State.haltBy
  extract_lets _ _ s1 s2 s3
  have h1 : s1.Canon := .ite h.setDevReg h
  have h2 : s2.Canon := .ite h1.setDevReg.markHalt h1
  have h3 : s3.Canon := .ite h2.crossHalts h2
  exact h3.updPrim

theorem debugHalt {source index pawn t addr} (h : s.Canon) : (s.debugHalt source index pawn t addr).Canon := h.haltBy

/-! ### The issue of an op -/

theorem watchStop {n addr} (h : s.Canon) : (s.watchStop n addr).Canon := .ite h.trap (by
  split
  · exact h.debugHalt
  · exact h.debugHalt.updPawn)

theorem watchOther {x} (h : s.Canon) : (s.watchOther x).Canon := by
  unfold State.watchOther
  split
  · exact h.haltBy
  · exact h

theorem takeWord {w} (h : s.Canon) : (s.takeWord w).Canon := .ite (h.same rfl) (h.same rfl)
theorem takeWords {ws} (h : s.Canon) : (s.takeWords ws).Canon := .foldl (fun _ _ h => h.takeWord) _ h
theorem stopWaiting {i} (h : s.Canon) : (s.stopWaiting i).Canon := h.same rfl

theorem performWatched {sp} {eff : State → State} (h : s.Canon) (hk : ∀ u : State, u.Canon → (eff u).Canon) :
    (s.performWatched sp eff).Canon := by
  unfold State.performWatched
  split
  · exact h.watchStop
  · exact h.perform hk

theorem issue {sp} {eff : State → State} (h : s.Canon) (hs : sp.Keeps) (hk : ∀ u : State, u.Canon → (eff u).Canon) :
    Canonical (Machine.issue sp s eff) := by
  unfold Machine.issue
  refine .ite (.next (h.perform hk)) ?_
  split
  · exact .next h.trap
  · refine .ite (.next (h.same rfl)) ?_
    split
    · exact .next (h.discardFor hs).trap
    · exact .next (h.performWatched hk)

/-! ### Home memory: writes, records, counters and cache lines -/

theorem markFull {reg head tail} (h : s.Canon) : (s.markFull reg head tail).Canon := .ite (h.same rfl) h
theorem hitGlobal {line} (h : s.Canon) : (s.hitGlobal line).Canon := h.same rfl
theorem wakeWaits {line} (h : s.Canon) : (s.wakeWaits line).Canon := .ite (h.same rfl) h
theorem notice {pa} (h : s.Canon) : (s.notice pa).Canon := .ite (.ite h.wakeWaits.hitGlobal h.wakeWaits.setWork) h.wakeWaits
theorem markStale {pa n} (h : s.Canon) : (s.markStale pa n).Canon := .ite (h.same rfl) h
theorem staleLocal {key n} (h : s.Canon) : (s.staleLocal key n).Canon := .ite (h.same rfl) h
theorem heal {f} (h : s.Canon) : (s.heal f).Canon := h.same rfl
theorem healPm {pa n} (h : s.Canon) : (s.healPm pa n).Canon := h.same rfl

theorem homeWrite {pa n v} (h : s.Canon) : (s.homeWrite pa n v).Canon :=
  (h.setPm (memWrite_wf _ _ _ _ h.pm)).markStale.heal.notice

theorem homeWriteRun {pa n v} (h : s.Canon) : (s.homeWriteRun pa n v).Canon :=
  .foldl (fun _ _ h => h.notice) _ (h.setPm (memWrite_wf _ _ _ _ h.pm)).markStale.healPm

theorem askTest {t} (h : s.Canon) : (s.askTest t).Canon := .ite h (h.same rfl)

theorem errRecord {store uncorr verdict die unit core cx idx} (h : s.Canon) :
    (s.errRecord store uncorr verdict die unit core cx idx).Canon := by
  unfold State.errRecord
  extract_lets _ _ _ _ s1 _ _ _ s2 _ _ s3 s4
  have h1 : s1.Canon := .ite h.askTest h
  have h2 : s2.Canon := .ite h1 (h1.same rfl)
  have h3 : s3.Canon := .markFull (.setDevReg (.ite h2 h2.homeWriteRun))
  have h4 : s4.Canon := h3.updDev
  exact .ite (h1.same rfl) (.ite (h4.same rfl) h4)

theorem pmError {cx pa} (h : s.Canon) : (s.pmError cx pa).Canon := h.errRecord
theorem ctxCheck {cx} (h : s.Canon) : (s.ctxCheck cx).Canon := .updDev (.ite (h.same rfl) h)

theorem notify {count page src cx} (h : s.Canon) : (s.notify count page src cx).Canon := by
  unfold State.notify
  extract_lets _ _ _ _ _ _ _ _ s1 s2 s3
  have h1 : s1.Canon := .ite h.pmError (h.setPm (memWrite_wf _ _ _ _ (memWrite_wf _ _ _ _ h.pm)))
  have h3 : s3.Canon := h1.setDevReg.markFull.updDev
  exact .ite (h.same rfl) (.ite (h3.same rfl) h3)

theorem pactCount {src pa cx} (h : s.Canon) : (s.pactCount src pa cx).Canon := .ite (h.same (by rfl)).notify (h.same rfl)
theorem acctAdd {cx w n} (h : s.Canon) : (s.acctAdd cx w n).Canon := .ite h (h.same rfl)

theorem acctBytes {pa cx} (h : s.Canon) : (s.acctBytes pa cx).Canon := by
  unfold State.acctBytes
  split
  · exact h.acctAdd
  · exact h

theorem reach {src pa cx} (h : s.Canon) : (s.reach src pa cx).Canon := .pactCount (by
  split
  · exact h.acctBytes
  · exact h)

theorem countFill {pa cx hit alloc} (h : s.Canon) : (s.countFill pa cx hit alloc).Canon := .ite h.reach (.ite (h.same (by rfl)).reach (h.same rfl))
theorem countReq {pa cls cx hit} (h : s.Canon) : (s.countReq pa cls cx hit).Canon := h.countFill
theorem countHome {pa cls cx hit} (h : s.Canon) : (s.countHome pa cls cx hit).Canon := h.countReq
theorem beginRead {die pa cls cx} (h : s.Canon) : (s.beginRead die pa cls cx).1.Canon := h.countFill
theorem setCacheLine {l} (h : s.Canon) : (s.setCacheLine l).Canon := h.same rfl
theorem healLine {line mask} (h : s.Canon) : (s.healLine line mask).Canon := .heal (.ite (.healPm (.ite (h.same rfl) h)) (.ite (h.same rfl) h))
theorem healCache {line mask} (h : s.Canon) : (s.healCache line mask).Canon := h.same rfl
theorem coreError {cx idx} (h : s.Canon) : (s.coreError cx idx).Canon := h.errRecord

theorem writeBack {l} (h : s.Canon) : (s.writeBack l).Canon := by
  unfold State.writeBack
  extract_lets _ _ _ s1 s2
  have h1 : s1.Canon := .ite h h.coreError
  have h2 : s2.Canon := (h1.setPm (memWriteMask_wf _ _ _ _ _ h1.pm)).healLine.notice
  exact .ite h (.ite h.pmError.setCacheLine h2.countHome.setCacheLine)

theorem writeBackAll (h : s.Canon) : s.writeBackAll.Canon := .foldl (fun _ _ h => h.writeBack) _ h
theorem dropClean (h : s.Canon) : s.dropClean.Canon := h.same rfl

theorem flushLines {f} (h : s.Canon) : (s.flushLines f).Canon := by
  unfold State.flushLines
  exact .updCore (.foldl (fun _ _ h => h.writeBack) _ h)

theorem makeRoom {line} (h : s.Canon) : (s.makeRoom line).Canon := .ite h (by
  split
  · exact h
  · exact (h.same (by rfl)).writeBack.updCore)

theorem acceptStore {pa n v cls page} (h : s.Canon) : (s.acceptStore pa n v cls page).Canon := h.makeRoom.healCache.setCacheLine.hitGlobal

theorem fillLine {line cls cx page hit alloc} (h : s.Canon) : (s.fillLine line cls cx page hit alloc).Canon :=
  h.makeRoom.healCache.setCacheLine.countFill

theorem refreshCopy {pa n v wrote} (h : s.Canon) : (s.refreshCopy pa n v wrote).Canon := by
  unfold State.refreshCopy
  split
  · exact h
  · exact h.same rfl

theorem homeUpdate {pa n v} (h : s.Canon) : (s.homeUpdate pa n v).Canon := h.homeWrite.refreshCopy

theorem writeBackLine {line} (h : s.Canon) : (s.writeBackLine line).Canon := by
  unfold State.writeBackLine
  split
  · exact h
  · exact h.writeBack

/-! ### Machine checks -/

theorem lmError {cx words} (h : s.Canon) : (s.lmError cx words).Canon := h.errRecord
theorem threadCheck {code} (h : s.Canon) : (s.threadCheck code).Canon := h.updTh
theorem useLm {code words} (h : s.Canon) : (s.useLm code words).Canon := .ite h.lmError.threadCheck h
theorem usePm {code pa n} (h : s.Canon) : (s.usePm code pa n).Canon := .ite h.pmError.threadCheck h
theorem agentUse {code words} (h : s.Canon) : (s.agentUse code words).Canon := .ite h.lmError.request h
theorem storeFenced {pa} (h : s.Canon) : (s.storeFenced pa).Canon := h.pmError.threadCheck
theorem agentLm {words} (h : s.Canon) : (s.agentLm words).Canon := h.agentUse
theorem agentPm {pa n} (h : s.Canon) : (s.agentPm pa n).Canon := .ite h.pmError.request h
theorem chargeLine {cx cls pa} (h : s.Canon) : (s.chargeLine cx cls pa).Canon := .ite h.acctBytes (.ite (h.same (by rfl)).acctBytes (h.same rfl))
theorem writeFor {cx pa n v} (h : s.Canon) : (s.writeFor cx pa n v).Canon := .ite h.pmError.ctxCheck h.homeWriteRun.chargeLine
theorem strikeUse {code l} (h : s.Canon) : (s.strikeUse code l).Canon := h.coreError.threadCheck

theorem agentStrike {l} (h : s.Canon) : (s.agentStrike l).Canon := by
  unfold State.agentStrike
  split
  · exact h.coreError.request
  · exact h

theorem agentStore {pa n} (h : s.Canon) : (s.agentStore pa n).Canon := .ite h.pmError.request h

/-! ### Landing of results -/

theorem send {vec r v} (h : s.Canon) : (s.send vec r v).Canon := .ite (h.same rfl) (h.same rfl)

theorem setReg {d v} (h : s.Canon) : (s.setReg d v).Canon := by
  unfold State.setReg
  split
  · split
    · exact h.same rfl
    · exact h.same rfl
    · exact h.same rfl
    · exact h.same rfl
    · exact h.same rfl
    · exact h.same rfl
    · exact h.send
    · exact h.send
    · exact h
    · exact h
  · split
    · exact h.same rfl
    · exact h.same rfl
    · exact h.same rfl
    · exact h.same rfl
    · exact h.same rfl
    · exact h
    · exact h
    · exact h
    · exact h
    · exact h

theorem bindTile {t b} (h : s.Canon) : (s.bindTile t b).Canon := h.same rfl
theorem landFlags {e f} (h : s.Canon) : (s.landFlags e f).Canon := h.updTh
theorem dropRemote {id} (h : s.Canon) : (s.dropRemote id).Canon := h.same rfl

theorem landReg {e} (h : s.Canon) : (s.landReg e).Canon := by
  unfold State.landReg
  split
  · exact h.setReg
  · exact h.csrWrite
  · exact h.same rfl
  · exact h.same rfl
  · split
    · exact h.setReg.dropRemote
    · exact h
  · exact h
  · exact h
  · exact h
  · exact h

theorem landZs {due z} (h : s.Canon) : (s.landZs due z).Canon := by
  unfold State.landZs
  split
  · split
    · exact h.same rfl
    · exact h
  · exact h

theorem landBind {e} (h : s.Canon) : (s.landBind e).Canon := by
  unfold State.landBind
  split
  · exact h.same rfl
  · exact h.same rfl
  · exact h

theorem landFlag {e} (h : s.Canon) : (s.landFlag e).Canon := by
  unfold State.landFlag
  split
  · exact h.landFlags
  · exact h

theorem useEntry {e} (h : s.Canon) : (s.useEntry e).Canon := by
  unfold State.useEntry
  split
  · exact h.useLm
  · exact h.useLm
  · exact h

theorem landStruck {a due} (h : s.Canon) : (s.landStruck a due).Canon := .heal (by
  split
  · exact h
  · exact h.strikeUse)

theorem landAll {due} (h : s.Canon) : (s.landAll due).Canon := by
  unfold State.landAll
  refine .foldl (fun _ _ h => h.landFlag) _ (.foldl (fun _ _ h => h.landBind) _ ?_)
  exact .foldl (fun _ _ h => h.landZs) _ (.foldl (fun _ _ h => h.landReg) _ h)

theorem landPrimary (h : s.Canon) : s.landPrimary.Canon := by
  unfold State.landPrimary
  extract_lets _ _ _ _ s1 s2 s3 s4 s5
  have h2 : s2.Canon := .ite h.updPrim h.updPrim.landStruck
  have h4 : s4.Canon := .ite h2.landAll (h2.landAll.foldl (fun _ _ h => h.useEntry) _)
  exact .ite h4.updPrim.updPrim h4.updPrim

theorem bankWrite {e} (h : s.Canon) : (s.bankWrite e).Canon := by
  unfold State.bankWrite
  split
  · exact h.lmStore
  · exact h

theorem landPawn {t} (h : s.Canon) : (s.landPawn t).Canon := .landAll (.updPawn (.ite h h.landStruck))

theorem execResultLanding (h : s.Canon) : Canonical (Machine.execResultLanding s) := by
  unfold Machine.execResultLanding
  split
  · exact .next h.landPrimary
  · exact .next h.landPawn

/-! ### Local memory, remote access and row posts -/

theorem loadS {d a o size signed} (h : s.Canon) : (s.loadS d a o size signed).Canon := h.access.touch
theorem storeS {d a o size} (h : s.Canon) : (s.storeS d a o size).Canon := h.access.touch
theorem loadV {d a o size} (h : s.Canon) : (s.loadV d a o size).Canon := h.access.touch
theorem storeV {d a o size} (h : s.Canon) : (s.storeV d a o size).Canon := h.access.touch
theorem gather {d a b size} (h : s.Canon) : (s.gather d a b size).Canon := h.access.touch
theorem scatter {d a b size} (h : s.Canon) : (s.scatter d a b size).Canon := h.access.touch
theorem lmAtomic {op d a b} (h : s.Canon) : (s.lmAtomic op d a b).Canon := h.access.touch

theorem remoteAccess {x write len v d} (h : s.Canon) : (s.remoteAccess x write len v d).Canon := by
  unfold State.remoteAccess
  extract_lets _ _ s1 s2
  have h2 : s2.Canon := Canon.updCore h.touch
  split
  · exact .ite h2 h2.emit
  · exact h2.same rfl

theorem rowPostFor {cx v} (h : s.Canon) : (s.rowPostFor cx v).Canon := .ite (h.same rfl) (h.same rfl)
theorem rowPost {v} (h : s.Canon) : (s.rowPost v).Canon := h.rowPostFor

theorem queueTile {t a store bind} (h : s.Canon) : (s.queueTile t a store bind).Canon := by
  unfold State.queueTile
  exact h.touch.updCore

/-! ### Scale registers -/

theorem landZreg {z fmt keep r} (h : s.Canon) : (s.landZreg z fmt keep r).Canon := h.land.raise

/-! ### Scalar floats -/

theorem landF {lat d r} (h : s.Canon) : (s.landF lat d r).Canon := h.landS.raise
theorem landFB {lat d r} (h : s.Canon) : (s.landFB lat d r).Canon := h.landB.raise
theorem slowF {d r} (h : s.Canon) : (s.slowF d r).Canon := h.landF.hold.updCore

/-! ### Vector ops -/

theorem landLanes {lat d r} (h : s.Canon) : (s.landLanes lat d r).Canon := h.landV.raise
theorem vec2 {lat d a b r f} (h : s.Canon) : (s.vec2 lat d a b r f).Canon := h.landLanes.countRound
theorem vec1 {lat d a r f} (h : s.Canon) : (s.vec1 lat d a r f).Canon := h.landLanes.countRound
theorem slowV (h : s.Canon) : s.slowV.Canon := h.hold.updCore
theorem fused {d a b r negP negD} (h : s.Canon) : (s.fused d a b r negP negD).Canon := h.landLanes.countRound
theorem vecCmp {d a b f} (h : s.Canon) : (s.vecCmp d a b f).Canon := h.landM.raise
theorem landPacked {lat w d r} (h : s.Canon) : (s.landPacked lat w d r).Canon := h.landV.raise
theorem pack {d a f mode} (h : s.Canon) : (s.pack d a f mode).Canon := h.landPacked.countRound
theorem quant {d a b f mode} (h : s.Canon) : (s.quant d a b f mode).Canon := h.landPacked.landV.countRound

/-! ### Matrix loaders and multiplies -/

theorem endTile {j} (h : s.Canon) : (s.endTile j).Canon := by
  unfold State.endTile
  extract_lets s1 s2
  have h2 : s2.Canon := .ite (h.same rfl) (h.same rfl)
  split
  · exact h2.bindTile
  · exact h2

theorem rowBytes {j} (h : s.Canon) : (s.rowBytes j).Canon :=
  .ite (.ite h.agentStrike h.agentStrike.lmWrite) (.ite h.agentLm h.agentLm.updCore)

theorem moveRow {j} (h : s.Canon) : (s.moveRow j).Canon :=
  .ite (h.same (by rfl)).watchOther.rowBytes.updCore (h.same (by rfl)).watchOther.rowBytes.endTile

theorem execTileLoaderRow (h : s.Canon) : Canonical (Machine.execTileLoaderRow s) := by
  unfold Machine.execTileLoaderRow
  split
  · exact .next (h.same rfl)
  · exact .next h.moveRow

theorem endSlot {j} (h : s.Canon) : (s.endSlot j).Canon := by
  unfold State.endSlot
  split <;> exact h.same rfl

theorem moveGranule {j} (h : s.Canon) : (s.moveGranule j).Canon :=
  .ite (h.same (by rfl)).watchOther.agentLm.updCore (h.same (by rfl)).watchOther.agentLm.endSlot

theorem execWeightLoaderGranule (h : s.Canon) : Canonical (Machine.execWeightLoaderGranule s) := by
  unfold Machine.execWeightLoaderGranule
  split
  · exact .next (h.same rfl)
  · exact .next h.moveGranule

theorem present {nr i l} (h : s.Canon) : (s.present nr i l).Canon := by
  induction l generalizing s i with
  | nil => exact h
  | cons r l ih => exact ih h.emit

theorem multiply {y d t w f fwd sat} (h : s.Canon) : (s.multiply y d t w f fwd sat).Canon := by
  unfold State.multiply
  extract_lets _ _ _ _ _ u1 u2
  have h1 : u1.Canon := .foldl (fun _ _ h => h.inUse) _ h.hold.inUse.inUse
  have h2 : u2.Canon := .ite h1.present h1
  exact h2.emit.raise

/-! ### Translation and walks of a pawn -/

theorem tlbFill {t first} (h : s.Canon) : (s.tlbFill t first).Canon := h.same rfl

theorem cowCopy {cx va acc} (h : s.Canon) : (s.cowCopy cx va acc).Canon := by
  unfold State.cowCopy
  refine .ite ?_ h
  split
  · exact h
  · extract_lets _ _ _ _ s1 s2 s3
    have h1 : s1.Canon := .ite h.pmError.ctxCheck h
    have h2 : s2.Canon := .ite h1.pmError.ctxCheck h1
    have h3 : s3.Canon := (h2.setPm (foldl_wf (fun _ _ h => memSet_wf _ _ h) _ (memZero_wf _ _ h2.pm))).healPm
    exact h3.updDev

theorem keepPtrs {p} (h : s.Canon) : (s.keepPtrs p).Canon := h.same rfl

theorem countWalk {die cx left l} (h : s.Canon) : (s.countWalk die cx left l).Canon := by
  induction l generalizing s left with
  | nil => exact h
  | cons a l ih => exact ih h.countFill

theorem walkEffects {l v cx die waited} (h : s.Canon) : (s.walkEffects l v cx die waited).Canon := by
  unfold State.walkEffects
  split
  · exact .ite h.countWalk h.countWalk.homeWrite.countHome
  · exact h.countWalk

theorem walkCheck {l} (h : s.Canon) : (s.walkCheck l).Canon := .foldl (fun _ _ h => h.agentPm) _ h

theorem faultRecord {cx va kind acc level who core e engine x} (h : s.Canon)
    (hx : s.faultRecord cx va kind acc level who core e engine = some x) : x.1.Canon := by
  unfold State.faultRecord at hx
  extract_lets _ _ _ _ _ _ _ _ _ s1 s2 s3 s4 at hx
  have h1 : s1.Canon := .ite h.pmError.ctxCheck h.homeWriteRun
  have h3 : s3.Canon := h1.same rfl
  have h4 : s4.Canon := by
    simp only [s4]
    split
    · exact h3.same rfl
    · exact h3
  split at hx
  · cases hx
  · cases hx; exact h4

theorem parkTrap {t code va id} (h : s.Canon) : (s.parkTrap t code va id).Canon := h.pawnTrap
theorem unpark {t} (h : s.Canon) : (s.unpark t).Canon := h.same rfl

theorem pawnWalk {t k} (h : s.Canon) : (s.pawnWalk t k).Canon := by
  unfold State.pawnWalk
  extract_lets cx va w v s1
  have h1 : s1.Canon := h.keepPtrs.walkEffects
  clear_value s1 v
  split
  · exact h.setCtx.strikeUse.setCtx.unpark
  · split
    · exact .ite h.agentStrike h.tlbFill.unpark
    · refine .ite h.bumpFree.walkCheck.updPawn ?_
      split
      · exact h1.cowCopy.tlbFill.unpark
      · exact h1.updPawn
      · exact h1.parkTrap
      · split
        next => exact h1.parkTrap
        next e => exact (h1.faultRecord e).updPawn

theorem issueG {sp va acc post} {eff : State → State} (h : s.Canon) (hk : ∀ u : State, u.Canon → (eff u).Canon) :
    Canonical (Machine.issueG sp va acc post s eff) := by
  unfold Machine.issueG
  refine .ite (.next (h.perform hk)) ?_
  split
  · exact .next h.trap
  · split
    · exact .next (h.same rfl)
    · refine .ite (.next h.trap) ?_
      split
      · exact .next h.trap
      · exact .next (h.setCtx.performWatched hk)

/-! ### A pawn's requests to memory -/

theorem gSend {kind d p va} (h : s.Canon) : (s.gSend kind d p va).Canon := by
  unfold State.gSend
  split
  · exact h
  · exact h.same rfl

theorem meshThread {t} (h : s.Canon) : (s.meshThread t).Canon := .foldl (fun _ _ h => .ite (h.same (by rfl)) (h.same (by rfl))) _ h
theorem dropReq {t id} (h : s.Canon) : (s.dropReq t id).Canon := h.same rfl
theorem markDone {t id v ok miss} (h : s.Canon) : (s.markDone t id v ok miss).Canon := h.same rfl
theorem landReq {t r v ok} (h : s.Canon) : (s.landReq t r v ok).Canon := h.same rfl
theorem parkFull {t} (h : s.Canon) : (s.parkFull t).Canon := .ite h (h.same rfl)
theorem chunkStore {t r n v} (h : s.Canon) : (s.chunkStore t r n v).Canon := .ite (h.same (by rfl)).parkFull (h.same rfl)
theorem issueGld {k d a o size signed} (h : s.Canon) : Canonical (Machine.issueGld k d a o size signed s) := h.issueG fun _ h => h.gSend
theorem issueGst {k d a o size} (h : s.Canon) : Canonical (Machine.issueGst k d a o size s) := h.issueG fun _ h => h.gSend
theorem issueGa {k d a b fn size} (h : s.Canon) : Canonical (Machine.issueGa k d a b fn size s) := h.issueG fun _ h => h.gSend
theorem scSend {fn v c d a} (h : s.Canon) : (s.scSend fn v c d a).Canon := h.gSend
theorem badReq {t r size} (h : s.Canon) : (s.badReq t r size).Canon := (h.same (by rfl)).usePm.setCtx.dropReq
theorem strikeReq {t r} (h : s.Canon) : (s.strikeReq t r).Canon := (h.same (by rfl)).strikeUse.setCtx.dropReq

theorem performLoad {t r size signed acq} (h : s.Canon) : (s.performLoad t r size signed acq).Canon := by
  have hfill : ∀ {c : Prop} {_ : Decidable c} {line cls cx page hit alloc}, (if c then s else s.fillLine line cls cx page hit alloc).Canon
      :=
    .ite h h.fillLine
  unfold State.performLoad
  split
  · exact .ite h.badReq h.countFill.refreshCopy.landReq.dropClean
  · refine .ite (.ite h.badReq (.landReq (.updPawn (.ite h h.countFill)))) ?_
    exact .ite hfill.badReq (.ite hfill.strikeReq hfill.landReq)

theorem execPawnCacheFill {t} (h : s.Canon) : Canonical (Machine.execPawnCacheFill t s) := by
  unfold Machine.execPawnCacheFill
  split
  · exact .next h
  · split
    · exact .next h.performLoad
    · exact .next h

theorem performStore {t r size rel v} (h : s.Canon) : (s.performStore t r size rel v).Canon := .ite (h.same (by rfl)).storeFenced.setCtx.dropReq (by
  split
  · exact h.writeBackAll.homeUpdate.countFill.dropReq
  · exact .dropReq (.ite h.chunkStore h.acceptStore)
  · exact .dropReq (.ite h.homeUpdate.countFill h.acceptStore))

theorem storeStep {t} (h : s.Canon) : (s.storeStep t).Canon := by
  unfold State.storeStep
  split
  · exact h
  · split
    · exact .ite h.parkFull h.performStore
    · exact h

theorem performAtomic {t r fn size v c} (h : s.Canon) : (s.performAtomic t r fn size v c).Canon :=
  .ite h.writeBackLine.badReq (.markDone (.countFill (by
  split
  · exact h.writeBackLine.homeWrite
  · exact h.writeBackLine)))

theorem execHomeAtomic {t} (h : s.Canon) : Canonical (Machine.execHomeAtomic t s) := by
  unfold Machine.execHomeAtomic
  split
  · exact .next h
  · split
    · exact .next h.performAtomic
    · exact .next h

theorem execAtomicReply {t} (h : s.Canon) : Canonical (Machine.execAtomicReply t s) := by
  unfold Machine.execAtomicReply
  split
  · exact .next h
  · extract_lets s1 s2
    have h1 : s1.Canon := by
      simp only [s1]
      split
      · exact h.refreshCopy
      · exact h
    exact .next (.ite h1.landReq.dropClean h1.landReq)

theorem performSc {t r fn v c} (h : s.Canon) : (s.performSc t r fn v c).Canon := .ite h.writeBackAll.badReq (.markDone (.countFill (by
  split
  · exact h.writeBackAll.homeWrite
  · exact h.writeBackAll)))

theorem scRun {n} (h : s.Canon) : (s.scRun n).Canon := by
  induction n generalizing s with
  | zero => exact h
  | succ n ih =>
    unfold State.scRun
    split
    · exact h
    · split
      · exact .ite (ih h.performSc) h
      · exact h

theorem execScWindowClose (h : s.Canon) : Canonical (Machine.execScWindowClose s) := .next h.scRun

/-! ### Fences -/

theorem fence {scope} (h : s.Canon) : (s.fence scope).Canon := by
  unfold State.fence
  split
  · exact h
  · exact h.same rfl

theorem fenceActions {scope} (h : s.Canon) : (s.fenceActions scope).Canon := .ite h h.writeBackAll.dropClean
theorem rejoin {t} (h : s.Canon) : (s.rejoin t).Canon := .ite h.pawnTrap.updPawn (h.same rfl)

theorem execPawnSwitchRejoin {t} (h : s.Canon) : Canonical (Machine.execPawnSwitchRejoin t s) := .next (by
  split
  · exact .ite h.rejoin h
  · exact .ite h.fenceActions.rejoin h
  · exact .ite (h.same rfl) h
  · exact h.same rfl
  · exact h)

/-! ### Monitors, mailboxes, rings and tasks -/

theorem landWait {t d v} (h : s.Canon) : (s.landWait t d v).Canon := (h.same (by rfl)).land.setCtx
theorem monComplete {t d marked timeout} (h : s.Canon) : (s.monComplete t d marked timeout).Canon := h.landWait.updPawn

theorem monStep {live t} (h : s.Canon) : (s.monStep live t).Canon := by
  unfold State.monStep
  split
  · exact .ite h.monComplete (by
      split
      · exact h
      · exact .ite (h.same rfl) h
      · exact h.same rfl)
  · exact h

theorem execMonwaitTimeout {t} (h : s.Canon) : Canonical (Machine.execMonwaitTimeout t s) := .next (by
  split
  · exact h.monComplete
  · exact h)

theorem execMonitorRegisterAck {t n} (h : s.Canon) : Canonical (Machine.execMonitorRegisterAck t n s) := .next (by
  split
  · exact h
  · exact .ite (h.same rfl) (h.same rfl))

theorem execMonitorHit {loc line} (h : s.Canon) : Canonical (Machine.execMonitorHit loc line s) := .next (.ite (h.same rfl) (h.same rfl))
theorem mailTake {t d} (h : s.Canon) : (s.mailTake t d).Canon := h.landWait.updPawn

theorem mailStep {t} (h : s.Canon) : (s.mailStep t).Canon := by
  unfold State.mailStep
  split
  · exact .ite h.mailTake.updPawn h
  · exact h

theorem deposit {t v} (h : s.Canon) : (s.deposit t v).1.Canon := by
  unfold State.deposit
  split
  · exact h
  · exact h.same rfl

theorem execMailboxDeposit {t sender word} (h : s.Canon) : Canonical (Machine.execMailboxDeposit t sender word s) := .next (.ite (h.same rfl) h)
theorem mailFrom {f} (h : s.Canon) : (s.mailFrom f).Canon := .foldl (fun _ _ h => h.deposit) _ (h.same rfl)

theorem execAckLanding {t ok} (h : s.Canon) : Canonical (Machine.execAckLanding t ok s) := .next (by
  split
  · exact h
  · exact h.same rfl)

theorem answer {t id ok} (h : s.Canon) : (s.answer t id ok).Canon := h.same rfl
theorem ringWrite {key n v} (h : s.Canon) : (s.ringWrite key n v).Canon := .ite h h.lmWrite.staleLocal
theorem ringWord {key v} (h : s.Canon) : (s.ringWord key v).Canon := .ite h h.ringWrite
theorem writeRing {key r} (h : s.Canon) : (s.writeRing key r).Canon := h.ringWord.ringWord.ringWord

theorem writeRecord {at_ header len payload} (h : s.Canon) : (s.writeRecord at_ header len payload).Canon :=
  .ite h.ringWrite h.ringWrite.ringWrite

theorem ringPut {key r header len payload} (h : s.Canon) : (s.ringPut key r header len payload).1.Canon := by
  unfold State.ringPut
  extract_lets
  split
  · dsimp only
    exact h.writeRecord.writeRing
  · split
    · dsimp only
      exact h.ringWrite.writeRecord.writeRing
    · dsimp only
      exact h.writeRing

theorem ringGet {key r dst cap} (h : s.Canon) : (s.ringGet key r dst cap).1.Canon := by
  unfold State.ringGet
  extract_lets _ _ _ _ s1
  have h1 : s1.Canon := .ite h h.lmWrite.staleLocal
  clear_value s1
  split
  · dsimp only
    exact h.writeRing
  · split
    · dsimp only
      exact h.writeRing
    · dsimp only
      exact h1.writeRing

theorem ringBroken {t r} (h : s.Canon) : (s.ringBroken t r).Canon := (h.same (by rfl)).pawnTrap

theorem performRing {t r} (h : s.Canon) : (s.performRing t r).Canon := by
  unfold State.performRing
  refine .ite h.setCtx.useLm.setCtx.dropReq ?_
  split
  · split
    · exact h.ringBroken
    · exact .ite h.writeBackAll.ringPut.answer.updPawn h.writeBackAll.ringPut.answer
  · split
    · exact h.ringBroken
    · exact .ite h.ringGet.landReq.dropClean h.ringGet.landReq
  · exact h

theorem execRingOperation {t} (h : s.Canon) : Canonical (Machine.execRingOperation t s) := .next (by
  split
  · exact h
  · exact .ite h.takeWords.performRing (h.same rfl))

theorem addTask {e} (h : s.Canon) : (s.addTask e).1.Canon := by
  unfold State.addTask
  split
  · exact h.same rfl
  · exact h

theorem execTaskEntryArrival {entry arg0 arg1 arg2 issuer anywhere} (h : s.Canon) : Canonical (Machine.execTaskEntryArrival entry arg0 arg1
    arg2 issuer anywhere s) :=
  .next (h.same rfl)

theorem tasksFrom {f} (h : s.Canon) : (s.tasksFrom f).Canon := .foldl (fun _ _ h => h.addTask) _ (h.same rfl)

theorem takeTask {t e marked} (h : s.Canon) : (s.takeTask t e marked).Canon := by
  unfold State.takeTask
  exact h.landWait.landWait.landWait.landWait.landWait.dropClean.updPawn

theorem taskStep {n} (h : s.Canon) : (s.taskStep n).Canon := by
  induction n generalizing s with
  | zero => exact h
  | succ n ih =>
    unfold State.taskStep
    split
    · exact .ite (ih h.updCore.takeTask) h
    · exact h

theorem execLoadLevelling (h : s.Canon) : Canonical (Machine.execLoadLevelling s) := .next (.ite (.ite (h.same rfl) (h.same rfl)) h)

theorem execRowClaimReply {t} (h : s.Canon) : Canonical (Machine.execRowClaimReply t s) := .next (by
  split
  · exact h
  · split <;> exact h.same rfl)

theorem performMsg {t r} (h : s.Canon) : (s.performMsg t r).Canon := by
  unfold State.performMsg
  split
  · exact .ite h.deposit.answer (h.same rfl)
  · exact .ite h.writeBackAll.addTask.answer h.writeBackAll.bumpFree.answer
  · exact h

theorem msgStep {t} (h : s.Canon) : (s.msgStep t).Canon := by
  unfold State.msgStep
  split
  · exact h
  · exact h.performMsg

/-! ### Trace records -/

theorem traceWrite {core kind thread payload} (h : s.Canon) : (s.traceWrite core kind thread payload).Canon :=
  .setDevReg (.ite (h.same (by rfl)).pmError.ctxCheck (h.same (by rfl)).homeWriteRun)

theorem tracePut {core kind thread payload} (h : s.Canon) : (s.tracePut core kind thread payload).Canon := .ite h.traceWrite (h.same rfl)

theorem traceRecOf {core kind thread payload} (h : s.Canon) : (s.traceRecOf core kind thread payload).Canon :=
  .tracePut (.ite h.traceWrite.updCore h)

theorem traceRec {kind thread payload} (h : s.Canon) : (s.traceRec kind thread payload).Canon := .ite h.traceRecOf.updCore h.traceRecOf
theorem traceJump {source target} (h : s.Canon) : (s.traceJump source target).Canon := .ite h.traceRec h
theorem traceTrap {thread t} (h : s.Canon) : (s.traceTrap thread t).Canon := .ite h.traceRec h
theorem traceReturn {thread pc} (h : s.Canon) : (s.traceReturn thread pc).Canon := .ite h.traceRec h

theorem traceOp {core t word pc} (h : s.Canon) : (s.traceOp core t word pc).Canon :=
  .ite (.ite (h.same rfl) (.ite (h.same (by rfl)).traceRec (h.same (by rfl)).traceRecOf)) h

theorem traceSample {t word pc} (h : s.Canon) : (s.traceSample t word pc).Canon := h.traceOp
theorem tracePeer {core kind thread payload} (h : s.Canon) : (s.tracePeer core kind thread payload).Canon := .ite h.traceRecOf h

theorem traceEngine {kind thread tag op queue status} (h : s.Canon) : (s.traceEngine kind thread tag op queue status).Canon :=
  .ite h.traceRec h

/-! ### Engine commands -/

theorem writeVia {pa va n v} (h : s.Canon) : (s.writeVia pa va n v).Canon := .ite h.homeWriteRun (.foldl (fun _ _ h => h.homeWriteRun) _ h)

theorem countGroup {cx va} (h : s.Canon) : (s.countGroup cx va).Canon := .foldl (fun _ _ h => (by
  split
  · exact h.countHome
  · exact h)) _ h

theorem readGroup {cx va} (h : s.Canon) : (s.readGroup cx va).Canon := by
  unfold State.readGroup
  split
  · exact h.agentPm
  · exact h.countGroup

theorem updEngine {e f} (h : s.Canon) : (s.updEngine e f).Canon := h.same rfl
theorem watchCmd {locks} (h : s.Canon) : (s.watchCmd locks).Canon := .foldl (fun _ _ h => .ite h h.watchOther) _ h

theorem submit {e pawn after w} (h : s.Canon) : (s.submit e pawn after w).Canon :=
  .traceEngine (.watchCmd (.updEngine (.updCore (.ite h.readGroup h.agentLm))))

theorem submitPush (h : s.Canon) : s.submitPush.Canon := by
  unfold State.submitPush
  split
  · exact (h.same (by rfl)).submit
  · exact h

theorem pushWord {e v} (h : s.Canon) : (s.pushWord e v).Canon := by
  unfold State.pushWord
  refine .ite ?_ h.updTh
  extract_lets u
  have hu : u.Canon := h.updTh
  split
  · exact hu.updCore
  · exact .ite (hu.same rfl) hu.submit

theorem popRec {e pawn} (h : s.Canon) : (s.popRec e pawn).Canon := h.same rfl

theorem eqrOne {e} (h : s.Canon) : (s.eqrOne e).Canon := by
  unfold State.eqrOne
  split
  · exact .ite (h.same (by rfl)).strikeUse.setCtx.dropReq.popRec (h.same rfl)
  · exact h

theorem eqrStep {e} (h : s.Canon) : (s.eqrStep e).Canon := .foldl (fun _ _ h => h.eqrOne) _ h

theorem execPawnPushRetry {t} (h : s.Canon) : Canonical (Machine.execPawnPushRetry t s) := .next (by
  split
  · exact h
  · exact .ite (h.same (by rfl)).submit h)

theorem pin {die page t} (h : s.Canon) (e : s.pin die page = some t) : t.Canon := by
  unfold State.pin at e
  extract_lets key n at e
  split at e
  · cases e
  · split at e
    · cases e
    · cases e; exact h.same rfl

theorem unpin {die page} (h : s.Canon) : (s.unpin die page).Canon := h.same rfl
theorem unpinAll {die c} (h : s.Canon) : (s.unpinAll die c).Canon := .foldl (fun _ _ h => h.same (by rfl)) _ h
theorem countUnit {c va pa row} (h : s.Canon) : (s.countUnit c va pa row).Canon := .ite h.countHome h
theorem engineBank {k write} (h : s.Canon) : (s.engineBank k write).Canon := h.takeWord.watchOther

theorem readPlace {c row p} (h : s.Canon) : (s.readPlace c row p).1.Canon := by
  unfold State.readPlace
  split
  · exact h.engineBank.agentLm
  · exact h.countUnit.agentPm
  · exact h

theorem stageRun {c va n} (h : s.Canon) : (s.stageRun c va n).1.Canon := by
  unfold State.stageRun
  refine .foldlFst (fun x p h => ?_) _ h
  split
  · split
    · exact h.cowCopy
    · exact h
  · exact h

theorem writePlace {c row v a} (h : s.Canon) : (s.writePlace c row v a).Canon := by
  unfold State.writePlace
  split
  · exact h.lmWrite.engineBank
  · exact .ite h.agentStore (.countUnit (.homeWrite (.ite (h.same rfl) h)))
  · exact h

theorem setWptr {base n v} (h : s.Canon) : (s.setWptr base n v).Canon := .ite (h.same rfl) (h.same rfl)
theorem advanceWptr {w e key} (h : s.Canon) : (s.advanceWptr w e key).Canon := .ite h.setWptr h
theorem setHead {ch c} (h : s.Canon) : (s.setHead ch c).Canon := h.same rfl

theorem startCmd {ch c} (h : s.Canon) : (s.startCmd ch c).Canon :=
  .ite h.agentStrike (.ite (h.same rfl) (.ite h.setWptr.setHead (.ite (.ite (h.same rfl) h.setWptr.setHead) (h.same rfl))))

theorem finishWord {ch c dst data row v} (h : s.Canon) : (s.finishWord ch c dst data row v).Canon := .setHead (by
  split
  · exact .ite h.writePlace.advanceWptr h.writePlace
  · exact h.writePlace)

theorem readAhead {die c x} (h : s.Canon) (e : s.readAhead die c = some x) : x.1.Canon := by
  unfold State.readAhead at e
  split at e
  · cases e
  · split at e
    · extract_lets pa y at e
      have hy : y.1.Canon := by
        simp only [y]
        split
        · exact h.beginRead
        · exact h
      cases e
      exact hy.agentPm
    · cases e

theorem fetchWord {ch} (h : s.Canon) : (s.fetchWord ch).Canon := by
  unfold State.fetchWord
  split
  · exact h
  · refine .ite h ?_
    split
    next e => exact (h.readAhead e).same rfl
    next => exact h

theorem moveWord {ch c} (h : s.Canon) : (s.moveWord ch c).Canon := by
  unfold State.moveWord
  split
  · exact h
  · refine .fetchWord ?_
    split
    · exact .ite h.stopWaiting.finishWord (h.same rfl)
    · exact h
  · split
    · exact .ite h.stopWaiting.finishWord (h.same rfl)
    · extract_lets far x s1
      have h1 : s1.Canon := .ite h.stopWaiting.readPlace.spendMesh h.stopWaiting.readPlace
      exact .ite (h.same rfl) (.ite h1 (.ite h1.setHead h1.finishWord))

theorem copyStep {op ch} (h : s.Canon) : (s.copyStep op ch).Canon := by
  unfold State.copyStep
  split
  · exact h
  · exact .ite h (.ite h.startCmd (.ite h.moveWord h))

theorem execCopy {ch} (h : s.Canon) : Canonical (Machine.execCopy ch s) := .next h.copyStep
theorem execCopy2d {ch} (h : s.Canon) : Canonical (Machine.execCopy2d ch s) := .next h.copyStep
theorem execSplit {ch} (h : s.Canon) : Canonical (Machine.execSplit ch s) := .next h.copyStep
theorem execGather {ch} (h : s.Canon) : Canonical (Machine.execGather ch s) := .next h.copyStep
theorem execScatter {ch} (h : s.Canon) : Canonical (Machine.execScatter ch s) := .next h.copyStep
theorem execFill {ch} (h : s.Canon) : Canonical (Machine.execFill ch s) := .next h.copyStep
theorem execWpset {ch} (h : s.Canon) : Canonical (Machine.execWpset ch s) := .next h.copyStep
theorem collect {w g pa} (h : s.Canon) : (s.collect w g pa).Canon := .bumpFree (.foldl (fun _ _ h => h.writeVia) _ h)
theorem countRun {c va len} (h : s.Canon) : (s.countRun c va len).Canon := .ite h (.foldl (fun _ _ h => h.countHome) _ h)

theorem beginCol {die c} (h : s.Canon) : (s.beginCol die c).1.Canon := by
  unfold State.beginCol
  dsimp only
  exact .foldlFst (fun x i h => by dsimp only; exact h.beginRead) _ h

theorem acceptSeq {g seq} (h : s.Canon) : (s.acceptSeq g seq).Canon := h.same rfl

theorem sendChunk {c x} (h : s.Canon) (e : s.sendChunk c = some x) : x.1.Canon := by
  unfold State.sendChunk at e
  extract_lets total at e
  split at e
  · split at e
    · cases e; exact h
    · cases e; exact h.updDev.acctAdd
  · cases e

theorem endStreams {c} (h : s.Canon) : (s.endStreams c).Canon := h.same rfl
theorem runCollective {c} (h : s.Canon) : (s.runCollective c).Canon := .foldl (fun _ _ h => h.same (by rfl)) _ h.collect.countRun.endStreams

theorem colGroup {c} (h : s.Canon) : (s.colGroup c).Canon := by
  unfold State.colGroup
  split
  · exact .ite h.countGroup.setHead (.ite h h.countGroup.updCore.setHead)
  · exact .ite (h.same rfl) (h.same rfl)

theorem colRun {c} (h : s.Canon) : (s.colRun c).1.Canon := by
  unfold State.colRun
  split
  next e => exact h.sendChunk e
  next =>
    split
    · exact h
    · extract_lets n x
      split
      · exact h.stageRun.runCollective
      · exact h.stageRun

theorem colError {pa} (h : s.Canon) : (s.colError pa).Canon := .ite h h.pmError.request

theorem setKept {x c} (h : s.Canon) : (s.setKept x c).Canon := by
  unfold State.setKept
  exact .updDev (.ite (.homeWriteRun (.ite h.unpinAll h)) (.ite h.unpinAll h))

theorem failKept {x c} (h : s.Canon) : (s.failKept x c).Canon := (h.same (by rfl)).unpinAll.updDev

theorem colStep {op} (h : s.Canon) : (s.colStep op).Canon := by
  unfold State.colStep
  split
  · refine .ite h ?_
    extract_lets y
    have hy : y.1.Canon := h.colRun
    split
    · exact h.pmError.failKept
    · exact hy.setKept
  · exact h
  · refine .ite h (.ite (.ite h.agentStrike (.ite h.setHead (.ite ?_ (.ite ?_ h.setHead)))) (.ite ?_ h))
    · split
      · exact h.colError
      · exact h.colGroup
    · exact h.acceptSeq.beginCol.setHead
    · extract_lets y
      have hy : y.1.Canon := h.colRun
      split
      · exact h.colError
      · exact hy.setHead

theorem execAllReduce (h : s.Canon) : Canonical (Machine.execAllReduce s) := .next h.colStep
theorem execReduceScatter (h : s.Canon) : Canonical (Machine.execReduceScatter s) := .next h.colStep
theorem execAllGather (h : s.Canon) : Canonical (Machine.execAllGather s) := .next h.colStep
theorem execBroadcast (h : s.Canon) : Canonical (Machine.execBroadcast s) := .next h.colStep

theorem execCollectiveIncompleteReply {mask} (h : s.Canon) : Canonical (Machine.execCollectiveIncompleteReply mask s) := by
  unfold Machine.execCollectiveIncompleteReply
  extract_lets again
  refine .next ?_
  split
  · exact .ite h.endStreams.setKept h
  · exact .updDev (.getD (.map fun _ => h.endStreams) h)
  · exact .ite (h.same rfl) h
  · exact h

theorem finalWptr {ch c} (h : s.Canon) : (s.finalWptr ch c).Canon := .ite h.setWptr h
theorem faultRec {ch c status} (h : s.Canon) : (s.faultRec ch c status).Canon := h.same rfl

theorem completeCmd {ch c} (h : s.Canon) : (s.completeCmd ch c).Canon := by
  unfold State.completeCmd
  extract_lets _ s1 s2 s3 s4
  have h3 : s3.Canon := h.agentStrike.updCore.unpinAll.finalWptr.updEngine
  have h4 : s4.Canon := .traceEngine (.ite h3 h3.faultRec)
  exact .ite h4.updEngine h4

theorem execEngineCommandCompletion {ch} (h : s.Canon) : Canonical (Machine.execEngineCommandCompletion ch s) := .next (by
  split
  · exact h
  · exact h.completeCmd)

theorem execCompletionRecordPush {ch} (h : s.Canon) : Canonical (Machine.execCompletionRecordPush ch s) := .next (by
  split
  · exact h
  · exact h.same rfl)

/-! ### The move order and chunks -/

theorem commitWrites {c} (h : s.Canon) : (s.commitWrites c).Canon :=
  .foldl (fun _ _ h => h.countHome) _ (.foldl (fun _ _ h => h.homeWrite) _ h)

theorem healCells {pm lm} (h : s.Canon) : (s.healCells pm lm).Canon := h.same rfl
theorem commitLocal {l} (h : s.Canon) : (s.commitLocal l).Canon := .foldl (fun _ _ h => h.lmWrite.staleLocal) _ h

theorem commitChunk {t} (h : s.Canon) : (s.commitChunk t).Canon := by
  unfold State.commitChunk
  extract_lets c _ s1 s2 s3
  have h3 : s3.Canon := h.commitWrites.commitLocal.healCells.updPawn.updCore
  refine .ite h3.monComplete ?_
  split
  · exact h3.updCore
  · exact h3

theorem execMoveOrderVisit {t} (h : s.Canon) : Canonical (Machine.execMoveOrderVisit t s) := by
  unfold Machine.execMoveOrderVisit
  refine .next (.ite h (.ite (.ite (h.same rfl) h) (.ite (h.same rfl) (.ite (h.same rfl) (.ite h (.ite (h.same rfl) ?_))))))
  exact .ite (.ite (h.same rfl) h.commitChunk) (h.same rfl)

/-! ### Runs of register bytes -/

theorem setRegBytes {off l} (h : s.Canon) : (s.setRegBytes off l).Canon := .foldl (fun _ _ h => h.same (by rfl)) _ h

/-! ### Redirects and traps of an op -/

theorem redirect {a} (h : s.Canon) : (s.redirect a).Canon := by
  unfold State.redirect
  split <;> exact h.same rfl

theorem trapAfter {r} (h : s.Canon) : (s.trapAfter r).Canon := by
  unfold State.trapAfter
  split
  · exact h.same rfl
  · exact h.pawnTrap

/-! ### The primary presents its bundle -/

theorem stageOver {α : Type} {tb : OpTable α} {st sent l x} (ht : tb.Keeps) (e : s.stageOver tb st sent l = some x) : x.2.Keeps := by
  induction l generalizing sent with
  | nil => cases e
  | cons y l ih =>
    unfold State.stageOver at e
    extract_lets sp at e
    split at e
    · cases e
      exact ht.spec _
    · exact ih e

theorem bundleTrap {α : Type} {tb : OpTable α} {l x} (ht : tb.Keeps) (e : s.bundleTrap tb l = some x) : x.2.Keeps := by
  obtain ⟨st, -, hst⟩ := List.exists_of_findSome?_eq_some e
  exact Canon.stageOver ht hst

theorem enterTrap {r} (h : s.Canon) : (s.enterTrap r).Canon := .ite h.primTrap h.primTrap.traceTrap

theorem execTrapEntry {c} (h : s.Canon) : Canonical (Machine.execTrapEntry c s) := .next (by
  split
  · exact .ite (h.same (by rfl)).enterTrap h
  · exact h)

theorem execBreakpointHit {n} (h : s.Canon) : Canonical (Machine.execBreakpointHit n s) := .next (.ite h.enterTrap h.debugHalt)
theorem setVacant {l} (h : s.Canon) : (s.setVacant l).Canon := h.same rfl
theorem cycleDone (h : s.Canon) : s.cycleDone.Canon := h.same rfl
theorem emptyBundle (h : s.Canon) : s.emptyBundle.Canon := h.same rfl

theorem endBundle {wasResuming pc} (h : s.Canon) : (s.endBundle wasResuming pc).Canon := .ite h.submitPush.cycleDone.updPrim.traceReturn (by
  split
  · exact h.submitPush.cycleDone.updPrim.traceJump
  · exact .ite h.submitPush.cycleDone.updPrim.traceJump h.submitPush.cycleDone.updPrim)

theorem runSlots {α : Type} {tb : OpTable α} {l} (h : s.Canon) (ht : tb.Keeps) : Canonical (Machine.runSlots tb l s) := by
  induction l generalizing s with
  | nil => exact .next h
  | cons x l ih =>
    unfold Machine.runSlots
    extract_lets s1
    split
    next u hu =>
      have h1 : s1.Canon := h.same rfl
      have h2 : u.Canon := ht.run x.op s1 h1 u hu
      exact ih (h2.same rfl)
    all_goals rintro t ⟨⟩

theorem trapTick {vacant r} (h : s.Canon) : (s.trapTick vacant r).Canon := (h.same (by rfl)).enterTrap

theorem issueBundle {α : Type} {tb : OpTable α} {l} (h : s.Canon) (ht : tb.Keeps) : Canonical (s.issueBundle tb l) := by
  unfold State.issueBundle
  split
  next t e =>
    have h1 : t.Canon := (h.spendToken.setVacant.runSlots ht) t e
    refine .ite (.next h.emptyBundle.updPrim) ?_
    split
    · exact .next h.updPrim.trapTick
    · exact .next h1.endBundle
  all_goals rintro t ⟨⟩

theorem presentBundle {α : Type} {tb : OpTable α} (h : s.Canon) (ht : tb.Keeps) : Canonical (s.presentBundle tb) := by
  unfold State.presentBundle
  split
  · exact .next (.trapTick (.ite (h.same rfl) h))
  · split
    next e => exact .next (h.discardFor (Canon.bundleTrap ht e)).trapTick
    next =>
      split
      · exact .next h.trapTick
      · split
        · exact .next h.emptyBundle.strikeUse
        · exact h.issueBundle ht

theorem presentStart (h : s.Canon) : s.presentStart.Canon := .ite (h.same rfl) (h.same rfl)

theorem presentTurn {α : Type} {tb : OpTable α} (h : s.Canon) (ht : tb.Keeps) : Canonical (s.presentTurn tb) := by
  unfold State.presentTurn
  refine .ite (.next h.presentStart.setVacant) (.ite (.next h.presentStart.emptyBundle.updPrim) ?_)
  split
  · exact .next h.presentStart.emptyBundle.due
  · split
    · exact .next h.presentStart.emptyBundle.due
    · exact .ite (.next h.presentStart.emptyBundle.useLm) (h.presentStart.presentBundle ht)

theorem frozenBundle {α : Type} {t} {tb : OpTable α} {l} (h : s.Canon) : (s.frozenBundle t tb l).Canon :=
  .ite h (.ite (h.same rfl) (.updPrim (.ite (h.same rfl) (h.same rfl))))

theorem watchdogTick {causes} (h : s.Canon) : (s.watchdogTick causes).Canon := .ite h (.ite (h.same rfl) (h.same rfl))
theorem execWatchdogExpiry (h : s.Canon) : Canonical (Machine.execWatchdogExpiry s) := .next (h.same rfl)
theorem freezeTick {causes} (h : s.Canon) : (s.freezeTick causes).Canon := (h.same (by rfl)).watchdogTick

theorem execWatchpointHit {n pawn t addr} (h : s.Canon) : Canonical (Machine.execWatchpointHit n pawn t addr s) :=
  .next (.ite (.ite h.pawnTrap h.primTrap) (.ite h.debugHalt.updPawn h.debugHalt))

theorem landTurn {α : Type} {tb : OpTable α} (h : s.Canon) : Canonical (State.landTurn s tb) := by
  refine .ite (.next (h.same rfl)) ?_
  split
  · exact .next (h.same rfl)
  · refine .ite ?_ ?_
    · exact .next (h.same (by rfl)).agentUse.setTurn.updCore.freezeTick.frozenBundle.setAgenda
    · exact .next (h.same (by rfl)).agentUse.setTurn.updCore.updCore.updPrim.setAgenda

/-! ### The pawns' scan and grants -/

theorem scanOn {n count first} (h : s.Canon) : (s.scanOn n count first).Canon := h.same rfl

theorem idleThread {t ready} (h : s.Canon) : (s.idleThread t ready).Canon := by
  unfold State.idleThread
  split
  · exact h.same rfl
  · exact h

theorem runPawn {α : Type} {tb : OpTable α} {t slot i} {after : State → State} (h : s.Canon) (ht : tb.Keeps)
    (hk : ∀ u : State, u.Canon → (after u).Canon) : Canonical (s.runPawn tb t slot i after) := by
  unfold State.runPawn
  extract_lets p
  split
  · exact .next (hk _ h.setCtx.strikeUse)
  · split
    next u hu =>
      have h1 := ht.run i _ h.setCtx u hu
      exact .next (hk _ (.ite (.traceReturn (.ite h1 h1.traceSample)) (.ite h1 h1.traceSample)))
    all_goals rintro t ⟨⟩

theorem countIssue {t} (h : s.Canon) : (s.countIssue t).Canon := h.same rfl

theorem considerOp {α : Type} {tb : OpTable α} {t n count first w} (h : s.Canon) (ht : tb.Keeps) :
    Canonical (s.considerOp tb t n count first w) := by
  unfold State.considerOp
  extract_lets p at0
  split
  · exact .ite (.next h.idleThread.scanOn) (.next h.idleThread.pawnTrap.scanOn)
  · extract_lets sp
    refine .ite ?_ (.ite (.next h.idleThread.scanOn) (.ite (.next h.idleThread.scanOn) ?_))
    · split
      · exact .next h.countIssue.pawnTrap.scanOn
      · exact h.runPawn ht fun _ h => h.countIssue.scanOn
    split
    · exact .next h.idleThread.pawnTrap.scanOn
    split
    · exact .next h.idleThread.scanOn
    extract_lets at1 s1 s2
    have h2 : s2.Canon := h.spendToken.updCore.bump.acctAdd
    refine .ite (.next h.withhold.bump.idleThread.scanOn) ?_
    split
    · exact .next h.setCtx.idleThread.watchStop.scanOn
    · exact .ite (.next h2.countIssue.pawnTrap.updPawn.scanOn) (h2.runPawn ht fun _ h => h.countIssue.scanOn)

theorem scanThread {α : Type} {tb : OpTable α} {t n count first} (h : s.Canon) (ht : tb.Keeps) :
    Canonical (s.scanThread tb t n count first) := by
  unfold State.scanThread
  refine .ite (.next h.idleThread.scanOn) ?_
  split
  · exact .next h.idleThread.pawnTrap.updPawn.scanOn
  · split
    · exact .ite (.next h.idleThread.bumpFree.pawnTrap.scanOn) (.next h.idleThread.scanOn)
    · exact h.considerOp ht

theorem scanStart {α : Type} {tb : OpTable α} (h : s.Canon) : (s.scanStart tb).Canon := h.same rfl

theorem scanTurn {α : Type} {tb : OpTable α} {n count first} (h : s.Canon) (ht : tb.Keeps) : Canonical (s.scanTurn tb n count first) := by
  unfold State.scanTurn
  extract_lets nt s1 s2
  have h1 : s1.Canon := .ite (h.same rfl) h
  have h2 : s2.Canon := .ite h1.scanStart h1
  exact .ite (.next h1.setTurn) (.ite (h2.scanThread ht) (.next h2.bump.setTurn))

theorem execPawnTrapEntry {t} (h : s.Canon) : Canonical (Machine.execPawnTrapEntry t s) := .next (by
  split
  · exact .ite (h.same (by rfl)).traceTrap h
  · exact h)

theorem noteReads {t w served} (h : s.Canon) : (s.noteReads t w served).Canon := .ite (h.same rfl) h

theorem storeElems {t w n as vs} (h : s.Canon) : (s.storeElems t w n as vs).Canon :=
  .ite (h.same rfl) (.foldl (fun _ _ h => h.staleLocal) _ h.lmStore)

theorem performAccess {t w} (h : s.Canon) : (s.performAccess t w).Canon := by
  unfold State.performAccess
  extract_lets _ s1 s2 _ _ back
  have h2 : s2.Canon := by
    simp only [s2]
    split
    · exact h.noteReads
    · exact .ite h.noteReads h.noteReads.setCtx.useLm.setCtx
  split
  · exact h2.same rfl
  · exact h2.storeElems
  · extract_lets _ u
    have hu : u.Canon := h2.same rfl
    split
    · exact hu.storeElems
    · exact hu

theorem partAccess {t w now} (h : s.Canon) : (s.partAccess t w now).Canon := by
  unfold State.partAccess
  refine .updPawn ?_
  split
  · exact h.storeElems
  · exact h.noteReads

theorem execPawnLmGrant {t} (h : s.Canon) : Canonical (Machine.execPawnLmGrant t s) := .next (by
  split
  · exact h
  · exact .ite h (.ite (.ite h (h.same rfl)) (.ite h.takeWords.partAccess h.takeWords.updPawn.performAccess)))

theorem execPawnFetch {t} (h : s.Canon) : Canonical (Machine.execPawnFetch t s) := .next (.ite h (h.same (by rfl)).useLm.setCtx.takeWords.updPawn)

/-! ### Remote loads and stores, and ports -/

theorem remoteBank {r} (h : s.Canon) : (s.remoteBank r).Canon := h.takeWords.watchOther
theorem updRemote {id f} (h : s.Canon) : (s.updRemote id f).Canon := h.same rfl

theorem remoteRefused {write} (h : s.Canon) : (s.remoteRefused write).Canon := .ite h (by
  split
  · exact h.same rfl
  · exact h)

theorem remoteLoad {r} (h : s.Canon) : (s.remoteLoad r).Canon := by
  unfold State.remoteLoad
  extract_lets _ code s1
  have h1 : s1.Canon := h.remoteBank.setCtx.useLm.setCtx
  split
  · exact h1.updRemote
  · split
    · exact h1.landReq.dropRemote
    · exact h1.dropRemote

theorem execRemoteLoadReply (h : s.Canon) : Canonical (Machine.execRemoteLoadReply s) := .next (by
  split
  · exact h.remoteLoad
  · exact h.remoteRefused)

theorem remoteStore {r} (h : s.Canon) : (s.remoteStore r).Canon := by
  unfold State.remoteStore
  split
  · exact h.lmWrite.remoteBank.updRemote
  · exact h.lmWrite.remoteBank.staleLocal.dropReq.dropRemote

theorem execRemoteStorePerformed (h : s.Canon) : Canonical (Machine.execRemoteStorePerformed s) := .next (by
  split
  · exact h.remoteStore
  · exact h.remoteRefused)

theorem execRemoteStoreAck (h : s.Canon) : Canonical (Machine.execRemoteStoreAck s) := .next (by
  split
  · exact h.same rfl
  · exact h)

theorem execPortDeposit {vec port value _sender far} (h : s.Canon) : Canonical (Machine.execPortDeposit vec port value _sender far s) :=
  .next (.ite (h.same rfl) h)

theorem depositStep {frozen} (h : s.Canon) : (s.depositStep frozen).Canon := h.same rfl

/-! ### The clock -/

theorem enterFar {d} (h : s.Canon) : (s.enterFar d).Canon := .ite h (h.same rfl)

theorem enterExcursion {link} (h : s.Canon) : (s.enterExcursion link).Canon := .updPrim (.updDie (by
  split
  · exact .enterFar (.ite (h.same rfl) h)
  · exact .ite (h.same rfl) h))

theorem settleDie (h : s.Canon) : s.settleDie.Canon := h.same rfl
theorem execTickExchange {l} (h : s.Canon) : Canonical (Machine.execTickExchange l s) := .next (.ite (h.same rfl) h)

theorem execTickStamp {l count} (h : s.Canon) : Canonical (Machine.execTickStamp l count s) := by
  unfold Machine.execTickStamp
  refine .next (.ite ?_ h)
  extract_lets _ s1
  have h1 : s1.Canon := h.same rfl
  split
  · exact h1.same rfl
  · exact .ite h1.enterExcursion (h1.same rfl)

theorem execBeatRaise (h : s.Canon) : Canonical (Machine.execBeatRaise s) := .next (.ite (.ite (h.same rfl) (h.same rfl)) h)

theorem execBeatArrival (h : s.Canon) : Canonical (Machine.execBeatArrival s) :=
  .next (.settleDie (.updPrim (.updDie (.ite h.enterExcursion h))))

theorem execBeatOverdue (h : s.Canon) : Canonical (Machine.execBeatOverdue s) := .next (.ite h.enterExcursion h)
theorem clockSteps (h : s.Canon) : s.clockSteps.Canon := h.same rfl

/-! ### Queues and jobs -/

theorem setQueue {x} (h : s.Canon) : (s.setQueue x).Canon := (h.same (by rfl)).writeFor.writeFor.writeFor
theorem setStatus {cx q st stop} (h : s.Canon) : (s.setStatus cx q st stop).Canon := .ite h.pmError.ctxCheck h.writeFor
theorem closeQueue {cx q} (h : s.Canon) : (s.closeQueue cx q).Canon := h.same rfl

theorem execDoorbell {slot q value} (h : s.Canon) : Canonical (Machine.execDoorbell slot q value s) := .next (by
  split
  · exact h
  · exact .ite h (.ite h.pmError.closeQueue (.ite h.setQueue.setStatus h.setQueue)))

theorem updJob {id f} (h : s.Canon) : (s.updJob id f).Canon := h.same rfl
theorem dropJob {id} (h : s.Canon) : (s.dropJob id).Canon := h.same rfl

theorem unpinJob {j} (h : s.Canon) : (s.unpinJob j).Canon := by
  unfold State.unpinJob
  split
  · exact h.unpinAll
  · exact h

theorem endedDump {cx} (h : s.Canon) : (s.endedDump cx).Canon := h.same rfl

theorem haltQueue {cx q st} (h : s.Canon) : (s.haltQueue cx q st).Canon := by
  unfold State.haltQueue
  split
  · exact h.setStatus.updDev
  · exact .ite h.pmError (.ite h.setStatus.updDev h)

theorem haltQueues {cx st} (h : s.Canon) : (s.haltQueues cx st).Canon :=
  .foldl (fun _ _ h => h.haltQueue) _ (.updDev (.foldl (fun _ _ h => h.unpinJob) _ h))

theorem stopQueues {cx} (h : s.Canon) : (s.stopQueues cx).Canon := h.haltQueues

theorem finishJob {j st} (h : s.Canon) : (s.finishJob j st).Canon := by
  unfold State.finishJob
  extract_lets s1 s2 s3 s4
  have h1 : s1.Canon := h.unpinJob.clearHalts
  have h3 : s3.Canon := by
    simp only [s3]
    split
    · exact h1.dropJob.setQueue
    · exact h1.dropJob
  have h4 : s4.Canon := .ite h3 h3.setStatus
  split
  · exact h1.updJob
  · exact .ite (.stopQueues (.ite h4.endedDump h4)) h4

theorem started {j} (h : s.Canon) : (s.started j).Canon := by
  unfold State.started
  split
  · exact h
  · split
    · exact h.setQueue
    · exact h

theorem failStart {j st} (h : s.Canon) : (s.failStart j st).Canon := h.started.finishJob
theorem failJob {j st} (h : s.Canon) : (s.failJob j st).Canon := .ite h.failStart h.finishJob
theorem chargeRun {cx va n} (h : s.Canon) : (s.chargeRun cx va n).Canon := .foldl (fun _ _ h => .foldl (fun _ _ h => h.chargeLine) _ h) _ h
theorem touchPage {cx p} (h : s.Canon) : (s.touchPage cx p).Canon := h.walkEffects.cowCopy

theorem withPages {j pages} {k : State → State} (h : s.Canon) (hk : ∀ u : State, u.Canon → (k u).Canon) :
    (s.withPages j pages k).Canon := by
  unfold State.withPages
  split
  · exact h.same rfl
  · exact hk _ (.foldl (fun _ _ h => h.touchPage) _ h)

theorem checkJob {j pa} (h : s.Canon) : (s.checkJob j pa).Canon := h.pmError.failJob

theorem withRun {j va n acc} {k : State → State} (h : s.Canon) (hk : ∀ u : State, u.Canon → (k u).Canon) :
    (s.withRun j va n acc k).Canon :=
  h.withPages fun _ h => .ite h.checkJob (hk _ h.chargeRun)

theorem strikeQueue {x} (h : s.Canon) : (s.strikeQueue x).Canon := h.errRecord.closeQueue.ctxCheck.heal
theorem openHeads (h : s.Canon) : s.openHeads.Canon := .foldl (fun _ _ h => .ite h.strikeQueue (h.same (by rfl))) _ h

theorem loadHead {j} (h : s.Canon) : (s.loadHead j).Canon := .ite (by
  split
  · exact h.same rfl
  · exact h.withRun (fun _ h => h.same rfl)) h

theorem loadHeads (h : s.Canon) : s.loadHeads.Canon := .foldl (fun _ _ h => h.loadHead) _ h
theorem markServed {j} (h : s.Canon) : (s.markServed j).Canon := .ite (h.same rfl) h

/-! ### Walks of engines and jobs, invalidation -/

theorem updCmd {ch id f} (h : s.Canon) : (s.updCmd ch id f).Canon := h.same rfl

theorem pinPage {die c va t x} (h : s.Canon) (e : s.pinPage die c va t = some x) : x.1.Canon := by
  unfold State.pinPage at e
  obtain ⟨u, hu, rfl⟩ := Option.map_eq_some_iff.mp e
  exact h.pin hu

theorem pinFor {ch c va t} (h : s.Canon) : (s.pinFor ch c va t).Canon := by
  unfold State.pinFor
  extract_lets s1
  have h1 : s1.Canon := h.agentStrike
  split
  next e => exact (h1.pinPage e).updCmd
  next => exact h1.updCmd

theorem engineWalk {ch c} (h : s.Canon) : (s.engineWalk ch c).Canon := by
  unfold State.engineWalk
  split
  · exact h
  · extract_lets acc w v s1
    have h1 : s1.Canon := h.keepPtrs.walkEffects
    clear_value s1 v
    split
    · exact .ite h.agentStrike h.pinFor
    · refine .ite h.bumpFree.walkCheck.updCmd ?_
      split
      · exact h1.cowCopy.tlbFill.pinFor
      · exact h1.updCmd
      · exact h1.updCmd
      · split
        next e => exact (h1.faultRecord e).updCmd
        next => exact h1.updCmd

theorem jobWalk {j} (h : s.Canon) : (s.jobWalk j).Canon := by
  unfold State.jobWalk
  split
  · exact h
  · extract_lets w v s1 s2 go
    have h1 : s1.Canon := h.walkEffects
    have h2 : s2.Canon := h1.cowCopy
    clear_value s2 s1 v
    refine .ite h.checkJob ?_
    split
    · split
      · exact h2.updJob
      · refine .ite h2.updJob ?_
        split
        next e => exact Canon.updJob (h2.pinPage e)
        next => exact h2
    · exact h1.updJob
    · exact h1.failJob
    · split
      next e => exact Canon.updJob (h1.faultRecord e)
      next => exact h1.updJob

theorem execTranslationWalk {w} (h : s.Canon) : Canonical (Machine.execTranslationWalk w s) := .next (.ite (by
  split
  · exact .ite h h.pawnWalk
  · exact h) (.ite (by
  split
  · exact h.engineWalk
  · exact h) (by
  split
  · exact .ite h.jobWalk h
  · exact h)))

theorem execFqrespWalkAgain {cx id} (h : s.Canon) : Canonical (Machine.execFqrespWalkAgain cx id s) := .next (by
  split
  · exact h
  · exact h.same rfl
  · exact h.same rfl
  · exact h.same rfl
  · exact h.same rfl)

theorem execFqrespDeliver {cx id} (h : s.Canon) : Canonical (Machine.execFqrespDeliver cx id s) := .next (by
  split
  · exact h
  · exact h.parkTrap
  · exact h.same rfl
  · exact h.failJob
  · exact h.same rfl)

theorem startInv {va c} (h : s.Canon) : (s.startInv va c).Canon := .ite h h.setDevReg.setDevReg
theorem execTlbinv {va c} (h : s.Canon) : Canonical (Machine.execTlbinv va c s) := .next h.startInv
theorem execTlbinvFlush {va c} (h : s.Canon) : Canonical (Machine.execTlbinvFlush va c s) := .next h.startInv
theorem wakeBlocked {va c} (h : s.Canon) : (s.wakeBlocked va c).Canon := h.same rfl
theorem staleChunks {va c} (h : s.Canon) : (s.staleChunks va c).Canon := h.same rfl

theorem invalidate {va c} (h : s.Canon) : (s.invalidate va c).Canon := by
  unfold State.invalidate
  exact .updCore (.staleChunks (.ite h.flushLines h))

theorem execTlbinvCompletion (h : s.Canon) : Canonical (Machine.execTlbinvCompletion s) := .next (.ite h.invalidate.wakeBlocked.setDevReg h)

/-! ### Launches -/

theorem withLaunch {j h3} {k : State → State} (h : s.Canon) (hk : ∀ u : State, u.Canon → (k u).Canon) :
    (s.withLaunch j h3 k).Canon :=
  h.withPages fun _ h => .ite h.checkJob (.ite h.checkJob (hk _ h.chargeRun.chargeRun))

theorem execLaunch {j} (h : s.Canon) : Canonical (Machine.execLaunch j s) := .next (by
  split
  · exact h
  · exact .ite h (.ite h.failStart (h.withRun (fun _ h => .ite h.failStart (h.withLaunch (fun _ h => h.same rfl))))))

theorem healFilled {j idx core n} (h : s.Canon) : (s.healFilled j idx core n).Canon := h.same rfl
theorem clearLm {g} (h : s.Canon) : (s.clearLm g).Canon := ⟨memZero_wf _ _ h.lm, h.pm, h.hm⟩
theorem startCore {j idx} (h : s.Canon) : (s.startCore j idx).Canon := h.same rfl

theorem fillClusters {j idxs} (h : s.Canon) : (s.fillClusters j idxs).Canon := by
  unfold State.fillClusters
  refine .foldl (fun u idx h => ?_) _ h
  extract_lets _ s1 s2 s3 s4
  have h1 : s1.Canon := .ite h.clearLm h
  have h2 : s2.Canon := h1.setLm (foldl_wf (fun _ _ h => fillCore_wf h) _ h1.lm)
  have h3 : s3.Canon := .foldl (fun _ _ h => h.healFilled) _ h2
  have h4 : s4.Canon := h3.updDev
  exact .ite h4.startCore.updJob h4

theorem writeManifest {j} (h : s.Canon) : (s.writeManifest j).Canon :=
  (h.same (by rfl)).setRegBytes.setDevReg.setRegBytes.setRegBytes.setRegBytes.setDevReg.setDevReg.setRegBytes

theorem saveJob {j own cause region col} (h : s.Canon) : (s.saveJob j own cause region col).Canon := .acctAdd (by
  split
  · exact h.clearHalts.updDev.updJob.acctAdd
  · exact h.clearHalts.updDev.updJob)

theorem beatFor {j} (h : s.Canon) : (s.beatFor j).2.Canon := by
  unfold State.beatFor
  extract_lets want
  split
  · exact h
  · split
    · exact h
    · exact h.same rfl

theorem takeNo {cx} (h : s.Canon) : (s.takeNo cx).2.Canon := h.same rfl

theorem placeAtClusters {j l} (h : s.Canon) : (s.placeAtClusters j l).Canon := by
  unfold State.placeAtClusters
  exact h.takeNo.bumpFree.started.markServed.updDev.writeManifest.fillClusters

theorem moveCore {g} (h : s.Canon) : (s.moveCore g).Canon := h.same rfl

theorem replaceLost {j} (h : s.Canon) : (s.replaceLost j).Canon := .ite h (.fillClusters (by
  split
  · exact .ite (h.same rfl) (h.same rfl)
  · exact h.same rfl))

theorem execCorePartComplete (h : s.Canon) : Canonical (Machine.execCorePartComplete s) := .next (.ite (h.same rfl) h)
theorem ctxWrite {cx va n v} (h : s.Canon) : (s.ctxWrite cx va n v).Canon := .foldl (fun _ _ h => h.homeWriteRun) _ h
theorem endJob {j st} (h : s.Canon) : (s.endJob j st).Canon := .ite h.finishJob (h.withRun (fun _ h => h.ctxWrite.finishJob))

theorem execLaunchCompletion {j} (h : s.Canon) : Canonical (Machine.execLaunchCompletion j s) := .next (by
  split
  · exact h
  · exact .ite h (.ite (.endJob (.updJob (.clearHalts (.ite h.writeBackAll h)))) (.ite h.endJob h)))

/-! ### Queue commands -/

theorem startJob {j} (h : s.Canon) : (s.startJob j).Canon := h.started.markServed
theorem setPhase {j p} (h : s.Canon) : (s.setPhase j p).Canon := h.same rfl

theorem atHead {j kind} {k : State → State} (h : s.Canon) (hk : ∀ u : State, u.Canon → (k u).Canon) : (s.atHead j kind k).Canon :=
  .ite h (.ite h.failStart (hk _ h))

theorem readCmd {j} {k : State → List Word64 → State} (h : s.Canon) (hk : ∀ (u : State) w, u.Canon → (k u w).Canon) :
    (s.readCmd j k).Canon :=
  h.withRun fun _ h => hk _ _ h

theorem stageWord {c p} (h : s.Canon) : (s.stageWord c p).1.Canon := by
  unfold State.stageWord
  split
  · exact h.stageRun
  · exact h

theorem jobWord {j c} (h : s.Canon) : (s.jobWord j c).Canon := by
  unfold State.jobWord
  split
  · exact h.unpinJob.updJob
  · extract_lets put x
    have hput : ∀ v, (put s v).1.Canon := by
      intro v
      simp only [put]
      split
      · exact h.stageWord.writePlace
      · exact h.stageWord
    have hx : x.1.Canon := by
      simp only [x]
      split
      · exact hput _
      · exact h
    split
    · exact h.checkJob
    · split
      · exact (hput _).updJob
      · split
        · exact hx.checkJob
        · exact .updJob (.getDFst (fun _ e => hx.readAhead e) hx)

theorem execQueueCopy {j} (h : s.Canon) : Canonical (Machine.execQueueCopy j s) := by
  unfold Machine.execQueueCopy
  refine .next ?_
  split
  · exact h
  · refine .ite h ?_
    split
    · exact h.atHead fun _ h => h.readCmd fun _ _ h => .ite h.updJob h.failStart
    · exact .ite h h.startJob.updJob
    · exact h.jobWord
    · exact h.endJob
    · exact h

theorem joinGroup {j c} (h : s.Canon) : (s.joinGroup j c).Canon := by
  unfold State.joinGroup
  split
  · exact h.checkJob
  · split
    · exact .ite h.countGroup.updJob h.countGroup.failStart
    · exact .ite h.failStart (h.same rfl)

theorem execQueueCollective {j} (h : s.Canon) : Canonical (Machine.execQueueCollective j s) := by
  unfold Machine.execQueueCollective
  refine .next ?_
  split
  · exact h
  · refine .ite h ?_
    split
    · exact h.atHead fun _ h => h.readCmd fun _ _ h => .ite (h.same rfl) h.failStart
    · exact .ite h.joinGroup (.ite h (.ite h.acceptSeq.startJob.beginCol.updJob h.failStart))
    · split
      · exact h.finishJob
      · split
        next e => exact (h.sendChunk e).updJob
        next =>
          split
          · exact h.endStreams.checkJob
          · exact .ite h.stageRun.runCollective.unpinJob.updJob h.stageRun
    · exact h.endJob
    · exact h

theorem hrSignal {h2} (h : s.Canon) : (s.hrSignal h2).Canon := .ite (h.same rfl) (h.same rfl)

theorem hrPut {r payload cx queue} (h : s.Canon) : (s.hrPut r payload cx queue).Canon := by
  unfold State.hrPut
  extract_lets _ _ _ _ _ s1 s2 _ s3
  have h1 : s1.Canon := ⟨h.lm, h.pm, memWrite_wf _ _ _ _ (memWrite_wf _ _ _ _ h.hm)⟩
  have h3 : s3.Canon := h1.setDevReg.setDevReg.updDev
  exact .ite h3.hrSignal h3

theorem execHostNotification {j} (h : s.Canon) : Canonical (Machine.execHostNotification j s) := .next (by
  split
  · exact h
  · exact .ite (.ite h h.hrPut.finishJob) (h.atHead (fun _ h => .ite h.startJob.setPhase h.startJob.setPhase.hrPut.finishJob)))

theorem execHostRingTimeExpiry {h1} (h : s.Canon) : Canonical (Machine.execHostRingTimeExpiry h1 s) := .next (.ite h.hrSignal h)
theorem execHrptrWrite {h1 head} (h : s.Canon) : Canonical (Machine.execHrptrWrite h1 head s) := .next (.ite (h.same rfl) h)
theorem waitCheck {j} (h : s.Canon) : (s.waitCheck j).Canon := .ite h.finishJob (h.same rfl)

theorem execEventWait {j} (h : s.Canon) : Canonical (Machine.execEventWait j s) := .next (by
  split
  · exact h
  · exact h.atHead (fun _ h => h.withRun (fun _ h => h.startJob.setPhase.waitCheck)))

theorem execEventWaitRecheck {j} (h : s.Canon) : Canonical (Machine.execEventWaitRecheck j s) := .next (by
  split
  · exact h
  · exact .ite (h.withRun (fun _ h => h.waitCheck)) h)

theorem execConditional {j} (h : s.Canon) : Canonical (Machine.execConditional j s) := .next (by
  split
  · exact h
  · exact h.atHead (fun _ h => h.withRun (fun _ h => h.startJob.updJob.finishJob)))

theorem settleGraph {g} (h : s.Canon) : (s.settleGraph g).Canon := by
  unfold State.settleGraph
  split
  · exact h
  · split
    · exact h
    · exact .ite h (by
        split
        · exact h.finishJob
        · exact .ite (h.same rfl) h.finishJob)

theorem execRunGraph {j} (h : s.Canon) : Canonical (Machine.execRunGraph j s) := .next (by
  split
  · exact h
  · exact h.atHead (fun _ h => h.withRun (fun _ h => h.startJob.updJob.settleGraph)))

theorem execGraphNodeStart {g n} (h : s.Canon) : Canonical (Machine.execGraphNodeStart g n s) := .next (by
  split
  · exact h
  · split
    · exact h
    · exact .ite (h.same rfl) h)

theorem execGraphNodeCompletion {j} (h : s.Canon) : Canonical (Machine.execGraphNodeCompletion j s) := .next (by
  split
  · exact h
  · split
    · exact (h.same (by rfl)).settleGraph
    · exact h)

theorem execFeatlockWrite {v} (h : s.Canon) : Canonical (Machine.execFeatlockWrite v s) := .next (h.same rfl)
theorem failUnassigned {j} (h : s.Canon) : (s.failUnassigned j).Canon := .ite h.failStart h
theorem serveQueues (h : s.Canon) : s.serveQueues.Canon := .foldl (fun _ _ h => h.failUnassigned) _ h.openHeads.loadHeads

/-! ### The save record and the window -/

theorem setChan {ws} (h : s.Canon) : (s.setChan ws).Canon := by
  unfold State.setChan
  extract_lets ws s1 r1 r2 len s2
  have h0 : s1.Canon := h.updCore
  have h1 : r1.1.Canon := by
    refine .foldlFst (fun _ _ h => ?_) _ ?_
    · dsimp only
      exact h.updEngine
    · exact h0
  have h2 : r2.1.Canon := .foldlFst (fun _ _ h => by dsimp only; exact h.updEngine) _ h1
  have h3 : s2.Canon := h2.updPrim
  exact .foldlFst (fun _ _ h => by dsimp only; exact h.updPawn) _ (x := (s2, _)) h3

theorem setChanWord {w v} (h : s.Canon) : (s.setChanWord w v).Canon := .ite h.setChan h

theorem setImage {i w v} (h : s.Canon) : (s.setImage i w v).Canon := by
  unfold State.setImage
  split
  · exact h
  · exact h.same rfl

theorem setPrimWord {w v} (h : s.Canon) : (s.setPrimWord w v).Canon := by
  unfold State.setPrimWord
  iterate 10 refine .ite (h.same rfl) ?_
  exact .ite h.setCtx.csrWrite.setCtx h

theorem setPawnWord {t w v} (h : s.Canon) : (s.setPawnWord t w v).Canon := by
  unfold State.setPawnWord
  extract_lets csr u
  have hc : ∀ k, (csr s k).Canon := by
    intro k
    simp only [csr]
    split
    · exact h.setCtx.csrWrite.setCtx
    · exact h
  clear_value u csr
  refine .ite h.updPawn (.ite h.updPawn (.ite h.updPawn (.ite h.updPawn (.ite h.updPawn (.ite h.updPawn ?_)))))
  exact .ite (hc _) (.ite h.updPawn (.ite h.updPawn (.ite h.updPawn (.ite h.updPawn h))))

theorem setRecWord {o v} (h : s.Canon) : (s.setRecWord o v).Canon := by
  unfold State.setRecWord
  extract_lets x i w upW
  split
  · exact h.lmWrite
  · exact h.same rfl
  · exact h.same rfl
  · exact h.same rfl
  · exact h.same rfl
  · exact h.same rfl
  · exact .ite (h.same rfl) (h.same rfl)
  · exact .ite (h.same rfl) h
  · exact h.setPrimWord
  · exact .ite h.setPawnWord h
  · exact h.setImage
  · exact h.setChanWord
  · exact h.same rfl
  · exact h

theorem applyWindow (h : s.Canon) : s.applyWindow.Canon := .foldl (fun _ _ h => h.setRecWord) _ (h.same rfl)

theorem windowWrite {o v} (h : s.Canon) : (s.windowWrite o v).Canon := by
  unfold State.windowWrite
  split
  · exact h.setRecWord
  · exact h
  · exact h
  · exact h.same rfl

/-! ### Preemption and restore -/

theorem stopCore (h : s.Canon) : s.stopCore.Canon := by
  unfold State.stopCore
  extract_lets s1 s2 old
  have h1 : s1.Canon := .getD (.map fun _ => h.same rfl) h
  have h2 : s2.Canon := .foldl (fun _ _ h => .foldl (fun _ _ h => h.unpinAll) _ h) _ h1
  clear_value s2
  exact ⟨h2.lm, h2.pm, h2.hm⟩

theorem endOwn {st} (h : s.Canon) : (s.endOwn st).Canon := by
  unfold State.endOwn
  split
  · exact h.finishJob.stopCore
  · exact h.stopCore

theorem landHalt (h : s.Canon) : s.landHalt.Canon := by
  unfold State.landHalt
  exact .updPrim (.foldl (fun _ _ h => h.bankWrite) _ (.ite h.updPrim.landAll (.foldl (fun _ _ h => h.useEntry) _ h.updPrim.landAll)))

theorem execPreemptionRequest {c} (h : s.Canon) : Canonical (Machine.execPreemptionRequest c s) := by
  unfold Machine.execPreemptionRequest
  refine .next (.ite h ?_)
  extract_lets s1
  have h1 : s1.Canon := h.same rfl
  split
  · exact h1
  · exact h1.clearHalted.applyWindow.landHalt.markHalt.updPrim.updCore

theorem writeRegion {j cause inner region col} (h : s.Canon) : (s.writeRegion j cause inner region col).Canon := by
  unfold State.writeRegion
  extract_lets m1 m2 s1
  have hm : m2.wf = true := foldl_wf (fun _ _ h => coreRecord_wf h) _ (launchRecord_wf h.pm)
  have h1 : s1.Canon := (h.setPm hm).healPm
  exact ⟨h1.lm, h1.pm, h1.hm⟩

theorem saveBad {j t} (h : s.Canon) (e : s.saveBad j = some t) : t.Canon := by
  unfold State.saveBad at e
  split at e
  · cases e; exact h.lmError
  · split at e
    · obtain ⟨l, -, rfl⟩ := Option.map_eq_some_iff.mp e
      exact h.coreError
    · cases e

theorem unpinCore (h : s.Canon) : s.unpinCore.Canon := .foldl (fun _ _ h => .foldl (fun _ _ h => h.unpinAll) _ h) _ h

theorem saveAway {j cause region} (h : s.Canon) : (s.saveAway j cause region).Canon := by
  unfold State.saveAway
  split
  next e => exact (h.saveBad e).finishJob
  next => exact .ite h.pmError.finishJob (.saveJob (.writeRegion (.ite h.writeBackAll h)))

theorem dropSaved {id} (h : s.Canon) : (s.dropSaved id).Canon := by
  unfold State.dropSaved
  refine .updDev (.foldl (fun _ _ h => ?_) _ h)
  split
  · exact (h.same (by rfl)).unpinAll
  · exact h

theorem saveOwn {j cause inner region} (h : s.Canon) : (s.saveOwn j cause inner region).Canon := by
  unfold State.saveOwn
  extract_lets ended s1 col s2 s3 s4 s5 s6
  have h1 : s1.Canon := .getD (.map fun _ => h.unpinAll) h
  have h2 : s2.Canon := h1.updEngine
  have h3 : s3.Canon := .unpinCore (.ite h2.updCore h2.writeBackAll)
  have h5 : s5.Canon := h3.updCore.writeRegion.saveJob.stopCore
  refine .ite ?_ h5
  split
  · exact h5.dropSaved.finishJob
  · exact h5.dropSaved

theorem execContextSave (h : s.Canon) : Canonical (Machine.execContextSave s) := by
  unfold Machine.execContextSave
  refine .next (.ite h ?_)
  split
  · split
    next e => exact (h.saveBad e).endOwn
    next =>
      split
      · exact .ite h.pmError.endOwn h.saveOwn
      · exact .ite h h.endOwn
  · exact h.stopCore

theorem resumePawns {x} (h : s.Canon) : (s.resumePawns x).Canon := h.same rfl
theorem rebaseAll {f} (h : s.Canon) : (s.rebaseAll f).Canon := h.same rfl
theorem resumeCore {x j} (h : s.Canon) : (s.resumeCore x j).Canon := h.same rfl
theorem loadRecord {a} (h : s.Canon) : (s.loadRecord a).Canon := .setChan (.foldl (fun _ _ h => h.setRecWord) _ h)

theorem loadLm {x j} (h : s.Canon) : (s.loadLm x j).Canon := by
  unfold State.loadLm
  refine .foldl (fun _ _ h => ?_) _ h
  extract_lets _ s1 _ m1 m2
  have h1 : s1.Canon := .ite h.clearLm h
  have hm1 : m1.wf = true := memMove_wf h1.lm
  have hm : m2.wf = true := memWrite_wf _ _ _ _ (memWrite_wf _ _ _ _ (memWrite_wf _ _ _ _ hm1))
  clear_value m2 s1
  exact ⟨hm, h1.pm, h1.hm⟩

theorem movePins {a b c} (h : s.Canon) : (s.movePins a b c).Canon := by
  unfold State.movePins
  exact .ite h (.foldl (fun _ _ h => .getD (fun _ e => h.unpin.pin e) h) _ h)

theorem resumeCol {x} (h : s.Canon) : (s.resumeCol x).Canon := by
  unfold State.resumeCol
  split
  · exact h
  · exact .ite h.movePins.updEngine.completeCmd h.movePins.updEngine

theorem restoreAt {x l} (h : s.Canon) : (s.restoreAt x l).Canon := by
  unfold State.restoreAt
  extract_lets idx _ j s1 s2 s3
  have h2 : s2.Canon := h.updDev.updJob.loadLm
  have h3 : s3.Canon := by
    simp only [s3]
    split
    · exact h2.acctAdd
    · exact h2
  clear_value s3 idx
  split
  · exact h3.fillClusters
  · exact h3.fillClusters.moveCore.resumeCore.loadRecord.resumePawns.rebaseAll.updCore.resumeCol

theorem execContextRestore {j} (h : s.Canon) : Canonical (Machine.execContextRestore j s) := by
  unfold Machine.execContextRestore
  refine .next ?_
  split
  · exact h
  · refine .ite h.dropSaved.finishJob (.ite h ?_)
    split
    · exact h
    · refine .ite h.pmError.dropSaved.finishJob ?_
      exact .ite h.beatFor.restoreAt h.beatFor

theorem preemptFor {j} (h : s.Canon) : (s.preemptFor j).Canon := by
  unfold State.preemptFor
  split
  · exact h
  · exact .ite (h.same rfl) (by
      split
      · exact h.saveAway
      · exact h)

theorem execLaunchPlacement {j} (h : s.Canon) : Canonical (Machine.execLaunchPlacement j s) := by
  unfold Machine.execLaunchPlacement
  refine .next ?_
  split
  · exact h
  · extract_lets held b
    have hb : b.2.Canon := h.beatFor
    clear_value b
    refine .ite h (.ite h (.ite ?_ (.ite h (.ite h.failStart ?_))))
    · exact h.withLaunch fun _ h => h.replaceLost
    · split
      · exact .ite (h.withLaunch fun _ h => h.placeAtClusters) hb
      · simp only [held]
        split
        · exact h.updJob
        · exact h.preemptFor.updJob

/-! ### Fenced clusters and dies, scrub and test -/

theorem loseFor {lost st j} (h : s.Canon) : (s.loseFor lost st j).Canon := by
  have hu {f} : ((s.clearHalts (j.clusters.filter lost)).updJob j.id f).Canon := h.clearHalts.updJob
  exact .ite h (.ite (.ite hu.stopCore hu) (.ite h.finishJob.stopCore h.finishJob))

theorem loseClusters {lost st} (h : s.Canon) : (s.loseClusters lost st).Canon := .foldl (fun _ _ h => (by
  split
  · exact h.loseFor
  · exact h)) _ h

theorem fenceCluster {d c} (h : s.Canon) : (s.fenceCluster d c).Canon := (h.same (by rfl)).loseClusters

theorem electMaster (h : s.Canon) : s.electMaster.Canon := .ite h (by
  split
  · exact h
  · exact h.same rfl)

theorem fenceDie {d} (h : s.Canon) : (s.fenceDie d).Canon := .ite h (h.same (by rfl)).electMaster.loseClusters
theorem execHeartbeat {die} (h : s.Canon) : Canonical (Machine.execHeartbeat die s) := .next (h.same rfl)
theorem execHeartbeatLoss {die} (h : s.Canon) : Canonical (Machine.execHeartbeatLoss die s) := .next (.ite (h.same (by rfl)).fenceDie (h.same rfl))
theorem execLinkRetrainTimeout {l} (h : s.Canon) : Canonical (Machine.execLinkRetrainTimeout l s) := .next (.ite h h.fenceDie.errRecord)
theorem markBad {store addr} (h : s.Canon) : (s.markBad store addr).Canon := .ite h (.ite (h.same rfl) (h.same rfl))

theorem execPatrolScrub {store addr uncorr} (h : s.Canon) : Canonical (Machine.execPatrolScrub store addr uncorr s) :=
  .next (.ite h.markBad.errRecord h)

theorem fenceUnit {store die unit} (h : s.Canon) : (s.fenceUnit store die unit).Canon := by
  unfold State.fenceUnit
  split
  · exact .ite h.fenceCluster h
  · exact .ite (h.same rfl) h
  · exact .ite (h.same rfl) h
  · exact .ite h (h.same rfl)
  · exact h.fenceDie
  · exact h

theorem execSelfTestVerdict {store die unit verdict} (h : s.Canon) : Canonical (Machine.execSelfTestVerdict store die unit verdict s) :=
  .next (by
  split
  · exact h
  · exact .ite (.errRecord (.ite (h.same rfl) (.ite (h.same (by rfl)).fenceUnit (h.same rfl)))) h)

theorem scrubTick (h : s.Canon) : s.scrubTick.Canon := .ite (.ite (h.same rfl) (h.same rfl)) h

/-! ### Acts of the peers -/

theorem plainStore {key n v} (h : s.Canon) : (s.plainStore key n v).Canon := .ite h h.lmWrite
theorem setCxl {on} (h : s.Canon) : (s.setCxl on).Canon := .ite (h.same rfl) (h.same rfl)

theorem strikeAt {l} (h : s.Canon) : (s.strikeAt l).Canon := by
  unfold State.strikeAt
  split <;> exact h.same rfl

theorem peerAct {a t} (h : s.Canon) (e : s.peerAct a = some t) : t.Canon := by
  unfold State.peerAct at e
  split at e
  · extract_lets ws s1 at e
    have h1 : s1.Canon := h.takeWords.watchOther
    split at e
    · cases e
    · cases e
      clear_value s1
      split
      · exact .ite h1.plainStore h1.ringWrite
      · exact h1
  · split at e
    · cases e; exact h
    · extract_lets ws place s1 at e
      have h1 : s1.Canon := .foldl (fun _ _ h => h.watchOther) _ h.takeWords
      split at e
      · cases e
        exact .ite h1.lmError h1.ringPut
      · cases e
  · cases e; exact h.setWptr
  · extract_lets k at e
    split at e
    · cases e
    · cases e; exact h.updCore
  · cases e; exact h.updCore
  · split at e
    · cases e; exact h.updCore
    · cases e
  · cases e; exact h.updCore
  · cases e; exact .ite h.acceptSeq h
  · cases e
    split
    · exact h
    · exact h.bumpFree.updPrim
  · cases e; exact h.rowPostFor
  · cases e; exact h.updDie
  · cases e; exact h.traceOp
  · cases e; exact h.tracePeer
  · cases e; exact .ite h h.addTask
  · cases e; exact h.updDev
  · cases e; exact .ite h.enterExcursion h
  · cases e; exact .ite h (.ite h.enterFar h.updDev)
  · cases e; exact .ite h.enterExcursion.askTest h
  · cases e; exact .ite h (h.same rfl)
  · cases e; exact h.setCxl
  · cases e; exact h.updDev
  · cases e; exact h.updDev
  · cases e; exact .ite h.haltBy h
  · cases e; exact h.strikeAt
  · cases e; exact h.askTest
  · cases e; exact h.fenceDie

theorem tryPeer {a} (h : s.Canon) : (s.tryPeer a).Canon := by
  unfold State.tryPeer
  split
  next e => exact (h.peerAct e).same rfl
  next => exact h

theorem peersAct {phase} (h : s.Canon) : (s.peersAct phase).Canon := .foldl (fun _ _ h => h.tryPeer) _ h
theorem servePeers {place} (h : s.Canon) : (s.servePeers place).Canon := .foldl (fun _ _ h => h.tryPeer) _ h

/-! ### Slots, eviction and accounting -/

theorem preemptCtx {cx} (h : s.Canon) : (s.preemptCtx cx).Canon := .foldl (fun _ _ h => .ite h (.ite (.ite h (h.same (by rfl))) (by
  split
  · exact h.saveAway
  · exact h))) _ h

theorem startEvict {slot} (h : s.Canon) : (s.startEvict slot).Canon := by
  unfold State.startEvict
  split
  · exact h
  · exact .ite h (h.same (by rfl)).preemptCtx

theorem execCtxslotWrite {slot v} (h : s.Canon) : Canonical (Machine.execCtxslotWrite slot v s) :=
  .next (.ite h (.ite h (.ite (h.same (by rfl)).startEvict (h.same rfl))))

theorem execCtxslotEvict {slot} (h : s.Canon) : Canonical (Machine.execCtxslotEvict slot s) := .next (.ite h.startEvict h)
theorem forgetCtx {cx} (h : s.Canon) : (s.forgetCtx cx).Canon := h.same rfl
theorem flushCtx {cx} (h : s.Canon) : (s.flushCtx cx).Canon := .forgetCtx (.ite h.flushLines h)
theorem discardCtx {cx} (h : s.Canon) : (s.discardCtx cx).Canon := .forgetCtx (.ite (h.same rfl) h)
theorem clearSlot {slot} (h : s.Canon) : (s.clearSlot slot).Canon := h.same rfl

theorem execEvictionCompletion {slot} (h : s.Canon) : Canonical (Machine.execEvictionCompletion slot s) := .next (by
  split
  · exact h
  · exact .ite h (.ite h.flushCtx.clearSlot h.preemptCtx))

theorem execSintrWrite {n word} (h : s.Canon) : Canonical (Machine.execSintrWrite n word s) := .next (.ite (h.same rfl) h)
theorem clearAccts (h : s.Canon) : s.clearAccts.Canon := .updDev (.foldl (fun _ _ h => h.same (by rfl)) _ h)
theorem powerBoundary {watts} (h : s.Canon) : (s.powerBoundary watts).Canon := h.setDevReg.bumpFree.updDev.setDevReg.bumpFree

theorem execAccountingBoundary {measured idle} (h : s.Canon) : Canonical (Machine.execAccountingBoundary measured idle s) := by
  unfold Machine.execAccountingBoundary
  exact .next h.bumpFree.updDev.setDevReg.updDev.setDevReg.powerBoundary.clearAccts

theorem execAcctclr {cx} (h : s.Canon) : Canonical (Machine.execAcctclr cx s) := .next (h.same rfl)
theorem execAccountingReadout {first count} (h : s.Canon) : Canonical (Machine.execAccountingReadout first count s) := .next (.ite (h.same rfl) h)

/-! ### The responder -/

theorem execGetVersion (h : s.Canon) : Canonical (Machine.execGetVersion s) := .next (h.same rfl)
theorem execGetCapabilities (h : s.Canon) : Canonical (Machine.execGetCapabilities s) := .next (h.same rfl)
theorem execNegotiateAlgorithms (h : s.Canon) : Canonical (Machine.execNegotiateAlgorithms s) := .next (h.same rfl)
theorem execGetDigests (h : s.Canon) : Canonical (Machine.execGetDigests s) := .next (h.same rfl)
theorem execGetCertificate {off len} (h : s.Canon) : Canonical (Machine.execGetCertificate off len s) := .next (h.same rfl)
theorem ask {a} (h : s.Canon) : (s.ask a).Canon := h.same rfl
theorem execChallenge {nonce} (h : s.Canon) : Canonical (Machine.execChallenge nonce s) := .next (h.same rfl)
theorem execGetMeasurements {idx nonce} (h : s.Canon) : Canonical (Machine.execGetMeasurements idx nonce s) := .next (h.same rfl)
theorem execUnsupportedSpdmRequest {code} (h : s.Canon) : Canonical (Machine.execUnsupportedSpdmRequest code s) := .next (h.same rfl)
theorem clearSig (h : s.Canon) : s.clearSig.Canon := h.setRegBytes
theorem execQuoteStart {v} (h : s.Canon) : Canonical (Machine.execQuoteStart v s) := .next (.ite h (h.same (by rfl)).clearSig.ask)

theorem takeAsk {a} (h : s.Canon) : (s.takeAsk a).Canon := by
  unfold State.takeAsk
  split
  · exact .ite (h.same rfl) (.ite (h.same rfl) (h.same rfl))
  · exact h.same rfl
  · exact h.same rfl
  · exact h.same rfl

theorem takeAsks (h : s.Canon) : s.takeAsks.Canon := .foldl (fun _ _ h => h.takeAsk) _ (h.same rfl)

theorem execQuoteSigned (h : s.Canon) : Canonical (Machine.execQuoteSigned s) := .next (by
  split
  · exact h
  · split
    · exact (h.same (by rfl)).setRegBytes.setDevReg
    · exact h.same rfl
    · exact h.same rfl)

theorem boot (h : s.Canon) : s.boot.Canon := h.setRegBytes.setDevReg

/-! ### Halts and dumps -/

theorem haltOther {g source} (h : s.Canon) : (s.haltOther g source).Canon := by
  unfold State.haltOther
  split
  · exact h
  · exact .ite h (.ite (h.same rfl) (h.same rfl))

theorem haltCluster {g source} (h : s.Canon) : (s.haltCluster g source).Canon := .ite (.ite h.debugHalt h) h.haltOther
theorem execDbgHaltreq {g} (h : s.Canon) : Canonical (Machine.execDbgHaltreq g s) := .next h.haltCluster
theorem execCrossTriggerHalt {g} (h : s.Canon) : Canonical (Machine.execCrossTriggerHalt g s) := .next h.haltCluster
theorem resumeOwn (h : s.Canon) : s.resumeOwn.Canon := h.applyWindow.updPrim.setPawns
theorem execDbgResume {g} (h : s.Canon) : Canonical (Machine.execDbgResume g s) := .next (.ite (.ite (h.same (by rfl)).resumeOwn (h.same rfl)) h)

theorem endDump {st} (h : s.Canon) : (s.endDump st).Canon := by
  unfold State.endDump
  split
  · exact h
  · exact h.same rfl

theorem execDumpStart {v} (h : s.Canon) : Canonical (Machine.execDumpStart v s) := .next (.ite h (h.same (by rfl)).preemptCtx)

theorem sendPage {d p rest} (h : s.Canon) : (s.sendPage d p rest).Canon := by
  unfold State.sendPage
  extract_lets _ hm _ _ s1
  have h1 : s1.Canon := ⟨h.lm, h.pm, foldl_wf (fun _ _ h => memSet_wf _ _ h) _ (memZero_wf _ _ h.hm)⟩
  refine .ite h.endDump (.ite h.pmError.ctxCheck.endedDump (.ite h1.endDump ?_))
  split
  · exact h1.wakeBlocked
  · exact h1

theorem execDumpPageSend (h : s.Canon) : Canonical (Machine.execDumpPageSend s) := .next (by
  split
  · exact h
  · exact .ite h.endDump (.ite (.ite (.ite h.endDump (h.same rfl)) h.preemptCtx) (by
      split
      · exact h.endDump
      · exact h.sendPage)))

/-! ### Register writes, host accesses and resets -/

theorem plainWrite {off v} (h : s.Canon) : (s.plainWrite off v).Canon := by
  unfold State.plainWrite
  split
  · exact h
  · exact h.same rfl

theorem via {o} (h : s.Canon) (ho : Canonical o) : (s.via o).Canon := by
  unfold State.via
  split
  · exact ho _ rfl
  · exact h
  · exact h

theorem writeDbgctl {off v} (h : s.Canon) : (s.writeDbgctl off v).Canon := by
  unfold State.writeDbgctl
  extract_lets g old held moved s1 w s2 s3 s4
  have h1 : s1.Canon := .ite (h.via h.execDbgResume) h
  have h2 : s2.Canon := h1.setDevReg
  have h3 : s3.Canon := .ite h2.clearHalted h2
  have h4 : s4.Canon := .ite (h3.via h3.execDbgHaltreq) h3
  exact .ite (h4.via h4.execDbgResume) h4

theorem writeWindow {o v} (h : s.Canon) : (s.writeWindow o v).Canon := .ite h (.ite h.windowWrite (.ite h (by
  split
  · exact h.lmWrite
  · exact h
  · exact h
  · exact h.same rfl)))

theorem writeInv {off v} (h : s.Canon) : (s.writeInv off v).Canon := .ite h (.ite h.startInv h.plainWrite)
theorem writeQuote {off v} (h : s.Canon) : (s.writeQuote off v).Canon := .ite h (.ite (h.via h.execQuoteStart) h.plainWrite)
theorem writeMask {off v} (h : s.Canon) : (s.writeMask off v).Canon := (h.same (by rfl)).plainWrite
theorem writeHead {off v} (h : s.Canon) : (s.writeHead off v).Canon := h.plainWrite.updDev

theorem regWrite {off v} (h : s.Canon) : (s.regWrite off v).Canon := by
  unfold State.regWrite
  refine .ite (.ite h (h.same rfl)) (.ite (h.via h.execFeatlockWrite) (.ite h.writeInv (.ite (h.via h.execAcctclr) ?_)))
  refine .ite (.ite (h.via h.execCtxslotWrite) h) (.ite h.writeQuote (.ite (h.same rfl) ?_))
  refine .ite (.ite h (.ite (h.via h.execDumpStart) h.plainWrite)) ?_
  refine .ite (.ite (h.via h.execFqrespDeliver) (h.via h.execFqrespWalkAgain)) (.ite (.ite (h.via h.execSintrWrite) h) ?_)
  refine .ite h.writeDbgctl (.ite (.ite (h.via h.execDoorbell) h) (.ite (h.via h.execHrptrWrite) ?_))
  exact .ite h.writeWindow (.ite h.writeHead (.ite h.writeMask h.plainWrite))

theorem execRegisterWrite {off value} (h : s.Canon) : Canonical (Machine.execRegisterWrite off value s) := .next (.ite h.regWrite h)
theorem countHost {pa n} (h : s.Canon) : (s.countHost pa n).Canon := .foldl (fun _ _ h => h.countReq) _ h
theorem hostWrite {pa n v} (h : s.Canon) : (s.hostWrite pa n v).Canon := h.countHost.homeWriteRun

theorem execHostApertureAccess {op pa data} (h : s.Canon) : Canonical (Machine.execHostApertureAccess op pa data s) := .next (.ite h (by
  split
  · exact .ite h.pmError h.hostWrite
  · exact .ite h.pmError h
  · exact .ite h.pmError h.hostWrite
  · exact .ite h.pmError (.ite h.hostWrite h)))

theorem execFabricWrite {pa data} (h : s.Canon) : Canonical (Machine.execFabricWrite pa data s) :=
  .next (.ite h (.ite h.pmError h.homeWriteRun))

theorem execPlaneMaskChange {mask} (h : s.Canon) : Canonical (Machine.execPlaneMaskChange mask s) := .next (h.same rfl)
theorem afterReset (h : s.Canon) : s.afterReset.Canon := ⟨rfl, filter_wfFrom _ _ _ h.pm, h.hm⟩
theorem restart (h : s.Canon) : s.restart.Canon := .ite h h.boot
theorem execColdReset (h : s.Canon) : Canonical (Machine.execColdReset s) := .next h.afterReset.restart

theorem execConventionalReset (h : s.Canon) : Canonical (Machine.execConventionalReset s) :=
  .next (.restart (.foldl (fun _ _ h => h.same (by rfl)) _ h.afterReset.updDev))

theorem terminateJob {j} (h : s.Canon) : (s.terminateJob j).Canon := by
  unfold State.terminateJob
  split
  · exact h
  · exact .ite h.unpinJob.clearHalts.dropJob h.finishJob

theorem terminateAll (h : s.Canon) : s.terminateAll.Canon := by
  unfold State.terminateAll
  extract_lets s1 s2
  have h2 : s2.Canon := .foldl (fun _ _ h => h.dropSaved) _ (.foldl (fun _ _ h => h.terminateJob) _ h)
  exact .updDev (.ite h2.stopCore h2)

theorem resetSlot {n} (h : s.Canon) : (s.resetSlot n).Canon := by
  unfold State.resetSlot
  split
  · exact h.haltQueues.discardCtx.clearSlot.setDevReg
  · exact h

theorem execFunctionLevelReset (h : s.Canon) : Canonical (Machine.execFunctionLevelReset s) :=
  .next (.updDev (.foldl (fun _ _ h => h.resetSlot) _ h.terminateAll.endDump))

theorem powerFail (h : s.Canon) : s.powerFail.Canon := .terminateAll (.ite (h.same rfl) h)
theorem execInputUndervoltage (h : s.Canon) : Canonical (Machine.execInputUndervoltage s) := .next h.powerFail.afterReset.updDev

theorem execInputVoltageChange {mv} (h : s.Canon) : Canonical (Machine.execInputVoltageChange mv s) :=
  .next (.updDev (.setDevReg (.ite (h.same (by rfl)).afterReset.boot h)))

/-! ### The other parts of a tick -/

theorem bankWrites (h : s.Canon) : s.bankWrites.Canon := .foldl (fun _ _ h => h.bankWrite) _ (h.same rfl)

theorem backTurn {first} (h : s.Canon) : (s.backTurn first).Canon := by
  have h1 : ((s.setCtx {}).bankWrites.serveQueues.peersAct 1).Canon := h.setCtx.bankWrites.serveQueues.peersAct
  exact .setTurn (.foldl (fun _ _ h => h.same (by rfl)) _ (.ite h1 h1.withhold))

theorem serveTurn {l first} (h : s.Canon) : (s.serveTurn l first).Canon := by
  unfold State.serveTurn
  split
  · exact h.servePeers.setTurn
  · exact h.servePeers.due.setTurn

theorem lateTurn {first more} (h : s.Canon) : (s.lateTurn first more).Canon := (h.same (by rfl)).peersAct.setAgenda.setWork.setTurn

theorem depositMail (h : s.Canon) : s.depositMail.Canon := by
  unfold State.depositMail
  extract_lets own s1 lower u
  have h1 : s1.Canon := .foldl (fun _ _ h => h.deposit) _ h.updCore
  have hu : u.Canon := .foldl (fun _ _ h => h.msgStep) _ h.mailFrom.tasksFrom
  exact .ite (.foldl (fun _ _ h => h.msgStep) _ (.foldl (fun _ _ h => h.addTask) _ h1.updCore)) hu.mailFrom.tasksFrom

theorem settlePawns (h : s.Canon) : s.settlePawns.Canon := by
  unfold State.settlePawns
  extract_lets _ _ s1 s2 s3 s4 s5
  have h1 : s1.Canon := .ite h.taskStep h
  have h2 : s2.Canon := .depositMail (.ite (.foldl (fun _ _ h => h.mailStep) _ h1) h1)
  have h5 : s5.Canon := .foldl (fun _ _ h => h.meshThread) _ (.foldl (fun _ _ h => h.eqrStep) _ (.foldl (fun _ _ h => h.storeStep) _ h2))
  exact .ite h5 (.foldl (fun _ _ h => h.monStep) _ h5)

theorem levelStep (h : s.Canon) : s.levelStep.Canon := .ite (h.same rfl) h

theorem askPreempt (h : s.Canon) : s.askPreempt.Canon := by
  unfold State.askPreempt
  split
  · exact .ite h (.ite (h.same rfl) (h.same rfl))
  · exact h

theorem takeInputs (h : s.Canon) : s.takeInputs.Canon := (h.same (by rfl)).peersAct
theorem noteWithheld (h : s.Canon) : s.noteWithheld.Canon := .ite (h.same rfl) h
theorem streamRow (h : s.Canon) : s.streamRow.Canon := .updCore (.ite h.acctAdd h)

theorem accountTick (h : s.Canon) : s.accountTick.Canon := by
  unfold State.accountTick
  extract_lets s1 _ s2
  have h1 : s1.Canon := .foldl (fun _ _ h => h.acctAdd) _ h
  have h2 : s2.Canon := .ite h1 h1.acctAdd
  exact .ite h1 (.ite h1.streamRow (.ite (.ite h1.acctAdd h1) (.ite h2 (.ite h2.acctAdd (h2.same rfl)))))

theorem ringTick (h : s.Canon) : s.ringTick.Canon := .ite h (.ite (.foldl (fun _ _ h => h.same (by rfl)) _ (h.same rfl)) (h.same rfl))
theorem crossTick (h : s.Canon) : s.crossTick.Canon := .ite h (.foldl (fun _ _ h => h.same (by rfl)) _ (h.same rfl))

theorem endTick {first} (h : s.Canon) : (s.endTick first).Canon := by
  unfold State.endTick
  extract_lets _ s1 _ s2 s3 s4
  have h1 : s1.Canon := h.settlePawns.peersAct.takeAsks.noteWithheld.accountTick.ringTick.scrubTick
  have h2 : s2.Canon := .ite h1 h1.updCore
  have h4 : s4.Canon := h2.updCore.setPawns.updDie.updDev.setOracle.setTurn
  exact h4.depositStep.takeInputs.clockSteps.levelStep.askPreempt.crossTick

/-! ### Division -/

theorem divide {d v} (h : s.Canon) : (s.divide d v).Canon := h.landS.hold.updCore

/-! ### Permutes, scans and reductions -/

theorem landPlain {lat d l} (h : s.Canon) : (s.landPlain lat d l).Canon := h.landV
theorem scanOp {c d a m} (h : s.Canon) : (s.scanOp c d a m).Canon := h.landLanes
theorem reduceOp {c d a m} (h : s.Canon) : (s.reduceOp c d a m).Canon := h.landPlain.raise

/-! ### The accesses of a pawn that translate first -/

theorem execScadd {k d a b} (h : s.Canon) : Canonical (Machine.execScadd k d a b s) := h.issueG fun _ h => h.scSend
theorem execScswap {k d a b} (h : s.Canon) : Canonical (Machine.execScswap k d a b s) := h.issueG fun _ h => h.scSend
theorem execSccas {k d a b} (h : s.Canon) : Canonical (Machine.execSccas k d a b s) := h.issueG fun _ h => h.scSend
theorem execScld {k d a} (h : s.Canon) : Canonical (Machine.execScld k d a s) := h.issueG fun _ h => h.scSend
theorem execScst {k d a} (h : s.Canon) : Canonical (Machine.execScst k d a s) := h.issueG fun _ h => h.scSend
theorem execLdacq {k d a w sc} (h : s.Canon) : Canonical (Machine.execLdacq k d a w sc s) := h.issueG fun _ h => h.gSend
theorem execStrel {k d a w sc} (h : s.Canon) : Canonical (Machine.execStrel k d a w sc s) := h.issueG fun _ h => h.gSend
theorem execMonarm {k n a} (h : s.Canon) : Canonical (Machine.execMonarm k n a s) := h.issueG fun _ h => (h.same (by rfl)).gSend

end State.Canon

theorem Canonical.fault {f : Fault} : Canonical (.fault f) := by rintro t ⟨⟩

theorem Canonical.refused {r : Refusal} : Canonical (.refused r) := by rintro t ⟨⟩

theorem specEqw_keeps (k : Bool) (e a : Field6) : (specEqw k e a).Keeps := by
  intro u h
  unfold specEqw
  exact .ite h.countGroup h

theorem specOf_keeps (i : Instr) : (specOf i).Keeps := by
  cases i with
  | eqw k e a => exact specEqw_keeps k e a
  | _ => exact fun _ h => h

theorem exec_canonical (i : Instr) {s : State} (h : s.Canon) : Canonical (exec i s) := by
  have hs := specOf_keeps i
  cases i with
  | eqcnt | csrr | add | sub | and | or | xor | andn | min | max | minu | maxu | addw | subw | mov | addi | andi | ori | lui | shl | shr |
    sar | rotl | rotr | clz | ctz | popc | bswap | bfx | bfxu | shli | shri | sari | rotli | mul | mulh | mulhu | mulw | ibr | ppack | sel |
    zgenZ | zgenT | zgenW | zamax | mpop | mmovFromMask | vext =>
    exact h.issue hs fun _ h => h.landS
  | viadd | visub | vimul | viand | vior | vixor | vishl | vishr | visar | vimin | vimax | viminu | vimaxu | vsel | vunpack | vwidenI8 |
    vwidenI4 | vdraw | vdrawF =>
    exact h.issue hs fun _ h => h.landLanes
  | cmpEq | cmpNe | cmpLt | cmpGe | cmpLtu | cmpGeu | pand | por | pxor | pandn | pnot | cmpiEq | cmpiNe | cmpiLt | cmpiGe =>
    exact h.issue hs fun _ h => h.landB
  | nop | holdEq | holdNe | holdLt | holdGe | holdLtu | holdGeu | holdEqWp | holdNeWp | holdLtWp | holdGeWp | holdLtuWp | holdGeuWp =>
    exact h.issue hs fun _ h => h
  | vabs | vneg | vcvtFI | vcvtIF | vcvtBfF | vcvtHF | vcvtFBf | vcvtFH | vexp2 | vrcp | vrsqrt | vlog2 =>
    exact h.issue hs fun _ h => h.vec1
  | vperm | vbcl | vbcs | vrot | vins | vcompress | vexpand | vargmax | vcx | vcxD | vmrg | vmrgD =>
    exact h.issue hs fun _ h => h.landPlain
  | gaadd | gaswap | gacas | gamin | gamax | gaminu | gamaxu | gaand | gaor | gaxor | gafadd =>
    exact h.issueGa
  | fenceCore | fenceClus | fenceDie | fencePkg | fenceSys | xfenceCore | xfenceClus | xfenceDie | xfencePkg | xfenceSys =>
    exact h.issue hs fun _ h => h.fence
  | tempo | mldw | mldwS | monarmLm | monwait | monclr | twait | tempoAny | ibar =>
    exact h.issue hs fun _ h => h.same rfl
  | fadd | fsub | fmul | cvtFI | cvtFU | cvtIF | cvtUF | cvtBfF | cvtHF =>
    exact h.issue hs fun _ h => h.landF.countRound
  | gldb | gldbu | gldh | gldhu | gldw | gldwu | gld =>
    exact h.issueGld
  | vcmpEq | vcmpLt | vcmpLe | vcmpUn | vicmpEq | vicmpLt | vicmpLtu =>
    exact h.issue hs fun _ h => h.vecCmp
  | lmadd | lmxchg | lmcas | lmmin | lmmax | lmand | lmor =>
    exact h.issue hs fun _ h => h.lmAtomic
  | ldb | ldbu | ldh | ldhu | ldw | ldwu | ld =>
    exact h.issue hs fun _ h => h.loadS
  | zmul | zadde | zmax | zcvt | zfill | zmov =>
    exact h.issue hs fun _ h => h.landZreg
  | fmin | fmax | fabs | fneg | cvtFBf | cvtFH =>
    exact h.issue hs fun _ h => h.landF
  | scadd => exact h.execScadd
  | scswap => exact h.execScswap
  | sccas => exact h.execSccas
  | scld => exact h.execScld
  | scst => exact h.execScst
  | csrw | zbind | zbindNone | zbindw | mclr =>
    exact h.issue hs fun _ h => h.emit
  | mand | mor | mxor | mnot | mmovToMask =>
    exact h.issue hs fun _ h => h.landM
  | vadd | vsub | vmul | vmin | vmax =>
    exact h.issue hs fun _ h => h.vec2
  | gstb | gsth | gstw | gst =>
    exact h.issueGst
  | mma | mmaFwd | mmaSat | mmaFwdSat =>
    exact h.issue hs fun _ h => h.multiply
  | vredAdd | vredMax | vredMin | vredIadd =>
    exact h.issue hs fun _ h => h.reduceOp
  | rld | rst | rvld | rvst =>
    exact h.issue hs fun _ h => h.remoteAccess
  | stb | sth | stw | st =>
    exact h.issue hs fun _ h => h.storeS
  | fcmpEq | fcmpLt | fcmpLe | fcmpUn =>
    exact h.issue hs fun _ h => h.landFB
  | div | divu | rem | remu =>
    exact h.issue hs fun _ h => h.divide
  | mbput | callat | rqclm =>
    exact h.issue hs fun _ h => h.gSend
  | vscanAdd | vscanMax | vscanIadd =>
    exact h.issue hs fun _ h => h.scanOp
  | vfma | vfms | vfnma =>
    exact h.issue hs fun _ h => h.fused
  | vscatW | vscatH | vscatB =>
    exact h.issue hs fun _ h => h.scatter
  | vgathW | vgathH | vgathB =>
    exact h.issue hs fun _ h => h.gather
  | tld | tldBind | tst =>
    exact h.issue hs fun _ h => h.queueTile
  | vld | vldh | vldb =>
    exact h.issue hs fun _ h => h.loadV
  | ringput | ringget =>
    exact h.issue hs fun _ h => h.touch.gSend
  | ldacq => exact h.execLdacq
  | strel => exact h.execStrel
  | vnarrowI8 | vnarrowI4 =>
    exact h.issue hs fun _ h => h.landPacked
  | vpack | vpackRs =>
    exact h.issue hs fun _ h => h.pack
  | vquant | vquantRs =>
    exact h.issue hs fun _ h => h.quant
  | zld | zst =>
    exact h.issue hs fun _ h => h.access.touch
  | flrel | flacq =>
    exact h.issue hs fun _ h => h.accessOrd.touch
  | vst | vsth =>
    exact h.issue hs fun _ h => h.storeV
  | ibw | punpk =>
    exact h.issue hs fun _ h => h.land
  | fdiv | fsqrt =>
    exact h.issue hs fun _ h => h.slowF.countRound
  | sret | exit =>
    exact h.issue hs (fun _ h => (by split <;> exact h.same rfl))
  | br | jr =>
    exact h.issue hs fun _ h => h.redirect
  | call | calli =>
    exact h.issue hs fun _ h => h.landS.redirect
  | mbget =>
    exact h.issue hs (fun _ h => .ite h.mailTake (h.same rfl))
  | monarm => exact h.execMonarm
  | mrd =>
    exact h.issue hs fun _ h => h.landV
  | vsqrt =>
    exact h.issue hs fun _ h => h.vec1.slowV
  | vdiv =>
    exact h.issue hs fun _ h => h.vec2.slowV
  | rqput =>
    exact h.issue hs fun _ h => h.rowPost
  | cwld =>
    exact h.issue hs fun _ h => h.touch.access
  | bfi =>
    exact h.issue hs (fun _ h => .ite h h.landS)
  | brk =>
    exact h.issue hs (fun _ h => .ite h.trapAfter (.ite h.trapAfter (by
      split
      · exact h.debugHalt
      · exact h.debugHalt.updPawn)))
  | trap =>
    exact h.issue hs fun _ h => h.trapAfter
  | eqr =>
    exact h.issue hs (fun _ h => (by
      split
      · exact h.landS.popRec
      · exact h.gSend))
  | eqw =>
    exact h.issue hs fun _ h => h.pushWord
  | loop =>
    exact h.issue hs (fun _ h => .ite h.redirect (h.same rfl))
  | brF =>
    exact h.issue hs (fun _ h => .ite h h.redirect)
  | brT =>
    exact h.issue hs (fun _ h => .ite h.redirect h)
  | pawnSwitchRejoin => exact h.execPawnSwitchRejoin
  | pawnLmGrant => exact h.execPawnLmGrant
  | pawnFetch => exact h.execPawnFetch
  | pawnPushRetry => exact h.execPawnPushRetry
  | trapEntry => exact h.execTrapEntry
  | pawnTrapEntry => exact h.execPawnTrapEntry
  | launch => exact h.execLaunch
  | launchPlacement => exact h.execLaunchPlacement
  | launchCompletion => exact h.execLaunchCompletion
  | queueCopy => exact h.execQueueCopy
  | queueCollective => exact h.execQueueCollective
  | hostNotification => exact h.execHostNotification
  | eventWait => exact h.execEventWait
  | eventWaitRecheck => exact h.execEventWaitRecheck
  | conditional => exact h.execConditional
  | runGraph => exact h.execRunGraph
  | graphNodeStart => exact h.execGraphNodeStart
  | graphNodeCompletion => exact h.execGraphNodeCompletion
  | hostRingTimeExpiry => exact h.execHostRingTimeExpiry
  | copy => exact h.execCopy
  | copy2d => exact h.execCopy2d
  | split => exact h.execSplit
  | gather => exact h.execGather
  | scatter => exact h.execScatter
  | fill => exact h.execFill
  | wpset => exact h.execWpset
  | engineCommandCompletion => exact h.execEngineCommandCompletion
  | completionRecordPush => exact h.execCompletionRecordPush
  | collectiveIncompleteReply mask => exact h.execCollectiveIncompleteReply (mask := mask)
  | pawnCacheFill => exact h.execPawnCacheFill
  | homeAtomic => exact h.execHomeAtomic
  | atomicReply => exact h.execAtomicReply
  | monitorRegisterAck => exact h.execMonitorRegisterAck
  | monitorHit => exact h.execMonitorHit
  | monwaitTimeout => exact h.execMonwaitTimeout
  | mailboxDeposit => exact h.execMailboxDeposit
  | ackLanding => exact h.execAckLanding
  | ringOperation => exact h.execRingOperation
  | taskEntryArrival => exact h.execTaskEntryArrival
  | rowClaimReply => exact h.execRowClaimReply
  | translationWalk => exact h.execTranslationWalk
  | tlbinv => exact h.execTlbinv
  | tlbinvFlush => exact h.execTlbinvFlush
  | tickExchange => exact h.execTickExchange
  | tickStamp l count => exact h.execTickStamp (count := count)
  | portDeposit vec port value sender => exact h.execPortDeposit (_sender := sender)
  | heartbeat => exact h.execHeartbeat
  | heartbeatLoss => exact h.execHeartbeatLoss
  | moveOrderVisit => exact h.execMoveOrderVisit
  | preemptionRequest => exact h.execPreemptionRequest
  | contextRestore => exact h.execContextRestore
  | ctxslotEvict => exact h.execCtxslotEvict
  | evictionCompletion => exact h.execEvictionCompletion
  | accountingBoundary => exact h.execAccountingBoundary
  | accountingReadout => exact h.execAccountingReadout
  | getCertificate => exact h.execGetCertificate
  | challenge => exact h.execChallenge
  | getMeasurements => exact h.execGetMeasurements
  | unsupportedSpdmRequest => exact h.execUnsupportedSpdmRequest
  | patrolScrub => exact h.execPatrolScrub
  | selfTestVerdict => exact h.execSelfTestVerdict
  | linkRetrainTimeout => exact h.execLinkRetrainTimeout
  | breakpointHit => exact h.execBreakpointHit
  | watchpointHit => exact h.execWatchpointHit
  | crossTriggerHalt => exact h.execCrossTriggerHalt
  | registerWrite => exact h.execRegisterWrite
  | featlockWrite => exact h.execFeatlockWrite
  | acctclr => exact h.execAcctclr
  | ctxslotWrite => exact h.execCtxslotWrite
  | quoteStart => exact h.execQuoteStart
  | dumpStart => exact h.execDumpStart
  | fqrespDeliver => exact h.execFqrespDeliver
  | fqrespWalkAgain => exact h.execFqrespWalkAgain
  | sintrWrite => exact h.execSintrWrite
  | dbgResume => exact h.execDbgResume
  | dbgHaltreq => exact h.execDbgHaltreq
  | doorbell => exact h.execDoorbell
  | hrptrWrite => exact h.execHrptrWrite
  | hostApertureAccess => exact h.execHostApertureAccess
  | fabricWrite => exact h.execFabricWrite
  | planeMaskChange => exact h.execPlaneMaskChange
  | inputVoltageChange => exact h.execInputVoltageChange
  | resultLanding => exact h.execResultLanding
  | remoteLoadReply => exact h.execRemoteLoadReply
  | remoteStorePerformed => exact h.execRemoteStorePerformed
  | remoteStoreAck => exact h.execRemoteStoreAck
  | tileLoaderRow => exact h.execTileLoaderRow
  | weightLoaderGranule => exact h.execWeightLoaderGranule
  | watchdogExpiry => exact h.execWatchdogExpiry
  | corePartComplete => exact h.execCorePartComplete
  | loadLevelling => exact h.execLoadLevelling
  | allReduce => exact h.execAllReduce
  | reduceScatter => exact h.execReduceScatter
  | allGather => exact h.execAllGather
  | broadcast => exact h.execBroadcast
  | scWindowClose => exact h.execScWindowClose
  | tlbinvCompletion => exact h.execTlbinvCompletion
  | beatRaise => exact h.execBeatRaise
  | beatArrival => exact h.execBeatArrival
  | beatOverdue => exact h.execBeatOverdue
  | contextSave => exact h.execContextSave
  | getVersion => exact h.execGetVersion
  | getCapabilities => exact h.execGetCapabilities
  | negotiateAlgorithms => exact h.execNegotiateAlgorithms
  | getDigests => exact h.execGetDigests
  | quoteSigned => exact h.execQuoteSigned
  | dumpPageSend => exact h.execDumpPageSend
  | coldReset => exact h.execColdReset
  | conventionalReset => exact h.execConventionalReset
  | functionLevelReset => exact h.execFunctionLevelReset
  | inputUndervoltage => exact h.execInputUndervoltage

theorem opTable_keeps : opTable.Keeps := ⟨fun i _ h => exec_canonical i h, specOf_keeps⟩

theorem runDue_canonical (c : Ctx) (i : Instr) {s : State} (h : s.Canon) : Canonical (runDue c i s) := by
  have hx := exec_canonical i (h.setCtx (c := c))
  unfold runDue
  generalize exec i (s.setCtx c) = o at hx
  cases o with
  | next t => exact .next (hx t rfl).setCtx
  | fault f => exact .fault
  | refused r => exact .refused

theorem runTurn_canonical {s : State} (h : s.Canon) : Canonical (runTurn s) := by
  unfold runTurn
  split
  · exact h.landTurn
  · exact h.presentTurn opTable_keeps
  · exact h.scanTurn opTable_keeps
  · exact .next h.backTurn
  · exact .next h.serveTurn
  · exact .next h.lateTurn
  · exact .next h.endTick

theorem step_canonical {s : State} (h : s.Canon) : Canonical (step s) := by
  unfold step
  split
  · have hc : (s.updCore fun k => { k with commitOp := none }).Canon := h.updCore
    dsimp only
    split
    · exact runDue_canonical _ _ hc
    · exact .next hc
  · split
    · split
      · exact runDue_canonical _ _ h.setAgenda
      · exact .next h.setAgenda
    · exact .ite (.next h) (runTurn_canonical h)

/-- Settles O3: an invariant of every part of a step (`step_canonical`), and thus of the step. -/
theorem stepKeepsMemoryCanonical : Obligations.StepKeepsMemoryCanonical := by
  unfold Obligations.StepKeepsMemoryCanonical
  intro s t hs ht
  exact t.memCanonical_iff.mpr (step_canonical (s.memCanonical_iff.mp hs) t ht)

end Sys2Proof.Machine
end

section
/-! O53 fails: the clause on a pawn's scalar store does not exclude the store that is performed at the visit which commits its chunk
(R336), and there the operands are those that the chunk kept for its closing op (R61), not those that the thread has now. (The machine itself
commits chunks in deterministic launches alone; the clause ranges over every state of a launch that is not deterministic.) -/

namespace Sys2Proof.Machine

/-- Pawn 0 performs the closing op of a committed chunk; of s[4] the chunk kept 7, and the thread's own s[4] is 0. -/
def closingStore : State :=
  (State.reset.setCtx { agent := .pawn 0, checked := true, commit := true }).updPawn 0 fun p =>
    { p with chunk := { p.chunk with src := { p.chunk.src with x := vset p.chunk.src.x 4 7 } } }

/-- What the store of s[4] leads to. -/
def closingStored : State := closingStore.perform (specSt false 4 2 0 8) fun s => s.storeS 4 2 0 8

theorem exec_closingStore : exec (.st false 4 2 0) closingStore = .next closingStored :=
  issue_ready (sp := specSt false 4 2 0 8) (s := closingStore) (fun s => s.storeS 4 2 0 8) (.inl rfl)

/-- The store waits for its banks with the value that the chunk kept. -/
theorem closingStored_waiting : (closingStored.pawn 0).waiting.map (fun w => w.acc) = [.write [0] 8 [7]] := by decide +kernel

theorem closingStore_operand : closingStore.readS 4 = 0 ∧ (closingStore.pawn 0).waiting = [] := by decide +kernel

/-- Refutes O53: in the state `closingStore`, whose launch is not deterministic, the store of s[4] = 0 queues the value 7. -/
theorem not_storesWriteTheirBytes : ¬ Obligations.StoresWriteTheirBytes := by
  unfold Obligations.StoresWriteTheirBytes
  rintro ⟨-, -, -, -, hstore⟩
  obtain ⟨hscalar, -⟩ := hstore closingStore closingStored false 4 2 0
  obtain ⟨-, hpawn⟩ := hscalar (.st false 4 2 0, 8) (by simp) (.inl rfl) exec_closingStore
  obtain ⟨w, hacc, hwait⟩ := hpawn 0 (by decide) rfl rfl
  obtain ⟨hread, hnone⟩ := closingStore_operand
  have hkept := closingStored_waiting
  rw [hwait, hnone, List.nil_append, List.map_singleton, hacc, hread] at hkept
  simp at hkept

end Sys2Proof.Machine
end

section
/-! O52: control registers. The registers that every thread has for itself are read and written through the thread alone
(`Thread.csr`, `Thread.setCsr`); the loop registers, the routes, the descriptors, WDOG and TSTAT have a lemma each. -/

namespace Sys2Proof.Machine

/-! ### Bits of packed numbers -/

theorem bit_eq_testBit (x i : Nat) : bit x i = x.testBit i := by
  rw [bit, Nat.testBit_eq_decide_div_mod_eq, Bool.beq_eq_decide_eq]

theorem testBit_bits (x lo n i : Nat) : (bits x lo n).testBit i = (decide (i < n) && x.testBit (i + lo)) := by
  rw [bits, Nat.testBit_mod_two_pow, Nat.testBit_div_two_pow]

theorem bits_lt (x lo n : Nat) : bits x lo n < 2 ^ n := Nat.mod_lt _ (Nat.two_pow_pos n)

theorem b2n_eq_toNat (b : Bool) : b2n b = b.toNat := by cases b <;> rfl

/-- A bit of a number whose low n bits are a and whose others are b. -/
theorem testBit_packed {a n : Nat} (b i : Nat) (ha : a < 2 ^ n) :
    (a + b * 2 ^ n).testBit i = if i < n then a.testBit i else b.testBit (i - n) := by
  rw [Nat.add_comm, Nat.mul_comm, Nat.testBit_two_pow_mul_add b ha]

/-- A register of w bits reads those bits of what is written. -/
theorem setWidth_setWidth_mask (v : Word64) (w : Nat) : (v.setWidth w).setWidth 64 = v &&& BitVec.ofNat 64 (2 ^ w - 1) := by
  refine BitVec.eq_of_getLsbD_eq fun i hi => ?_
  simp only [BitVec.getLsbD_setWidth, BitVec.getLsbD_and, BitVec.getLsbD_ofNat, Nat.testBit_two_pow_sub_one, hi, decide_true, Bool.true_and]
  exact Bool.and_comm _ _

/-- LADDR reads the fields that are written (R85). -/
theorem LoopLevel.laddr_setAddr (l : LoopLevel) (v : Word64) : (l.setAddr v).laddr = v &&& 0x801FFFFF001FFFFF#64 := by
  have hmask : ∀ i < 64, (0x801FFFFF001FFFFF#64).getLsbD i = decide (i < 21 ∨ 32 ≤ i ∧ i < 53 ∨ i = 63) := by decide
  have hstop := bits_lt v.toNat 32 21
  have hpack : (bits v.toNat 0 21) % 2 ^ 21 + (bits v.toNat 32 21) % 2 ^ 21 * 2 ^ 32 + b2n (bit v.toNat 63) * 2 ^ 63 =
      bits v.toNat 0 21 + (bits v.toNat 32 21 + (v.toNat.testBit 63).toNat * 2 ^ 31) * 2 ^ 32 := by
    rw [Nat.mod_eq_of_lt (bits_lt _ _ _), Nat.mod_eq_of_lt (bits_lt _ _ _), b2n_eq_toNat, bit_eq_testBit]
    omega
  refine BitVec.eq_of_getLsbD_eq fun i hi => ?_
  rw [BitVec.getLsbD_and, hmask i hi]
  simp only [LoopLevel.laddr, LoopLevel.setAddr, BitVec.toNat_ofNat, BitVec.getLsbD_ofNat, hpack]
  rw [testBit_packed _ _ (Nat.lt_trans (bits_lt _ _ _) (by decide)), testBit_packed _ _ (Nat.lt_trans hstop (by decide)), testBit_bits,
    testBit_bits, Nat.testBit_bool_toNat]
  rw [← BitVec.testBit_toNat]
  by_cases h1 : i < 32
  · simp [h1, show ¬ 32 ≤ i by omega, show i ≠ 63 by omega, hi, Bool.and_comm]
  · by_cases h2 : i < 63
    · simp [h1, show i - 32 < 31 by omega, show i - 32 + 32 = i by omega, show ¬ i < 21 by omega, show i ≠ 63 by omega,
        show i - 32 < 21 ↔ i < 53 by omega, show 32 ≤ i by omega, hi, Bool.and_comm]
    · obtain rfl : i = 63 := by omega
      simp

/-! ### Registers that every thread has for itself -/

/-- What the thread reads of its own register i. -/
def Thread.csr (t : Thread) (i : Nat) : Word64 :=
  if i = 0x18 then t.slim
  else if i = 0x20 then t.vflags.setWidth 64
  else if 0x28 ≤ i ∧ i ≤ 0x2B then vget t.seed (i - 0x28) 0
  else if i = 0x2C then t.srctr.setWidth 64
  else if i = 0x30 then t.tvec.setWidth 64
  else if i = 0x31 then t.tcause.setWidth 64
  else if i = 0x32 then t.tpc.setWidth 64
  else if i = 0x33 then t.ttgt.setWidth 64
  else if i = 0x34 then t.taddr
  else if i = 0x35 then t.targ
  else vget t.tscr (i - 0x36) 0

/-- The thread after a write of its own register i. -/
def Thread.setCsr (t : Thread) (i : Nat) (v : Word64) : Thread :=
  if i = 0x18 then { t with slim := v }
  else if i = 0x20 then { t with vflags := v.setWidth 6 }
  else if 0x28 ≤ i ∧ i ≤ 0x2B then { t with seed := vset t.seed (i - 0x28) v }
  else if i = 0x2C then { t with srctr := v.setWidth 56 }
  else if i = 0x30 then { t with tvec := v.setWidth 21 }
  else if i = 0x31 then { t with tcause := v.setWidth 17 }
  else if i = 0x32 then { t with tpc := v.setWidth 21 }
  else if i = 0x33 then { t with ttgt := v.setWidth 21 }
  else if i = 0x34 then { t with taddr := v }
  else if i = 0x35 then { t with targ := v }
  else { t with tscr := vset t.tscr (i - 0x36) v }

/-- The writable registers that every thread has for itself, with their defined bits (R85, R89, R257, R262, R393). -/
def threadCsrs : List (Nat × Word64) :=
  [(0x18, BitVec.allOnes 64), (0x20, 0x3F#64), (0x28, BitVec.allOnes 64), (0x29, BitVec.allOnes 64), (0x2A, BitVec.allOnes 64),
    (0x2B, BitVec.allOnes 64), (0x2C, 0x00FFFFFFFFFFFFFF#64), (0x30, 0x1FFFFF#64), (0x31, 0x1FFFF#64), (0x32, 0x1FFFFF#64),
    (0x33, 0x1FFFFF#64), (0x34, BitVec.allOnes 64), (0x35, BitVec.allOnes 64), (0x36, BitVec.allOnes 64), (0x37, BitVec.allOnes 64),
    (0x38, BitVec.allOnes 64), (0x39, BitVec.allOnes 64)]

/-- The writable registers of the two loop levels, with their defined bits (R85). -/
def loopCsrs : List (Nat × Word64) :=
  [(0x10, 0xFFFFFFFF#64), (0x11, 0x801FFFFF001FFFFF#64), (0x12, 0xFFFFFFFF#64), (0x13, 0x801FFFFF001FFFFF#64)]

theorem State.csrRead_thread (s : State) : ∀ p ∈ threadCsrs, s.csrRead p.1 = s.th.csr p.1 := by
  simp [threadCsrs, State.csrRead, Thread.csr]

theorem State.csrWrite_thread (s : State) (v : Word64) : ∀ p ∈ threadCsrs, s.csrWrite p.1 v = s.updTh fun t => t.setCsr p.1 v := by
  simp [threadCsrs, State.csrWrite, Thread.setCsr]

/-- A register reads its defined bits of what was written. -/
theorem Thread.csr_setCsr_same (t : Thread) (v : Word64) : ∀ p ∈ threadCsrs, (t.setCsr p.1 v).csr p.1 = v &&& p.2 := by
  have hall : v = v &&& 0xFFFFFFFFFFFFFFFF#64 := BitVec.and_allOnes.symm
  simpa [threadCsrs, Thread.csr, Thread.setCsr, vget_vset_same, setWidth_setWidth_mask] using hall

/-- No other register changes. -/
theorem Thread.csr_setCsr_other (t : Thread) (v : Word64) :
    ∀ p ∈ threadCsrs, ∀ q ∈ threadCsrs, q.1 ≠ p.1 → (t.setCsr p.1 v).csr q.1 = t.csr q.1 := by
  simp [threadCsrs, Thread.csr, Thread.setCsr, vget_vset_other]

theorem State.updTh_primary {s : State} (h : s.ctx.agent = .primary) (f : Thread → Thread) :
    s.updTh f = s.updPrim fun p => { p with th := f p.th } := by simp only [State.updTh, h]

theorem State.updTh_pawn {s : State} {t : Nat} (h : s.ctx.agent = .pawn t) (f : Thread → Thread) :
    s.updTh f = s.updPawn t fun p => { p with th := f p.th } := by simp only [State.updTh, h]

theorem State.th_primary {s : State} (h : s.ctx.agent = .primary) : s.th = s.prim.th := by simp only [State.th, h]

theorem State.th_pawn {s : State} {t : Nat} (h : s.ctx.agent = .pawn t) : s.th = (s.pawn t).th := by simp only [State.th, h]

theorem State.th_updTh_primary {s : State} (h : s.ctx.agent = .primary) (f : Thread → Thread) : (s.updTh f).th = f s.th := by
  rw [State.updTh_primary h, State.th_primary (by exact h), State.th_primary h]; rfl

theorem State.th_updTh_pawn {s : State} {t : Nat} (h : s.ctx.agent = .pawn t) (ht : t < 16) (f : Thread → Thread) :
    (s.updTh f).th = f s.th := by
  rw [State.updTh_pawn h, State.th_pawn (t := t) (by exact h), State.th_pawn h, State.updPawn_pawn_same _ _ _ ht]

/-- A write of an own register of a thread, where a change of the thread is what the thread then has. -/
theorem State.csr_thread {s : State} (hth : ∀ f, (s.updTh f).th = f s.th) (v : Word64) : ∀ p ∈ threadCsrs,
    (s.csrWrite p.1 v).csrRead p.1 = v &&& p.2 ∧
      ∀ q ∈ threadCsrs, q.1 ≠ p.1 → (s.csrWrite p.1 v).csrRead q.1 = s.csrRead q.1 := by
  intro p hp
  refine ⟨?_, fun q hq hne => ?_⟩
  · rw [State.csrRead_thread _ p hp, s.csrWrite_thread v p hp, hth, Thread.csr_setCsr_same _ v p hp]
  · rw [State.csrRead_thread _ q hq, s.csrRead_thread q hq, s.csrWrite_thread v p hp, hth, Thread.csr_setCsr_other _ v p hp q hq hne]

/-! ### Loop registers -/

theorem State.csrRead_loops {s t : State} (h : t.prim.loops = s.prim.loops) : ∀ q ∈ loopCsrs, t.csrRead q.1 = s.csrRead q.1 := by
  simp [loopCsrs, State.csrRead, h]

theorem State.csrWrite_loop (s : State) (v : Word64) : ∀ p ∈ loopCsrs, ∃ n f, s.csrWrite p.1 v = s.updLoop n f := by
  intro p hp
  have hcase : (p.1 = 0x10 ∨ p.1 = 0x12) ∨ p.1 = 0x11 ∨ p.1 = 0x13 := by
    simp only [loopCsrs, List.mem_cons, List.not_mem_nil, or_false] at hp
    obtain rfl | rfl | rfl | rfl := hp <;> simp
  rcases hcase with h | h
  · exact ⟨_, _, by rw [State.csrWrite, if_pos h]⟩
  · exact ⟨_, _, by rw [State.csrWrite, if_neg (by omega), if_pos h]⟩

theorem State.csr_loop (s : State) (v : Word64) : ∀ p ∈ loopCsrs,
    (s.csrWrite p.1 v).csrRead p.1 = v &&& p.2 ∧
      ∀ q ∈ loopCsrs, q.1 ≠ p.1 → (s.csrWrite p.1 v).csrRead q.1 = s.csrRead q.1 := by
  have hcnt (l : LoopLevel) (w : Word64) : (l.setCount w).laddr = l.laddr := rfl
  have haddr (l : LoopLevel) (w : Word64) : (l.setAddr w).cnt = l.cnt := rfl
  have hset (l : LoopLevel) (w : Word64) : (l.setCount w).cnt = w.setWidth 32 := rfl
  simp [loopCsrs, State.csrRead, State.csrWrite, State.updLoop, vget_vset_same, vget_vset_other, hcnt, haddr, hset,
    setWidth_setWidth_mask, LoopLevel.laddr_setAddr]

/-! ### The other registers -/

/-- An index that no clause of csrw names. -/
def csrFixed (i : Nat) : Bool :=
  decide (i < 0x10 ∨ 0x13 < i ∧ i < 0x18 ∨ 0x18 < i ∧ i < 0x20 ∨ 0x20 < i ∧ i < 0x28 ∨ 0x2C < i ∧ i < 0x30 ∨ 0x39 < i ∧
    i < 0xC1 ∨ 0xC1 < i ∧ i < 0xF3 ∨ 0xF3 < i ∧ i < 0xF8 ∨ 0x10F < i)

theorem State.csrWrite_fixed (s : State) {i : Nat} (v : Word64) (h : csrFixed i = true) : s.csrWrite i v = s := by
  rw [csrFixed, decide_eq_true_eq] at h
  unfold State.csrWrite
  iterate 17 rw [if_neg (by omega)]

theorem State.csrWrite_route (s : State) {n : Nat} (v : Word64) (h : n < 8) :
    s.csrWrite (0xF8 + n) v = s.updPrim fun p => { p with route := vset p.route n (s.routeValue v) } := by
  unfold State.csrWrite
  iterate 15 rw [if_neg (by omega)]
  rw [if_pos (by omega), Nat.add_sub_cancel_left]

theorem State.csrRead_route (s : State) {n : Nat} (h : n < 8) : s.csrRead (0xF8 + n) = vget s.prim.route n 0 := by
  unfold State.csrRead
  dsimp only
  iterate 35 rw [if_neg (by omega)]
  rw [if_pos (by omega), Nat.add_sub_cancel_left]

theorem State.csrWrite_descriptor (s : State) {n : Nat} (v : Word64) (h : n < 16) :
    s.csrWrite (0x100 + n) v = s.updCore fun c => { c with fd := vset c.fd n (fdWritable v) } := by
  unfold State.csrWrite
  iterate 16 rw [if_neg (by omega)]
  rw [if_pos (by omega), Nat.add_sub_cancel_left]

/-- The packed fields of a route, as the low 48 bits that are written and the 16 bits of HOPS and PATH (R224). -/
theorem State.routeValue_eq (s : State) (v : Word64) : s.routeValue v = BitVec.ofNat 64
    ((bits v.toNat 0 2 + (bits v.toNat 21 11 + bits v.toNat 40 6 * 2 ^ 19) * 2 ^ 21) +
      ((s.pathTo (bits v.toNat 21 10)).1 + 64 * (s.pathTo (bits v.toNat 21 10)).2) * 2 ^ 48) := by
  have h11 : bits v.toNat 21 11 = bits v.toNat 21 10 + bits v.toNat 31 1 * 2 ^ 10 := by unfold bits; omega
  rw [h11, State.routeValue]
  congr 1
  omega

theorem route_low_lt (v : Word64) : bits v.toNat 0 2 + (bits v.toNat 21 11 + bits v.toNat 40 6 * 2 ^ 19) * 2 ^ 21 < 2 ^ 48 := by
  have h1 := bits_lt v.toNat 0 2
  have h2 := bits_lt v.toNat 21 11
  have h3 := bits_lt v.toNat 40 6
  omega

/-- A route keeps PORT, DEST, RXFAR and SPAN as written. -/
theorem State.routeValue_low (s : State) (v : Word64) :
    (s.routeValue v).extractLsb' 0 48 = (v &&& 0x3F00FFE00003#64).extractLsb' 0 48 := by
  have hmask : ∀ i < 48, (0x3F00FFE00003#64).getLsbD i = decide (i < 2 ∨ 21 ≤ i ∧ i < 32 ∨ 40 ≤ i ∧ i < 46) := by decide
  have h2 : bits v.toNat 0 2 < 2 ^ 21 := Nat.lt_trans (bits_lt _ _ _) (by decide)
  have h11 : bits v.toNat 21 11 < 2 ^ 19 := Nat.lt_trans (bits_lt _ _ _) (by decide)
  refine BitVec.eq_of_getLsbD_eq fun i hi => ?_
  rw [BitVec.getLsbD_extractLsb', BitVec.getLsbD_extractLsb', Nat.zero_add, BitVec.getLsbD_and, hmask i hi, s.routeValue_eq,
    BitVec.getLsbD_ofNat, testBit_packed _ _ (route_low_lt v), if_pos hi, testBit_packed _ _ h2, testBit_packed _ _ h11, testBit_bits,
    testBit_bits, testBit_bits, ← BitVec.testBit_toNat]
  by_cases h1 : i < 21
  · simp [hi, h1, show i < 64 by omega, show ¬ 21 ≤ i by omega, show ¬ 40 ≤ i by omega, Bool.and_comm]
  · by_cases h3 : i < 40
    · simp [hi, h1, show i < 64 by omega, show i - 21 < 19 by omega, show i - 21 + 21 = i by omega, show ¬ 40 ≤ i by omega,
        show i - 21 < 11 ↔ i < 32 by omega, show ¬ i < 2 by omega, show 21 ≤ i by omega, Bool.and_comm]
    · simp [hi, h1, show i < 64 by omega, show ¬ i - 21 < 19 by omega, show i - 21 - 19 + 40 = i by omega, show 40 ≤ i by omega,
        show i - 21 - 19 < 6 ↔ i < 46 by omega, show ¬ i < 2 by omega, show ¬ i < 32 by omega, Bool.and_comm]

/-- HOPS and PATH of a route. -/
theorem State.routeValue_high (s : State) (v : Word64) : (s.routeValue v).extractLsb' 48 16 =
    BitVec.ofNat 16 ((s.pathTo (bits v.toNat 21 10)).1 + 64 * (s.pathTo (bits v.toNat 21 10)).2) := by
  have hlow := route_low_lt v
  refine BitVec.eq_of_toNat_eq ?_
  rw [s.routeValue_eq, BitVec.extractLsb'_toNat, BitVec.toNat_ofNat, BitVec.toNat_ofNat, Nat.shiftRight_eq_div_pow]
  omega

/-- A number without its bit 2. -/
theorem ofNat_clear_bit2 {a : Nat} (e : Bool) (k : Nat) (ha : a < 4) :
    BitVec.ofNat 64 (a + b2n e * 4 + k * 8) &&& ~~~4#64 = BitVec.ofNat 64 (a + k * 8) := by
  refine BitVec.eq_of_getLsbD_eq fun i hi => ?_
  have hmask : ∀ i < 64, (~~~4#64).getLsbD i = decide (i ≠ 2) := by decide
  have hpack (e : Bool) : a + b2n e * 4 + k * 8 = a + (b2n e + k * 2 ^ 1) * 2 ^ 2 := by omega
  have hbit (e : Bool) : b2n e < 2 ^ 1 := by cases e <;> decide
  rw [BitVec.getLsbD_and, hmask i hi, BitVec.getLsbD_ofNat, BitVec.getLsbD_ofNat, show a + k * 8 = a + b2n false * 4 + k * 8 from rfl, hpack e,
    hpack false, testBit_packed (n := 2) _ _ ha, testBit_packed (n := 2) _ _ ha, testBit_packed _ _ (hbit e), testBit_packed _ _ (hbit false),
    b2n_eq_toNat, b2n_eq_toNat, Nat.testBit_bool_toNat, Nat.testBit_bool_toNat]
  by_cases h2 : i = 2
  · simp [h2]
  · by_cases h : i < 2
    · simp [h2, h]
    · simp [h2, h, show ¬ i - 2 < 1 by omega]

theorem State.csrWrite_tstat (s : State) (v : Word64) :
    s.csrWrite 0xF3 v = if v.getLsbD 2 then s.updPrim (fun p => { p with exc := false }) else s := by
  have h : s.csrWrite 0xF3 v = s.updPrim fun p => if bit v.toNat 2 then { p with exc := false } else p := by
    unfold State.csrWrite
    iterate 14 rw [if_neg (by decide)]
    rw [if_pos rfl]
  rw [h, bit_eq_testBit, BitVec.testBit_toNat]
  split <;> rfl

theorem State.csrRead_tstat (s : State) : s.csrRead 0xF3 = s.tstat := by
  unfold State.csrRead
  dsimp only
  iterate 33 rw [if_neg (by decide)]
  rw [if_pos rfl]

/-- TSTAT without EXC. -/
theorem State.tstat_clear (s : State) : (s.updPrim fun p => { p with exc := false }).tstat = s.tstat &&& ~~~4#64 := by
  have hshape (q vq w : Nat) (a b e : Bool) : b2n a + b2n b * 2 + b2n e * 4 + q * 2 ^ 4 + vq * 2 ^ 8 + w * 2 ^ 12 =
      b2n a + b2n b * 2 + b2n e * 4 + (q * 2 + vq * 32 + w * 512) * 8 := by omega
  have hlow (a b : Bool) : b2n a + b2n b * 2 < 4 := by cases a <;> cases b <;> decide
  unfold State.tstat
  simp only [State.updPrim_prim, State.updPrim_die]
  rw [hshape, hshape, ofNat_clear_bit2 _ _ (hlow _ _)]
  rfl

/-! ### The statement -/

/-- Registers of the primary. -/
theorem State.csr_primary {s : State} (ha : s.ctx.agent = .primary) (v : Word64) : ∀ p ∈ loopCsrs ++ threadCsrs,
    (s.csrWrite p.1 v).csrRead p.1 = v &&& p.2 ∧
      (∀ q ∈ loopCsrs ++ threadCsrs, q.1 ≠ p.1 → (s.csrWrite p.1 v).csrRead q.1 = s.csrRead q.1) ∧
      (s.csrWrite p.1 v).sameOutside s ∧ (s.csrWrite p.1 v).pawns = s.pawns ∧ (s.csrWrite p.1 v).prim.s = s.prim.s := by
  intro p hp
  obtain hp | hp := List.mem_append.mp hp
  · obtain ⟨hsame, hother⟩ := s.csr_loop v p hp
    obtain ⟨n, f, hw⟩ := s.csrWrite_loop v p hp
    have hth : (s.updLoop n f).th = s.th := by rw [State.th_primary ha, State.th_primary (by exact ha)]; rfl
    refine ⟨hsame, fun q hq hne => ?_, hw ▸ ⟨rfl, rfl, rfl, rfl, rfl, rfl, rfl, rfl⟩, by rw [hw]; rfl, by rw [hw]; rfl⟩
    obtain hq | hq := List.mem_append.mp hq
    · exact hother q hq hne
    · rw [hw, State.csrRead_thread _ q hq, State.csrRead_thread _ q hq, hth]
  · obtain ⟨hsame, hother⟩ := s.csr_thread (State.th_updTh_primary ha) v p hp
    have hw := s.csrWrite_thread v p hp
    rw [State.updTh_primary ha] at hw
    refine ⟨hsame, fun q hq hne => ?_, hw ▸ ⟨rfl, rfl, rfl, rfl, rfl, rfl, rfl, rfl⟩, by rw [hw]; rfl, by rw [hw]; rfl⟩
    obtain hq | hq := List.mem_append.mp hq
    · exact State.csrRead_loops (by rw [hw]; rfl) q hq
    · exact hother q hq hne

/-- Registers of a pawn. -/
theorem State.csr_pawn {s : State} {t : Nat} (ht : t < 16) (ha : s.ctx.agent = .pawn t) (v : Word64) : ∀ p ∈ threadCsrs,
    (s.csrWrite p.1 v).csrRead p.1 = v &&& p.2 ∧ (∀ q ∈ threadCsrs, q.1 ≠ p.1 → (s.csrWrite p.1 v).csrRead q.1 = s.csrRead q.1) ∧
      (s.csrWrite p.1 v).sameOutside s ∧ (s.csrWrite p.1 v).prim = s.prim ∧ ∀ n, n ≠ t → (s.csrWrite p.1 v).pawn n = s.pawn n := by
  intro p hp
  obtain ⟨hsame, hother⟩ := s.csr_thread (State.th_updTh_pawn ha ht) v p hp
  have hw := s.csrWrite_thread v p hp
  rw [State.updTh_pawn ha] at hw
  refine ⟨hsame, hother, hw ▸ ⟨rfl, rfl, rfl, rfl, rfl, rfl, rfl, rfl⟩, by rw [hw]; rfl, fun n hn => ?_⟩
  rw [hw, State.updPawn_pawn_other _ _ _ _ hn.symm]

/-- A route. -/
theorem State.csr_route (s : State) {n : Nat} (v : Word64) (hn : n < 8) :
    (s.csrWrite (0xF8 + n) v).csrRead (0xF8 + n) = s.routeValue v ∧
      (∀ m < 8, m ≠ n → (s.csrWrite (0xF8 + n) v).csrRead (0xF8 + m) = s.csrRead (0xF8 + m)) := by
  rw [s.csrWrite_route v hn]
  refine ⟨?_, fun m hm hne => ?_⟩
  · rw [State.csrRead_route _ hn]
    exact vget_vset_same _ _ _ _ hn
  · rw [State.csrRead_route _ hm, State.csrRead_route _ hm]
    exact vget_vset_other _ _ _ _ _ hne.symm

/-- TSTAT. -/
theorem State.csr_tstat (s : State) (v : Word64) :
    (s.csrWrite 0xF3 v).csrRead 0xF3 = if v.getLsbD 2 then s.csrRead 0xF3 &&& ~~~4#64 else s.csrRead 0xF3 := by
  rw [s.csrWrite_tstat]
  split
  · rw [State.csrRead_tstat, State.csrRead_tstat, s.tstat_clear]
  · rfl

/-- Settles O52: an own register of a thread through the thread alone, and each of the others by its own lemma. -/
theorem controlRegisters : Obligations.ControlRegisters := by
  unfold Obligations.ControlRegisters
  intro own each ro
  refine ⟨fun s v ha => s.csr_primary ha v, fun s t v ht ha => s.csr_pawn ht ha v, fun s v i hi => s.csrWrite_fixed v ?_,
    fun s v => ⟨rfl, rfl⟩, fun s n v hn => ?_, fun s n v hn => ?_, fun s v => ⟨s.csr_tstat v, s.csrWrite_tstat v⟩, fun s e c v he => ?_⟩
  · have hro : ∀ i ∈ ro, csrFixed i = true := by decide +kernel
    exact hro i hi
  · rw [s.csrWrite_descriptor v hn]
    exact vget_vset_same _ _ _ _ hn
  · obtain ⟨hread, hother⟩ := s.csr_route v hn
    have hw := s.csrWrite_route v hn
    refine ⟨by rw [hread]; exact s.routeValue_low v, by rw [hread]; exact s.routeValue_high v, hother, ?_⟩
    rw [hw]
    exact ⟨⟨rfl, rfl, rfl, rfl, rfl, rfl, rfl, rfl⟩, rfl, rfl, rfl, rfl⟩
  · simp only [State.landReg, he]

end Sys2Proof.Machine
end

section
/-! O39: resets, accesses of other agents and the supply. The long clause is the function-level reset of an idle device. What it spares
(`State.Spares`) is carried through the end of a context's queues, the drop of what is cached of it and the clearing of its slot, and
then over the 64 slots; the error log (R416) is written only where some part of the store is struck or fenced. -/

namespace Sys2Proof.Machine

/-! ### Registers that nothing else is read with -/

theorem State.assocGet_setDevReg_other (s : State) {o b : Nat} (v d : Nat) (h : b ≠ o) :
    assocGet (s.setDevReg o v).dev.regs b d = assocGet s.dev.regs b d := by
  show assocGet (if v = regReset o then assocErase s.dev.regs o else assocSet s.dev.regs o v) b d = _
  split
  · exact assocGet_erase_other _ _ _ _ h
  · exact assocGet_set_other _ _ _ _ _ h

/-- A register is read from its own entry, of those that the part does not answer and that show no table. -/
theorem State.devReg_congr {s u : State} {b : Nat} (hp : u.part = s.part) (hb : ownRegister s.part b = true) (h1 : b ≠ 0x330) (h2 : b ≠ 0x338)
    (hr : ∀ d, assocGet u.dev.regs b d = assocGet s.dev.regs b d) : u.devReg b = s.devReg b := by
  simp only [ownRegister, Bool.and_eq_true, decide_eq_true_eq, Bool.not_eq_true', Bool.and_eq_false_iff, decide_eq_false_iff_not,
    Option.isNone_iff_eq_none] at hb
  obtain ⟨⟨h40, hpart⟩, hslices⟩ := hb
  unfold State.devReg
  rw [hp, if_neg h40, if_neg h40, hpart]
  dsimp only
  have hs : ¬(0x1094 ≤ b ∧ b < 0x1600 ∧ (b - 0x1094) % 0x100 = 0) := by omega
  rw [if_neg hs, if_neg hs, if_neg h1, if_neg h2, if_neg h1, if_neg h2, hr]

theorem slotReg_own (p : Part) {n : Nat} (h : n < 64) : ownRegister p (slotReg n) = true := by
  have hb : slotReg n < 0x600 := by unfold slotReg; omega
  have ha : 0x400 ≤ slotReg n := Nat.le_add_right _ _
  generalize slotReg n = b at hb ha
  have hr : p.reg b = none := by
    unfold Part.reg
    iterate 6 rw [if_neg (by omega)]
  simp only [ownRegister, hr, Option.isNone_none, Bool.and_true, Bool.and_eq_true, decide_eq_true_eq, Bool.not_eq_true',
    Bool.and_eq_false_iff, decide_eq_false_iff_not]
  omega

theorem slotReg_unfenced (p : Part) {n : Nat} (h : n < 64) : p.fencedBits (slotReg n) = 0 := by
  unfold Part.fencedBits slotReg
  iterate 3 rw [if_neg (by omega)]

/-! ### What a function-level reset spares -/

/-- No part of the store is struck or fenced. -/
def State.unharmed (s : State) : Prop := s.badPm = [] ∧ s.core.struck = [] ∧ s.devReg 0x728 = 0 ∧ s.dev.fencedCh = []

/-- Control and overflow count of the error log (R416). -/
def logReg (b : Nat) : Prop := b = 0x708 ∨ b = 0x710

/-- From s to u the device keeps what a function-level reset spares, but for the registers of w. -/
structure State.Spares (w : Nat → Prop) (s u : State) : Prop where
  part : u.part = s.part
  fencedCh : u.dev.fencedCh = s.dev.fencedCh
  acctSnap : u.dev.acctSnap = s.dev.acctSnap
  idleMicro : u.dev.idleMicro = s.dev.idleMicro
  regs : ∀ b, ¬ w b → ∀ d, assocGet u.dev.regs b d = assocGet s.dev.regs b d
  unharmed : s.unharmed → u.unharmed

/-- The parts of the state that `State.Spares` speaks of. -/
def State.spared (s : State) : Part × List Nat × List AcctEntry × Nat × List (Nat × Nat) × List Nat × List ErrLoc :=
  (s.part, s.dev.fencedCh, s.dev.acctSnap, s.dev.idleMicro, s.dev.regs, s.badPm, s.core.struck)

theorem State.unharmed_of {s u : State} (hp : u.part = s.part) (hf : u.dev.fencedCh = s.dev.fencedCh)
    (hr : ∀ d, assocGet u.dev.regs 0x728 d = assocGet s.dev.regs 0x728 d) (hb : s.badPm = [] → u.badPm = [])
    (hs : s.core.struck = [] → u.core.struck = []) (h : s.unharmed) : u.unharmed := by
  obtain ⟨h1, h2, h3, h4⟩ := h
  have hown : ownRegister s.part 0x728 = true := by simp [ownRegister, Part.reg]
  exact ⟨hb h1, hs h2, by rw [State.devReg_congr hp hown (by decide) (by decide) hr]; exact h3, by rw [hf]; exact h4⟩

namespace State.Spares
variable {w : Nat → Prop} {s u v : State}

theorem refl (w : Nat → Prop) (s : State) : Spares w s s := ⟨rfl, rfl, rfl, rfl, fun _ _ _ => rfl, id⟩

theorem trans (h : Spares w s u) (k : Spares w u v) : Spares w s v :=
  ⟨k.part.trans h.part, k.fencedCh.trans h.fencedCh, k.acctSnap.trans h.acctSnap, k.idleMicro.trans h.idleMicro,
    fun b hb d => (k.regs b hb d).trans (h.regs b hb d), fun hs => k.unharmed (h.unharmed hs)⟩

theorem mono {w' : Nat → Prop} (h : Spares w s u) (hw : ∀ b, w b → w' b) : Spares w' s u :=
  ⟨h.part, h.fencedCh, h.acctSnap, h.idleMicro, fun b hb => h.regs b fun hc => hb (hw b hc), h.unharmed⟩

/-- A change of other parts of the state. -/
theorem same (h : Spares w s u) (e : v.spared = u.spared) : Spares w s v := by
  simp only [State.spared, Prod.mk.injEq] at e
  obtain ⟨hp, hf, ha, hi, hr, hb, hs⟩ := e
  refine ⟨hp.trans h.part, hf.trans h.fencedCh, ha.trans h.acctSnap, hi.trans h.idleMicro, fun b hw d => by rw [hr]; exact h.regs b hw d, ?_⟩
  exact fun hu => State.unharmed_of hp hf (fun d => by rw [hr]) (hb ▸ id) (hs ▸ id) (h.unharmed hu)

theorem ite {c : Prop} {_ : Decidable c} (hu : c → Spares w s u) (hv : ¬ c → Spares w s v) : Spares w s (if c then u else v) := by
  split
  · next hc => exact hu hc
  · next hc => exact hv hc

theorem foldl {α : Type} {f : State → α → State} (hf : ∀ u x, Spares w s u → Spares w s (f u x)) (l : List α) (h : Spares w s u) :
    Spares w s (l.foldl f u) := by
  induction l generalizing u with
  | nil => exact h
  | cons x l ih => exact ih (hf u x h)

theorem setDevReg {o x} (h : Spares w s u) (ho : w o) (hc : o ≠ 0x728) : Spares w s (u.setDevReg o x) := by
  refine ⟨h.part, h.fencedCh, h.acctSnap, h.idleMicro, fun b hb d => ?_, fun hs => ?_⟩
  · rw [u.assocGet_setDevReg_other x d fun e => hb (by rw [e]; exact ho)]
    exact h.regs b hb d
  · exact State.unharmed_of (s := u) rfl rfl (fun d => u.assocGet_setDevReg_other x d hc.symm) id id (h.unharmed hs)

/-! ### Writes of device memory, and the error log -/

theorem wakeWaits {line} (h : Spares w s u) : Spares w s (u.wakeWaits line) := .ite (fun _ => h.same rfl) fun _ => h

theorem notice {pa} (h : Spares w s u) : Spares w s (u.notice pa) :=
  .ite (fun _ => .ite (fun _ => h.wakeWaits.same rfl) fun _ => h.wakeWaits.same rfl) fun _ => h.wakeWaits

/-- A write heals the words that it covers, and strikes none. -/
theorem healPm {pa n} (h : Spares w s u) : Spares w s (u.healPm pa n) := by
  refine ⟨h.part, h.fencedCh, h.acctSnap, h.idleMicro, h.regs, fun hs => ?_⟩
  refine State.unharmed_of (s := u) rfl rfl (fun _ => rfl) (fun hb => ?_) (fun hk => ?_) (h.unharmed hs)
  · show u.badPm.filter _ = []
    rw [hb]; rfl
  · show u.core.struck.filter _ = []
    rw [hk]; rfl

theorem homeWriteRun {pa n x} (h : Spares w s u) : Spares w s (u.homeWriteRun pa n x) := by
  have h1 : Spares w s ((u.setPm (memWrite u.pm pa n x)).markStale pa n) := .ite (fun _ => h.same rfl) fun _ => h.same rfl
  exact .foldl (fun _ _ h => h.notice) _ h1.healPm

theorem markFull {reg head tail} (h : Spares w s u) : Spares w s (u.markFull reg head tail) := .ite (fun _ => h.same rfl) fun _ => h

theorem askTest {t} (h : Spares w s u) : Spares w s (u.askTest t) := .ite (fun _ => h) fun _ => h.same rfl

theorem ctxCheck {cx} (h : Spares w s u) : Spares w s (u.ctxCheck cx) := by
  have h1 : Spares w s (if u.core.cfg.running ∧ u.core.cfg.cx = cx then u.request 0x1DF 0 else u) := .ite (fun _ => h.same rfl) fun _ => h
  exact h1.same rfl

theorem errRecord {store uncorr verdict die unit core cx idx} (h : Spares w s u) (hw : ∀ b, logReg b → w b) :
    Spares w s (u.errRecord store uncorr verdict die unit core cx idx) := by
  have hcnt : w 0x710 := hw _ (.inr rfl)
  have hctl : w 0x708 := hw _ (.inl rfl)
  unfold State.errRecord
  extract_lets _ _ _ _ s1 _ _ _ s2 _ _ s3 s4
  have h1 : Spares w s s1 := .ite (fun _ => h.askTest) fun _ => h
  have h2 : Spares w s s2 := .ite (fun _ => h1) fun _ => h1.same rfl
  have h3 : Spares w s s3 := .markFull (.setDevReg (.ite (fun _ => h2) fun _ => h2.homeWriteRun) hctl (by decide))
  have h4 : Spares w s s4 := h3.same rfl
  exact .ite (fun _ => h1.setDevReg hcnt (by decide)) fun _ => .ite (fun _ => h4.same rfl) fun _ => h4

end State.Spares

theorem State.not_unharmed_of_fenced {u : State} {pa n : Nat} (h : u.rangeFenced pa n = true) : ¬ u.unharmed := by
  rintro ⟨-, -, hdie, hch⟩
  simp [State.rangeFenced, hdie, hch] at h

theorem State.not_unharmed_of_bad {u : State} {pa n : Nat} (h : u.pmBad pa n = true) : ¬ u.unharmed := by
  intro hu
  have hf : u.rangeFenced pa n = false := by simpa using fun hf => State.not_unharmed_of_fenced hf hu
  obtain ⟨hb, hs, -, -⟩ := hu
  simp [State.pmBad, State.l2Bad, hb, hs, hf] at h

/-- The registers that a function-level reset may write: the error log of a device that is harmed, and the registers of slots. -/
def State.resetRegs (s : State) (slot : Nat → Prop) (b : Nat) : Prop :=
  (¬ s.unharmed ∧ logReg b) ∨ slot b

namespace State.Spares
variable {s u : State} {slot : Nat → Prop}

theorem pmError {cx pa} (h : Spares (s.resetRegs slot) s u) (hu : ¬ u.unharmed) : Spares (s.resetRegs slot) s (u.pmError cx pa) :=
  h.errRecord fun _ hb => .inl ⟨fun hs => hu (h.unharmed hs), hb⟩

theorem chargeLine {w cx cls pa} (h : Spares w s u) : Spares w s (u.chargeLine cx cls pa) := by
  have hacct {u cx pa} (h : Spares w s u) : Spares w s (u.acctBytes pa cx) := by
    unfold State.acctBytes
    split
    · exact .ite (fun _ => h) fun _ => h.same rfl
    · exact h
  refine .ite (fun _ => hacct h) fun _ => ?_
  have h1 := h.same (v := u.bumpFree.updDev fun d =>
    { d with l2 := if u.l2Alloc pa cls (some cx) && decide (pa / 64 ∉ d.l2) then pa / 64 :: d.l2 else d.l2 }) rfl
  exact .ite (fun _ => hacct h1) fun _ => h1

theorem writeFor {cx pa n x} (h : Spares (s.resetRegs slot) s u) : Spares (s.resetRegs slot) s (u.writeFor cx pa n x) :=
  .ite (fun hf => (h.pmError (State.not_unharmed_of_fenced hf)).ctxCheck) fun _ => h.homeWriteRun.chargeLine

theorem setStatus {cx q st stop} (h : Spares (s.resetRegs slot) s u) : Spares (s.resetRegs slot) s (u.setStatus cx q st stop) :=
  .ite (fun hb => (h.pmError (State.not_unharmed_of_bad hb)).ctxCheck) fun _ => h.writeFor

theorem haltQueue {cx q st} (h : Spares (s.resetRegs slot) s u) : Spares (s.resetRegs slot) s (u.haltQueue cx q st) := by
  unfold State.haltQueue
  split
  · exact h.setStatus.same rfl
  · exact .ite (fun hb => h.pmError (State.not_unharmed_of_bad hb)) fun _ => .ite (fun _ => h.setStatus.same rfl) fun _ => h

theorem unpinJob {w j} (h : Spares w s u) : Spares w s (u.unpinJob j) := by
  unfold State.unpinJob
  split
  · exact .foldl (fun _ _ h => h.same (by rfl)) _ h
  · exact h

theorem haltQueues {cx st} (h : Spares (s.resetRegs slot) s u) : Spares (s.resetRegs slot) s (u.haltQueues cx st) := by
  unfold State.haltQueues
  extract_lets isOpen s1
  have h1 : Spares (s.resetRegs slot) s s1 := (h.foldl (fun _ _ h => h.unpinJob) (u.dev.jobs.filter isOpen)).same rfl
  exact .foldl (fun _ _ h => h.haltQueue) _ h1

theorem discardCtx {w cx} (h : Spares w s u) : Spares w s (u.discardCtx cx) := by
  have h1 : Spares w s (if u.core.cfg.cx = cx then u.updCore fun c => { c with cache := [] } else u) := .ite (fun _ => h.same rfl) fun _ => h
  exact h1.same rfl

end State.Spares

/-! ### The 64 slots -/

/-- The two registers of slot n: the context's number, and its state in the accounting block. -/
def slotRegs (n b : Nat) : Prop := b = slotReg n ∨ b = 0x170008 + 256 * n

/-- The termination of a context, of a slot that holds one, up to the slot's own registers. -/
theorem State.Spares.resetSlot (s : State) {n : Nat} (hn : n < 64) : Spares (s.resetRegs (slotRegs n)) s (s.resetSlot n) := by
  have h728 : slotReg n ≠ 0x728 := by unfold slotReg; omega
  unfold State.resetSlot
  split
  next cx _ =>
    have h1 : Spares (s.resetRegs (slotRegs n)) s ((s.haltQueues cx (some 7)).discardCtx cx) := (Spares.refl _ s).haltQueues.discardCtx
    have h2 := h1.setDevReg (x := bits (((s.haltQueues cx (some 7)).discardCtx cx).devReg (slotReg n)) 0 12) (.inr (.inl rfl)) h728
    exact (h2.setDevReg (.inr (.inr rfl)) (by omega)).setDevReg (.inr (.inl rfl)) h728
  · exact .refl _ s

theorem State.slotCtx_eq_none {s : State} {n : Nat} (h : n < 64 → s.devReg (slotReg n) = 0) : s.slotCtx n = none := by
  unfold State.slotCtx
  by_cases hn : n < 64
  · simp [show s.devReg (0x400 + 8 * n) = 0 from h hn, bit]
  · simp [hn]

theorem State.slotCtx_resetSlot (s : State) {n : Nat} (hn : n < 64) : (s.resetSlot n).slotCtx n = none := by
  unfold State.resetSlot
  split
  next cx _ =>
    refine State.slotCtx_eq_none fun _ => ?_
    exact State.devReg_set_same _ _ _ (slotReg_own _ hn) (slotReg_unfenced _ hn) (by unfold slotReg; omega) (by unfold slotReg; omega)
  next h => exact h

theorem State.slotCtx_congr {s u : State} {w : Nat → Prop} (h : State.Spares w s u) {n : Nat} (hw : n < 64 → ¬ w (slotReg n)) :
    u.slotCtx n = s.slotCtx n := by
  unfold State.slotCtx
  by_cases hn : n < 64
  · have hreg : u.devReg (slotReg n) = s.devReg (slotReg n) :=
      State.devReg_congr h.part (slotReg_own _ hn) (by unfold slotReg; omega) (by unfold slotReg; omega) (h.regs _ (hw hn))
    rw [show u.devReg (0x400 + 8 * n) = s.devReg (0x400 + 8 * n) from hreg]
  · simp [hn]

/-- The registers of all slots, among others. -/
def slotBlocks (b : Nat) : Prop := (0x400 ≤ b ∧ b < 0x600) ∨ 0x170000 ≤ b

theorem slotRegs_slotBlocks {n b : Nat} (hn : n < 64) (h : slotRegs n b) : slotBlocks b := by
  unfold slotRegs slotReg at h
  unfold slotBlocks
  omega

/-- The first k slots are reset one after the other. -/
theorem State.resetSlots (s : State) (k : Nat) (hk : k ≤ 64) :
    Spares (s.resetRegs slotBlocks) s ((List.range k).foldl State.resetSlot s) ∧
      ∀ m < k, ((List.range k).foldl State.resetSlot s).slotCtx m = none := by
  induction k with
  | zero => exact ⟨.refl _ s, by simp⟩
  | succ k ih =>
    rw [List.range_succ, List.foldl_append]
    obtain ⟨hkeep, hnone⟩ := ih (by omega)
    generalize (List.range k).foldl State.resetSlot s = u at hkeep hnone
    have hstep := State.Spares.resetSlot u (show k < 64 by omega)
    refine ⟨hkeep.trans (hstep.mono fun b hb => ?_), fun m hm => ?_⟩
    · exact hb.imp (fun ⟨hu, hb⟩ => ⟨fun hs => hu (hkeep.unharmed hs), hb⟩) (slotRegs_slotBlocks (by omega))
    · obtain rfl | hlt : m = k ∨ m < k := by omega
      · exact u.slotCtx_resetSlot (by omega)
      · refine (State.slotCtx_congr hstep fun _ => ?_).trans (hnone m hlt)
        unfold State.resetRegs logReg slotRegs slotReg
        omega

/-- Nothing of a context is under way and nothing is saved: its termination leaves the device as it is. -/
theorem State.terminateAll_idle {s : State} (hj : s.dev.jobs = []) (hs : s.dev.saved = []) (hr : s.core.cfg.running = false)
    (hv : s.core.saving = false) : s.terminateAll = s.updDev fun d => { d with jobs := [] } := by
  simp [State.terminateAll, hj, hs, hr, hv]

/-- What a function-level reset does to an idle device (R430). -/
theorem functionLevelReset_idle {s : State} (hj : s.dev.jobs = []) (hs : s.dev.saved = []) (hd : s.dev.dump = none)
    (hr : s.core.cfg.running = false) (hv : s.core.saving = false) : ∃ t, exec .functionLevelReset s = .next t ∧
      State.Spares (s.resetRegs slotBlocks) s t ∧ t.dev.queues = [] ∧ t.dev.acct = s.dev.acct ∧ ∀ n, t.slotCtx n = none := by
  let s0 := s.updDev fun d => { d with jobs := [] }
  have h0 : s.terminateAll.endDump 2 = s0 := by
    rw [State.terminateAll_idle hj hs hr hv, State.endDump, show s0.dev.dump = none from hd]
  obtain ⟨hkeep, hnone⟩ := s0.resetSlots 64 (Nat.le_refl _)
  let u := (List.range 64).foldl State.resetSlot s0
  let t := u.updDev fun d => { d with queues := [], acct := s.dev.acct }
  have hst : State.Spares (s.resetRegs slotBlocks) s t :=
    ((State.Spares.refl _ s).same (v := s0) rfl).trans ((hkeep.mono fun b hb => hb).same rfl)
  have hexec : exec .functionLevelReset s = .next (((List.range 64).foldl State.resetSlot (s.terminateAll.endDump 2)).updDev fun d =>
    { d with queues := [], acct := s.dev.acct }) := rfl
  rw [h0] at hexec
  refine ⟨t, hexec, hst, rfl, rfl, fun n => ?_⟩
  by_cases hn : n < 64
  · exact (State.slotCtx_congr (w := fun _ => False) ((State.Spares.refl _ u).same (v := t) rfl) fun _ => id).trans (hnone n hn)
  · exact State.slotCtx_eq_none fun h => absurd h hn

/-! ### The other clauses -/

theorem State.notice_pm (s : State) (a : Nat) : (s.notice a).pm = s.pm := by
  have h : (s.wakeWaits (a / 64)).pm = s.pm := by
    unfold State.wakeWaits
    dsimp only
    split <;> rfl
  unfold State.notice
  dsimp only
  split
  · split <;> exact h
  · exact h

theorem State.homeWriteRun_pm (s : State) (pa n v : Nat) : (s.homeWriteRun pa n v).pm = memWrite s.pm pa n v := by
  have hfold (l : List Nat) (u : State) (f : Nat → Nat) : (l.foldl (fun s i => s.notice (f i)) u).pm = u.pm := by
    induction l generalizing u with
    | nil => rfl
    | cons i l ih => exact (ih _).trans (u.notice_pm _)
  unfold State.homeWriteRun State.markStale
  rw [hfold]
  split <;> rfl

theorem State.chargeLine_pm (s : State) (cx : Nat) (cls : Option Nat) (pa : Nat) : (s.chargeLine cx cls pa).pm = s.pm := by
  have hacct (u : State) : (u.acctBytes pa cx).pm = u.pm := by
    unfold State.acctBytes State.acctAdd
    split
    · split <;> rfl
    · rfl
  unfold State.chargeLine
  dsimp only
  split
  · exact hacct _
  · split
    · exact hacct _
    · rfl

/-- The first byte of a number that is read. -/
theorem memRead_one (m : Memory) (a n : Nat) : memRead m a 1 = memRead m a (n + 1) % 256 := by
  have h := (memGet m a).isLt
  rw [memRead, memRead, memRead]
  omega

/-- The status that a queue's descriptor then holds, where its word is sound (R128). -/
theorem State.setStatus_status (s : State) {cx q st : Nat} (stop : Bool) (hst : st < 256) (hw : s.pm.wf = true)
    (hb : s.pmBad (s.descAt cx q + 0x20) 4 = false) : (s.setStatus cx q (some st) stop).homeRead (s.descAt cx q + 0x20) 1 = st := by
  have hf : s.rangeFenced (s.descAt cx q + 0x20) 4 = false := by
    simp only [State.pmBad, Bool.or_eq_false_iff] at hb
    exact hb.2
  unfold State.setStatus State.writeFor State.homeRead
  simp only [hb, hf, Bool.false_eq_true, if_false, Option.getD_some]
  rw [State.chargeLine_pm, State.homeWriteRun_pm, memRead_one _ _ 3, memRead_memWrite 4 _ _ _ hw]
  omega

/-- Counters and fences that a function-level reset spares: no error of the reset itself reaches them. -/
theorem State.Spares.counters {s t : State} (h : Spares (s.resetRegs slotBlocks) s t) :
    ∀ o ∈ [0x348, 0x350, 0x718, 0x728, 0x760, 0x768, 0x770, 0x778, 0x780, 0x788], t.devReg o = s.devReg o := by
  intro o ho
  have hfree : ¬ logReg o ∧ ¬ slotBlocks o ∧ o ≠ 0x330 ∧ o ≠ 0x338 := by
    simp only [List.mem_cons, List.not_mem_nil, or_false] at ho
    unfold logReg slotBlocks
    omega
  have hown : ownRegister s.part o = true := by
    simp only [List.mem_cons, List.not_mem_nil, or_false] at ho
    obtain rfl | rfl | rfl | rfl | rfl | rfl | rfl | rfl | rfl | rfl := ho <;> rfl
  obtain ⟨hlog, hslot, h1, h2⟩ := hfree
  exact State.devReg_congr h.part hown h1 h2 (h.regs o fun hw => hw.elim (fun x => hlog x.2) hslot)

/-- The overflow count of the error log, on a device that is not harmed (R416). -/
theorem State.Spares.overflow {s t : State} (h : Spares (s.resetRegs slotBlocks) s t) (hu : s.unharmed) : t.devReg 0x710 = s.devReg 0x710 := by
  have hslot : ¬ slotBlocks 0x710 := by unfold slotBlocks; omega
  exact State.devReg_congr h.part rfl (by decide) (by decide) (h.regs _ fun hw => hw.elim (fun x => x.1 hu) hslot)

theorem inputVoltageChange_low (s : State) {mv : BitVec 16} (h : mv.toNat < 46000) :
    ∃ t, exec (.inputVoltageChange mv) s = .next t ∧ t.dev.holdUp = true ∧ t.dev.noSupply = s.dev.noSupply := by
  refine ⟨_, rfl, ?_, ?_⟩ <;> simp [h]

theorem inputVoltageChange_high (s : State) {mv : BitVec 16} (h : 46000 ≤ mv.toNat) :
    ∃ t, exec (.inputVoltageChange mv) s = .next t ∧ t.dev.holdUp = false ∧ t.dev.noSupply = false := by
  refine ⟨_, rfl, ?_, ?_⟩ <;> simp [Nat.not_lt.mpr h]

theorem inputVoltageChange_return (s : State) {mv : BitVec 16} (h : 46000 ≤ mv.toNat) (hs : s.dev.noSupply = true) :
    let u := (s.updDev fun d => { d with noSupply := false }).afterReset.boot
    exec (.inputVoltageChange mv) s = .next ((u.setDevReg 0x808 (setBits (u.devReg 0x808) 16 16 (mv.toNat / 10))).updDev fun d =>
      { d with holdUp := false, noSupply := d.noSupply && false }) := by
  simp [exec, execInputVoltageChange, hs, Nat.not_lt.mpr h]

/-- Settles O39: the clauses that are the step's own entry, and the function-level reset of an idle device by `functionLevelReset_idle`. -/
theorem platformStepsComplete : Obligations.PlatformStepsComplete := by
  unfold Obligations.PlatformStepsComplete
  refine ⟨fun s => rfl, fun s => rfl, fun s => rfl, fun s n cx h => ?_, ⟨fun s j hj hn => ?_, fun s cx q st stop hst hw hb => ?_⟩,
    fun s hj hs hd hr hv _ => ?_, fun s => ?_, fun s off v => rfl, fun s pa n v hp ho hn hf => ?_, fun s pa n v hp ho hn hb => ?_,
    fun s pa v hp ho hb => ?_, fun s pa v e hp ho hb => ?_, fun s pa v ht hf => ?_, fun s m => rfl, fun s mv h => ?_, fun s mv h => ?_,
    fun s mv h hs => ?_⟩
  · simp [State.resetSlot, h]
  · simp [State.terminateJob, hj, hn]
  · exact s.setStatus_status stop hst hw hb
  · obtain ⟨t, hexec, hkeep, hqueues, hacct, hslots⟩ := functionLevelReset_idle hj hs hd hr hv
    exact ⟨t, hexec, hqueues, hslots, hacct, hkeep.acctSnap, hkeep.idleMicro, hkeep.fencedCh,
      fun h1 h2 h3 h4 => hkeep.overflow ⟨h1, h2, h3, h4⟩, hkeep.counters⟩
  · obtain ⟨hlm, hpm, hhm, -⟩ := s.powerFail.afterReset_memory
    exact ⟨_, rfl, rfl, rfl, hlm, hpm, hhm⟩
  · simp [exec, execHostApertureAccess, Nat.min_eq_left hn, hp, ho, hf, State.hostWrite]
  · simp [exec, execHostApertureAccess, Nat.min_eq_left hn, hp, ho, hb]
  · simp [exec, execHostApertureAccess, hp, ho, hb, State.hostWrite]
  · by_cases he : memRead s.pm pa 8 = e.toNat <;>
      simp [exec, execHostApertureAccess, hp, ho, hb, State.hostWrite, State.homeRead, he]
  · have ht' : (s.part.tierOf pa).isNone = false := by simpa using ht
    simp [exec, execFabricWrite, ht', hf]
  · exact inputVoltageChange_low s h
  · exact inputVoltageChange_high s h
  · exact inputVoltageChange_return s h hs

end Sys2Proof.Machine
end

section
/-! O56 and O57: the frames of the scalar and of the vector ops. Every such op lands its results and flags, may hold its slot or the iterative
unit, and may count one draw: each of these effects is quiet (`State.quietIn`), and so is the issue of an op that has no other. -/

namespace Sys2Proof.Machine

/-! ### The effects -/

theorem State.landS_quietIn (s : State) (n : Nat) (d : Field6) (v : Word64) : (s.landS n d v).quietIn s := s.emit_quietIn _ _
theorem State.landV_quietIn (s : State) (n : Nat) (d : Field6) (v : VecWord) : (s.landV n d v).quietIn s := s.emit_quietIn _ _

theorem State.landF_quietIn (s : State) (n : Nat) (d : Field6) (r : Nat × FlagSet) : (s.landF n d r).quietIn s :=
  State.quietIn_trans (State.raise_quietIn _ _ _) (s.landS_quietIn _ _ _)

theorem State.landFB_quiet (s : State) (n : Nat) (d : Field6) (r : Bool × FlagSet) : (s.landFB n d r).quiet s :=
  State.quiet_trans (State.raise_quiet _ _ _) (s.landB_quiet _ _ _)

theorem State.landLanes_quietIn (s : State) (n : Nat) (d : Field6) (r : List (Nat × FlagSet)) : (s.landLanes n d r).quietIn s :=
  State.quietIn_trans (State.raise_quietIn _ _ _) (s.landV_quietIn _ _ _)

theorem State.landPacked_quietIn (s : State) (n w : Nat) (d : Field6) (r : List (Nat × FlagSet)) : (s.landPacked n w d r).quietIn s :=
  State.quietIn_trans (State.raise_quietIn _ _ _) (s.landV_quietIn _ _ _)

/-- The iterative unit is no register. -/
theorem State.setIter_quietIn (s : State) (b : Bool) (n : Nat) : (s.updCore fun c => if b then { c with iter := n } else c).quietIn s := by
  refine s.updCore_quietIn _ ?_
  cases b <;> exact ⟨rfl, rfl, rfl, rfl, rfl, rfl⟩

theorem State.divide_quiet (s : State) (d : Field6) (v : Word64) : (s.divide d v).quiet s :=
  State.quiet_trans (State.setIter_quietIn _ _ _).1 (State.quiet_trans (State.hold_quiet _ _) (s.landS_quiet _ _ _))

theorem State.slowF_quietIn (s : State) (d : Field6) (r : Nat × FlagSet) : (s.slowF d r).quietIn s :=
  State.quietIn_trans (State.setIter_quietIn _ _ _) (State.quietIn_trans (State.hold_quietIn _ _) (s.landF_quietIn _ _ _))

theorem State.slowV_quiet (s : State) : s.slowV.quiet s := State.quiet_trans (State.setIter_quietIn _ _ _).1 (s.hold_quiet _)

theorem State.reduceOp_quiet (s : State) (c : Combine) (d a m : Field6) : (s.reduceOp c d a m).quiet s :=
  State.quiet_trans (State.raise_quiet _ _ _) (s.landV_quiet _ _ _)

theorem State.vecCmp_quiet (s : State) (d a b : Field6) (f : Nat → Nat → Bool × FlagSet) : (s.vecCmp d a b f).quiet s :=
  State.quiet_trans (State.raise_quiet _ _ _) (s.landM_quiet _ _ _)

theorem State.quant_rounds (s : State) (d a b : Field6) (f : BitVec 4) (mode : Nat) : (s.quant d a b f mode).quiet (s.countRound mode) :=
  State.countRound_quiet (State.quietIn_trans (State.landV_quietIn _ _ _ _) (s.landPacked_quietIn _ _ _ _)) mode

/-! ### The ops by their effect: `exec` is the issue of an op with it by definition -/

/-- The instruction issues as an op with this effect. -/
def IssuesWith (i : Instr) (eff : State → State) : Prop := ∀ s, exec i s = issue (specOf i) s eff

section Keeps
variable {i : Instr}

theorem KeepsRegs.landS {n : Nat} {d : Field6} {v : State → Word64} (h : IssuesWith i fun s => s.landS n d (v s) := by exact fun _ => rfl) :
    KeepsRegs i := keepsRegs_of h fun s => s.landS_quiet _ _ _

theorem KeepsRegs.landB {n d : Nat} {v : State → Bool} (h : IssuesWith i fun s => s.landB n d (v s) := by exact fun _ => rfl) : KeepsRegs i :=
  keepsRegs_of h fun s => s.landB_quiet _ _ _

theorem KeepsRegs.landM {n d : Nat} {v : State → Word64} (h : IssuesWith i fun s => s.landM n d (v s) := by exact fun _ => rfl) : KeepsRegs i :=
  keepsRegs_of h fun s => s.landM_quiet _ _ _

theorem KeepsRegs.land {n : Nat} {d : Dst} {v : State → Nat} (h : IssuesWith i fun s => s.land n d (v s) := by exact fun _ => rfl) :
    KeepsRegs i := keepsRegs_of h fun s => s.land_quiet _ _ _

/-- A field of length 0 lands nothing (R99). -/
theorem KeepsRegs.bfi (k : Bool) (d a b : Field6) : KeepsRegs (.bfi k d a b) := by
  refine keepsRegs_of (fun _ => rfl) fun s => ?_
  split
  · exact s.quiet_refl
  · exact s.landS_quiet _ _ _

theorem KeepsRegs.divide {d : Field6} {v : State → Word64} (h : IssuesWith i fun s => s.divide d (v s) := by exact fun _ => rfl) :
    KeepsRegs i := keepsRegs_of h fun s => s.divide_quiet _ _

theorem KeepsRegs.landF {n : Nat} {d : Field6} {r : State → Nat × FlagSet}
    (h : IssuesWith i fun s => s.landF n d (r s) := by exact fun _ => rfl) : KeepsRegs i := keepsRegs_of h fun s => (s.landF_quietIn _ _ _).1

theorem KeepsRegs.landFB {n : Nat} {d : Field6} {r : State → Bool × FlagSet}
    (h : IssuesWith i fun s => s.landFB n d (r s) := by exact fun _ => rfl) : KeepsRegs i := keepsRegs_of h fun s => s.landFB_quiet _ _ _

theorem KeepsRegs.landLanes {n : Nat} {d : Field6} {r : State → List (Nat × FlagSet)}
    (h : IssuesWith i fun s => s.landLanes n d (r s) := by exact fun _ => rfl) : KeepsRegs i :=
  keepsRegs_of h fun s => (s.landLanes_quietIn _ _ _).1

theorem KeepsRegs.landPacked {n : Nat} {w : State → Nat} {d : Field6} {r : State → List (Nat × FlagSet)}
    (h : IssuesWith i fun s => s.landPacked n (w s) d (r s) := by exact fun _ => rfl) : KeepsRegs i :=
  keepsRegs_of h fun s => (s.landPacked_quietIn _ _ _ _).1

theorem KeepsRegs.landV {n : Nat} {d : Field6} {v : State → VecWord}
    (h : IssuesWith i fun s => s.landV n d (v s) := by exact fun _ => rfl) : KeepsRegs i := keepsRegs_of h fun s => s.landV_quiet _ _ _

theorem KeepsRegs.vecCmp {d a b : Field6} {f : Nat → Nat → Bool × FlagSet}
    (h : IssuesWith i fun s => s.vecCmp d a b f := by exact fun _ => rfl) : KeepsRegs i := keepsRegs_of h fun s => s.vecCmp_quiet _ _ _ _

theorem KeepsRegs.reduceOp {c : Combine} {d a m : Field6} (h : IssuesWith i fun s => s.reduceOp c d a m := by exact fun _ => rfl) :
    KeepsRegs i := keepsRegs_of h fun s => s.reduceOp_quiet _ _ _ _

theorem KeepsRegs.quant {d a b : Field6} {f : BitVec 4} (h : IssuesWith i fun s => s.quant d a b f 0 := by exact fun _ => rfl) :
    KeepsRegs i := keepsRegs_of h fun s => s.quant_rounds _ _ _ _ 0

theorem KeepsRegsRounding.landF {n r : Nat} {d : Field6} {v : State → Nat × FlagSet}
    (h : IssuesWith i fun s => (s.landF n d (v s)).countRound r := by exact fun _ => rfl)
    (hs : (specOf i).sync = false := by rfl) : KeepsRegsRounding i r :=
  keepsRounding_of h hs fun s => State.countRound_quiet (s.landF_quietIn _ _ _) r

theorem KeepsRegsRounding.slowF {r : Nat} {d : Field6} {v : State → Nat × FlagSet}
    (h : IssuesWith i fun s => (s.slowF d (v s)).countRound r := by exact fun _ => rfl)
    (hs : (specOf i).sync = false := by rfl) : KeepsRegsRounding i r :=
  keepsRounding_of h hs fun s => State.countRound_quiet (s.slowF_quietIn _ _) r

theorem KeepsRegsRounding.landLanes {n r : Nat} {d : Field6} {v : State → List (Nat × FlagSet)}
    (h : IssuesWith i fun s => (s.landLanes n d (v s)).countRound r := by exact fun _ => rfl)
    (hs : (specOf i).sync = false := by rfl) : KeepsRegsRounding i r :=
  keepsRounding_of h hs fun s => State.countRound_quiet (s.landLanes_quietIn _ _ _) r

theorem KeepsRegsRounding.slowV {n : State → Nat} {r : Nat} {d : Field6} {v : State → List (Nat × FlagSet)}
    (h : IssuesWith i fun s => ((s.landLanes (n s) d (v s)).countRound r).slowV := by exact fun _ => rfl)
    (hs : (specOf i).sync = false := by rfl) : KeepsRegsRounding i r := keepsRounding_of h hs fun s =>
  State.quiet_trans (State.slowV_quiet _) (State.countRound_quiet (s.landLanes_quietIn _ _ _) r)

theorem KeepsRegsRounding.landPacked {n r : Nat} {w : State → Nat} {d : Field6} {v : State → List (Nat × FlagSet)}
    (h : IssuesWith i fun s => (s.landPacked n (w s) d (v s)).countRound r := by exact fun _ => rfl)
    (hs : (specOf i).sync = false := by rfl) : KeepsRegsRounding i r :=
  keepsRounding_of h hs fun s => State.countRound_quiet (s.landPacked_quietIn _ _ _ _) r

theorem KeepsRegsRounding.quant {r : Nat} {d a b : Field6} {f : BitVec 4}
    (h : IssuesWith i fun s => s.quant d a b f r := by exact fun _ => rfl)
    (hs : (specOf i).sync = false := by rfl) : KeepsRegsRounding i r := keepsRounding_of h hs fun s => s.quant_rounds _ _ _ _ r

end Keeps

/-! ### The statements -/

/-- Settles O56: each op by the effect that it issues with. -/
theorem scalarFrame : Obligations.ScalarFrame := by
  unfold Obligations.ScalarFrame
  exact ⟨fun _ _ _ _ => .landS, fun _ _ _ _ => .landS, fun _ _ _ _ => .landS, fun _ _ _ _ => .landS, fun _ _ _ _ => .landS, fun _ _ _ _ => .landS,
    fun _ _ _ _ => .landS, fun _ _ _ _ => .landS, fun _ _ _ _ => .landS, fun _ _ _ _ => .landS, fun _ _ _ _ => .landS, fun _ _ _ _ => .landS,
    fun _ _ _ => .landS, fun _ _ _ _ => .landS, fun _ _ _ _ => .landS, fun _ _ _ _ => .landS, fun _ _ _ => .landS, fun _ _ _ _ => .landB,
    fun _ _ _ _ => .landB, fun _ _ _ _ => .landB, fun _ _ _ _ => .landB, fun _ _ _ _ => .landB, fun _ _ _ _ => .landB, fun _ _ _ _ => .landB,
    fun _ _ _ _ => .landB, fun _ _ _ _ => .landB, fun _ _ _ _ => .landB, fun _ _ _ => .landB, fun _ _ _ _ => .landB, fun _ _ _ _ => .landB,
    fun _ _ _ _ => .landB, fun _ _ _ _ => .landB, fun _ _ _ _ => .landS, fun _ _ _ _ => .landS, fun _ _ _ _ => .landS, fun _ _ _ _ => .landS,
    fun _ _ _ _ => .landS, fun _ _ _ => .landS, fun _ _ _ => .landS, fun _ _ _ => .landS, fun _ _ _ => .landS, fun _ _ _ _ => .landS,
    fun _ _ _ _ => .landS, fun _ _ _ _ => .bfi _ _ _ _, fun _ _ _ _ => .landS, fun _ _ _ _ => .landS, fun _ _ _ _ => .landS,
    fun _ _ _ _ => .landS, fun _ _ _ _ => .landS, fun _ _ _ _ => .landS, fun _ _ _ _ => .landS, fun _ _ _ _ => .landS,
    fun _ _ _ _ => .divide, fun _ _ _ _ => .divide, fun _ _ _ _ => .divide, fun _ _ _ _ => .divide, fun _ _ _ _ _ => .landF,
    fun _ _ _ _ _ => .landF, fun _ _ _ _ _ => .landF, fun _ _ _ _ _ => .slowF, fun _ _ _ _ => .slowF, fun _ _ _ _ => .landF,
    fun _ _ _ _ => .landF, fun _ _ _ => .landF, fun _ _ _ => .landF, fun _ _ _ _ => .landFB, fun _ _ _ _ => .landFB, fun _ _ _ _ => .landFB,
    fun _ _ _ _ => .landFB, fun _ _ _ _ => .landF, fun _ _ _ _ => .landF, fun _ _ _ _ => .landF, fun _ _ _ _ => .landF,
    fun _ _ _ _ => .landF, fun _ _ _ _ => .landF, fun _ _ _ => .landF, fun _ _ _ => .landF, fun _ _ => .land, fun _ _ => .landS,
    fun _ _ => .landS, fun _ _ => .land, fun _ _ _ _ _ => .landS⟩

/-- Settles O57: each op by the effect that it issues with. -/
theorem vectorFrame : Obligations.VectorFrame := by
  unfold Obligations.VectorFrame
  exact ⟨fun _ _ _ _ _ => .landLanes, fun _ _ _ _ _ => .landLanes, fun _ _ _ _ _ => .landLanes, fun _ _ _ _ _ => .slowV,
    fun _ _ _ _ => .landLanes, fun _ _ _ _ => .landLanes, fun _ _ _ => .landLanes, fun _ _ _ => .landLanes, fun _ _ _ _ => .slowV,
    fun _ _ _ _ _ => .landLanes, fun _ _ _ _ _ => .landLanes, fun _ _ _ _ _ => .landLanes, fun _ _ _ _ => .landLanes,
    fun _ _ _ _ => .landLanes, fun _ _ _ _ => .landLanes, fun _ _ _ _ => .landLanes, fun _ _ _ _ => .landLanes, fun _ _ _ _ => .landLanes,
    fun _ _ _ _ => .landLanes, fun _ _ _ _ => .landLanes, fun _ _ _ _ => .landLanes, fun _ _ _ _ => .landLanes, fun _ _ _ _ => .landLanes,
    fun _ _ _ _ => .landLanes, fun _ _ _ _ => .landLanes, fun _ _ _ _ => .vecCmp, fun _ _ _ _ => .vecCmp, fun _ _ _ _ => .vecCmp,
    fun _ _ _ _ => .vecCmp, fun _ _ _ _ => .vecCmp, fun _ _ _ _ => .vecCmp, fun _ _ _ _ => .vecCmp, fun _ _ _ _ _ => .landLanes,
    fun _ _ _ _ => .landM, fun _ _ _ _ => .landM, fun _ _ _ _ => .landM, fun _ _ _ => .landM, fun _ _ _ => .landS, fun _ _ _ => .landM,
    fun _ _ _ => .landS, fun _ _ _ _ => .landPacked, fun _ _ _ _ => .landLanes, fun _ _ _ _ _ => .quant, fun _ _ _ _ _ => .quant,
    fun _ _ _ _ => .landPacked, fun _ _ _ _ => .landLanes, fun _ _ _ _ => .landLanes, fun _ _ _ _ => .landLanes, fun _ _ _ _ => .landLanes,
    fun _ _ _ => .landLanes, fun _ _ _ => .landLanes, fun _ _ _ => .landPacked, fun _ _ _ => .landPacked, fun _ _ _ => .landLanes,
    fun _ _ _ => .landLanes, fun _ _ _ _ => .landV, fun _ _ _ _ => .landV, fun _ _ _ => .landV, fun _ _ _ _ => .landV, fun _ _ _ _ => .landS,
    fun _ _ _ _ => .landV, fun _ _ _ _ => .landV, fun _ _ _ _ => .landV, fun _ _ _ _ => .landLanes, fun _ _ _ _ => .landLanes,
    fun _ _ _ _ => .landLanes, fun _ _ _ _ => .reduceOp, fun _ _ _ _ => .reduceOp, fun _ _ _ _ => .reduceOp, fun _ _ _ _ => .reduceOp,
    fun _ _ _ _ => .landV, fun _ _ _ _ => .landV, fun _ _ _ _ => .landV, fun _ _ _ _ => .landV, fun _ _ _ _ => .landV,
    fun _ _ _ _ => .landLanes, fun _ _ _ _ => .landLanes, fun _ _ _ => .landLanes, fun _ _ _ => .landLanes, fun _ _ _ => .landLanes,
    fun _ _ _ => .landLanes⟩

end Sys2Proof.Machine
end

section
/-! What the device does beside the threads: a write at home, an error record, a count or a trace record changes no local or host memory, no
register of the primary or of the core, and of a pawn at most its monitors and its chunk, and those in deterministic mode only. -/

namespace Sys2Proof.Machine

/-- What stands beside the pawns while the device acts: local and host memory, the part, the primary, the launch, the registers of the core. -/
def State.steady (s : State) :
    (Memory × Memory × List Nat × Part) × Primary × LaunchCfg × Vector Word32 16 × Vector Tile 16 × Vector WSlot 32 × Vector (BitVec 131072) 8 × Vector ZReg 32 × Vector (BitVec 21) 2 :=
  ((s.lm, s.hm, s.badLm, s.part), s.prim, s.core.cfg, s.core.fd, s.core.t, s.core.w, s.core.acc, s.core.z, s.core.wptr)

/-- The same pawn but for its monitors and its chunk. -/
def Pawn.sameButWatch (a b : Pawn) : Prop := { a with mon := b.mon, chunk := b.chunk } = b

/-- From s to u only the device has acted. -/
structure State.Aside (s u : State) : Prop where
  steady : u.steady = s.steady
  pawn : ∀ n, (u.pawn n).sameButWatch (s.pawn n)
  pawns : s.core.cfg.det = false → u.pawns = s.pawns

theorem State.pawn_setPawns_vmap (s : State) (f : Pawn → Pawn) (n : Nat) :
    (s.setPawns (vmap f s.pawns)).pawn n = if n < 16 then f (s.pawn n) else s.pawn n := by
  by_cases h : n < 16 <;> simp [State.pawn, State.setPawns, vget, vmap, h]

theorem Pawn.sameButWatch_trans {a b c : Pawn} (h : a.sameButWatch b) (k : b.sameButWatch c) : a.sameButWatch c := by
  have e := congrArg (fun p : Pawn => ({ p with mon := c.mon, chunk := c.chunk } : Pawn)) h
  exact Eq.trans e k

namespace State.Aside
variable {s u v : State}

theorem refl (s : State) : Aside s s := ⟨rfl, fun _ => rfl, fun _ => rfl⟩

/-- A change of other parts of the state. -/
theorem same (h : Aside s u) (e : v.steady = u.steady) (p : v.pawns = u.pawns) : Aside s v := by
  refine ⟨e.trans h.steady, fun n => ?_, fun hd => p.trans (h.pawns hd)⟩
  rw [show v.pawn n = u.pawn n from congrArg (vget · n Pawn.initial) p]
  exact h.pawn n

theorem updDev {f} (h : Aside s u) : Aside s (u.updDev f) := h.same rfl rfl
theorem setDevReg {o x} (h : Aside s u) : Aside s (u.setDevReg o x) := h.same rfl rfl
theorem setPm {m} (h : Aside s u) : Aside s (u.setPm m) := h.same rfl rfl
theorem bumpFree (h : Aside s u) : Aside s u.bumpFree := h.same rfl rfl

theorem ite {c : Prop} {_ : Decidable c} (hu : Aside s u) (hv : Aside s v) : Aside s (if c then u else v) := by
  split
  · exact hu
  · exact hv

theorem foldl {α : Type} {f : State → α → State} (hf : ∀ u x, Aside s u → Aside s (f u x)) (l : List α) (h : Aside s u) :
    Aside s (l.foldl f u) := by
  induction l generalizing u with
  | nil => exact h
  | cons x l ih => exact ih (hf u x h)

theorem cfg (h : Aside s u) : u.core.cfg = s.core.cfg := by
  have e := h.steady
  simp only [State.steady, Prod.mk.injEq] at e
  exact e.2.2.1

/-- In deterministic mode every pawn may note what has been written. -/
theorem watch {f : Pawn → Pawn} (h : Aside s u) (hd : u.core.cfg.det = true) (hf : ∀ p, (f p).sameButWatch p) :
    Aside s (u.setPawns (vmap f u.pawns)) := by
  refine ⟨h.steady, fun n => Pawn.sameButWatch_trans ?_ (h.pawn n), fun hs => ?_⟩
  · rw [State.pawn_setPawns_vmap]
    split
    · exact hf _
    · exact rfl
  · rw [h.cfg, hs] at hd
    cases hd

/-! ### Writes of device memory -/

theorem wakeWaits {line} (h : Aside s u) : Aside s (u.wakeWaits line) := .ite h.updDev h

theorem notice {pa} (h : Aside s u) : Aside s (u.notice pa) := by
  unfold State.notice
  extract_lets s1
  have h1 : Aside s s1 := h.wakeWaits
  split
  · split
    · next hd => exact h1.watch hd fun _ => rfl
    · exact h1.same rfl rfl
  · exact h1

theorem markStale {pa n} (h : Aside s u) : Aside s (u.markStale pa n) := by
  unfold State.markStale
  split
  · next hd => exact h.watch hd fun _ => rfl
  · exact h

theorem homeWriteRun {pa n x} (h : Aside s u) : Aside s (u.homeWriteRun pa n x) := by
  have h1 : Aside s ((u.setPm (memWrite u.pm pa n x)).markStale pa n) := .markStale (h.same rfl rfl)
  exact .foldl (fun _ _ h => h.notice) _ (h1.same rfl rfl)

theorem markFull {reg head tail} (h : Aside s u) : Aside s (u.markFull reg head tail) := .ite h.updDev h

/-! ### Errors, counts and trace records -/

theorem askTest {t} (h : Aside s u) : Aside s (u.askTest t) := .ite h h.updDev

theorem errRecord {store uncorr verdict die unit core cx idx} (h : Aside s u) :
    Aside s (u.errRecord store uncorr verdict die unit core cx idx) := by
  unfold State.errRecord
  extract_lets _ _ _ _ s1 _ _ _ s2 _ _ s3 s4
  have h1 : Aside s s1 := .ite h.askTest h
  have h2 : Aside s s2 := .ite h1 (h1.same rfl rfl)
  have h3 : Aside s s3 := .markFull (.setDevReg (.ite h2 h2.homeWriteRun))
  have h4 : Aside s s4 := h3.same rfl rfl
  exact .ite h1.setDevReg (.ite h4.updDev h4)

theorem pmError {cx pa} (h : Aside s u) : Aside s (u.pmError cx pa) := h.errRecord
theorem lmError {cx words} (h : Aside s u) : Aside s (u.lmError cx words) := h.errRecord
theorem request {c d} (h : Aside s u) : Aside s (u.request c d) := h.same rfl rfl
theorem agentLm {words} (h : Aside s u) : Aside s (u.agentLm words) := .ite h.lmError.request h
theorem agentPm {pa n} (h : Aside s u) : Aside s (u.agentPm pa n) := .ite h.pmError.request h

theorem ctxCheck {cx} (h : Aside s u) : Aside s (u.ctxCheck cx) := by
  have h1 : Aside s (if u.core.cfg.running ∧ u.core.cfg.cx = cx then u.request 0x1DF 0 else u) := .ite h.request h
  exact h1.updDev

theorem notify {count page src cx} (h : Aside s u) : Aside s (u.notify count page src cx) := by
  unfold State.notify
  extract_lets _ _ _ _ _ _ _ _ s1 s2 s3
  have h1 : Aside s s1 := .ite h.pmError h.setPm
  have h2 : Aside s s2 := .markFull h1.setDevReg
  have h3 : Aside s s3 := h2.updDev
  exact .ite h.setDevReg (.ite h3.updDev h3)

theorem pactCount {src pa cx} (h : Aside s u) : Aside s (u.pactCount src pa cx) := .ite h.updDev.notify h.updDev

theorem acctBytes {pa cx} (h : Aside s u) : Aside s (u.acctBytes pa cx) := by
  unfold State.acctBytes
  split
  · exact .ite h h.updDev
  · exact h

theorem reach {src pa cx} (h : Aside s u) : Aside s (u.reach src pa cx) := by
  unfold State.reach
  split
  · exact h.acctBytes.pactCount
  · exact h.pactCount

theorem countFill {pa cx hit alloc} (h : Aside s u) : Aside s (u.countFill pa cx hit alloc) :=
  .ite h.reach (.ite h.bumpFree.updDev.reach h.bumpFree.updDev)

theorem countGroup {cx va} (h : Aside s u) : Aside s (u.countGroup cx va) := by
  refine .foldl (fun _ _ h => ?_) _ h
  split
  · exact h.countFill
  · exact h

theorem readGroup {cx va} (h : Aside s u) : Aside s (u.readGroup cx va) := by
  unfold State.readGroup
  split
  · exact h.agentPm
  · exact h.countGroup

theorem traceWrite {core kind thread payload} (h : Aside s u) : Aside s (u.traceWrite core kind thread payload) := by
  unfold State.traceWrite
  extract_lets _ _ _ _ _ s1 _
  have h1 : Aside s s1 := .ite h.bumpFree.pmError.ctxCheck h.bumpFree.homeWriteRun
  exact h1.setDevReg

theorem tracePut {core kind thread payload} (h : Aside s u) : Aside s (u.tracePut core kind thread payload) :=
  .ite h.traceWrite (h.same rfl rfl)

theorem traceRec {kind thread payload} (h : Aside s u) : Aside s (u.traceRec kind thread payload) := by
  have h1 : Aside s (u.traceRecOf u.core.cfg.coreInClus kind thread payload) :=
    .tracePut (.ite (h.traceWrite.same rfl rfl) h)
  exact .ite (h1.same rfl rfl) h1

theorem traceTrap {thread t} (h : Aside s u) : Aside s (u.traceTrap thread t) := .ite h.traceRec h

theorem traceEngine {kind thread tag op queue status} (h : Aside s u) : Aside s (u.traceEngine kind thread tag op queue status) :=
  .ite h.traceRec h

end State.Aside

end Sys2Proof.Machine
end

section
/-! O58: the frame of the control, memory, scale, matrix and message ops. Their effects are still (`State.still`): they queue accesses, requests and
results and change how a thread goes on, and no data register. The effects of sret, brk, rqput and eqw reach further, each in its own way:
`State.perform_frame` carries what such an effect keeps over the issue of its op. -/

namespace Sys2Proof.Machine

/-! ### The effects -/

theorem State.mailTake_still (s : State) (t : Nat) (d : Dst) : (s.mailTake t d).still s := by
  have h : (s.landWait t d (s.pawn t).mbox.toNat).still s := (s.setCtx (agentCtx (.pawn t))).emit_still _ _
  exact State.still_trans (State.updPawn_still _ _ _ ⟨rfl, rfl, rfl, rfl, rfl, rfl⟩) h

theorem State.updEngine_still (s : State) (e : Nat) (f : EngQueue → EngQueue) : (s.updEngine e f).still s :=
  s.updCore_still _ ⟨rfl, rfl, rfl, rfl, rfl, rfl⟩

/-! ### The ops by their effect -/

section Keeps
variable {i : Instr}

theorem KeepsData.idle (h : IssuesWith i fun s => s := by exact fun _ => rfl) : KeepsData i := keepsData_of h State.still_refl

theorem KeepsData.emit {n : Nat} {e : State → Eff} (h : IssuesWith i fun s => s.emit n (e s) := by exact fun _ => rfl) : KeepsData i :=
  keepsData_of h fun s => s.emit_still _ _

theorem KeepsData.redirect {a : State → Word64} (h : IssuesWith i fun s => s.redirect (a s) := by exact fun _ => rfl) : KeepsData i :=
  keepsData_of h fun s => s.redirect_still _

theorem KeepsData.brT (k : Bool) (p : BitVec 4) (o : BitVec 13) : KeepsData (.brT k p o) := by
  refine keepsData_of (fun _ => rfl) fun s => ?_
  split
  · exact s.redirect_still _
  · exact s.still_refl

theorem KeepsData.brF (k : Bool) (p : BitVec 4) (o : BitVec 13) : KeepsData (.brF k p o) := by
  refine keepsData_of (fun _ => rfl) fun s => ?_
  split
  · exact s.still_refl
  · exact s.redirect_still _

/-- A loop chooses the state of its level, which stands when the bundle has issued (R83). -/
theorem KeepsData.loop (n : BitVec 1) (a : Field6) (o : BitVec 13) : KeepsData (.loop n a o) := by
  refine keepsData_of (fun _ => rfl) fun s => ?_
  dsimp only
  split
  · exact s.redirect_still _
  · exact s.updPrim_still _ ⟨rfl, rfl, rfl, rfl, rfl, rfl, rfl, rfl, rfl, rfl⟩

theorem KeepsData.call {n : Nat} {l : Field6} {v a : State → Word64}
    (h : IssuesWith i fun s => (s.landS n l (v s)).redirect (a s) := by exact fun _ => rfl) : KeepsData i :=
  keepsData_of h fun s => State.still_trans (State.redirect_still _ _) (s.emit_still _ _)

theorem KeepsData.tempo (h : IssuesWith i State.setPhv := by exact fun _ => rfl) : KeepsData i :=
  keepsData_of h fun s => s.updPrim_still _ ⟨rfl, rfl, rfl, rfl, rfl, rfl, rfl, rfl, rfl, rfl⟩

theorem KeepsData.trap (k : Bool) (a : Field6) : KeepsData (.trap k a) := keepsData_of (fun _ => rfl) fun s => s.trapAfter_still _

theorem KeepsData.ibar : KeepsData .ibar :=
  keepsData_of (fun _ => rfl) fun s => s.updPrim_still _ ⟨rfl, rfl, rfl, rfl, rfl, rfl, rfl, rfl, rfl, rfl⟩

theorem KeepsData.fence {n : Nat} (h : IssuesWith i fun s => s.fence n := by exact fun _ => rfl) : KeepsData i :=
  keepsData_of h fun s => s.fence_still n

/-- An access waits for its banks, and its bytes may touch a guard granule (R141). -/
theorem KeepsData.access {r q : Bool} {x : State → BankAccess} {l : State → List Nat} {n : State → Nat}
    (h : IssuesWith i fun s => (s.accessOrd r q (x s)).touch (l s) (n s) false := by exact fun _ => rfl) : KeepsData i :=
  keepsData_of h fun s => State.still_trans (State.touch_still _ _ _ _) (s.access_still _ _ _)

theorem KeepsData.cwld (k : Bool) (d : Field6) (n : BitVec 8) : KeepsData (.cwld k d n) :=
  keepsData_of (fun _ => rfl) fun s => State.still_trans (State.access_still _ _ _ _) (s.touch_still _ _ _)

theorem KeepsData.tile {t : BitVec 4} {a : Field6} {st : Bool} {z : Option Nat}
    (h : IssuesWith i fun s => s.queueTile t a st z := by exact fun _ => rfl) : KeepsData i :=
  keepsData_of h fun s => State.still_trans (State.updCore_still _ _ ⟨rfl, rfl, rfl, rfl, rfl, rfl⟩) (s.touch_still _ _ _)

theorem KeepsData.weights {w : BitVec 5} {a b : Field6} {f : BitVec 4} {sc : Bool}
    (h : IssuesWith i fun s => s.queueWeights w a b f sc := by exact fun _ => rfl) : KeepsData i :=
  keepsData_of h fun s => s.updCore_still _ ⟨rfl, rfl, rfl, rfl, rfl, rfl⟩

theorem KeepsData.remote {x : State → Word64} {w : Bool} {n : State → Nat} {v : State → Wide} {d : State → Dst}
    (h : IssuesWith i fun s => s.remoteAccess (x s) w (n s) (v s) (d s) := by exact fun _ => rfl) : KeepsData i :=
  keepsData_of h fun s => s.remoteAccess_still _ _ _ _ _

theorem KeepsData.landZreg {z : BitVec 5} {f : State → Bool} {p : BitVec 1} {l : State → List (Nat × FlagSet)}
    (h : IssuesWith i fun s => s.landZreg z (f s) p (l s) := by exact fun _ => rfl) : KeepsData i :=
  keepsData_of h fun s => s.landZreg_still _ _ _ _

theorem KeepsData.multiply {y d : BitVec 3} {t : BitVec 4} {w : BitVec 5} {f : BitVec 4} {fwd sat : Bool}
    (h : IssuesWith i fun s => s.multiply y d t w f fwd sat := by exact fun _ => rfl) : KeepsData i :=
  keepsData_of h fun s => s.multiply_still _ _ _ _ _ _ _

/-- A thread waits, or sets its monitors. -/
theorem KeepsData.pawn {t : State → Nat} {f : State → Pawn → Pawn} (h : IssuesWith i fun s => s.updPawn (t s) (f s) := by exact fun _ => rfl)
    (hf : ∀ s p, (f s p).sameData p := by exact fun _ _ => ⟨rfl, rfl, rfl, rfl, rfl, rfl⟩) : KeepsData i :=
  keepsData_of h fun s => s.updPawn_still _ _ (hf s _)

theorem KeepsData.gSend {g : State → GKind} {d p : State → Dst} {va : State → Word64}
    (h : IssuesWith i fun s => s.gSend (g s) (d s) (p s) (va s) := by exact fun _ => rfl) : KeepsData i :=
  keepsData_of h fun s => s.gSend_still _ _ _ _

theorem KeepsData.ringput (k : Bool) (d a b : Field6) : KeepsData (.ringput k d a b) :=
  keepsData_of (fun _ => rfl) fun s => State.still_trans (State.gSend_still _ _ _ _ _) (s.touch_still _ _ _)

theorem KeepsData.ringget (k : Bool) (d a b : Field6) : KeepsData (.ringget k d a b) :=
  keepsData_of (fun _ => rfl) fun s => State.still_trans (State.gSend_still _ _ _ _ _) (s.touch_still _ _ _)

theorem KeepsData.exit (k : Bool) : KeepsData (.exit k) := by
  refine keepsData_of (fun _ => rfl) fun s => ?_
  split
  · exact s.dropPhv_still _ _
  · exact s.updPawn_still _ _ ⟨rfl, rfl, rfl, rfl, rfl, rfl⟩

theorem KeepsData.mbget (k : Bool) (d : Field6) : KeepsData (.mbget k d) := by
  refine keepsData_of (fun _ => rfl) fun s => ?_
  dsimp only
  split
  · exact s.mailTake_still _ _
  · exact s.updPawn_still _ _ ⟨rfl, rfl, rfl, rfl, rfl, rfl⟩

theorem KeepsData.eqr (k : Bool) (d e : Field6) : KeepsData (.eqr k d e) := by
  refine keepsData_of (fun _ => rfl) fun s => ?_
  split
  · exact State.still_trans (State.updEngine_still _ _ _) (s.emit_still _ _)
  · exact s.gSend_still _ _ _ _

theorem KeepsDataAt.gSend {va v : State → Word64} {acc : Nat} {g : State → GKind} {d p : State → Dst}
    (h : ∀ s, exec i s = issueG (specOf i) va acc (fun _ _ => none) s fun s => s.gSend (g s) (d s) (p s) (v s) := by exact fun _ => rfl) :
    KeepsDataAt i := keepsDataAt_of h fun s => s.gSend_still _ _ _ _

theorem KeepsDataAt.monarm (k : Bool) (n : BitVec 2) (a : Field6) : KeepsDataAt (.monarm k n a) :=
  keepsDataAt_of (fun _ => rfl) fun s => State.still_trans (State.gSend_still _ _ _ _ _) <|
    s.updPawn_still s.threadNo (fun p => { p with mon := vset p.mon n.toNat ⟨true, false, false, s.ctx.pa / 64, false⟩ })
      ⟨rfl, rfl, rfl, rfl, rfl, rfl⟩

end Keeps

/-! ### The issue of an op whose effect reaches further -/

/-- What the issue itself leaves of a state: its data, the core, and what is in flight. -/
structure State.sameIssue (a b : State) : Prop where
  still : a.still b
  core : a.core = b.core
  fl : a.prim.fl = b.prim.fl
  pend : ∀ n, (a.pawn n).pend = (b.pawn n).pend

theorem State.sameIssue_refl (s : State) : s.sameIssue s := ⟨s.still_refl, rfl, rfl, fun _ => rfl⟩

theorem State.sameIssue_trans {a b c : State} (h : a.sameIssue b) (k : b.sameIssue c) : a.sameIssue c :=
  ⟨State.still_trans h.still k.still, h.core.trans k.core, h.fl.trans k.fl, fun n => (h.pend n).trans (k.pend n)⟩

theorem State.updPawn_sameIssue (s : State) (t : Nat) (f : Pawn → Pawn) (h : ∀ p, (f p).sameData p) (hp : ∀ p, (f p).pend = p.pend) :
    (s.updPawn t f).sameIssue s := by
  refine ⟨s.updPawn_still t f (h _), rfl, rfl, fun n => ?_⟩
  rw [State.updPawn_pawn]
  split
  · next hc => rw [← hc.1]; exact hp _
  · rfl

theorem State.clearFresh_sameIssue (s : State) (u : RegUse) : (s.clearFresh u).sameIssue s := by
  unfold State.clearFresh
  split
  · split
    · exact s.sameIssue_refl
    · exact ⟨s.updPrim_still _ ⟨rfl, rfl, rfl, rfl, rfl, rfl, rfl, rfl, rfl, rfl⟩, rfl, rfl, fun _ => rfl⟩
    · exact ⟨s.updPrim_still _ ⟨rfl, rfl, rfl, rfl, rfl, rfl, rfl, rfl, rfl, rfl⟩, rfl, rfl, fun _ => rfl⟩
  · exact s.sameIssue_refl

theorem State.clearFreshAll_sameIssue (l : List RegUse) : ∀ s : State, (l.foldl State.clearFresh s).sameIssue s := by
  induction l with
  | nil => exact State.sameIssue_refl
  | cons u l ih => exact fun s => State.sameIssue_trans (ih _) (s.clearFresh_sameIssue u)

theorem State.advance_sameIssue (s : State) : s.advance.sameIssue s := by
  unfold State.advance
  split
  · exact ⟨s.updPrim_still _ ⟨rfl, rfl, rfl, rfl, rfl, rfl, rfl, rfl, rfl, rfl⟩, rfl, rfl, fun _ => rfl⟩
  · exact s.updPawn_sameIssue _ _ (fun _ => ⟨rfl, rfl, rfl, rfl, rfl, rfl⟩) fun _ => rfl

theorem State.switchPoint_sameIssue (s : State) (k : Bool) : (s.switchPoint k).sameIssue s := by
  unfold State.switchPoint
  split
  · exact s.sameIssue_refl
  · split
    · exact s.updPawn_sameIssue _ _ (fun _ => ⟨rfl, rfl, rfl, rfl, rfl, rfl⟩) fun _ => rfl
    · exact s.sameIssue_refl

theorem State.closeChunk_sameIssue (s : State) (t : Nat) (c : Option Ctx) : (s.closeChunk t c).sameIssue s := by
  unfold State.closeChunk
  exact s.updPawn_sameIssue _ _ (fun _ => ⟨rfl, rfl, rfl, rfl, rfl, rfl⟩) fun _ => rfl

theorem State.openChunk_sameIssue (s : State) (t : Nat) : (s.openChunk t).sameIssue s := by
  unfold State.openChunk
  split
  · exact s.updPawn_sameIssue _ _ (fun _ => ⟨rfl, rfl, rfl, rfl, rfl, rfl⟩) fun _ => rfl
  · exact s.sameIssue_refl

theorem State.countChunk_sameIssue (s : State) (t : Nat) : (s.countChunk t).sameIssue s := by
  unfold State.countChunk
  extract_lets u
  have hu : u.sameIssue s := s.updPawn_sameIssue _ _ (fun _ => ⟨rfl, rfl, rfl, rfl, rfl, rfl⟩) fun _ => rfl
  split
  · exact State.sameIssue_trans (u.closeChunk_sameIssue _ _) hu
  · exact hu

/-- What a relation between states must obey for `State.perform_frame`: it composes, it holds of what the issue itself changes, and of a pawn
that takes other operands and takes its own back. -/
structure FrameRel (R : State → State → Prop) : Prop where
  trans : ∀ {a b c : State}, R a b → R b c → R a c
  issue : ∀ {a b : State}, a.sameIssue b → R a b
  operands : ∀ {u s : State} {t : Nat} {x : PawnRegs}, R u (s.updPawn t fun p => p.withOperands x) →
    R (u.updPawn t fun p => p.withOperands (s.pawn t).toPawnRegs) s

/-- The issue of an op keeps what its effect keeps, in the states in which the issue calls it. -/
theorem State.perform_frame {R : State → State → Prop} (hR : FrameRel R) (s : State) (sp : OpSpec) {eff : State → State}
    (q : ∀ u : State, u.ctx = s.ctx → u.core = s.core → u.sameOutside s → R (eff u) u) : R (s.perform sp eff) s := by
  have hadv : s.advance.sameIssue s := s.advance_sameIssue
  have hplain : R (eff s.advance) s := hR.trans (q _ s.advance_quietIn.2 hadv.core hadv.still.1) (hR.issue hadv)
  unfold State.perform
  split
  · exact hR.trans (hR.issue (State.clearFreshAll_sameIssue _ _)) hplain
  · next t _ =>
    split
    · have hx := q (s.updPawn t fun p => p.withOperands p.chunk.src) rfl rfl ⟨rfl, rfl, rfl, rfl, rfl, rfl, rfl, rfl⟩
      exact hR.trans (hR.issue (State.switchPoint_sameIssue _ _)) (hR.operands (x := (s.pawn t).chunk.src) hx)
    · split
      · have hopen : (s.openChunk t).advance.sameIssue s := State.sameIssue_trans (State.advance_sameIssue _) (s.openChunk_sameIssue t)
        dsimp only
        split
        · exact hR.issue (State.sameIssue_trans (State.closeChunk_sameIssue _ _ _) hopen)
        · have heff := q (s.openChunk t).advance ((State.advance_quietIn _).2.trans (s.openChunk_quietIn t).2) hopen.core hopen.still.1
          exact hR.trans (hR.issue (State.sameIssue_trans (State.countChunk_sameIssue _ _) (State.switchPoint_sameIssue _ _)))
            (hR.trans heff (hR.issue hopen))
      · exact hR.trans (hR.issue (State.switchPoint_sameIssue _ _)) hplain

theorem State.sameData_trans {a b c : State} (h : a.sameData b) (k : b.sameData c) : a.sameData c := by
  obtain ⟨⟨h1, h2, h3, h4, h5, h6, h7, h8, h9, hth⟩, hcore, hpawn⟩ := h
  obtain ⟨⟨k1, k2, k3, k4, k5, k6, k7, k8, k9, kth⟩, kcore, kpawn⟩ := k
  refine ⟨⟨h1.trans k1, h2.trans k2, h3.trans k3, h4.trans k4, h5.trans k5, h6.trans k6, h7.trans k7, h8.trans k8, h9.trans k9,
    Thread.sameData_trans hth kth⟩, State.sameCore_trans hcore kcore, fun n => ?_⟩
  obtain ⟨hx, hy, hb, hm, hth, hbox⟩ := hpawn n
  obtain ⟨kx, ky, kb, km, kth, kbox⟩ := kpawn n
  exact ⟨hx.trans kx, hy.trans ky, hb.trans kb, hm.trans km, Thread.sameData_trans hth kth, hbox.trans kbox⟩

/-- A pawn that has taken its operands back holds what it held. -/
theorem State.operands_data {u s : State} {t : Nat} {x y : PawnRegs} (h : u.sameData (s.updPawn t fun p => p.withOperands x))
    (hy : y.x = (s.pawn t).x ∧ y.y = (s.pawn t).y ∧ y.b = (s.pawn t).b ∧ y.m = (s.pawn t).m) :
    (u.updPawn t fun p => p.withOperands y).sameData s := by
  refine ⟨h.1, h.2.1, fun n => ?_⟩
  have hn := h.2.2 n
  rw [State.updPawn_pawn] at hn ⊢
  split
  · next hc =>
    rw [if_pos hc] at hn
    obtain ⟨rfl, -⟩ := hc
    obtain ⟨-, -, -, -, hth, hbox⟩ := hn
    obtain ⟨hx, hy, hb, hm⟩ := hy
    exact ⟨hx, hy, hb, hm, hth, hbox⟩
  · next hc => rwa [if_neg hc] at hn

theorem State.still_frameRel : FrameRel State.still := ⟨State.still_trans, fun h => h.still, State.operands_still _⟩

/-! ### Memory inside the core, and the device -/

theorem State.sameInside_trans {a b c : State} (h : a.sameInside b) (k : b.sameInside c) : a.sameInside c := by
  obtain ⟨hlm, hhm, hbad, hpart, hdata⟩ := h
  obtain ⟨klm, khm, kbad, kpart, kdata⟩ := k
  exact ⟨hlm.trans klm, hhm.trans khm, hbad.trans kbad, hpart.trans kpart, State.sameData_trans hdata kdata⟩

theorem State.still.inside {t s : State} (h : t.still s) : t.sameInside s := by
  obtain ⟨⟨hlm, -, hhm, hbad, -, -, -, hpart⟩, hdata⟩ := h
  exact ⟨hlm, hhm, hbad, hpart, hdata⟩

theorem State.still.die {t s : State} (h : t.still s) : t.die = s.die := by
  obtain ⟨⟨-, -, -, -, -, hdie, -, -⟩, -⟩ := h
  exact hdie

theorem State.still.dev {t s : State} (h : t.still s) : t.dev = s.dev := by
  obtain ⟨⟨-, -, -, -, -, -, hdev, -⟩, -⟩ := h
  exact hdev

theorem State.sameInside_frameRel : FrameRel State.sameInside := by
  refine ⟨State.sameInside_trans, fun h => State.still.inside h.still, fun h => ?_⟩
  obtain ⟨hlm, hhm, hbad, hpart, hdata⟩ := h
  exact ⟨hlm, hhm, hbad, hpart, State.operands_data hdata ⟨rfl, rfl, rfl, rfl⟩⟩

/-- What the device does beside the threads changes no data. -/
theorem State.Aside.inside {s u : State} (h : Aside s u) : u.sameInside s := by
  have e := h.steady
  simp only [State.steady, Prod.mk.injEq] at e
  obtain ⟨⟨hlm, hhm, hbad, hpart⟩, hprim, -, hfd, ht, hw, hacc, hz, hwptr⟩ := e
  refine ⟨hlm, hhm, hbad, hpart, ?_, ⟨hfd, ht, hw, hacc, hz, hwptr⟩, fun n => ?_⟩
  · rw [hprim]
    exact ⟨rfl, rfl, rfl, rfl, rfl, rfl, rfl, rfl, rfl, rfl⟩
  · rw [← h.pawn n]
    exact ⟨rfl, rfl, rfl, rfl, rfl, rfl⟩

theorem State.sameDevice_trans {a b c : State} {l : List Nat} (h : a.sameDevice b l) (k : b.sameDevice c l) : a.sameDevice c l := by
  obtain ⟨hpm, hbad, hdie, hdev, hregs⟩ := h
  obtain ⟨kpm, kbad, kdie, kdev, kregs⟩ := k
  refine ⟨hpm.trans kpm, hbad.trans kbad, ?_, ?_, fun o ho => (hregs o ho).trans (kregs o ho)⟩
  · have e := congrArg (fun d : Die => ({ d with rowq := c.die.rowq } : Die)) hdie
    exact Eq.trans e kdie
  · have e := congrArg (fun d : Dev => ({ d with regs := c.dev.regs, crossing := c.dev.crossing } : Dev)) hdev
    exact Eq.trans e kdev

theorem State.sameDevice_of_outside {t s : State} (l : List Nat) (h : t.sameOutside s) : t.sameDevice s l := by
  obtain ⟨-, hpm, -, -, hbad, hdie, hdev, -⟩ := h
  exact ⟨hpm, hbad, by rw [hdie], by rw [hdev], fun _ _ => by rw [hdev]⟩

theorem State.sameDevice_frameRel (l : List Nat) : FrameRel (fun t s => t.sameDevice s l) :=
  ⟨State.sameDevice_trans, fun h => State.sameDevice_of_outside l h.still.1, fun h => h⟩

theorem State.sameDie_frameRel : FrameRel (fun t s => t.die = s.die) :=
  ⟨Eq.trans, fun h => h.still.die, fun h => h⟩

theorem State.sameDev_frameRel : FrameRel (fun t s => t.dev = s.dev) :=
  ⟨Eq.trans, fun h => h.still.dev, fun h => h⟩

theorem State.setDevReg_device (s : State) {o : Nat} (v : Nat) {l : List Nat} (h : o ∈ l) : (s.setDevReg o v).sameDevice s l :=
  ⟨rfl, rfl, rfl, rfl, fun _ hb => s.assocGet_setDevReg_other v _ fun e => hb (e ▸ h)⟩

/-! ### rqput: the row queue (R135) -/

theorem State.rowPost_inside (s : State) (v : Word64) : (s.rowPost v).sameInside s := by
  have h : State.Aside s (s.rowPost v) := .ite (.same (.refl s) rfl rfl) (State.Aside.refl s).setDevReg
  exact h.inside

theorem State.rowPost_device (s : State) (v : Word64) : (s.rowPost v).sameDevice s [0x4C] := by
  unfold State.rowPost State.rowPostFor
  split
  · exact ⟨rfl, rfl, rfl, rfl, fun _ _ => rfl⟩
  · exact s.setDevReg_device _ (List.mem_singleton_self _)

theorem State.rowPost_dev {s : State} (v : Word64) (h : s.die.rowq.length < 1024) : (s.rowPost v).dev = s.dev := by
  rw [State.rowPost, State.rowPostFor, if_pos h]
  rfl

theorem State.rowPost_die {s : State} (v : Word64) (h : 1024 ≤ s.die.rowq.length) : (s.rowPost v).die = s.die := by
  rw [State.rowPost, State.rowPostFor, if_neg (Nat.not_lt.mpr h)]
  rfl

/-! ### brk: a debug halt (R421, R422) -/

theorem State.haltBy_inside (s : State) (core source index : Nat) (who : Option Agent) (addr : Nat) :
    (s.haltBy core source index who addr).sameInside s := by
  unfold State.haltBy
  extract_lets first stat s1 s2 s3
  have h1 : State.Aside s s1 := .ite (State.Aside.refl s).setDevReg (.refl s)
  have h2 : State.Aside s s2 := .ite (h1.setDevReg.same rfl rfl) h1
  have h3 : State.Aside s s3 := .ite h2.updDev h2
  exact State.sameInside_trans (State.still.inside (s3.updPrim_still _ ⟨rfl, rfl, rfl, rfl, rfl, rfl, rfl, rfl, rfl, rfl⟩)) h3.inside

theorem State.haltBy_device (s : State) (core source index : Nat) (who : Option Agent) (addr : Nat) :
    (s.haltBy core source index who addr).sameDevice s [s.dbgOff 0, s.dbgOff 8] := by
  unfold State.haltBy
  extract_lets first stat s1 s2 s3
  have hself : s.sameDevice s [s.dbgOff 0, s.dbgOff 8] := State.sameDevice_of_outside _ s.sameOutside_refl
  have h1 : s1.sameDevice s [s.dbgOff 0, s.dbgOff 8] ∧ s1.dbgOff 0 = s.dbgOff 0 := by
    unfold s1
    split
    · exact ⟨s.setDevReg_device _ (by simp), rfl⟩
    · exact ⟨hself, rfl⟩
  have h2 : s2.sameDevice s [s.dbgOff 0, s.dbgOff 8] := by
    unfold s2
    split
    · rw [h1.2]
      exact State.sameDevice_trans (s1.setDevReg_device _ (by simp)) h1.1
    · exact h1.1
  have h3 : s3.sameDevice s [s.dbgOff 0, s.dbgOff 8] := by
    unfold s3
    split
    · exact State.sameDevice_trans (b := s2) ⟨rfl, rfl, rfl, rfl, fun _ _ => rfl⟩ h2
    · exact h2
  exact h3

theorem State.haltBy_die (s : State) (core source index : Nat) (who : Option Agent) (addr : Nat) :
    (s.haltBy core source index who addr).die = s.die := by
  unfold State.haltBy
  extract_lets first stat s1 s2 s3
  have h1 : s1.die = s.die := by unfold s1; split <;> rfl
  have h2 : s2.die = s.die := by unfold s2; split <;> exact h1
  show s3.die = s.die
  unfold s3
  split <;> exact h2

/-- The effect of brk (R92, R421). -/
def State.breakEvent (s : State) : State :=
  if !s.breaksOn then s.trapAfter (s.trapAt (0x1F8 + s.unit) s.ctx.pc 0)
  else if s.dbgRoute then s.trapAfter (s.trapAt (0x1E0 + s.unit) s.ctx.pc 0)
  else
    match s.ctx.agent with
    | .primary => s.debugHalt 3 0 false 0 s.ctx.pc.toNat
    | .pawn t => (s.debugHalt 3 0 true t s.ctx.pc.toNat).updPawn t fun p => { p with status := .halted }

/-- A brk traps its thread, which keeps data, or halts the cluster. -/
theorem State.breakEvent_cases (s : State) : s.breakEvent.still s ∨
    ∃ who addr, s.breakEvent.still (s.haltBy s.core.cfg.coreInClus 3 0 who addr) := by
  unfold State.breakEvent
  split
  · exact .inl (s.trapAfter_still _)
  · split
    · exact .inl (s.trapAfter_still _)
    · split
      · exact .inr ⟨_, _, State.still_refl _⟩
      · exact .inr ⟨_, _, State.updPawn_still _ _ _ ⟨rfl, rfl, rfl, rfl, rfl, rfl⟩⟩

theorem State.breakEvent_inside (s : State) : s.breakEvent.sameInside s := by
  obtain h | ⟨_, _, h⟩ := s.breakEvent_cases
  · exact State.still.inside h
  · exact State.sameInside_trans (State.still.inside h) (s.haltBy_inside _ _ _ _ _)

theorem State.breakEvent_device (s : State) : s.breakEvent.sameDevice s [s.dbgOff 0, s.dbgOff 8] := by
  obtain h | ⟨_, _, h⟩ := s.breakEvent_cases
  · exact State.sameDevice_of_outside _ h.1
  · exact State.sameDevice_trans (State.sameDevice_of_outside _ h.1) (s.haltBy_device _ _ _ _ _)

theorem State.breakEvent_die (s : State) : s.breakEvent.die = s.die := by
  obtain h | ⟨_, _, h⟩ := s.breakEvent_cases
  · exact h.die
  · exact h.die.trans (s.haltBy_die _ _ _ _ _)

theorem State.breakEvent_dev {s : State} (h : s.breaksOn = false) : s.breakEvent.dev = s.dev := by
  unfold State.breakEvent
  rw [h]
  exact (s.trapAfter_still _).dev

/-- Whether a brk is a debug event is the same in every state of its issue. -/
theorem State.breaksOn_congr {u s : State} (hc : u.core = s.core) (ho : u.sameOutside s) :
    u.breaksOn = s.breaksOn ∧ ∀ o, u.dbgOff o = s.dbgOff o := by
  obtain ⟨-, -, -, -, -, -, hdev, hpart⟩ := ho
  have hoff : ∀ o, u.dbgOff o = s.dbgOff o := fun o => by simp only [State.dbgOff, State.clusterNo, hc, hpart]
  have hreg : ∀ o, u.devReg o = s.devReg o := fun o => by
    simp only [State.devReg, State.featw0, State.pinsOf, State.countsOf, hdev, hpart]
  refine ⟨?_, hoff⟩
  unfold State.breaksOn State.dbgOwned State.dbg
  rw [hoff, hreg, hc]

/-! ### eqw: a word joins a command, and the last one submits it (R88, R169) -/

theorem State.watchOther_inside (s : State) (x : Span) : (s.watchOther x).sameInside s := by
  unfold State.watchOther
  split
  · exact s.haltBy_inside _ _ _ _ _
  · exact State.still.inside s.still_refl

theorem State.watchCmd_inside (l : List Lock) : ∀ s : State, (s.watchCmd l).sameInside s := by
  induction l with
  | nil => exact fun s => State.still.inside s.still_refl
  | cons x l ih =>
    intro s
    refine State.sameInside_trans (ih _) ?_
    dsimp only
    split
    · exact State.still.inside s.still_refl
    · exact s.watchOther_inside _

theorem State.submit_inside (s : State) (e : Nat) (pawn : Option Nat) (after : Nat) (w : List Word64) :
    (s.submit e pawn after w).sameInside s := by
  unfold State.submit
  extract_lets id bad idx cmd u locks
  have hu : State.Aside s u := .ite (State.Aside.refl s).readGroup (State.Aside.refl s).agentLm
  have hq : State.Aside s ((u.updCore fun c => { c with nextId := id + 1, locks := c.locks ++ locks }).updEngine e fun q =>
      { q with cmds := q.cmds ++ [cmd] }) := hu.same rfl rfl
  exact State.sameInside_trans (State.Aside.refl _).traceEngine.inside (State.sameInside_trans (State.watchCmd_inside _ _) hq.inside)

theorem State.pushWord_inside (s : State) (e : Nat) (v : Word64) : (s.pushWord e v).sameInside s := by
  have hasm : ∀ f : Thread → List Word64, (s.updTh fun t => { t with asm := vset t.asm e (f t) }).sameInside s := fun f =>
    State.still.inside (s.updTh_still _ fun _ => rfl)
  unfold State.pushWord
  extract_lets w u
  split
  · split
    · exact State.sameInside_trans (State.still.inside (u.updCore_still _ ⟨rfl, rfl, rfl, rfl, rfl, rfl⟩)) (hasm fun _ => [])
    · split
      · refine State.sameInside_trans (State.still.inside ?_) (hasm fun _ => [])
        exact State.still_trans (State.updPawn_still _ _ _ ⟨rfl, rfl, rfl, rfl, rfl, rfl⟩) (u.updCore_still _ ⟨rfl, rfl, rfl, rfl, rfl, rfl⟩)
      · exact State.sameInside_trans (u.submit_inside _ _ _ _) (hasm fun _ => [])
  · exact hasm fun _ => w

theorem State.pushWord_primary {s : State} (h : s.ctx.agent = .primary) (e : Nat) (v : Word64) : (s.pushWord e v).still s := by
  unfold State.pushWord
  rw [h]
  extract_lets w u
  split
  · exact State.still_trans (u.updCore_still _ ⟨rfl, rfl, rfl, rfl, rfl, rfl⟩) (s.updTh_still _ fun _ => rfl)
  · exact s.updTh_still _ fun _ => rfl

/-! ### sret: the mode, TCAUSE and the place of a guard report (R392, R396) -/

theorem State.mapTh_pawn (s : State) (f : Thread → Thread) (n : Nat) :
    (s.mapTh f).pawn n = if n < 16 then { s.pawn n with th := f (s.pawn n).th } else s.pawn n :=
  (s.updPrim fun p => { p with th := f p.th }).pawn_setPawns_vmap _ n

theorem Thread.anyMode_sameData {a b : Thread} (h : Thread.sameData a b) : Thread.sameData a.anyMode b.anyMode := by
  simp only [Thread.sameData, Thread.anyMode, Thread.mk.injEq] at h ⊢
  simp_all

theorem Pawn.sameData_refl (p : Pawn) : p.sameData p := ⟨rfl, rfl, rfl, rfl, rfl, rfl⟩

/-- The same memory, and the same data but for what a return changes. -/
def State.sameReturn (t s : State) : Prop := t.sameOutside s ∧ (t.mapTh Thread.anyMode).sameData (s.mapTh Thread.anyMode)

theorem State.still.returned {t s : State} (h : t.still s) : t.sameReturn s := by
  obtain ⟨ho, ⟨h1, h2, h3, h4, h5, h6, h7, h8, h9, hth⟩, hcore, hpawn⟩ := h
  refine ⟨ho, ⟨h1, h2, h3, h4, h5, h6, h7, h8, h9, Thread.anyMode_sameData hth⟩, hcore, fun n => ?_⟩
  rw [State.mapTh_pawn, State.mapTh_pawn]
  obtain ⟨hx, hy, hb, hm, hth, hbox⟩ := hpawn n
  split
  · exact ⟨hx, hy, hb, hm, Thread.anyMode_sameData hth, hbox⟩
  · exact ⟨hx, hy, hb, hm, hth, hbox⟩

theorem State.mapTh_operands (s : State) (t : Nat) (x : PawnRegs) (f : Thread → Thread) :
    (s.updPawn t fun p => p.withOperands x).mapTh f = (s.mapTh f).updPawn t fun p => p.withOperands x := by
  refine congrArg (State.setPawns (s.updPrim fun p => { p with th := f p.th })) (Vector.ext fun i hi => ?_)
  by_cases h : t = i <;> simp [State.pawn, State.mapTh, State.updPawn, State.setPawns, vset, vmap, vget, Pawn.withOperands, h, hi]

theorem State.sameReturn_frameRel : FrameRel State.sameReturn := by
  refine ⟨fun h k => ⟨State.sameOutside_trans h.1 k.1, State.sameData_trans h.2 k.2⟩, fun h => State.still.returned h.still,
    fun h => ⟨h.1, ?_⟩⟩
  have hd := h.2
  rw [State.mapTh_operands] at hd ⊢
  refine State.operands_data hd ?_
  rw [State.mapTh_pawn]
  split <;> exact ⟨rfl, rfl, rfl, rfl⟩

theorem State.primReturn_return (s : State) : s.primReturn.sameReturn s :=
  ⟨⟨rfl, rfl, rfl, rfl, rfl, rfl, rfl, rfl⟩, ⟨rfl, rfl, rfl, rfl, rfl, rfl, rfl, rfl, rfl, rfl⟩, ⟨rfl, rfl, rfl, rfl, rfl, rfl⟩,
    fun _ => Pawn.sameData_refl _⟩

theorem State.pawnReturn_return (s : State) (t : Nat) : (s.pawnReturn t).sameReturn s := by
  refine ⟨⟨rfl, rfl, rfl, rfl, rfl, rfl, rfl, rfl⟩, ⟨rfl, rfl, rfl, rfl, rfl, rfl, rfl, rfl, rfl, rfl⟩, ⟨rfl, rfl, rfl, rfl, rfl, rfl⟩,
    fun n => ?_⟩
  rw [State.mapTh_pawn, State.mapTh_pawn, State.pawnReturn, State.updPawn_pawn]
  split
  · split
    · next hc => rw [← hc.1]; exact Pawn.sameData_refl _
    · exact Pawn.sameData_refl _
  · rw [if_neg (by omega)]
    exact Pawn.sameData_refl _

/-- The effect of sret (R392). -/
def State.supReturn (s : State) : State :=
  match s.ctx.agent with
  | .primary => s.primReturn
  | .pawn t => s.pawnReturn t

theorem State.supReturn_return (s : State) : s.supReturn.sameReturn s := by
  unfold State.supReturn
  split
  · exact s.primReturn_return
  · exact s.pawnReturn_return _

/-! ### The statement -/

/-- An op that issues keeps what its effect keeps. -/
theorem issued_frame {i : Instr} {eff : State → State} {R : State → State → Prop} (hR : FrameRel R) (h : IssuesWith i eff) {s t : State}
    (hr : s.ctx.checked = true ∨ s.ready (specOf i) = true) (ht : exec i s = .next t)
    (q : ∀ u : State, u.ctx = s.ctx → u.core = s.core → u.sameOutside s → R (eff u) u) : R t s := by
  rw [h, issue_ready eff hr] at ht
  cases ht
  exact s.perform_frame hR _ q

theorem sret_frame (s t : State) (k : Bool) (hr : s.ctx.checked = true ∨ s.ready (specOf (.sret k)) = true) (ht : exec (.sret k) s = .next t) :
    t.sameReturn s :=
  issued_frame State.sameReturn_frameRel (eff := State.supReturn) (fun _ => rfl) hr ht fun u _ _ _ => u.supReturn_return

theorem brk_frame (s t : State) (k : Bool) (hr : s.ctx.checked = true ∨ s.ready (specOf (.brk k)) = true) (ht : exec (.brk k) s = .next t) :
    t.sameInside s ∧ t.sameDevice s [s.dbgOff 0, s.dbgOff 8] ∧ t.die = s.die ∧ (s.breaksOn = false → t.dev = s.dev) := by
  have hi : IssuesWith (.brk k) State.breakEvent := fun _ => rfl
  refine ⟨issued_frame State.sameInside_frameRel hi hr ht fun u _ _ _ => u.breakEvent_inside, ?_,
    issued_frame State.sameDie_frameRel hi hr ht fun u _ _ _ => u.breakEvent_die, fun hb => ?_⟩
  · refine issued_frame (State.sameDevice_frameRel _) hi hr ht fun u _ hc ho => ?_
    rw [← (State.breaksOn_congr hc ho).2, ← (State.breaksOn_congr hc ho).2]
    exact u.breakEvent_device
  · exact issued_frame State.sameDev_frameRel hi hr ht fun u _ hc ho => State.breakEvent_dev ((State.breaksOn_congr hc ho).1.trans hb)

theorem rqput_frame (s t : State) (k : Bool) (a : Field6) (hr : s.ctx.checked = true ∨ s.ready (specOf (.rqput k a)) = true)
    (ht : exec (.rqput k a) s = .next t) : t.sameInside s ∧ t.sameDevice s [0x4C] ∧ (s.die.rowq.length < 1024 → t.dev = s.dev) ∧
      (1024 ≤ s.die.rowq.length → t.die = s.die) := by
  have hi : IssuesWith (.rqput k a) fun s => s.rowPost (s.readS a) := fun _ => rfl
  have hdie {u : State} (ho : u.sameOutside s) : u.die = s.die := by
    obtain ⟨-, -, -, -, -, hdie, -, -⟩ := ho
    exact hdie
  exact ⟨issued_frame State.sameInside_frameRel hi hr ht fun u _ _ _ => u.rowPost_inside _,
    issued_frame (State.sameDevice_frameRel _) hi hr ht fun u _ _ _ => u.rowPost_device _,
    fun hl => issued_frame State.sameDev_frameRel hi hr ht fun u _ _ ho => State.rowPost_dev _ (by rw [hdie ho]; exact hl),
    fun hl => issued_frame State.sameDie_frameRel hi hr ht fun u _ _ ho => State.rowPost_die _ (by rw [hdie ho]; exact hl)⟩

theorem eqw_frame (s t : State) (k : Bool) (e a : Field6) (hr : s.ctx.checked = true ∨ s.ready (specOf (.eqw k e a)) = true)
    (ht : exec (.eqw k e a) s = .next t) : t.sameInside s ∧ (s.ctx.agent = .primary → t.sameOutside s) := by
  have hi : IssuesWith (.eqw k e a) fun s => s.pushWord e.toNat (s.readS a) := fun _ => rfl
  refine ⟨issued_frame State.sameInside_frameRel hi hr ht fun u _ _ _ => u.pushWord_inside _ _, fun hp => ?_⟩
  have hstill : t.still s := issued_frame State.still_frameRel hi hr ht fun u hc _ _ => State.pushWord_primary (by rw [hc]; exact hp) _ _
  exact hstill.1

/-- Settles O58: each op by its effect; sret, brk, rqput and eqw by `issued_frame`. -/
theorem dataFrame : Obligations.DataFrame := by
  unfold Obligations.DataFrame
  exact ⟨fun _ => .idle, fun _ _ => .redirect, fun _ _ _ => .brT _ _ _, fun _ _ _ => .brF _ _ _, fun _ _ _ => .loop _ _ _, fun _ _ _ => .call,
    fun _ _ _ _ => .call, fun _ _ _ => .redirect, fun _ _ => .idle, fun _ _ => .idle, fun _ _ => .idle, fun _ _ => .idle, fun _ _ => .idle,
    fun _ _ => .idle, fun _ _ => .idle, fun _ _ => .idle, fun _ _ => .idle, fun _ _ => .idle, fun _ _ => .idle, fun _ _ => .idle,
    fun _ => .tempo, .tempo, fun _ _ _ => .emit, fun _ _ => .trap _ _, .ibar, fun _ => .fence, fun _ => .fence, fun _ => .fence,
    fun _ => .fence, fun _ => .fence, fun _ => .fence, fun _ => .fence, fun _ => .fence, fun _ => .fence, fun _ => .fence,
    fun _ _ _ => .emit, fun _ _ _ => .emit, fun _ _ _ => .cwld _ _ _, fun _ _ _ _ => .access, fun _ _ _ _ => .access,
    fun _ _ _ _ => .access, fun _ _ _ _ => .access, fun _ _ _ _ => .access, fun _ _ _ _ => .access, fun _ _ _ _ => .access,
    fun _ _ _ _ => .access, fun _ _ _ _ => .access, fun _ _ _ _ => .access, fun _ _ _ _ => .access, fun _ _ _ => .access,
    fun _ _ _ => .access, fun _ _ _ _ => .access, fun _ _ _ _ => .access, fun _ _ _ _ => .access, fun _ _ => .tile, fun _ _ _ => .tile,
    fun _ _ => .tile, fun _ _ _ _ => .access, fun _ _ _ _ => .access, fun _ _ _ _ => .access, fun _ _ _ _ => .access,
    fun _ _ _ _ => .access, fun _ _ _ _ => .access, fun _ _ _ _ => .access, fun _ _ _ _ => .access, fun _ _ _ _ => .access,
    fun _ _ _ _ => .access, fun _ _ _ _ => .access, fun _ _ _ _ => .access, fun _ _ _ _ => .access, fun _ _ _ => .access,
    fun _ _ _ => .access, fun _ _ _ => .remote, fun _ _ _ => .remote, fun _ _ _ => .remote, fun _ _ _ => .remote, fun _ _ _ _ _ => .access,
    fun _ _ _ _ => .access, fun _ _ _ => .emit, fun _ => .emit, fun _ _ _ => .emit, fun _ _ => .emit, fun _ _ => .emit, fun _ _ => .emit,
    fun _ _ _ _ => .landZreg, fun _ _ _ _ => .landZreg, fun _ _ _ _ => .landZreg, fun _ _ _ _ => .landZreg, fun _ _ _ _ => .landZreg,
    fun _ _ _ => .landZreg, fun _ _ _ _ => .emit, fun _ _ _ _ => .weights, fun _ _ _ _ => .weights, fun _ _ _ _ _ => .multiply,
    fun _ _ _ _ _ => .multiply, fun _ _ _ _ _ => .multiply, fun _ _ _ _ _ => .multiply, fun _ _ _ _ => .emit, fun _ => .emit,
    fun _ _ _ => .pawn, fun _ _ => .pawn, fun _ _ _ => .pawn, fun _ _ _ _ => .gSend, fun _ _ _ _ => .ringput _ _ _ _,
    fun _ _ _ _ => .ringget _ _ _ _, fun _ _ _ _ => .gSend, fun _ => .pawn, fun _ _ _ => .gSend, fun _ => .exit _, fun _ _ _ _ => .gSend,
    fun _ _ _ _ => .gSend, fun _ _ _ _ => .gSend, fun _ _ _ _ => .gSend, fun _ _ _ _ => .gSend, fun _ _ _ _ => .gSend,
    fun _ _ _ _ => .gSend, fun _ _ _ _ => .gSend, fun _ _ _ _ => .gSend, fun _ _ _ _ => .gSend, fun _ _ _ _ => .gSend,
    fun _ _ _ _ _ => .gSend, fun _ _ _ _ _ => .gSend, fun _ _ _ _ _ => .gSend, fun _ _ _ _ _ => .gSend, fun _ _ _ _ _ => .gSend,
    fun _ _ _ _ _ => .gSend, fun _ _ _ _ _ => .gSend, fun _ _ _ _ _ => .gSend, fun _ _ _ _ _ => .gSend, fun _ _ _ _ _ => .gSend,
    fun _ _ _ _ => .gSend, fun _ _ _ _ _ => .gSend, fun _ _ _ _ _ => .gSend, fun _ _ _ _ => .gSend, fun _ _ _ _ => .gSend,
    fun _ _ _ _ => .gSend, fun _ _ _ => .gSend, fun _ _ _ => .gSend, fun _ _ _ => .monarm _ _ _, fun _ _ => .mbget _ _,
    fun _ _ _ => .eqr _ _ _,
    sret_frame, brk_frame, rqput_frame, eqw_frame⟩

end Sys2Proof.Machine
end

section
/-! O1: the control registers after device reset, by reading them (R430). -/

namespace Sys2Proof.Machine

/-- Settles O1: the state after reset is a fixed state, so each register reads a number. -/
theorem resetState : Obligations.ResetState := by
  unfold Obligations.ResetState
  exact ⟨by decide, by decide, by decide, by decide, by decide, rfl, rfl, rfl⟩

end Sys2Proof.Machine
end

section
/-! O29: the steps of the core that no instruction makes, each where its condition holds. -/

namespace Sys2Proof.Machine

section Steps
variable {s : State} {t : Nat}

theorem resultLanding_primary (h : s.ctx.agent = .primary) : exec .resultLanding s = .next s.landPrimary := by
  show execResultLanding s = _
  simp only [execResultLanding, h]

theorem resultLanding_pawn (h : s.ctx.agent = .pawn t) : exec .resultLanding s = .next (s.landPawn t) := by
  show execResultLanding s = _
  simp only [execResultLanding, h]

theorem pawnSwitchRejoin_switching (h : (s.pawn t).status = .switching) (hq : s.pawnQuiet t = true) :
    exec (.pawnSwitchRejoin t) s = .next (s.rejoin t) := by
  show execPawnSwitchRejoin t s = _
  simp only [execPawnSwitchRejoin, h, hq, if_true]

theorem pawnSwitchRejoin_fencing {scope : Nat} (h : (s.pawn t).status = .fencing scope) (hq : s.pawnQuiet t = true) :
    exec (.pawnSwitchRejoin t) s = .next ((s.fenceActions scope).rejoin t) := by
  show execPawnSwitchRejoin t s = _
  simp only [execPawnSwitchRejoin, h, hq, if_true]

theorem pawnSwitchRejoin_exiting (h : (s.pawn t).status = .exiting) (hq : s.pawnQuiet t = true) :
    exec (.pawnSwitchRejoin t) s = .next (s.updPawn t fun p => { p with status := .exited }) := by
  show execPawnSwitchRejoin t s = _
  simp only [execPawnSwitchRejoin, h, hq, if_true]

theorem pawnSwitchRejoin_waking (h : (s.pawn t).status = .waking) :
    exec (.pawnSwitchRejoin t) s = .next (s.updPawn t fun p => { p with status := .running }) := by
  show execPawnSwitchRejoin t s = _
  simp only [execPawnSwitchRejoin, h]

/-- The words of an access that no grant has given yet (R65). -/
def Waiting.left (w : Waiting) : List Nat := w.acc.words.filter fun x => x ∉ w.got.map fun g => g.1

theorem pawnLmGrant_last {w : Waiting} {rest : List Waiting} (h : (s.pawn t).waiting = w :: rest) (hm : s.mayAccess t w = true)
    (hf : (onePerBank w.left).all s.wordFree = true) (hl : w.left.length ≤ (onePerBank w.left).length) :
    exec (.pawnLmGrant t) s = .next (((s.takeWords (onePerBank w.left)).updPawn t fun p => { p with waiting := rest }).performAccess t
      (if w.got = [] then w else { w with acc := w.acc.within w.left })) := by
  show execPawnLmGrant t s = _
  unfold Waiting.left at *
  simp only [execPawnLmGrant, h, hm, hf, Bool.not_true, Bool.false_eq_true, if_false, if_neg (Nat.not_lt.mpr hl)]

theorem pawnLmGrant_part {w : Waiting} {rest : List Waiting} (h : (s.pawn t).waiting = w :: rest) (hm : s.mayAccess t w = true)
    (hf : (onePerBank w.left).all s.wordFree = true) (hl : (onePerBank w.left).length < w.left.length) :
    exec (.pawnLmGrant t) s = .next ((s.takeWords (onePerBank w.left)).partAccess t w (onePerBank w.left)) := by
  show execPawnLmGrant t s = _
  unfold Waiting.left at *
  simp only [execPawnLmGrant, h, hm, hf, Bool.not_true, Bool.false_eq_true, if_false, if_pos hl]

theorem pawnPushRetry_room {n e : Nat} {w : List Word64} {rest : List (Nat × Nat × List Word64)} (h : (s.pawn t).pushes = (n, e, w) :: rest)
    (hf : s.pushFirst n e = true) (hr : s.room e true w (s.readIndex s.lm w) = true) :
    exec (.pawnPushRetry t) s = .next ((s.updPawn t fun p => { p with pushes := rest }).submit e (some t) 0 w) := by
  show execPawnPushRetry t s = _
  simp only [execPawnPushRetry, h, hf, hr, Bool.and_self, if_true]

theorem remoteLoadReply_ready {r : Remote}
    (h : (s.core.remotes.find? fun r => decide (r.agent = s.ctx.agent) && !r.write && s.remoteReady r) = some r) :
    exec .remoteLoadReply s = .next (s.remoteLoad r) := by
  show execRemoteLoadReply s = _
  simp only [execRemoteLoadReply, h]

theorem remoteStorePerformed_ready {r : Remote}
    (h : (s.core.remotes.find? fun r => decide (r.agent = s.ctx.agent) && r.write && s.remoteReady r) = some r) :
    exec .remoteStorePerformed s = .next (s.remoteStore r) := by
  show execRemoteStorePerformed s = _
  simp only [execRemoteStorePerformed, h]

theorem remoteStoreAck_performed {r : Remote} (h : (s.core.remotes.find? fun r => r.write && r.performed) = some r) :
    exec .remoteStoreAck s = .next (s.updCore fun c => { c with remotes := c.remotes.filter fun q => q.id ≠ r.id }) := by
  show execRemoteStoreAck s = _
  simp only [execRemoteStoreAck, h, State.dropRemote]

theorem tileLoaderRow_ready {j : TileJob} (h : s.tileReady = some j) : exec .tileLoaderRow s = .next (s.moveRow j) := by
  show execTileLoaderRow s = _
  simp only [execTileLoaderRow, h]

theorem weightLoaderGranule_ready {j : WJob} (h : s.weightReady = some j) : exec .weightLoaderGranule s = .next (s.moveGranule j) := by
  show execWeightLoaderGranule s = _
  simp only [execWeightLoaderGranule, h]

theorem corePartComplete_done (h : s.partDone = true) :
    exec .corePartComplete s = .next (s.updCore fun c => { c with cfg := { c.cfg with running := false } }) := by
  show execCorePartComplete s = _
  simp only [execCorePartComplete, h, if_true]

theorem portDeposit_core {vec : Bool} {port : Nat} {v : VecWord} {n : Nat} {far : Bool} (h : port < 4) :
    exec (.portDeposit vec port v n far) s = .next (s.updPrim fun p => p.deposit vec port v far) := by
  show execPortDeposit vec port v n far s = _
  simp only [execPortDeposit, h, if_true]

theorem loadLevelling_due (hr : s.core.cfg.running = true) (hd : s.core.cfg.det = false) (hf : s.feature 6 = true)
    (hc : s.core.cfg.cycle % 1024 = 0) : exec .loadLevelling s = .next (if Config.freeChoice s.free % 65 + 8 ≤ s.core.tasks.length then
      (s.updCore fun k => { k with tasks := levelSplit (Config.freeChoice (s.free + 1) % 65) k.tasks }).bumpFree.bumpFree
      else s.bumpFree.bumpFree) := by
  show execLoadLevelling s = _
  simp only [execLoadLevelling, hr, hd, hf, hc, Bool.not_false, Bool.and_self, decide_true, if_true]

/-- The visit to a slot whose chunk has ended squashes it or commits it (R336). -/
theorem moveOrderVisit_ended (hm : s.movesRun = true) (hn : s.core.moveNext = t) (hc : s.core.commitOp = none) (ho : s.core.moveOpen = false)
    (ha : (s.pawn t).status ≠ .absent) (hx : (s.pawn t).status ≠ .exited) (hf : (s.pawn t).chunk.full = false) (hq : (s.pawn t).quiet = true)
    (hw : s.moveWaits t = false) (he : (s.pawn t).chunk.ended = true) :
    exec (.moveOrderVisit t) s = .next (if (s.pawn t).chunk.stale then s.squash t else s.commitChunk t) := by
  show execMoveOrderVisit t s = _
  simp [execMoveOrderVisit, hm, hn, hc, ho, ha, hx, hf, hq, hw, he]

end Steps

/-- Settles O29: each clause is the lemma of its step. -/
theorem coreStepsComplete : Obligations.CoreStepsComplete := by
  unfold Obligations.CoreStepsComplete
  exact ⟨fun _ => resultLanding_primary, fun _ _ => resultLanding_pawn, fun _ _ => pawnSwitchRejoin_switching,
    fun _ _ _ => pawnSwitchRejoin_fencing, fun _ _ => pawnSwitchRejoin_exiting, fun _ _ => pawnSwitchRejoin_waking,
    fun _ _ _ _ => pawnLmGrant_last, fun _ _ _ _ => pawnLmGrant_part, fun _ _ _ _ _ _ => pawnPushRetry_room, fun _ _ => remoteLoadReply_ready,
    fun _ _ => remoteStorePerformed_ready, fun _ _ => remoteStoreAck_performed, fun _ _ => tileLoaderRow_ready,
    fun _ _ => weightLoaderGranule_ready, fun _ => rfl, fun _ => corePartComplete_done, fun _ _ _ _ _ _ => portDeposit_core,
    fun _ => loadLevelling_due, fun _ _ => moveOrderVisit_ended⟩

end Sys2Proof.Machine
end

section
/-! O46: division. The edge cases are those of the arithmetic; a zero divisor traps at the stage of the descriptors, before the op does anything. -/

namespace Sys2Proof.Machine

/-! ### The arithmetic (R102) -/

theorem division_by_zero (a : Word64) : divS a 0 = BitVec.allOnes 64 ∧ divU a 0 = BitVec.allOnes 64 ∧ remS a 0 = a ∧ remU a 0 = a :=
  ⟨if_pos rfl, if_pos rfl, if_pos rfl, if_pos rfl⟩

theorem division_overflow : divS (BitVec.intMin 64) (BitVec.allOnes 64) = BitVec.intMin 64 ∧ remS (BitVec.intMin 64) (BitVec.allOnes 64) = 0 := by
  decide

/-! ### The ops -/

/-- The four divisions have one set of needs. -/
theorem division_spec {k : Bool} {d a b : Field6} : ∀ i ∈ [Instr.div k d a b, .divu k d a b, .rem k d a b, .remu k d a b],
    specOf i = specDiv k d a b ∧ Issues i := by
  simp only [List.forall_mem_cons]
  exact ⟨⟨rfl, _, fun _ => rfl⟩, ⟨rfl, _, fun _ => rfl⟩, ⟨rfl, _, fun _ => rfl⟩, ⟨rfl, _, fun _ => rfl⟩, List.forall_mem_nil _⟩

theorem specDiv_desc (s : State) (k : Bool) (d a b : Field6) : s.stageTrap (specDiv k d a b) .desc = (divCheck b).2 s := by
  simp [State.stageTrap, specDiv, divCheck]

/-- No stage before that of the descriptors has a check of a division. -/
theorem specDiv_late {s : State} {k : Bool} {d a b : Field6} {r : TrapRec} (h : (divCheck b).2 s = some r) :
    (lateStages.findSome? fun st => s.lateTrap (specDiv k d a b) st []) = some r := by
  have hbefore : ∀ st, st ≠ .desc → s.stageTrap (specDiv k d a b) st = none := by
    intro st hst
    simp [State.stageTrap, specDiv, divCheck, Ne.symm hst]
  simp [lateStages, State.lateTrap, hbefore, specDiv_desc, h]

theorem specDiv_freezes (s : State) (k : Bool) (d a b : Field6) : s.freezes (specDiv k d a b) = [] := by
  unfold State.freezes
  split <;> rfl

/-- A zero divisor under TRAPEN[0] traps the op, which issues nothing (R102). -/
theorem division_trap {s : State} {k : Bool} {d a b : Field6} {i : Instr} (hi : specOf i = specDiv k d a b ∧ Issues i)
    (hc : s.ctx.checked = false) (he : s.encodingTrap (specOf i) = none) (ht : bit s.core.cfg.trapen.toNat 0 = true) (hb : s.readS b = 0) :
    exec i s = .next (s.trap (s.trapAt (0x78 + s.unit) s.ctx.pc 0)) := by
  obtain ⟨hs, eff, hexec⟩ := hi
  have hcheck : (divCheck b).2 s = some (s.trapAt (0x78 + s.unit) s.ctx.pc 0) := by simp [divCheck, ht, hb]
  rw [hs] at he
  rw [hexec, hs, issue]
  simp only [hc, he, specDiv_freezes, specDiv_late hcheck, Bool.false_eq_true, if_false, ne_eq, not_true]
  rfl

theorem State.trapAt_division_primary {s : State} (h : s.ctx.agent = .primary) (hs : s.ctx.slot ∈ [1, 2]) :
    s.trapAt (0x78 + s.unit) s.ctx.pc 0 = ⟨0x079, s.ctx.pc, 0, s.ctx.slot⟩ := by
  have hp : s.isPawn = false := by simp only [State.isPawn, h]
  have hu : s.unit = 1 := by
    simp only [List.mem_cons, List.not_mem_nil, or_false] at hs
    obtain hs | hs := hs <;> simp [State.unit, hp, hs]
  simp [State.trapAt, hu, hp]

theorem State.trapAt_division_pawn {s : State} {t : Nat} (h : s.ctx.agent = .pawn t) :
    s.trapAt (0x78 + s.unit) s.ctx.pc 0 = ⟨0x07E, s.ctx.pc, 0, 15⟩ := by
  have hp : s.isPawn = true := by simp only [State.isPawn, h]
  simp [State.trapAt, State.unit, hp]

theorem division_noTrap {s : State} {k : Bool} {d a b : Field6} {i : Instr} (hi : specOf i = specDiv k d a b) (hb : s.readS b ≠ 0) (r : TrapRec) :
    s.stageTrap (specOf i) .desc ≠ some r := by
  have hcheck : (divCheck b).2 s = none := if_neg fun h => hb (of_decide_eq_true ((Bool.and_eq_true _ _).mp h).2)
  rw [hi, specDiv_desc, hcheck]
  exact nofun

/-- What a trap of a bundle at a late stage does (R396). -/
theorem State.presentBundle_trap {α : Type} {s : State} {tb : OpTable α} {l : List (SlotIn α)} {r : TrapRec} {sp : OpSpec}
    (hl : s.bundleOps tb = .ok l) (ht : s.bundleTrap tb l = some (r, sp)) :
    s.presentBundle tb = .next ((s.discardFor sp r).trapTick (s.advertised s.bundle) r) := by
  simp only [State.presentBundle, hl, ht]

/-! ### The slot and the iterative unit (R58, R61) -/

theorem State.divide_held {s : State} (d : Field6) (v : Word64) (h : s.ctx.agent = .primary) (hs : s.ctx.slot < 9) :
    vget (s.divide d v).prim.fl.held s.ctx.slot 0 = 8 := by
  have hc : (s.landS (s.lat 16 24) d v).ctx = s.ctx := (s.landS_quietIn _ _ _).2
  simp only [State.divide, State.hold, hc, h, State.updCore_prim, State.updPrim_prim]
  exact vget_vset_same _ _ _ _ hs

theorem State.divide_iter {s : State} {t : Nat} (d : Field6) (v : Word64) (h : s.ctx.agent = .pawn t) : (s.divide d v).core.iter = 24 := by
  simp [State.divide, State.isPawn, h]

/-! ### No flags (R102) -/

/-- No flags have joined those on their way. -/
def State.noFlags (t s : State) : Prop :=
  (∀ e ∈ t.prim.fl.pend, (∃ f, e.eff = .flags f) → e ∈ s.prim.fl.pend) ∧
    ∀ n, ∀ e ∈ (t.pawn n).pend, (∃ f, e.eff = .flags f) → e ∈ (s.pawn n).pend

theorem State.noFlags_of {t s : State} (hp : t.prim.fl.pend = s.prim.fl.pend) (hn : ∀ n, (t.pawn n).pend = (s.pawn n).pend) : t.noFlags s :=
  ⟨fun _ he _ => hp ▸ he, fun n _ he _ => hn n ▸ he⟩

theorem State.noFlags_trans {a b c : State} (h : a.noFlags b) (k : b.noFlags c) : a.noFlags c :=
  ⟨fun e he hf => k.1 e (h.1 e he hf) hf, fun n e he hf => k.2 n e (h.2 n e he hf) hf⟩

theorem State.noFlags_frameRel : FrameRel State.noFlags := by
  refine ⟨State.noFlags_trans, fun h => State.noFlags_of (congrArg Flight.pend h.fl) h.pend, fun {u s t x} h => ?_⟩
  have hback : ∀ (v : State) (y : PawnRegs),
      (v.updPawn t fun p => p.withOperands y).noFlags v ∧ v.noFlags (v.updPawn t fun p => p.withOperands y) := by
    intro v y
    have hp : ∀ n, ((v.updPawn t fun p => p.withOperands y).pawn n).pend = (v.pawn n).pend := by
      intro n
      rw [State.updPawn_pawn]
      split
      · next hc => rw [← hc.1]; rfl
      · rfl
    exact ⟨State.noFlags_of rfl hp, State.noFlags_of rfl fun n => (hp n).symm⟩
  exact State.noFlags_trans (hback u _).1 (State.noFlags_trans h (hback s x).1)

theorem State.land_noFlags (s : State) (n : Nat) (d : Dst) (v : Nat) : (s.land n d v).noFlags s := by
  have hnew : ∀ l : List PEntry, ∀ e ∈ l ++ [s.entry n (.reg d (BitVec.ofNat 4096 v))], (∃ f, e.eff = .flags f) → e ∈ l := by
    rintro l e he ⟨f, hf⟩
    obtain he | he := List.mem_append.mp he
    · exact he
    · rw [List.mem_singleton.mp he] at hf
      cases hf
  unfold State.land State.emit
  split
  · exact ⟨hnew _, fun n e he _ => he⟩
  · next t _ =>
    refine ⟨fun e he _ => he, fun m e he hf => ?_⟩
    rw [State.updPawn_pawn] at he
    split at he
    · next hc => rw [← hc.1]; exact hnew _ e he hf
    · exact he

theorem State.divide_noFlags (s : State) (d : Field6) (v : Word64) : (s.divide d v).noFlags s := by
  have hhold : ((s.landS (s.lat 16 24) d v).hold 8).noFlags (s.landS (s.lat 16 24) d v) := by
    unfold State.hold
    split <;> exact State.noFlags_of rfl fun _ => rfl
  exact State.noFlags_trans (State.noFlags_of rfl fun _ => rfl) (State.noFlags_trans hhold (s.land_noFlags _ _ _))

theorem landS_noFlags {i : Instr} {n : Nat} {d : Field6} {v : State → Word64} (h : IssuesWith i fun s => s.landS n d (v s)) {s u : State}
    (hr : s.ctx.checked = true ∨ s.ready (specOf i) = true) (hu : exec i s = .next u) : u.noFlags s :=
  issued_frame State.noFlags_frameRel h hr hu fun w _ _ _ => w.land_noFlags _ _ _

theorem divide_noFlags {i : Instr} {d : Field6} {v : State → Word64} (h : IssuesWith i fun s => s.divide d (v s)) {s u : State}
    (hr : s.ctx.checked = true ∨ s.ready (specOf i) = true) (hu : exec i s = .next u) : u.noFlags s :=
  issued_frame State.noFlags_frameRel h hr hu fun w _ _ _ => w.divide_noFlags _ _

/-! ### The statement -/

/-- Settles O46: the values are those of the arithmetic, the trap is the check at the stage of the descriptors, and no multiplication or division
emits an entry of flags. -/
theorem divisionEdgeCases : Obligations.DivisionEdgeCases := by
  unfold Obligations.DivisionEdgeCases
  refine ⟨division_by_zero, division_overflow.1, division_overflow.2, fun k d a b => ?_, fun s u k d a b => ?_,
    fun s k d a b i hi hc he => ⟨fun ht hb => ?_, fun hb => ?_⟩, fun s l r sp => State.presentBundle_trap, fun s d v => ⟨s.divide_held d v, fun t => s.divide_iter d v⟩⟩
  · exact ⟨completes_of fun _ => rfl, completes_of fun _ => rfl, completes_of fun _ => rfl, completes_of fun _ => rfl⟩
  · simp only [List.forall_mem_cons]
    exact ⟨landS_noFlags fun _ => rfl, landS_noFlags fun _ => rfl, landS_noFlags fun _ => rfl, landS_noFlags fun _ => rfl,
      divide_noFlags fun _ => rfl, divide_noFlags fun _ => rfl, divide_noFlags fun _ => rfl, divide_noFlags fun _ => rfl,
      List.forall_mem_nil _⟩
  · have htrap := division_trap (division_spec i hi) hc he ht hb
    exact ⟨fun hp hs => by rw [htrap, State.trapAt_division_primary hp hs], fun t hp => by rw [htrap, State.trapAt_division_pawn hp]⟩
  · exact division_noTrap (division_spec i hi).1 hb

end Sys2Proof.Machine
end

section
/-! O48: a hold that waits. Its only cause of a freeze is the comparison, and a freeze comes before every late stage. -/

namespace Sys2Proof.Machine

/-- An op of the primary that passes the encoding checks and has causes freezes with them. -/
theorem issue_freezes {s : State} {sp : OpSpec} {l : List Nat} (eff : State → State) (hc : s.ctx.checked = false) (hp : s.ctx.agent = .primary)
    (he : s.encodingTrap sp = none) (hf : sp.causes s = l) (hl : l ≠ []) : issue sp s eff = .next (s.freezeWith l) := by
  have hpawn : s.isPawn = false := by simp only [State.isPawn, hp]
  have hfreezes : s.freezes sp = l := by rw [State.freezes, hpawn, if_neg Bool.false_ne_true, hf]
  simp only [issue, hc, Bool.false_eq_true, if_false, he, hfreezes, if_pos hl]

theorem specHold_causes {s : State} {a b : Field6} {c : HoldCmp} (hk : s.holdCheck a = none) (h : c.holds (s.watched a) (s.readS b) = false) :
    (specHold c a b).causes s = [0] := by
  simp [OpSpec.causes, specHold, hk, h]

theorem specHoldWp_causes {s : State} {w : BitVec 1} {b : Field6} {c : HoldCmp}
    (h : c.holds ((vget s.core.wptr w.toNat 0).setWidth 64) (s.readS b) = false) : (specHoldWp c w b).causes s = [0] := by
  change (if c.holds _ (s.readS b) then [] else [0]) ++ [] = [0]
  rw [h, if_neg Bool.false_ne_true, List.append_nil]

/-- A freeze with cause 0 alone. -/
theorem State.freezeWith_zero (s : State) :
    s.freezeWith [0] = s.updPrim fun p => { p with frz := 1, frzClus := true, frzLast := 0x401, presented := true } := rfl

/-- The order of a hold is the order of the words, signed or unsigned as its name says. -/
theorem HoldCmp.holds_eq (c : HoldCmp) (x y : Word64) : c.holds x y = match c with
    | .eq => decide (x = y)
    | .ne => decide (x ≠ y)
    | .lt => x.slt y
    | .ge => !x.slt y
    | .ltu => x.ult y
    | .geu => !x.ult y := by
  cases c with
  | eq => rfl
  | ne => rfl
  | lt => rfl
  | ge => simp only [HoldCmp.holds, BitVec.slt, ge_iff_le, ← decide_not, Int.not_lt]
  | ltu => rfl
  | geu => simp only [HoldCmp.holds, BitVec.ult, ge_iff_le, ← decide_not, Nat.not_lt]

/-- Settles O48: a failing comparison is the only cause, so the primary freezes with it. -/
theorem holdWaits : Obligations.HoldWaits := by
  unfold Obligations.HoldWaits
  refine ⟨fun s a b hc hp hk => ?_, fun s w b hc hp => ?_, fun s => ?_, HoldCmp.holds_eq⟩
  · have hold : ∀ c, s.encodingTrap (specHold c a b) = none → c.holds (s.watched a) (s.readS b) = false →
        ∀ eff, issue (specHold c a b) s eff = .next (s.freezeWith [0]) :=
      fun c he h eff => issue_freezes eff hc hp he (specHold_causes hk h) (List.cons_ne_nil _ _)
    simp only [List.forall_mem_cons]
    exact ⟨fun he h => hold _ he h _, fun he h => hold _ he h _, fun he h => hold _ he h _, fun he h => hold _ he h _,
      fun he h => hold _ he h _, fun he h => hold _ he h _, List.forall_mem_nil _⟩
  · have hold : ∀ c, s.encodingTrap (specHoldWp c w b) = none → c.holds ((vget s.core.wptr w.toNat 0).setWidth 64) (s.readS b) = false →
        ∀ eff, issue (specHoldWp c w b) s eff = .next (s.freezeWith [0]) :=
      fun c he h eff => issue_freezes eff hc hp he (specHoldWp_causes h) (List.cons_ne_nil _ _)
    simp only [List.forall_mem_cons]
    exact ⟨fun he h => hold _ he h _, fun he h => hold _ he h _, fun he h => hold _ he h _, fun he h => hold _ he h _,
      fun he h => hold _ he h _, fun he h => hold _ he h _, List.forall_mem_nil _⟩
  · exact ⟨s.freezeWith_zero, rfl, rfl, rfl, rfl, rfl, rfl, rfl, rfl, rfl, rfl, rfl, rfl, rfl, rfl, rfl, rfl, rfl, rfl, rfl⟩

end Sys2Proof.Machine
end

section
/-! O50: the order of landing. The queue is put in the order of issue, and each landing replaces what its register holds. -/

namespace Sys2Proof.Machine

/-! ### One register written twice -/

theorem vset_vset {α : Type} {n : Nat} (v : Vector α n) (i : Nat) (x y : α) : vset (vset v i x) i y = vset v i y := by
  simp [vset]

theorem State.updPawn_beyond (s : State) {t : Nat} (f : Pawn → Pawn) (h : ¬ t < 16) : s.updPawn t f = s := by
  have hs : vset s.pawns t (f (s.pawn t)) = s.pawns := by simp [vset, Vector.setIfInBounds, Array.setIfInBounds, h]
  show s.setPawns (vset s.pawns t (f (s.pawn t))) = s
  rw [hs]
  rfl

/-- Of two updates of a pawn where the later one hides the earlier one, only the later one counts. -/
theorem State.updPawn_hides (s : State) (t : Nat) (f g : Pawn → Pawn) (h : ∀ p, g (f p) = g p) : (s.updPawn t f).updPawn t g = s.updPawn t g := by
  by_cases ht : t < 16
  · rw [State.updPawn_updPawn s f g ht]
    congr 1
    exact funext h
  · rw [s.updPawn_beyond f ht]

/-- The destination is a register of its thread, no port. -/
def Dst.noPort (d : Dst) : Prop := (∀ p r, d ≠ .sport p r) ∧ ∀ p r, d ≠ .vport p r

theorem State.setReg_setReg (s : State) {d : Dst} (v1 v2 : Wide) (h : d.noPort) : (s.setReg d v1).setReg d v2 = s.setReg d v2 := by
  cases ha : s.ctx.agent with
  | primary =>
    cases d with
    | s r => simp [State.setReg, ha, State.updPrim, vset_vset]
    | v r => simp [State.setReg, ha, State.updPrim, vset_vset]
    | b r => simp [State.setReg, ha, State.updPrim, vset_vset]
    | bAll => simp [State.setReg, ha, State.updPrim]
    | m r => simp [State.setReg, ha, State.updPrim, vset_vset]
    | ib r => simp [State.setReg, ha, State.updPrim, vset_vset]
    | sport p r => exact absurd rfl (h.1 p r)
    | vport p r => exact absurd rfl (h.2 p r)
    | z _ _ _ _ _ => simp [State.setReg, ha]
    | discard => simp [State.setReg, ha]
  | pawn t =>
    cases d with
    | s r => simp only [State.setReg, ha, State.updPawn_ctx]; exact s.updPawn_hides t _ _ fun p => by simp [vset_vset]
    | v r => simp only [State.setReg, ha, State.updPawn_ctx]; exact s.updPawn_hides t _ _ fun p => by simp [vset_vset]
    | b r => simp only [State.setReg, ha, State.updPawn_ctx]; exact s.updPawn_hides t _ _ fun p => by simp [vset_vset]
    | bAll => simp only [State.setReg, ha, State.updPawn_ctx]; exact s.updPawn_hides t _ _ fun p => rfl
    | m r => simp only [State.setReg, ha, State.updPawn_ctx]; exact s.updPawn_hides t _ _ fun p => by simp [vset_vset]
    | ib _ => simp [State.setReg, ha]
    | sport _ _ => simp [State.setReg, ha]
    | vport _ _ => simp [State.setReg, ha]
    | z _ _ _ _ _ => simp [State.setReg, ha]
    | discard => simp [State.setReg, ha]

/-! ### The order of the queue -/

/-- Two entries stand in the order of their ops, whatever their order before. -/
theorem sortEntries_pair {e1 e2 : PEntry} (h : e1.op < e2.op) : ∀ l ∈ [[e1, e2], [e2, e1]], sortEntries l = [e1, e2] := by
  simp [sortEntries, insertEntry, h, Nat.not_lt_of_gt h]

theorem State.landZs_of_none (s : State) {due : List PEntry} (h : ∀ e ∈ due, e.zDst = none) (z : Nat) : s.landZs due z = s := by
  have hnil : (due.filter fun e => e.zDst = some z) = [] := List.filter_eq_nil_iff.mpr fun e he => by simp [h e he]
  unfold State.landZs
  rw [hnil]
  rfl

/-- Two entries that write no scale register land one after the other: their registers, their bindings and their flags. -/
theorem State.landAll_pair (s : State) {e1 e2 : PEntry} (h1 : e1.zDst = none) (h2 : e2.zDst = none) :
    s.landAll [e1, e2] = (((((s.landReg e1).landReg e2).landBind e1).landBind e2).landFlag e1).landFlag e2 := by
  have hz : ∀ e ∈ [e1, e2], e.zDst = none := by simp [h1, h2]
  unfold State.landAll
  simp only [List.foldl_cons, List.foldl_nil]
  rw [foldl_same _ _ _ fun (x : State) b => x.landZs_of_none hz b]

theorem PEntry.zDst_reg {e : PEntry} {d : Dst} {v : Wide} (h : e.eff = .reg d v) (hd : ∀ z f n m k, d ≠ .z z f n m k) : e.zDst = none := by
  cases d with
  | z z f n m k => exact absurd rfl (hd z f n m k)
  | _ => simp [PEntry.zDst, h]

/-- Of two results for one register of a thread the later op's stands. -/
theorem State.landAll_regs (s : State) {e1 e2 : PEntry} {d : Dst} {v1 v2 : Wide} (hop : e1.op < e2.op) (hp : d.noPort)
    (hd : ∀ z f n m k, d ≠ .z z f n m k) (h1 : e1.eff = .reg d v1) (h2 : e2.eff = .reg d v2) :
    ∀ l ∈ [[e1, e2], [e2, e1]], s.landAll (sortEntries l) = s.setReg d v2 := by
  intro l hl
  rw [sortEntries_pair hop l hl, s.landAll_pair (PEntry.zDst_reg h1 hd) (PEntry.zDst_reg h2 hd)]
  simp only [State.landReg, State.landBind, State.landFlag, h1, h2]
  exact s.setReg_setReg v1 v2 hp

/-! ### What a register holds after its write -/

section Reads
variable {s : State} (v : Wide) {r t : Nat}

theorem State.setReg_s_primary (ha : s.ctx.agent = .primary) (hr : r < 60) : vget (s.setReg (.s r) v).prim.s r 0 = v.setWidth 64 := by
  simp [State.setReg, ha, vget_vset_same, hr]

theorem State.setReg_v_primary (ha : s.ctx.agent = .primary) (hr : r < 58) : vget (s.setReg (.v r) v).prim.v r 0 = v.setWidth 2048 := by
  simp [State.setReg, ha, vget_vset_same, hr]

theorem State.setReg_b_primary (ha : s.ctx.agent = .primary) (hr : r < 16) : vget (s.setReg (.b r) v).prim.b r false = v.getLsbD 0 := by
  simp [State.setReg, ha, vget_vset_same, hr]

theorem State.setReg_m_primary (ha : s.ctx.agent = .primary) (hr : r < 8) : vget (s.setReg (.m r) v).prim.m r 0 = v.setWidth 64 := by
  simp [State.setReg, ha, vget_vset_same, hr]

theorem State.setReg_ib_primary (ha : s.ctx.agent = .primary) (hr : r < 4) : vget (s.setReg (.ib r) v).prim.ib r 0 = v.setWidth 6 := by
  simp [State.setReg, ha, vget_vset_same, hr]

theorem State.setReg_s_pawn (ht : t < 16) (ha : s.ctx.agent = .pawn t) (hr : r < 64) :
    vget ((s.setReg (.s r) v).pawn t).x r 0 = v.setWidth 64 := by
  simp [State.setReg, ha, ht, vget_vset_same, hr]

theorem State.setReg_v_pawn (ht : t < 16) (ha : s.ctx.agent = .pawn t) (hr : r < 8) :
    vget ((s.setReg (.v r) v).pawn t).y r 0 = v.setWidth 1024 := by
  simp [State.setReg, ha, ht, vget_vset_same, hr]

theorem State.setReg_b_pawn (ht : t < 16) (ha : s.ctx.agent = .pawn t) (hr : r < 8) :
    vget ((s.setReg (.b r) v).pawn t).b r false = v.getLsbD 0 := by
  simp [State.setReg, ha, ht, vget_vset_same, hr]

theorem State.setReg_m_pawn (ht : t < 16) (ha : s.ctx.agent = .pawn t) (hr : r < 4) :
    vget ((s.setReg (.m r) v).pawn t).m r 0 = v.setWidth 32 := by
  simp [State.setReg, ha, ht, vget_vset_same, hr]

/-- The write of a pawn's register touches that pawn alone. -/
theorem State.setReg_pawn_frame (d : Dst) (ha : s.ctx.agent = .pawn t) :
    (∀ n, n ≠ t → (s.setReg d v).pawn n = s.pawn n) ∧ (s.setReg d v).prim = s.prim := by
  cases d with
  | s r => simp only [State.setReg, ha]; exact ⟨fun n hn => s.updPawn_pawn_other t n _ (Ne.symm hn), rfl⟩
  | v r => simp only [State.setReg, ha]; exact ⟨fun n hn => s.updPawn_pawn_other t n _ (Ne.symm hn), rfl⟩
  | b r => simp only [State.setReg, ha]; exact ⟨fun n hn => s.updPawn_pawn_other t n _ (Ne.symm hn), rfl⟩
  | bAll => simp only [State.setReg, ha]; exact ⟨fun n hn => s.updPawn_pawn_other t n _ (Ne.symm hn), rfl⟩
  | m r => simp only [State.setReg, ha]; exact ⟨fun n hn => s.updPawn_pawn_other t n _ (Ne.symm hn), rfl⟩
  | _ => simp [State.setReg, ha]

end Reads

/-! ### The forwarding latch, accumulators and bindings -/

section Pairs
variable (s : State) {e1 e2 : PEntry} (hop : e1.op < e2.op) {l : List PEntry} (hl : l ∈ [[e1, e2], [e2, e1]])
include hop hl

theorem State.landAll_mx {v1 v2 : Wide} (h1 : e1.eff = .mx v1) (h2 : e2.eff = .mx v2) :
    vget (s.landAll (sortEntries l)).prim.v 56 0 = v2.setWidth 2048 ∧
      vget (s.landAll (sortEntries l)).prim.v 57 0 = (v2 >>> 2048).setWidth 2048 := by
  rw [sortEntries_pair hop l hl, s.landAll_pair (by simp [PEntry.zDst, h1]) (by simp [PEntry.zDst, h2])]
  simp [State.landReg, State.landBind, State.landFlag, h1, h2, vget_vset]

theorem State.landAll_acc {r k1 k2 : Nat} {a1 a2 : BitVec 131072} (hr : r < 8) (h1 : e1.eff = .acc r a1 k1) (h2 : e2.eff = .acc r a2 k2) :
    vget (s.landAll (sortEntries l)).core.acc r 0 = a2 := by
  rw [sortEntries_pair hop l hl, s.landAll_pair (by simp [PEntry.zDst, h1]) (by simp [PEntry.zDst, h2])]
  simp [State.landReg, State.landBind, State.landFlag, h1, h2, vget_vset, hr, State.updCore]

theorem State.landAll_bindTile {r : Nat} {b1 b2 : Option (Nat × Nat)} (h1 : e1.eff = .bindTile r b1) (h2 : e2.eff = .bindTile r b2) :
    s.landAll (sortEntries l) = (s.bindTile r b1).bindTile r b2 := by
  rw [sortEntries_pair hop l hl, s.landAll_pair (by simp [PEntry.zDst, h1]) (by simp [PEntry.zDst, h2])]
  simp [State.landReg, State.landBind, State.landFlag, h1, h2]

theorem State.landAll_bindSlot {r z1 z2 a1 a2 : Nat} (h1 : e1.eff = .bindSlot r z1 a1) (h2 : e2.eff = .bindSlot r z2 a2) :
    s.landAll (sortEntries l) = (s.bindSlot r z1 a1).bindSlot r z2 a2 := by
  rw [sortEntries_pair hop l hl, s.landAll_pair (by simp [PEntry.zDst, h1]) (by simp [PEntry.zDst, h2])]
  simp [State.landReg, State.landBind, State.landFlag, h1, h2]

end Pairs

theorem State.bindTile_twice (s : State) {r : Nat} (b1 b2 : Option (Nat × Nat)) (hr : r < 16) :
    let u := (s.bindTile r b1).bindTile r b2
    (vget u.core.t r ⟨0, Tag.unbound⟩).data = (vget s.core.t r ⟨0, Tag.unbound⟩).data ∧
      ∀ z base, b2 = some (z, base) → (vget u.core.t r ⟨0, Tag.unbound⟩).tag = s.bindTag z base := by
  refine ⟨?_, ?_⟩
  · simp [State.bindTile, State.updCore, vget_vset_same, hr]
  · rintro z base rfl
    simp [State.bindTile, State.updCore, State.bindTag, vget_vset_same, hr]

theorem State.bindSlot_twice (s : State) {r z1 z2 a1 a2 : Nat} (hr : r < 32) :
    (vget ((s.bindSlot r z1 a1).bindSlot r z2 a2).core.w r WSlot.unloaded).tag = s.bindTag z2 a2 := by
  simp [State.bindSlot, State.updCore, State.bindTag, vget_vset_same, hr]

/-- Ops of a bundle are numbered as they issue, in slot order. -/
theorem State.entry_op_primary {s : State} (ha : s.ctx.agent = .primary) (n : Nat) (e : Eff) :
    (s.entry n e).op = s.prim.opCount ∧ s.advance.prim.opCount = s.prim.opCount + 1 := by
  simp [State.entry, State.advance, ha]

/-- The write of a scalar register of the primary touches no other register and no memory. -/
theorem State.setReg_s_frame {s : State} {r n : Nat} (v : Wide) (ha : s.ctx.agent = .primary) (hn : n ≠ r) :
    vget (s.setReg (.s r) v).prim.s n 0 = vget s.prim.s n 0 ∧ (s.setReg (.s r) v).prim.v = s.prim.v ∧
      (s.setReg (.s r) v).prim.b = s.prim.b ∧ (s.setReg (.s r) v).prim.m = s.prim.m ∧ (s.setReg (.s r) v).pawns = s.pawns ∧
      (s.setReg (.s r) v).sameOutside s := by
  have hset : s.setReg (.s r) v = s.updPrim fun p => { p with s := vset p.s r (v.setWidth 64) } := by simp [State.setReg, ha]
  rw [hset]
  exact ⟨vget_vset_other _ _ _ _ _ (Ne.symm hn), rfl, rfl, rfl, rfl, rfl, rfl, rfl, rfl, rfl, rfl, rfl, rfl⟩

/-- Settles O50: the queue lands in the order of the ops, and a write hides the one before it. -/
theorem landingOrder : Obligations.LandingOrder := by
  unfold Obligations.LandingOrder
  refine ⟨fun s e1 e2 r v1 v2 hop l hl => ?_, fun s e1 e2 r hop l hl => ⟨?_, ?_, ?_⟩, fun s ha n e => State.entry_op_primary ha n e,
    fun s r v1 v2 => ⟨fun ha hr => ?_, fun t ht ha hr => ?_⟩, fun s d v1 v2 h1 h2 => s.setReg_setReg v1 v2 ⟨h1, h2⟩,
    fun s t d v ha => State.setReg_pawn_frame v d ha, fun s r n v ha hn _ => State.setReg_s_frame v ha hn⟩
  · have later : ∀ d : Dst, d.noPort → (∀ z f n m k, d ≠ .z z f n m k) → e1.eff = .reg d v1 → e2.eff = .reg d v2 →
        s.landAll (sortEntries l) = s.setReg d v2 := fun d hp hd h1 h2 => s.landAll_regs hop hp hd h1 h2 l hl
    refine ⟨fun ha hr h1 h2 => ?_, fun ha hr h1 h2 => ?_, fun ha hr h1 h2 => ?_, fun ha hr h1 h2 => ?_, fun ha hr h1 h2 => ?_,
      fun _ h1 h2 => s.landAll_mx hop hl h1 h2, fun t ht ha hr h1 h2 => ?_, fun t ht ha hr h1 h2 => ?_, fun t ht ha hr h1 h2 => ?_,
      fun t ht ha hr h1 h2 => ?_⟩
    · rw [later (.s r) ⟨nofun, nofun⟩ nofun h1 h2, State.setReg_s_primary v2 ha hr]
    · rw [later (.v r) ⟨nofun, nofun⟩ nofun h1 h2, State.setReg_v_primary v2 ha hr]
    · rw [later (.b r) ⟨nofun, nofun⟩ nofun h1 h2, State.setReg_b_primary v2 ha hr]
    · rw [later (.m r) ⟨nofun, nofun⟩ nofun h1 h2, State.setReg_m_primary v2 ha hr]
    · rw [later (.ib r) ⟨nofun, nofun⟩ nofun h1 h2, State.setReg_ib_primary v2 ha hr]
    · rw [later (.s r) ⟨nofun, nofun⟩ nofun h1 h2, State.setReg_s_pawn v2 ht ha hr]
    · rw [later (.v r) ⟨nofun, nofun⟩ nofun h1 h2, State.setReg_v_pawn v2 ht ha hr]
    · rw [later (.b r) ⟨nofun, nofun⟩ nofun h1 h2, State.setReg_b_pawn v2 ht ha hr]
    · rw [later (.m r) ⟨nofun, nofun⟩ nofun h1 h2, State.setReg_m_pawn v2 ht ha hr]
  · exact fun a1 a2 k1 k2 hr h1 h2 => s.landAll_acc hop hl hr h1 h2
  · intro b1 b2 hr h1 h2
    rw [s.landAll_bindTile hop hl h1 h2]
    exact s.bindTile_twice b1 b2 hr
  · intro z1 z2 a1 a2 hr h1 h2
    rw [s.landAll_bindSlot hop hl h1 h2]
    exact s.bindSlot_twice hr
  · rw [s.setReg_setReg (d := .s r) v1 v2 ⟨nofun, nofun⟩, State.setReg_s_primary v2 ha hr]
  · rw [s.setReg_setReg (d := .s r) v1 v2 ⟨nofun, nofun⟩, State.setReg_s_pawn v2 ht ha hr]

end Sys2Proof.Machine
end

section
/-! O51: the write of a scale register. -/

namespace Sys2Proof.Machine

/-! ### The entries -/

/-- The bits that are set come from the new value, every other bit stays. -/
theorem testBit_setBits (x lo n y i : Nat) :
    (setBits x lo n y).testBit i = if lo ≤ i ∧ i < lo + n then y.testBit (i - lo) else x.testBit i := by
  have hfield : setBits x lo n y = 2 ^ lo * (2 ^ n * (x / 2 ^ (lo + n)) + y % 2 ^ n) + x % 2 ^ lo := by
    unfold setBits
    rw [Nat.mul_add, ← Nat.mul_assoc, ← Nat.pow_add]
    omega
  rw [hfield, Nat.testBit_two_pow_mul_add _ (Nat.mod_lt _ (Nat.two_pow_pos lo)), Nat.testBit_two_pow_mul_add _ (Nat.mod_lt _ (Nat.two_pow_pos n))]
  by_cases hlo : i < lo
  · rw [if_pos hlo, if_neg (by omega), Nat.testBit_mod_two_pow, decide_eq_true hlo, Bool.true_and]
  · rw [if_neg hlo]
    by_cases hn : i < lo + n
    · rw [if_pos (by omega), if_pos (by omega), Nat.testBit_mod_two_pow, decide_eq_true (by omega), Bool.true_and]
    · rw [if_neg (by omega), if_neg (by omega), Nat.testBit_div_two_pow]
      congr 1
      omega

/-- The entries of a register with entries `first` to `first + n - 1` replaced. -/
theorem extractLsb'_setBits (e v : Wide) {first n j : Nat} (hj : j < 512) :
    (BitVec.ofNat 4096 (setBits e.toNat (8 * first) (8 * n) v.toNat)).extractLsb' (8 * j) 8 =
      if first ≤ j ∧ j < first + n then v.extractLsb' (8 * (j - first)) 8 else e.extractLsb' (8 * j) 8 := by
  apply BitVec.eq_of_getLsbD_eq
  intro i hi
  rw [BitVec.getLsbD_extractLsb', BitVec.getLsbD_ofNat, testBit_setBits, decide_eq_true (by omega : 8 * j + i < 4096), Bool.true_and]
  by_cases hin : first ≤ j ∧ j < first + n
  · rw [if_pos hin, if_pos (by omega), BitVec.getLsbD_extractLsb', BitVec.getLsbD, show 8 * j + i - 8 * first = 8 * (j - first) + i by omega]
  · rw [if_neg hin, if_neg (by omega), BitVec.getLsbD_extractLsb', BitVec.getLsbD]

/-! ### The tags -/

theorem vget_vmap {α : Type} {n : Nat} (f : α → α) (v : Vector α n) {i : Nat} (d : α) (h : i < n) : vget (vmap f v) i d = f (vget v i d) := by
  simp [vget, vmap, h]

/-- A write leaves a tag bound where it was. -/
theorem Tag.onWrite_place (t : Tag) (z : Nat) (g : Word32) (keep : Bool) :
    (t.onWrite z g keep).bound = t.bound ∧ (t.onWrite z g keep).z = t.z ∧ (t.onWrite z g keep).base = t.base := by
  unfold Tag.onWrite
  split <;> exact ⟨rfl, rfl, rfl⟩

theorem Tag.onWrite_other {t : Tag} {z : Nat} (g : Word32) (keep : Bool) (h : ¬(t.bound = true ∧ t.z = z)) : t.onWrite z g keep = t :=
  if_neg (by simpa using h)

theorem Tag.onWrite_bound {t : Tag} {z : Nat} (g : Word32) (keep : Bool) (hb : t.bound = true) (hz : t.z = z) :
    (t.onWrite z g keep).gen = if keep && decide (t.gen = g) && decide (g ≠ 0) then nextGen g else 0 := by
  simp only [Tag.onWrite, hb, hz, decide_true, Bool.and_self, if_true]

theorem Tag.onWrite_keeps {t : Tag} {z : Nat} {g : Word32} {keep : Bool} (hb : t.bound = true) (hz : t.z = z) (hk : keep = true) (hg : t.gen = g)
    (h0 : g ≠ 0) : (t.onWrite z g keep).gen = nextGen g := by
  rw [Tag.onWrite_bound g keep hb hz, if_pos (by rw [hk, decide_eq_true hg, decide_eq_true h0]; rfl)]

theorem Tag.onWrite_stale {t : Tag} {z : Nat} {g : Word32} {keep : Bool} (hb : t.bound = true) (hz : t.z = z) (h : keep = false ∨ t.gen ≠ g) :
    (t.onWrite z g keep).gen = 0 := by
  rw [Tag.onWrite_bound g keep hb hz, if_neg]
  obtain hk | hg := h
  · simp [hk]
  · simp [hg]

/-! ### The write -/

section Write
variable (s : State) {z : Nat} (first n : Nat) (fmt keep : Bool) (v : Wide)

theorem State.landZ_zreg (hz : z < 32) : (s.landZ z first n fmt keep v).zreg z =
    ⟨BitVec.ofNat 4096 (setBits (s.zreg z).e.toNat (8 * first) (8 * n) v.toNat), fmt, nextGen (s.zreg z).gen⟩ := vget_vset_same _ _ _ _ hz

theorem State.landZ_zreg_other {y : Nat} (h : y ≠ z) : (s.landZ z first n fmt keep v).zreg y = s.zreg y := vget_vset_other _ _ _ _ _ h.symm

theorem State.landZ_tile {t : Nat} (ht : t < 16) : vget (s.landZ z first n fmt keep v).core.t t ⟨0, Tag.unbound⟩ =
    { vget s.core.t t ⟨0, Tag.unbound⟩ with tag := (vget s.core.t t ⟨0, Tag.unbound⟩).tag.onWrite z (s.zreg z).gen keep } :=
  vget_vmap _ _ _ ht

theorem State.landZ_slot {w : Nat} (hw : w < 32) : vget (s.landZ z first n fmt keep v).core.w w WSlot.unloaded =
    { vget s.core.w w WSlot.unloaded with tag := (vget s.core.w w WSlot.unloaded).tag.onWrite z (s.zreg z).gen keep } :=
  vget_vmap _ _ _ hw

end Write

/-- Of two writes that land in one cycle only the last takes place. -/
theorem State.landZs_last (s : State) {z : Nat} {e1 e2 : PEntry} {a b : Nat} {fmt keep : Bool} {v : Wide} (h1 : e1.zDst = some z)
    (h2 : e2.eff = .reg (.z z a b fmt keep) v) : s.landZs [e1, e2] z = s.landZ z a b fmt keep v := by
  have hz2 : e2.zDst = some z := by simp [PEntry.zDst, h2]
  simp [State.landZs, h1, hz2, h2]

/-- Settles O51: the entries by their bits, and a tag by whether it is bound to the register and live. -/
theorem scaleRegisterWrites : Obligations.ScaleRegisterWrites := by
  unfold Obligations.ScaleRegisterWrites
  refine ⟨fun s z first n fmt keep v hz _ => ?_, fun s z e1 e2 a b fmt keep v => s.landZs_last⟩
  dsimp only
  rw [s.landZ_zreg first n fmt keep v hz]
  refine ⟨rfl, rfl, fun j hj => extractLsb'_setBits _ v hj, fun y hy => s.landZ_zreg_other _ _ _ _ _ hy, rfl, rfl, rfl, rfl,
    ⟨rfl, rfl, rfl, rfl, rfl, rfl, rfl, rfl⟩, fun t ht => ?_, fun w hw => ?_⟩
  · rw [s.landZ_tile first n fmt keep v ht]
    obtain ⟨hbound, hz, hbase⟩ := Tag.onWrite_place (vget s.core.t t ⟨0, Tag.unbound⟩).tag z (s.zreg z).gen keep
    exact ⟨rfl, hbound, hz, hbase, Tag.onWrite_other _ _, Tag.onWrite_keeps, Tag.onWrite_stale⟩
  · rw [s.landZ_slot first n fmt keep v hw]
    obtain ⟨hbound, hz, hbase⟩ := Tag.onWrite_place (vget s.core.w w WSlot.unloaded).tag z (s.zreg z).gen keep
    exact ⟨rfl, hbound, hz, hbase, Tag.onWrite_other _ _, Tag.onWrite_keeps, Tag.onWrite_stale⟩

end Sys2Proof.Machine
end

section
/-! O41: a pawn's trap. The return does not put every thread back into the rotation: a thread whose chunk counts as full stays parked (R335), and
nothing in the statement excludes such a thread. -/

namespace Sys2Proof.Machine

/-- Pawn 0 runs its handler, with a record of a trap from user mode, and its chunk counts as full. -/
def fullPawn : State :=
  (State.reset.updPawn 0 fun p =>
    { p with status := .running, th := { p.th with mode := 1, tcause := tcauseOf 0x1F6 15 false }, chunk := { p.chunk with full := true } }).setCtx
      (agentCtx (.pawn 0))

theorem fullPawn_ready : fullPawn.ready (specOf (.sret false)) = true := by decide

/-- A thread whose chunk counts as full is out of the rotation (R335). -/
theorem State.inRotation_full {s : State} {t : Nat} (h : (s.pawn t).chunk.full = true) : s.inRotation t = false := by
  rw [State.inRotation, h, Bool.not_true, Bool.and_false]

/-- Refutes O41: after the sret of a pawn whose chunk counts as full the thread is not in the rotation. -/
theorem not_pawnTraps : ¬ Obligations.PawnTraps := by
  unfold Obligations.PawnTraps
  rintro ⟨-, -, -, -, hreturn⟩
  obtain ⟨u, hu, -, -, -, -, hrot, -⟩ := hreturn fullPawn 0 false (by decide) rfl rfl rfl rfl rfl (.inr fullPawn_ready) rfl
  have hexec : exec (.sret false) fullPawn = .next (fullPawn.perform (specOf (.sret false)) fun s => s.pawnReturn 0) := by rfl
  have hfull : (u.pawn 0).chunk.full = true := by
    rw [hexec] at hu
    cases hu
    rfl
  rw [State.inRotation_full hfull] at hrot
  exact Bool.false_ne_true (hrot rfl)

end Sys2Proof.Machine
end

section
/-! O14, O15, O16, O18, O60: the control ops, the integer ops and the loads and stores of local memory complete. `exec` is by definition the issue
of each of them with its effect (`IssuesWith`), and an op that may issue issues with its effect (`issue_ready`). O60 adds how major 0x10 decodes. -/

namespace Sys2Proof

/-! ### A word built from its fields -/

theorem decodeWord_mkWord_ok {k : Bool} {mj d a : BitVec 6} {lo : BitVec 13} {i : Instr} (h : decodeFields k mj d a lo = some i)
    (hw : i.wellFormed = true) : decodeWord (mkWord k mj d a lo) = .ok i := by
  simp [decodeWord, h, hw]

theorem decodeWord_mkWord_unassigned {k : Bool} {mj d a : BitVec 6} {lo : BitVec 13} (h : decodeFields k mj d a lo = none)
    (ha : majorAssigned mj = true) : decodeWord (mkWord k mj d a lo) = .error .unassignedWord := by
  simp [decodeWord, h, ha]

/-- The row of major 0x10: the op by its function code (R40, R100). -/
theorem decodeFields_immediateShift (k : Bool) (d a n : BitVec 6) (fn : BitVec 7) :
    decodeFields k 0x10#6 d a (n ++ fn) =
      if fn = 0#7 then some (.shli k d a n) else if fn = 1#7 then some (.shri k d a n)
      else if fn = 2#7 then some (.sari k d a n) else if fn = 3#7 then some (.rotli k d a n) else none := by
  simp only [decodeFields_10, decodeMajor10, BitVec.extractLsb'_append_eq_right, BitVec.extractLsb'_append_eq_left]

/-- A function code from 4 on is none of the four (R100). -/
theorem decodeFields_immediateShift_none (k : Bool) (d a n : BitVec 6) {fn : BitVec 7} (h : 4 ≤ fn.toNat) :
    decodeFields k 0x10#6 d a (n ++ fn) = none := by
  have hne : ∀ c : BitVec 7, c.toNat < 4 → fn ≠ c := by
    rintro c hc rfl
    omega
  simp only [decodeFields_immediateShift, if_neg (hne 0#7 (by decide)), if_neg (hne 1#7 (by decide)), if_neg (hne 2#7 (by decide)),
    if_neg (hne 3#7 (by decide))]

end Sys2Proof

namespace Sys2Proof.Machine

/-! ### The statements -/

/-- An instruction that `exec` issues with an effect completes with it. -/
theorem Completes.byIssue {i : Instr} {eff : State → State} (h : IssuesWith i eff := by exact fun _ => rfl) : Completes i eff :=
  completes_of h

/-- Settles O14: each op issues with its effect. -/
theorem systemOpsComplete : Obligations.SystemOpsComplete := by
  unfold Obligations.SystemOpsComplete
  exact ⟨fun _ _ _ => .byIssue, fun _ _ _ => .byIssue, fun _ _ _ => .byIssue, fun _ _ => .byIssue, fun _ => .byIssue, fun _ => .byIssue,
    fun _ => .byIssue, fun _ => .byIssue, fun _ => .byIssue, fun _ => .byIssue, fun _ => .byIssue, fun _ => .byIssue, fun _ => .byIssue,
    fun _ => .byIssue, fun _ => .byIssue, fun _ => .byIssue, fun _ => .byIssue, fun _ _ _ => .byIssue, fun _ _ _ => .byIssue, .byIssue⟩

/-- Settles O15: each op issues with its effect. -/
theorem integerOpsComplete : Obligations.IntegerOpsComplete := by
  unfold Obligations.IntegerOpsComplete
  exact ⟨fun _ _ _ _ => .byIssue, fun _ _ _ _ => .byIssue, fun _ _ _ _ => .byIssue, fun _ _ _ _ => .byIssue, fun _ _ _ _ => .byIssue,
    fun _ _ _ _ => .byIssue, fun _ _ _ _ => .byIssue, fun _ _ _ _ => .byIssue, fun _ _ _ _ => .byIssue, fun _ _ _ _ => .byIssue,
    fun _ _ _ _ => .byIssue, fun _ _ _ _ => .byIssue, fun _ _ _ => .byIssue, fun _ _ _ _ => .byIssue, fun _ _ _ _ => .byIssue,
    fun _ _ _ _ => .byIssue, fun _ _ _ => .byIssue, fun _ _ _ _ => .byIssue, fun _ _ _ _ => .byIssue, fun _ _ _ _ => .byIssue,
    fun _ _ _ _ => .byIssue, fun _ _ _ _ => .byIssue, fun _ _ _ _ => .byIssue, fun _ _ _ _ => .byIssue, fun _ _ _ _ => .byIssue,
    fun _ _ _ _ => .byIssue, fun _ _ _ _ => .byIssue, fun _ _ _ => .byIssue, fun _ _ _ _ => .byIssue, fun _ _ _ _ => .byIssue,
    fun _ _ _ _ => .byIssue, fun _ _ _ _ => .byIssue⟩

/-- Settles O16: each op issues with its effect. -/
theorem shiftsMultipliesDivisionsComplete : Obligations.ShiftsMultipliesDivisionsComplete := by
  unfold Obligations.ShiftsMultipliesDivisionsComplete
  exact ⟨fun _ _ _ _ => .byIssue, fun _ _ _ _ => .byIssue, fun _ _ _ _ => .byIssue, fun _ _ _ _ => .byIssue, fun _ _ _ _ => .byIssue,
    fun _ _ _ => .byIssue, fun _ _ _ => .byIssue, fun _ _ _ => .byIssue, fun _ _ _ => .byIssue, fun _ _ _ _ => .byIssue,
    fun _ _ _ _ => .byIssue, fun _ _ _ _ => .byIssue, fun _ _ _ _ => .byIssue, fun _ _ _ _ => .byIssue, fun _ _ _ _ => .byIssue,
    fun _ _ _ _ => .byIssue, fun _ _ _ _ => .byIssue, fun _ _ _ _ => .byIssue, fun _ _ _ _ => .byIssue, fun _ _ _ _ => .byIssue,
    fun _ _ _ _ => .byIssue, fun _ _ _ _ => .byIssue, fun _ _ _ _ => .byIssue, fun _ _ _ _ => .byIssue, fun _ _ => .byIssue,
    fun _ _ => .byIssue, fun _ _ => .byIssue, fun _ _ => .byIssue, fun _ _ _ _ _ => .byIssue⟩

/-- Settles O18: each op issues with its effect. -/
theorem localLoadsStoresComplete : Obligations.LocalLoadsStoresComplete := by
  unfold Obligations.LocalLoadsStoresComplete
  exact ⟨fun _ _ _ => .byIssue, fun _ _ _ _ => .byIssue, fun _ _ _ _ => .byIssue, fun _ _ _ _ => .byIssue, fun _ _ _ _ => .byIssue,
    fun _ _ _ _ => .byIssue, fun _ _ _ _ => .byIssue, fun _ _ _ _ => .byIssue, fun _ _ _ _ => .byIssue, fun _ _ _ _ => .byIssue,
    fun _ _ _ _ => .byIssue, fun _ _ _ _ => .byIssue, fun _ _ _ => .byIssue, fun _ _ _ => .byIssue, fun _ _ _ _ => .byIssue,
    fun _ _ _ _ => .byIssue, fun _ _ _ _ => .byIssue⟩

/-- Settles O60: the words by the row of major 0x10, the effects by O16. -/
theorem immediateShifts : Obligations.ImmediateShifts := by
  unfold Obligations.ImmediateShifts
  obtain ⟨hshl, hshr, hsar, hrotl, -, -, -, -, -, -, -, -, hshli, hshri, hsari, hrotli, -⟩ := shiftsMultipliesDivisionsComplete
  have hfields := decodeFields_immediateShift
  refine ⟨fun k d a n => ⟨?_, ?_, ?_, ?_, fun fn hfn => ?_⟩, fun k d a b => ⟨hshl k d a b, hshr k d a b, hsar k d a b, hrotl k d a b⟩,
    fun k d a n => ⟨hshli k d a n, hshri k d a n, hsari k d a n, hrotli k d a n⟩⟩
  · exact decodeWord_mkWord_ok (hfields k d a n 0#7) rfl
  · exact decodeWord_mkWord_ok (hfields k d a n 1#7) rfl
  · exact decodeWord_mkWord_ok (hfields k d a n 2#7) rfl
  · exact decodeWord_mkWord_ok (hfields k d a n 3#7) rfl
  · exact decodeWord_mkWord_unassigned (decodeFields_immediateShift_none k d a n hfn) (by decide)

end Sys2Proof.Machine
end

section
/-! O19: tile loads, gathers, scatters, atomics, flags, remote accesses and the row queue's post complete: each of them issues with its effect. -/

namespace Sys2Proof.Machine

/-- Settles O19: each op issues with its effect. -/
theorem tilesGathersAtomicsRemoteComplete : Obligations.TilesGathersAtomicsRemoteComplete := by
  unfold Obligations.TilesGathersAtomicsRemoteComplete
  exact ⟨fun _ _ => .byIssue, fun _ _ _ => .byIssue, fun _ _ => .byIssue, fun _ _ _ _ => .byIssue, fun _ _ _ _ => .byIssue,
    fun _ _ _ _ => .byIssue, fun _ _ _ _ => .byIssue, fun _ _ _ _ => .byIssue, fun _ _ _ _ => .byIssue, fun _ _ _ _ => .byIssue,
    fun _ _ _ _ => .byIssue, fun _ _ _ _ => .byIssue, fun _ _ _ _ => .byIssue, fun _ _ _ _ => .byIssue, fun _ _ _ _ => .byIssue,
    fun _ _ _ _ => .byIssue, fun _ _ _ => .byIssue, fun _ _ _ => .byIssue, fun _ _ _ => .byIssue, fun _ _ _ => .byIssue,
    fun _ _ _ => .byIssue, fun _ _ _ => .byIssue, fun _ _ => .byIssue⟩

end Sys2Proof.Machine
end

section
/-! O32: the commands of queues and graphs, each where its condition holds. A command at its start with a good record goes on (`State.atHead_start`),
and so does one whose bytes are held (`State.withRun_held`, `State.withLaunch_held`). -/

namespace Sys2Proof.Machine

section Steps
variable {s : State} {n : Nat} {j : Job}

/-- A command at its start is of its kind, has not begun, has its record and waits for no page. -/
theorem Job.atStart_iff {kind : Nat} :
    j.atStart kind = true ↔ j.kind = kind ∧ j.phase = .head ∧ j.words.isSome = true ∧ j.todo = [] := by
  simp [Job.atStart, and_assoc]

theorem doorbell_rung {slot q cx : Nat} {v : Word32} (hc : s.slotCtx slot = some cx) (hq : q < 64) (hb : s.pmBad (s.descAt cx q) 64 = false)
    (hv : subMod 32 v.toNat (s.readDesc cx q).head ≤ 2 ^ (s.readDesc cx q).log2) :
    exec (.doorbell slot q v) s = .next (s.setQueue { s.readDesc cx q with tail := v.toNat, refused := false }) := by
  show execDoorbell slot q v s = _
  simp only [execDoorbell, hc, hb, if_neg (Nat.not_le.mpr hq), if_neg (Nat.not_lt.mpr hv), Bool.false_eq_true, if_false]

theorem launch_checked (hj : s.job n = some j) (hs : j.atStart 1 = true) (hr : s.launchesRun = true) (ho : j.launchOk = true)
    (hn : s.nodeOk j = true) (hheld : s.runHeld j j.hdrVa 64 0 = true) :
    let u := s.touchRun j j.hdrVa 64 0
    let h := BitVec.ofNat 512 (u.ctxRead j.cx j.hdrVa 64)
    u.hdrStatus h = 0 → u.placeStatus j = 0 → u.launchHeld j h = true →
      exec (.launch n) s = .next ((u.touchLaunch j h).updJob j.id fun k => { k with phase := .placing, hdr := h }) := by
  intro u h hh hp hl
  obtain ⟨hkind, hphase, hwords, htodo⟩ := Job.atStart_iff.mp hs
  obtain ⟨w, hw⟩ := Option.isSome_iff_exists.mp hwords
  have hst : (if u.hdrStatus h ≠ 0 then u.hdrStatus h else u.placeStatus j) = 0 := by rw [if_neg (fun hne => hne hh), hp]
  show execLaunch n s = _
  simp only [execLaunch, hj]
  rw [if_neg (by simp [hkind, hphase, hw, htodo, hr]), if_neg (by simp [ho, hn]), State.withRun_held _ hheld, if_neg (fun hne => hne hst),
    State.withLaunch_held _ hl]

theorem launchPlacement_placed {l : List Nat} (hj : s.job n = some j) (hphase : j.phase = .placing) (htodo : j.todo = [])
    (hr : s.launchesRun = true) (hq : s.queueHeld j = false) (hlost : 255 ∉ j.clusters) (hw : s.launchWaits j = false)
    (hw' : s.resumeWaits j = false) (hst : s.placeStatus j = 0) (hbeat : (s.beatFor j).1 = true)
    (hl : s.chooseClusters j (s.clusterFree j.cx) = some l) (hheld : s.launchHeld j j.hdr = true) :
    exec (.launchPlacement n) s = .next ((s.touchLaunch j j.hdr).placeAtClusters j l) := by
  show execLaunchPlacement n s = _
  simp only [execLaunchPlacement, hj]
  rw [if_neg (by simp [hphase, htodo, hr]), if_neg (by simp [hq]), if_neg hlost, if_neg (by simp [hw, hw']), if_neg (by simp [hst])]
  simp only [hl, hbeat, if_true, State.withLaunch_held _ hheld]

theorem launchCompletion_elsewhere (hj : s.job n = some j) (hkind : j.kind = 1) (htodo : j.todo = []) (hphase : j.phase = .running)
    (hc : j.clusters ≠ []) (ho : s.holdsOwn j = false) : exec (.launchCompletion n) s =
      .next (((s.clearHalts j.clusters).updJob j.id fun _ => { j with phase := .ending, clusters := [] }).endJob
        { j with phase := .ending, clusters := [] } 0) := by
  show execLaunchCompletion n s = _
  simp only [execLaunchCompletion, hj]
  rw [if_neg (by simp [hkind, htodo]), if_pos (by simp [hphase, hc, ho])]
  simp only [ho, Bool.false_eq_true, if_false]

theorem hostNotification_put (hj : s.job n = some j) (hphase : j.phase = .running) (hkind : j.kind = 4) (hroom : s.hrFull (j.w 1) = false) :
    exec (.hostNotification n) s = .next ((s.hrPut (j.w 1) (j.w 2) j.cx j.queue).finishJob j 0) := by
  show execHostNotification n s = _
  simp only [execHostNotification, hj, hphase, hkind, and_self, if_true, hroom, Bool.false_eq_true, if_false]

theorem eventWait_starts (hj : s.job n = some j) (hs : j.atStart 5 = true) (hr : s.recordOk j = true) (hheld : s.runHeld j (j.w 1) 8 0 = true) :
    exec (.eventWait n) s = .next ((((s.touchRun j (j.w 1) 8 0).startJob j).setPhase j .running).waitCheck j) := by
  show execEventWait n s = _
  simp only [execEventWait, hj, State.atHead_start _ hs hr, State.withRun_held _ hheld]

theorem eventWaitRecheck_reads (hj : s.job n = some j) (hphase : j.phase = .running) (hkind : j.kind = 5) (htodo : j.todo = [])
    (hheld : s.runHeld j (j.w 1) 8 0 = true) :
    exec (.eventWaitRecheck n) s = .next ((s.touchRun j (j.w 1) 8 0).waitCheck j) := by
  show execEventWaitRecheck n s = _
  simp only [execEventWaitRecheck, hj, hphase, hkind, htodo, and_self, if_true, State.withRun_held _ hheld]

theorem conditional_chooses (hj : s.job n = some j) (hs : j.atStart 6 = true) (hr : s.recordOk j = true)
    (hheld : s.runHeld j (j.w 1) 8 0 = true) :
    let u := s.touchRun j (j.w 1) 8 0
    exec (.conditional n) s = .next (((u.startJob j).updJob j.id fun k =>
      { k with chose := condHolds (k.w 3) (u.ctxRead k.cx (k.w 1) 8) (k.w 2) }).finishJob j 0) := by
  show execConditional n s = _
  simp only [execConditional, hj, State.atHead_start _ hs hr, State.withRun_held _ hheld]

theorem runGraph_starts (hj : s.job n = some j) (hs : j.atStart 7 = true) (hr : s.recordOk j = true)
    (hheld : s.runHeld j (j.w 1) (j.w 2) 0 = true) :
    let u := s.touchRun j (j.w 1) (j.w 2) 0
    exec (.runGraph n) s = .next (((u.startJob j).updJob j.id fun k => { k with
      phase := .running
      graph := some ⟨j.w 1, j.w 2 / 64, (List.range (j.w 2 / 64)).map fun i => u.ctxRead j.cx (j.w 1 + 64 * i + 0x30) 1,
        List.replicate (j.w 2 / 64) 0, [], none, false⟩ }).settleGraph j.id) := by
  show execRunGraph n s = _
  simp only [execRunGraph, hj, State.atHead_start _ hs hr, State.withRun_held _ hheld]

theorem graphNodeStart_startable {g : Nat} {r : GraphRun} (hj : s.job g = some j) (hr : j.graph = some r) (hs : s.startable j.cx r n = true) :
    exec (.graphNodeStart g n) s = .next ((s.updJob g fun k => { k with graph := some { r with started := n :: r.started } }).updDev fun d =>
      { d with
        nextJob := d.nextJob + 1
        jobs := d.jobs ++ [{ j with id := s.dev.nextJob, words := none, node := some (g, n), phase := .head, graph := none }] }) := by
  show execGraphNodeStart g n s = _
  simp only [execGraphNodeStart, hj, hr, hs, if_true]

theorem graphNodeCompletion_done {g m : Nat} (hj : s.job n = some j) (hn : j.node = some (g, m)) (hp : j.phase = .over 0) :
    exec (.graphNodeCompletion n) s =
      .next (((s.dropJob n).updJob g fun x => { x with graph := x.graph.map fun r => r.complete j }).settleGraph g) := by
  show execGraphNodeCompletion n s = _
  simp only [execGraphNodeCompletion, hj, hn, hp, if_true]

theorem graphNodeCompletion_failed {g m st : Nat} (hj : s.job n = some j) (hn : j.node = some (g, m)) (hp : j.phase = .over st) (hst : st ≠ 0) :
    exec (.graphNodeCompletion n) s = .next (((s.dropJob n).updJob g fun x =>
      { x with graph := x.graph.map fun r => { r with failed := r.failed <|> some st } }).settleGraph g) := by
  show execGraphNodeCompletion n s = _
  simp only [execGraphNodeCompletion, hj, hn, hp, if_neg hst]

theorem hostRingTimeExpiry_due {h : Nat} (hw : 0 < (assocGet s.dev.rings h (0, 0)).1) (ht : s.hrTime h ≤ (assocGet s.dev.rings h (0, 0)).2) :
    exec (.hostRingTimeExpiry h) s = .next (s.hrSignal h) := by
  show execHostRingTimeExpiry h s = _
  simp only [execHostRingTimeExpiry, hw, ht, and_self, if_true]

theorem hrptrWrite_within {h : Nat} {head : Word32} (hh : h < 1024)
    (hd : subMod 32 head.toNat (s.hrHead h) ≤ subMod 32 (s.hrTail h) (s.hrHead h)) :
    exec (.hrptrWrite h head) s = .next (s.setDevReg (hrBase h + 0x10) (setBits (s.devReg (hrBase h + 0x10)) 0 32 head.toNat)) := by
  show execHrptrWrite h head s = _
  simp only [execHrptrWrite, hh, hd, and_self, if_true]

theorem featlockWrite_one {v : Word32} (h : v.getLsbD 0 = true) :
    exec (.featlockWrite v) s = .next ((s.setDevReg 0x48 1).updDev fun d => { d with featRo := true }) := by
  show execFeatlockWrite v s = _
  simp only [execFeatlockWrite, h, b2n, if_true, Bool.or_true]

theorem featlockWrite_zero {v : Word32} (h : v.getLsbD 0 = false) : exec (.featlockWrite v) s = .next (s.setDevReg 0x48 0) := by
  show execFeatlockWrite v s = _
  simp only [execFeatlockWrite, h, b2n, Bool.false_eq_true, if_false, Bool.or_false]
  rfl

end Steps

/-- Settles O32: each clause is the lemma of its step. -/
theorem commandStepsComplete : Obligations.CommandStepsComplete := by
  unfold Obligations.CommandStepsComplete
  exact ⟨fun _ _ _ _ _ => doorbell_rung, fun _ _ _ => launch_checked, fun _ _ _ _ => launchPlacement_placed,
    fun _ _ _ => launchCompletion_elsewhere, fun _ _ _ => hostNotification_put, fun _ _ _ => eventWait_starts,
    fun _ _ _ => eventWaitRecheck_reads, fun _ _ _ => conditional_chooses, fun _ _ _ => runGraph_starts,
    fun _ _ _ _ _ => graphNodeStart_startable, fun _ _ _ _ _ => graphNodeCompletion_done, fun _ _ _ _ _ _ => graphNodeCompletion_failed,
    fun _ _ => hostRingTimeExpiry_due, fun _ _ _ => hrptrWrite_within, fun _ _ => featlockWrite_one, fun _ _ => featlockWrite_zero⟩

end Sys2Proof.Machine
end

section
/-! O33: the steps at the home slice, of monitors, mailboxes, rings and tasks, each where its condition holds. -/

namespace Sys2Proof.Machine

/-! ### Task entries of one tick (R132) -/

/-- Two elements by a key: the second goes first only if its key is lower. -/
theorem byKey_pair {α : Type} (f : α → Nat) (x y : α) : byKey f [x, y] = if f y < f x then [y, x] else [x, y] := by
  by_cases h : f y < f x
  · simp [byKey, h, Nat.not_le.mpr h]
  · simp [byKey, h, Nat.not_lt.mp h]

theorem State.addTask_room {s : State} (e : Task) (h : s.core.tasks.length < 64) :
    s.addTask e = (s.updCore fun c => { c with tasks := c.tasks ++ [e] }, true) := if_pos h

theorem State.addTask_full {s : State} (e : Task) (h : 64 ≤ s.core.tasks.length) : s.addTask e = (s, false) := if_neg (Nat.not_lt.mpr h)

/-- Two entries join a queue that has room for both. -/
theorem State.addTasks_pair {s : State} (a b : Nat × Task) (h : s.core.tasks.length < 63) :
    [a, b].foldl (fun s x => (s.addTask x.2).1) s = s.updCore fun c => { c with tasks := c.tasks ++ [a.2, b.2] } := by
  rw [List.foldl_cons, List.foldl_cons, List.foldl_nil, State.addTask_room a.2 (by omega), State.addTask_room b.2 (by simp; omega)]
  simp [State.updCore]

theorem State.tasksFrom_pair {s : State} {x y : Nat × Task} (hin : s.core.taskIn = [x, y]) (h : s.core.tasks.length < 63) :
    (s.tasksFrom fun _ => true).core.tasks = s.core.tasks ++ (if y.1 < x.1 then [y.2, x.2] else [x.2, y.2]) ∧
      (s.tasksFrom fun _ => true).core.taskIn = [] := by
  have hall : [x, y].filter (fun _ => true) = [x, y] := rfl
  rw [State.tasksFrom, hin, hall, byKey_pair]
  split <;> rw [State.addTasks_pair _ _ (by exact h)] <;> simp

/-! ### The steps -/

section Steps
variable {s : State} {t : Nat} {r : GReq}

theorem pawnCacheFill_load {size : Nat} {sg : Bool} {acq : Option Nat}
    (hr : (s.firstReq t fun r => r.kind.isLoad && decide (s.leastAge r ≤ r.age)) = some r) (hk : r.kind = .load size sg acq) :
    exec (.pawnCacheFill t) s = .next (s.performLoad t r size sg acq) := by
  show execPawnCacheFill t s = _
  simp only [execPawnCacheFill, hr, hk]

theorem homeAtomic_performed {fn size : Nat} {v c : Word64} (hr : (s.firstReq t fun r => r.kind.isAtomic) = some r)
    (hk : r.kind = .atomic fn size v c) : exec (.homeAtomic t) s = .next (s.performAtomic t r fn size v c) := by
  show execHomeAtomic t s = _
  simp only [execHomeAtomic, hr, hk]

/-- Any cached copy of the line takes what a reply brings of it (R188). -/
def State.refreshFor (s : State) (r : GReq) : State :=
  match r.left with
  | some (n, x, w) => s.refreshCopy r.pa n x w
  | none => s

theorem atomicReply_lands {v : Wide} {ok : Bool} (hr : ((s.pawn t).reqs.find? fun r =>
      (r.kind.isAtomic || r.kind.isSc) && r.done.isSome && decide (s.leastAge r ≤ r.age)) = some r) (hd : r.done = some (v, ok)) :
    exec (.atomicReply t) s = .next (if r.kind.isSc then ((s.refreshFor r).landReq t r v false).dropClean
      else (s.refreshFor r).landReq t r v false) := by
  show execAtomicReply t s = _
  simp only [execAtomicReply, hr, hd]
  rfl

theorem monitorRegisterAck_armed {n : Nat} (hr : ((s.pawn t).reqs.find? fun r => decide (r.kind = .monarm n)) = some r)
    (ha : ((s.pawn t).monitor n).armed = true) (hg : ((s.pawn t).monitor n).isLocal = false)
    (hl : ((s.pawn t).monitor n).line = r.pa / 64) : exec (.monitorRegisterAck t n) s =
      .next ((s.dropReq t r.id).setMonitor t n { (s.pawn t).monitor n with acked := true }) := by
  show execMonitorRegisterAck t n s = _
  simp only [execMonitorRegisterAck, hr, ha, hg, hl, Bool.not_false, Bool.and_self, decide_true, if_true]

theorem monwaitTimeout_expired {d : Dst} {marked : Bool} (h : (s.pawn t).status = .monWait d (some 0) marked) :
    exec (.monwaitTimeout t) s = .next (s.monComplete t d marked true) := by
  show execMonwaitTimeout t s = _
  simp only [execMonwaitTimeout, h]

theorem mailboxDeposit_thread {n : Nat} {w : Word64} (h : t < s.core.cfg.nthreads) :
    exec (.mailboxDeposit t n w) s = .next (s.updCore fun c => { c with mailIn := c.mailIn ++ [(n, t, w)] }) := by
  show execMailboxDeposit t n w s = _
  simp only [execMailboxDeposit, h, if_true]

theorem ackLanding_done {ok : Bool} (hr : ((s.pawn t).reqs.find? fun r => r.kind.isAcked && decide (r.done = some (0, ok))) = some r) :
    exec (.ackLanding t ok) s = .next (s.landReq t r 0 ok) := by
  show execAckLanding t ok s = _
  simp only [execAckLanding, hr]

theorem ringOperation_served (hr : (s.firstReq t fun r => r.kind.isRing) = some r) (hf : (s.ringServes r.kind).all s.wordFree = true)
    (ha : s.ringAhead (r.kind.ringDesc.getD 0) (ringPlace r.waited s.core.cfg.coreIdx t) = false) :
    exec (.ringOperation t) s = .next ((s.takeWords (s.ringServes r.kind)).performRing t r) := by
  show execRingOperation t s = _
  simp only [execRingOperation, hr, hf, ha, Bool.not_false, Bool.and_self, if_true]

theorem rowClaimReply_some {v : Word64} {rest : List (Nat × Word64)} (hr : (s.firstReq t fun r => decide (r.kind = .rqclm)) = some r)
    (hq : takeRow s.core.cfg.cx s.die.rowq = (some v, rest)) :
    exec (.rowClaimReply t) s = .next ((s.updDie fun d => { d with rowq := rest }).landReq t r (v.setWidth 4096) true) := by
  show execRowClaimReply t s = _
  simp only [execRowClaimReply, hr, hq]

theorem rowClaimReply_none {rest : List (Nat × Word64)} (hr : (s.firstReq t fun r => decide (r.kind = .rqclm)) = some r)
    (hq : takeRow s.core.cfg.cx s.die.rowq = (none, rest)) : exec (.rowClaimReply t) s = .next (s.landReq t r 0 false) := by
  show execRowClaimReply t s = _
  simp only [execRowClaimReply, hr, hq]

end Steps

/-- Settles O33: each clause is the lemma of its step. -/
theorem homeStepsComplete : Obligations.HomeStepsComplete := by
  unfold Obligations.HomeStepsComplete
  refine ⟨fun _ _ _ _ _ _ => pawnCacheFill_load, fun _ _ _ _ _ _ _ => homeAtomic_performed, fun s t r v ok hr hd hk => ?_,
    fun s t r v ok hr hd hk => ?_, fun _ => rfl, fun _ _ _ _ => monitorRegisterAck_armed, fun _ _ => ⟨rfl, rfl⟩,
    fun _ _ _ _ => monwaitTimeout_expired, fun _ _ _ _ => mailboxDeposit_thread, fun _ _ _ _ => ackLanding_done,
    fun _ _ _ => ringOperation_served, fun _ _ _ _ _ _ _ => rfl, fun _ _ _ => State.tasksFrom_pair, fun _ x => State.addTask_full x,
    fun _ _ _ _ _ => rowClaimReply_some, fun _ _ _ _ => rowClaimReply_none⟩
  · rw [atomicReply_lands hr hd, hk]
    rfl
  · rw [atomicReply_lands hr hd, hk]
    rfl

end Sys2Proof.Machine
end

section
/-! O35: the beat, the tick exchange, heartbeats, scrubs and verdicts, each where its condition holds. -/

namespace Sys2Proof.Machine

/-! ### The beat (R215, R217) -/

@[simp] theorem State.countExc_die (s : State) (d : Nat) : (s.countExc d).die = s.die := rfl

@[simp] theorem State.enterFar_die (s : State) (d : Nat) : (s.enterFar d).die = s.die := by
  unfold State.enterFar
  split <;> rfl

/-- The two dies count the same beats, with the same period now and from the next beat on. -/
def Die.sameBeat (a b : Die) : Prop := a.beat = b.beat ∧ a.beatPeriod = b.beatPeriod ∧ a.nextPeriod = b.nextPeriod

theorem State.enterExcursion_beat (s : State) (link : Option Nat) : (s.enterExcursion link).die.sameBeat s.die := by
  unfold State.enterExcursion
  cases link <;> cases s.die.excursion <;> simp [Die.sameBeat]

/-- Settling changes nothing but the excursion. -/
theorem State.settleDie_die (s : State) : ∃ b, s.settleDie.die = { s.die with excursion := b } := by
  unfold State.settleDie
  simp only [State.updDie_die]
  split
  · exact ⟨false, rfl⟩
  · exact ⟨s.die.excursion, rfl⟩

theorem beatArrival_counts (s : State) : ∃ t, exec .beatArrival s = .next t ∧ t.die.beat = s.die.beat + 1 ∧ t.die.phase = 0 ∧
    t.die.beatDue = none ∧ t.die.beatPeriod = s.die.nextPeriod.getD s.die.beatPeriod ∧ t.die.nextPeriod = none := by
  have hu (c : Bool) : (if c = true then s.enterExcursion none else s).die.sameBeat s.die := by
    cases c
    · exact ⟨rfl, rfl, rfl⟩
    · exact s.enterExcursion_beat none
  obtain ⟨hbeat, hperiod, hnext⟩ := hu _
  obtain ⟨b, hb⟩ := State.settleDie_die _
  refine ⟨_, rfl, ?_⟩
  rw [hb]
  exact ⟨congrArg (· + 1) hbeat, rfl, rfl, congr (congrArg Option.getD hnext) hperiod, rfl⟩

section Steps
variable {s : State} {l : Nat}

theorem beatRaise_due (hm : s.dev.master = s.core.cfg.die) (hp : s.die.beatPeriod ≤ s.die.sinceRaised) :
    let n := Config.freeChoice s.free % 3
    exec .beatRaise s = .next (if n = 0 then (s.bumpFree.updDie fun d => { d with sinceRaised := 0, beatDue := none }).due {} .beatArrival
      else s.bumpFree.updDie fun d => { d with sinceRaised := 0, beatDue := some (n - 1) }) := by
  intro n
  show execBeatRaise s = _
  rw [execBeatRaise, if_pos ⟨hm, hp⟩]
  by_cases h : n = 0
  · simp only [n, h, if_true]
  · simp only [n, h, if_false]

theorem beatOverdue_late (he : s.die.exempt = false) (hp : s.die.beatPeriod + s.die.slack ≤ s.die.phase) :
    exec .beatOverdue s = .next (s.enterExcursion none) := by
  show execBeatOverdue s = _
  rw [execBeatOverdue, if_pos ⟨by simp [he], hp⟩]

theorem tickExchange_sent (hl : linked s.core.cfg.die l = true) (ht : s.die.tick.toNat % 256 = 0) :
    exec (.tickExchange l) s = .next (s.updDie fun d => { d with sentTicks := assocSet d.sentTicks l d.tick.toNat }) := by
  show execTickExchange l s = _
  rw [execTickExchange, if_pos ⟨hl, ht⟩]

/-- The stamp of an exchange is kept, and judged by the one 16 exchanges before it (R215). -/
theorem tickStamp_judged {n first : Word64} (hl : linked s.core.cfg.die l = true) (hs : (assocGet s.die.stamps l [])[15]? = some first) :
    let u := s.updDie fun d => { d with stamps := assocSet d.stamps l (d.tick :: (assocGet s.die.stamps l []).take 15) }
    exec (.tickStamp l n) s =
      .next (if 4 < absDiff (s.die.tick - first).toNat 4096 then u.enterExcursion (some l) else u.goodStamp l) := by
  show execTickStamp l n s = _
  simp only [execTickStamp, hl, hs, if_true]

theorem linkRetrainTimeout_fences (s : State) (l : Nat) : exec (.linkRetrainTimeout l) s =
    .next (if l < 7 then (s.fenceDie (linkPair l).2).errRecord 4 false 3 (linkPair l).2 l 0 0xFFF 0 else s) := by
  show execLinkRetrainTimeout l s = _
  simp only [execLinkRetrainTimeout, ← Nat.not_lt, ite_not]

variable {store addr : Nat}

theorem patrolScrub_found {uncorr : Bool} (hp : s.patrols store addr = true) (he : uncorr = true ∨ s.storeBad store addr = true) :
    exec (.patrolScrub store addr uncorr) s =
      .next ((s.markBad store addr).errRecord store true 0 (s.part.homeDie addr) (s.patrolUnit store addr) 0 0xFFF addr) := by
  show execPatrolScrub store addr uncorr s = _
  rw [execPatrolScrub, if_pos (by simpa [hp] using he)]

theorem patrolScrub_clean (h : s.storeBad store addr = false) : exec (.patrolScrub store addr false) s = .next s := by
  show execPatrolScrub store addr false s = _
  rw [execPatrolScrub, if_neg (by simp [h])]

/-- What a verdict does to the unit before its record is written (R417, R418). -/
def State.applyVerdict (s : State) (store die unit v : Nat) : State :=
  if v = 1 then s.setDevReg 0x718 ((s.devReg 0x718 + 1) % 2 ^ 64) else if v = 3 then s.fenceUnit store die unit else s

theorem selfTestVerdict_given {die unit v : Nat} {t : ErrTest} (ht : s.testAt store die unit = some t) (hv : v = 1 ∨ v = 2 ∨ v = 3) :
    exec (.selfTestVerdict store die unit v) s =
      .next (((s.updDev fun d => { d with tests := d.tests.erase t }).applyVerdict store die unit (verdictOf store v)).errRecord store t.uncorr
        (verdictOf store v) die (if store = 1 then unit / 4 else unit) t.core 0xFFF t.idx) := by
  show execSelfTestVerdict store die unit v s = _
  simp only [execSelfTestVerdict, ht, if_pos hv, State.applyVerdict]

end Steps

/-- Settles O35: each clause is the lemma of its step. -/
theorem clockStepsComplete : Obligations.ClockStepsComplete := by
  unfold Obligations.ClockStepsComplete
  refine ⟨fun _ => beatRaise_due, beatArrival_counts, fun _ => beatOverdue_late, fun _ _ => tickExchange_sent,
    fun s l n first hl hs hd => ?_, fun s l n first hl hs hd => ?_, fun _ _ => rfl, fun _ _ => rfl, linkRetrainTimeout_fences,
    fun _ _ _ _ => patrolScrub_found, fun _ _ _ => patrolScrub_clean, fun s store die unit v t ht hv => ?_⟩
  · rw [tickStamp_judged hl hs, if_pos hd]
  · rw [tickStamp_judged hl hs, if_neg (Nat.not_lt.mpr hd)]
  · have hexec := selfTestVerdict_given ht hv
    refine ⟨fun h => ?_, fun h => ?_, fun h => ?_⟩
    · rw [hexec, h]; rfl
    · rw [hexec, h]; rfl
    · rw [hexec, h]; rfl

end Sys2Proof.Machine
end

section
/-! O44: the checks of a local-memory access. They are the only checks that a load or a store has after its encoding, and nothing of it waits,
so the first one that fails decides what the op does. -/

namespace Sys2Proof.Machine

/-- The op's only check stands at the stage of local memory and answers what `c` answers, where `c` fails; no cause of R63 keeps the op
waiting, and it submits no command. -/
structure OpSpec.ChecksLm (sp : OpSpec) (c : State → Option TrapRec) : Prop where
  check : ∃ f, sp.checks = [(.lm, f)] ∧ ∀ s r, c s = some r → f s = some r
  waits : ∀ s, sp.causes s = []
  engQ : sp.engQ = none

section Spec
variable (k : Bool) (who : Who) (d a : Field6) (o : BitVec 10) (size : Nat)

theorem specLd_checksLm : (specLd k d a o size).ChecksLm fun s => s.lmCheck (s.ea a o size) size size false :=
  ⟨⟨_, rfl, fun _ _ h => h⟩, fun _ => rfl, rfl⟩

theorem specVld_checksLm : (specVld k who d a o size).ChecksLm fun s => s.lmCheck (s.ea a o 8) (s.lanes * size) 8 false :=
  ⟨⟨_, rfl, fun _ _ h => h⟩, fun _ => rfl, rfl⟩

/-- The stack limit of a store comes after the checks of R145 (R108). -/
theorem specSt_checksLm : (specSt k d a o size).ChecksLm fun s => s.lmCheck (s.ea a o size) size size true :=
  ⟨⟨_, rfl, fun s _ h => congrArg (fun x => x <|> s.stackCheck a (s.ea a o size)) h⟩, fun _ => rfl, rfl⟩

theorem specVst_checksLm : (specVst k who d a o size).ChecksLm fun s => s.lmCheck (s.ea a o 8) (s.lanes * size) 8 true :=
  ⟨⟨_, rfl, fun s _ h => congrArg (fun x => x <|> s.stackCheck a (s.ea a o 8)) h⟩, fun _ => rfl, rfl⟩

end Spec

section Op
variable {s : State} {sp : OpSpec} {c : State → Option TrapRec} {r : TrapRec}

theorem OpSpec.ChecksLm.late (h : sp.ChecksLm c) (hr : c s = some r) : (lateStages.findSome? fun st => s.lateTrap sp st []) = some r := by
  obtain ⟨f, hf, hc⟩ := h.check
  have hstage : ∀ st, s.stageTrap sp st = if Stage.lm = st then some r else none := fun st => by
    simp [State.stageTrap, hf, hc s r hr]
  simp [lateStages, State.lateTrap, hstage]

theorem OpSpec.ChecksLm.freezes (h : sp.ChecksLm c) (s : State) : s.freezes sp = [] := by
  rw [State.freezes, h.waits s, ite_self]

/-- A failing check of local memory is what the op takes, and all that it does. -/
theorem exec_lmTrap {i : Instr} (hi : Issues i) (h : (specOf i).ChecksLm c) (hc : s.ctx.checked = false)
    (he : s.encodingTrap (specOf i) = none) (hr : c s = some r) : exec i s = .next (s.trap r) := by
  obtain ⟨eff, hexec⟩ := hi
  have hdiscard : s.discardFor (specOf i) r = s := by simp only [State.discardFor, h.engQ]
  rw [hexec, issue]
  simp only [hc, he, h.freezes s, h.late hr, hdiscard, Bool.false_eq_true, if_false, ne_eq, not_true]

end Op

/-! ### The forms -/

section Forms
variable (k : Bool) (d a : Field6) (o : BitVec 10)

theorem scalarLoads_checksLm : ∀ p ∈ [(Instr.ldb k d a o, 1), (.ldbu k d a o, 1), (.ldh k d a o, 2), (.ldhu k d a o, 2), (.ldw k d a o, 4),
    (.ldwu k d a o, 4), (.ld k d a o, 8)],
    Issues p.1 ∧ (specOf p.1).ChecksLm fun s => s.lmCheck (s.ea a o p.2) p.2 p.2 false := by
  simp only [List.forall_mem_cons]
  exact ⟨⟨shape_ldb k d a o, specLd_checksLm k d a o 1⟩, ⟨shape_ldbu k d a o, specLd_checksLm k d a o 1⟩,
    ⟨shape_ldh k d a o, specLd_checksLm k d a o 2⟩, ⟨shape_ldhu k d a o, specLd_checksLm k d a o 2⟩,
    ⟨shape_ldw k d a o, specLd_checksLm k d a o 4⟩, ⟨shape_ldwu k d a o, specLd_checksLm k d a o 4⟩,
    ⟨shape_ld k d a o, specLd_checksLm k d a o 8⟩, List.forall_mem_nil _⟩

theorem scalarStores_checksLm : ∀ p ∈ [(Instr.stb k d a o, 1), (.sth k d a o, 2), (.stw k d a o, 4), (.st k d a o, 8)],
    Issues p.1 ∧ (specOf p.1).ChecksLm fun s => s.lmCheck (s.ea a o p.2) p.2 p.2 true := by
  simp only [List.forall_mem_cons]
  exact ⟨⟨shape_stb k d a o, specSt_checksLm k d a o 1⟩, ⟨shape_sth k d a o, specSt_checksLm k d a o 2⟩,
    ⟨shape_stw k d a o, specSt_checksLm k d a o 4⟩, ⟨shape_st k d a o, specSt_checksLm k d a o 8⟩, List.forall_mem_nil _⟩

theorem vectorAccesses_checksLm : ∀ p ∈ [(Instr.vld d a o, 4, false), (.vst d a o, 4, true), (.vldh k d a o, 2, false),
    (.vsth k d a o, 2, true), (.vldb k d a o, 1, false)],
    Issues p.1 ∧ (specOf p.1).ChecksLm fun s => s.lmCheck (s.ea a o 8) (s.lanes * p.2.1) 8 p.2.2 := by
  simp only [List.forall_mem_cons]
  exact ⟨⟨shape_vld d a o, specVld_checksLm false .prim d a o 4⟩, ⟨shape_vst d a o, specVst_checksLm false .prim d a o 4⟩,
    ⟨shape_vldh k d a o, specVld_checksLm k .both d a o 2⟩, ⟨shape_vsth k d a o, specVst_checksLm k .both d a o 2⟩,
    ⟨shape_vldb k d a o, specVld_checksLm k .both d a o 1⟩, List.forall_mem_nil _⟩

end Forms

/-! ### The order and the record (R144, R145, R394) -/

/-- The checks in order, each condition a Boolean of its own. -/
theorem State.lmCheck_eq (s : State) (ea : Word64) (len align : Nat) (write : Bool) : s.lmCheck ea len align write =
    if decide (0x200000 < ea.toNat + len) || decide (ea.toNat % align ≠ 0) then some (s.lmTrap 1 ea)
    else if s.userMode && decide (0x1F0000 < ea.toNat + len) then some (s.lmTrap 6 ea)
    else if write && decide (ea.toNat < 0x80) then some (s.lmTrap 2 ea)
    else if s.lmLocked (s.core.lmBase + ea.toNat) len write then some (s.lmTrap 4 ea)
    else none := by
  simp only [State.lmCheck, gt_iff_lt, Bool.or_eq_true, decide_eq_true_eq]

theorem State.unit_le (s : State) : s.unit ≤ 6 := by
  unfold State.unit
  split
  · exact Nat.le_refl 6
  · split <;> decide

theorem State.lmTrap_code (s : State) {sub : Nat} (ea : Word64) (h : sub < 8) : (s.lmTrap sub ea).code.toNat = 0x80 + 8 * sub + s.unit := by
  have hunit := s.unit_le
  exact Nat.mod_eq_of_lt (by omega)

/-- Settles O44: the check of an access is the only one of its op, and its conditions are tested in the order of R145. -/
theorem localAccessTraps : Obligations.LocalAccessTraps := by
  unfold Obligations.LocalAccessTraps
  refine ⟨fun s k d a o r hc => ⟨fun p hp => ?_, fun p hp => ?_, fun p hp => ?_⟩, fun s ea len align write => ?_,
    fun s sub ea h => ⟨s.lmTrap_code ea h, rfl, rfl⟩⟩
  · obtain ⟨hi, h⟩ := scalarLoads_checksLm k d a o p hp
    exact exec_lmTrap hi h hc
  · obtain ⟨hi, h⟩ := scalarStores_checksLm k d a o p hp
    exact exec_lmTrap hi h hc
  · obtain ⟨hi, h⟩ := vectorAccesses_checksLm k d a o p hp
    exact exec_lmTrap hi h hc
  · intro at1 at6 at2
    have order : s.lmCheck ea len align write = if at1 then some (s.lmTrap 1 ea) else if at6 then some (s.lmTrap 6 ea)
        else if at2 then some (s.lmTrap 2 ea) else if s.lmLocked (s.core.lmBase + ea.toNat) len write then some (s.lmTrap 4 ea)
        else none := s.lmCheck_eq ea len align write
    refine ⟨fun h1 => ?_, fun h1 h6 => ?_, fun h1 h6 h2 => ?_, fun h1 h6 h2 h4 => ?_, fun h1 h6 h2 h4 => ?_⟩
    · rw [order, h1]; rfl
    · rw [order, h1, h6]; rfl
    · rw [order, h1, h6, h2]; rfl
    · rw [order, h1, h6, h2, h4]; rfl
    · rw [order, h1, h6, h2, h4]; rfl

end Sys2Proof.Machine
end

section
/-! O30: entries of traps, breakpoints, watchpoints and fetches, each where its condition holds. -/

namespace Sys2Proof.Machine

section Steps
variable {s : State} {t n addr : Nat}

theorem trapEntry_pending {r : TrapRec} (h : s.primEvent (decide (r.code.toNat / 8 = 0x13)) = some r) :
    exec (.trapEntry r.code) s = .next ((s.clearEvent (decide (r.code.toNat / 8 = 0x13))).enterTrap r) := by
  show execTrapEntry r.code s = _
  simp only [execTrapEntry, h, if_true]

theorem pawnTrapEntry_quiet {r : TrapRec} {resume : Word64} (ht : t < 16) (hs : (s.pawn t).status = .trapping r resume)
    (hq : s.pawnQuiet t = true) : exec (.pawnTrapEntry t) s = .next ((s.updPawn t fun p =>
      { p with th := p.th.enter r resume none, pc := p.th.tvec.setWidth 64, buf := [], status := .running }).traceTrap (some t)
        ((s.pawn t).th.enter r resume none)) := by
  show execPawnTrapEntry t s = _
  simp only [execPawnTrapEntry, hs, hq, if_true, State.updPawn_pawn_same s t _ ht]

theorem breakpointHit_traps (h : s.dbgRoute = true) : exec (.breakpointHit n) s = .next (s.enterTrap ⟨0x1E7, s.prim.pc, 0, 15⟩) := by
  show execBreakpointHit n s = _
  rw [execBreakpointHit, if_pos h]

theorem breakpointHit_halts (h : s.dbgRoute = false) : exec (.breakpointHit n) s = .next (s.debugHalt 1 n false 0 s.prim.pc.toNat) := by
  show execBreakpointHit n s = _
  rw [execBreakpointHit, h, if_neg Bool.false_ne_true]

/-- Where debug events halt, a watchpoint halts, and a pawn that has hit it parks. -/
theorem watchpointHit_halts {pawn : Bool} (h : s.dbgRoute = false) : exec (.watchpointHit n pawn t addr) s =
    .next (if pawn then (s.debugHalt 2 n true t addr).updPawn t fun p => { p with status := .halted } else s.debugHalt 2 n false 0 addr) := by
  show execWatchpointHit n pawn t addr s = _
  rw [execWatchpointHit, h, if_neg Bool.false_ne_true]

theorem watchpointHit_trapsPawn (h : s.dbgRoute = true) :
    exec (.watchpointHit n true t addr) s = .next (s.pawnTrap t ⟨0x1E6, (s.pawn t).pc, 0, 15⟩ (s.pawn t).pc) := by
  show execWatchpointHit n true t addr s = _
  rw [execWatchpointHit, if_pos h, if_pos rfl]

theorem State.setCtx_agent {a : Agent} (h : s.ctx.agent = a) : s.setCtx { s.ctx with agent := a } = s := by
  rw [← h]
  rfl

theorem watchpointHit_trapsPrimary (h : s.dbgRoute = true) (hp : s.ctx.agent = .primary) :
    exec (.watchpointHit n false t addr) s = .next (s.primTrap (s.trapAt (0x1E0 + s.unit) s.prim.pc 0)) := by
  show execWatchpointHit n false t addr s = _
  rw [execWatchpointHit, if_pos h, if_neg Bool.false_ne_true, State.setCtx_agent hp]

theorem State.watchStop_traps (h : s.dbgRoute = true) : s.watchStop n addr = s.trap (s.trapAt (0x1E0 + s.unit) s.ctx.pc 0) := if_pos h

/-- A fetch in barrel cycle 0, or one whose banks are free, fills the buffer with the op words from the program counter on (R147). -/
theorem pawnFetch_buf (hw : (s.pawn t).wantsFetch = true) (hh : s.barrelHalted = false)
    (hb : s.core.barrelCycle = 0 ∨ (bankWords (s.fetchKeys t) 4).all s.wordFree = true) (ht : t < 16) :
    ∃ u, exec (.pawnFetch t) s = .next u ∧ (u.pawn t).buf =
      (List.range (fetchCount (decide ((s.pawn t).th.mode = 0)) (s.pawn t).pc.toNat)).map fun i =>
        BitVec.ofNat 32 (memRead (s.chunkLm t) (s.core.lmBase + (s.pawn t).pc.toNat + 4 * i) 4) := by
  have serves : (decide (s.core.barrelCycle = 0) || (bankWords (s.fetchKeys t) 4).all s.wordFree) = true := by
    rw [Bool.or_eq_true, decide_eq_true_eq]
    exact hb
  refine ⟨_, rfl, ?_⟩
  simp only [hw, hh, serves, Bool.not_true, Bool.or_self, Bool.false_eq_true, if_false, State.updPawn_pawn_same _ t _ ht]
  exact List.map_map

end Steps

/-- Settles O30: each clause is the lemma of its step. -/
theorem trapEventsComplete : Obligations.TrapEventsComplete := by
  unfold Obligations.TrapEventsComplete
  exact ⟨fun _ _ => trapEntry_pending, fun _ _ _ _ => pawnTrapEntry_quiet, fun _ _ => breakpointHit_traps, fun _ _ => breakpointHit_halts,
    fun _ _ _ _ => watchpointHit_halts, fun _ _ _ _ => watchpointHit_trapsPawn, fun _ _ _ _ => watchpointHit_trapsPrimary,
    fun _ _ _ => State.watchStop_traps, fun _ _ _ _ => watchpointHit_halts, fun _ _ => pawnFetch_buf⟩

end Sys2Proof.Machine
end

section
/-! O31: the copy channels, the collective engine, completions, and the engine commands of queues, each where its condition holds. -/

namespace Sys2Proof.Machine

/-! ### A copy channel: a command starts, then moves its words -/

section Copies
variable {s : State} {i : Instr} {op ch : Nat} {c : EngCmd}

theorem copyStep_starts (hi : exec i s = .next (s.copyStep op ch)) (hch : ch < 2) (hc : s.headCmd ch = some c)
    (hop : cmdOp c.words = op) (hm : s.mayStart ch c = true) : exec i s = .next (s.startCmd ch c) := by
  have hrun : ¬ (cmdOp c.words ≠ op ∨ 2 ≤ ch) := by omega
  simp only [hi, State.copyStep, hc, if_neg hrun, hm, if_true]

theorem copyStep_moves (hi : exec i s = .next (s.copyStep op ch)) (hch : ch < 2) (hc : s.headCmd ch = some c)
    (hop : cmdOp c.words = op) (hm : s.mayStart ch c = false) (hr : c.running = true) : exec i s = .next (s.moveWord ch c) := by
  have hrun : ¬ (cmdOp c.words ≠ op ∨ 2 ≤ ch) := by omega
  simp only [hi, State.copyStep, hc, if_neg hrun, hm, hr, Bool.false_eq_true, if_true, if_false]

end Copies

/-! ### The collective engine: a command is accepted, sends its chunks, and writes its result -/

section Collectives
variable {s u : State} {i : Instr} {op : Nat} {c d : EngCmd}

theorem State.colRun_sends (h : s.sendChunk c = some (u, d)) : s.colRun c = (u, d, none) := by
  simp only [State.colRun, h]

theorem State.colRun_ends (h : s.sendChunk c = none) (hk : s.colCheck c = none) : s.colRun c =
    let n := colDst c.words c.idx.length * colSize c.words
    let x := s.stageRun c (wd c.words 3) n
    if x.2 then (x.1.runCollective c, { c with bytes := n, status := some 0 }, none) else (x.1, c, none) := by
  simp only [State.colRun, h, hk]

theorem colStep_accepts (hi : exec i s = .next (s.colStep op)) (hk : s.colKept = none) (hc : s.headCmd 2 = some c)
    (hop : cmdOp c.words = op) (hm : s.mayStart 2 c = true) (hj : s.colJob = none) (hx : s.anyStruck (cmdLocs c.id) = false)
    (hs : c.status = none) (hg : c.idx ≠ []) (hf : s.seqFresh c.idx (wd c.words 5) = true) :
    exec i s = .next (let x := (s.acceptSeq c.idx (wd c.words 5)).beginCol s.core.cfg.die c; x.1.setHead 2 x.2) := by
  have starts : (s.mayStart 2 c && s.colJob.isNone) = true := by rw [hm, hj]; rfl
  have fresh : c.status.isSome = false := by rw [hs]; rfl
  simp only [hi, State.colStep, hk, hc, hop, ne_eq, not_true, starts, hx, fresh, hg, hf, Bool.false_eq_true, if_true, if_false]

/-- A command that is accepted goes on by `colRun`, which meets no bad word. -/
theorem colStep_runs (hi : exec i s = .next (s.colStep op)) (hk : s.colKept = none) (hc : s.headCmd 2 = some c)
    (hop : cmdOp c.words = op) (hm : s.mayStart 2 c = false) (hst : c.started = true) (hs : c.status = none)
    (hr : (s.colRun c).2.2 = none) : exec i s = .next ((s.colRun c).1.setHead 2 (s.colRun c).2.1) := by
  simp only [hi, State.colStep, hk, hc, hop, ne_eq, not_true, hm, hst, hs, hr, Bool.false_and, Bool.false_eq_true, and_self,
    if_true, if_false]

theorem colStep_sends (hi : exec i s = .next (s.colStep op)) (hk : s.colKept = none) (hc : s.headCmd 2 = some c)
    (hop : cmdOp c.words = op) (hm : s.mayStart 2 c = false) (hst : c.started = true) (hs : c.status = none)
    (hn : s.sendChunk c = some (u, d)) : exec i s = .next (u.setHead 2 d) := by
  have run := State.colRun_sends hn
  rw [colStep_runs hi hk hc hop hm hst hs (by rw [run]), run]

theorem colStep_ends (hi : exec i s = .next (s.colStep op)) (hk : s.colKept = none) (hc : s.headCmd 2 = some c)
    (hop : cmdOp c.words = op) (hm : s.mayStart 2 c = false) (hst : c.started = true) (hs : c.status = none)
    (hn : s.sendChunk c = none) (hb : s.colCheck c = none) :
    let n := colDst c.words c.idx.length * colSize c.words
    let x := s.stageRun c (wd c.words 3) n
    exec i s = .next (if x.2 then (x.1.runCollective c).setHead 2 { c with bytes := n, status := some 0 } else x.1.setHead 2 c) := by
  intro n x
  have run : s.colRun c = if x.2 then (x.1.runCollective c, { c with bytes := n, status := some 0 }, none) else (x.1, c, none) :=
    State.colRun_ends hn hb
  cases hx : x.2
  · rw [hx] at run
    rw [colStep_runs hi hk hc hop hm hst hs (by rw [run]; rfl), run]
    rfl
  · rw [hx] at run
    rw [colStep_runs hi hk hc hop hm hst hs (by rw [run]; rfl), run]
    rfl

theorem collectiveIncompleteReply_runs (m : BitVec 512) (hk : s.colKept = none) (hc : s.headCmd 2 = some c) (hj : s.colJob = none) :
    exec (.collectiveIncompleteReply m) s = .next (if c.streaming then (s.endStreams c).setHead 2 c.incomplete else s) := by
  show execCollectiveIncompleteReply m s = _
  simp only [execCollectiveIncompleteReply, hk, hc, hj]

end Collectives

/-! ### Completion (R181) -/

section Completion
variable {s : State} {ch : Nat} {c : EngCmd}

/-- A command without a failure leaves no record on e3. -/
theorem engineCommandCompletion_succeeds (hd : s.doneCmd ch = some c) (hs : c.status = some 0) :
    ∃ u v w, exec (.engineCommandCompletion ch) s = .next u ∧
      w = (s.agentStrike (c.pages.map fun p => .pin (pinKey s.core.cfg.die (p.2.2 / 65536)))).updCore
        (fun k => { k with locks := k.locks.filter fun l => l.cmd ≠ c.id }) ∧
      v = ((((w.unpinAll w.core.cfg.die c).finalWptr ch c).updEngine ch fun q =>
        { q with cmds := q.cmds.filter fun x => x.id ≠ c.id }).traceEngine 6 c.byPawn (cmdTag c.words) (cmdOp c.words) ch 0) ∧
      u = if cmdRec c.words then v.updEngine ch fun q => q.complete c.byPawn.isSome (recordOf c 0 0 c.bytes false) ch else v := by
  have noFailure : (c.status.getD 0).toNat = 0 := by rw [hs]; rfl
  refine ⟨_, _, _, ?_, rfl, rfl, rfl⟩
  show execEngineCommandCompletion ch s = _
  simp only [execEngineCommandCompletion, hd, State.completeCmd, noFailure, if_true]

theorem completionRecordPush_room {pawn : Bool} {v : Word64} (h : (s.engineQ ch).pushable ch = some (pawn, v)) :
    exec (.completionRecordPush ch) s = .next (s.updEngine ch fun q =>
      ({ q with blocked := q.blocked.erase (pawn, v) } : EngQueue).setRecs pawn (q.recs pawn ++ [v])) := by
  show execCompletionRecordPush ch s = _
  simp only [execCompletionRecordPush, h]

end Completion

/-! ### Engine commands of a queue (R185) -/

section Queues
variable {s u : State} {n : Nat} {j : Job} {c d : EngCmd}

theorem queueCopy_moves (hj : s.job n = some j) (ht : j.todo = []) (hk : j.kind = 2) (hp : j.phase = .running) (hc : j.cmd = some c) :
    exec (.queueCopy n) s = .next (s.jobWord j c) := by
  show execQueueCopy n s = _
  simp only [execQueueCopy, hj, ht, hk, hp, hc, ne_eq, not_true, or_self, if_false]

theorem queueCollective_ends (hj : s.job n = some j) (ht : j.todo = []) (hk : j.kind = 3) (hp : j.phase = .running) (hc : j.cmd = some c)
    (hs : c.status = none) (hn : s.sendChunk c = none) (hb : s.colCheck c = none) :
    let x := s.stageRun c (wd c.words 3) (colDst c.words c.idx.length * colSize c.words)
    exec (.queueCollective n) s = .next (if x.2 then
      ((x.1.runCollective c).unpinJob j).updJob j.id fun j => { j with phase := .ending, cmd := none } else x.1) := by
  show execQueueCollective n s = _
  simp only [execQueueCollective, hj, ht, hk, hp, hc, hs, hn, hb, ne_eq, not_true, or_self, if_false]

theorem queueCollective_sends (hj : s.job n = some j) (ht : j.todo = []) (hk : j.kind = 3) (hp : j.phase = .running) (hc : j.cmd = some c)
    (hs : c.status = none) (hn : s.sendChunk c = some (u, d)) :
    exec (.queueCollective n) s = .next (u.updJob j.id fun j => { j with cmd := some d }) := by
  show execQueueCollective n s = _
  simp only [execQueueCollective, hj, ht, hk, hp, hc, hs, hn, ne_eq, not_true, or_self, if_false]

end Queues

/-- Settles O31: the copies by the step of a channel, the collectives by the step of their engine, the others by the lemma of their step. -/
theorem engineStepsComplete : Obligations.EngineStepsComplete := by
  unfold Obligations.EngineStepsComplete
  exact ⟨fun _ _ _ => copyStep_starts rfl, fun _ _ _ => copyStep_moves rfl, fun _ _ _ => copyStep_starts rfl,
    fun _ _ _ => copyStep_moves rfl, fun _ _ _ => copyStep_starts rfl, fun _ _ _ => copyStep_moves rfl,
    fun _ _ _ => copyStep_starts rfl, fun _ _ _ => copyStep_moves rfl, fun _ _ _ => copyStep_starts rfl,
    fun _ _ _ => copyStep_moves rfl, fun _ _ _ => copyStep_starts rfl, fun _ _ _ => copyStep_moves rfl,
    fun _ _ _ => copyStep_starts rfl, fun _ _ _ => copyStep_moves rfl,
    fun _ _ => colStep_accepts rfl, fun _ _ _ _ => colStep_sends rfl, fun _ _ => colStep_ends rfl,
    fun _ _ => colStep_accepts rfl, fun _ _ _ _ => colStep_sends rfl, fun _ _ => colStep_ends rfl,
    fun _ _ => colStep_accepts rfl, fun _ _ _ _ => colStep_sends rfl, fun _ _ => colStep_ends rfl,
    fun _ _ => colStep_accepts rfl, fun _ _ _ _ => colStep_sends rfl, fun _ _ => colStep_ends rfl,
    fun _ _ _ => engineCommandCompletion_succeeds, fun _ _ _ _ => completionRecordPush_room,
    fun _ m _ hk hc hj hs => (collectiveIncompleteReply_runs m hk hc hj).trans (by rw [hs]; rfl),
    fun _ m _ hk hc hj hs => (collectiveIncompleteReply_runs m hk hc hj).trans (by rw [hs]; rfl),
    fun _ _ _ _ => queueCopy_moves, fun _ _ _ _ => queueCollective_ends, fun _ _ _ _ _ _ => queueCollective_sends⟩

end Sys2Proof.Machine
end

section
/-! O34: walks, the driver's answers to fault records, and invalidations, each where its condition holds. -/

namespace Sys2Proof.Machine

/-- What waits for a walk waits on: its record is answered, and the walk starts anew (R360). -/
def State.walkAgain (s : State) : Waiter → State
  | .pawn t k _ => s.updPawn t fun p => { p with status := .xlateWait { k with fault := none, waited := 0 } }
  | .engine ch c => s.updCmd ch c.id fun c => { c with fault := none, waited := 0 }
  | .job j => s.updJob j.id fun j => { j with fault := none, waited := 0 }
  | .saved n t k _ => s.updSaved n fun x => x.setPark t { k with fault := none, waited := 0 }

/-- What waits for a walk takes the fault of its record (R360). -/
def State.deliver (s : State) (id : Word32) : Waiter → State
  | .pawn t k kind => s.parkTrap t (kindCause kind) k.va id
  | .engine ch c => s.updCmd ch c.id fun c => { c with fault := none, failed := false, todo := [], status := some 2 }
  | .job j => s.failJob j 2
  | .saved n t k kind => s.updSaved n fun x =>
    x.setPawn t ((x.pawn t).trapSaved ⟨BitVec.ofNat 9 (kindCause kind), k.va, id.setWidth 64, 15⟩)

section Steps
variable {s : State} {cx w : Nat} {id : Word32} {k : Park} {c : EngCmd} {j : Job}

/-! ### Walks (R358): walkers 0 to 15 serve the pawns, 16 to 31 the channels, the others the jobs -/

theorem translationWalk_pawn (hw : w < 16) (hs : (s.pawn w).status = .xlateWait k) (hb : k.blocked = false) (hf : k.fault = none) :
    exec (.translationWalk w) s = .next (s.pawnWalk w k) := by
  have ready : ¬ ((k.blocked || k.fault.isSome) = true) := by rw [hb, hf]; exact Bool.false_ne_true
  show execTranslationWalk w s = _
  simp only [execTranslationWalk, if_pos hw, hs, if_neg ready]

theorem translationWalk_engine (hl : 16 ≤ w) (hw : w < 32) (hc : s.walkCmd (w - 16) = some c) :
    exec (.translationWalk w) s = .next (s.engineWalk (w - 16) c) := by
  show execTranslationWalk w s = _
  simp only [execTranslationWalk, if_neg (Nat.not_lt.mpr hl), if_pos hw, hc]

theorem translationWalk_job (hl : 32 ≤ w) (hj : s.job (w - 32) = some j) (hw : s.jobWants j = true) :
    exec (.translationWalk w) s = .next (s.jobWalk j) := by
  have noPawn : ¬ w < 16 := by omega
  show execTranslationWalk w s = _
  simp only [execTranslationWalk, if_neg noPawn, if_neg (Nat.not_lt.mpr hl), hj, hw, if_true]

/-! ### Answers to a fault record (R360) -/

theorem fqrespWalkAgain_answers {x : Waiter} (h : s.waiter cx id = some x) : exec (.fqrespWalkAgain cx id) s = .next (s.walkAgain x) := by
  show execFqrespWalkAgain cx id s = _
  rw [execFqrespWalkAgain, h]
  cases x <;> rfl

theorem fqrespDeliver_answers {x : Waiter} (h : s.waiter cx id = some x) : exec (.fqrespDeliver cx id) s = .next (s.deliver id x) := by
  show execFqrespDeliver cx id s = _
  rw [execFqrespDeliver, h]
  cases x <;> rfl

/-! ### Invalidation (R361) -/

theorem State.startInv_idle (va : Word64) (v : Nat) (h : s.invBusy = false) :
    s.startInv va v = (s.setDevReg 0x320 (bits va.toNat 16 40 * 65536)).setDevReg 0x328 (v % 2 ^ 16 + 2 ^ 31) :=
  if_neg (ne_true_of_eq_false h)

theorem tlbinvCompletion_drained (hb : s.invBusy = true) (hd : s.invDrained = true) : exec .tlbinvCompletion s =
    .next (((s.invalidate (s.devReg 0x320) (s.devReg 0x328)).wakeBlocked (s.devReg 0x320) (s.devReg 0x328)).setDevReg 0x328
      (setBits (s.devReg 0x328) 31 1 0)) := by
  show execTlbinvCompletion s = _
  simp only [execTlbinvCompletion, hb, hd, Bool.and_self, if_true]

end Steps

/-- Settles O34: each clause is the lemma of its step, and both invalidations start by `startInv_idle`. -/
theorem translationStepsComplete : Obligations.TranslationStepsComplete := by
  unfold Obligations.TranslationStepsComplete
  exact ⟨fun _ _ _ => translationWalk_pawn, fun _ _ _ => translationWalk_engine, fun _ _ _ => translationWalk_job,
    fun _ _ _ _ _ _ => fqrespWalkAgain_answers, fun _ _ _ _ _ => fqrespWalkAgain_answers, fun _ _ _ _ => fqrespWalkAgain_answers,
    fun _ _ _ _ _ _ _ => fqrespWalkAgain_answers, fun _ _ _ _ _ _ => fqrespDeliver_answers,
    fun _ _ _ _ _ => fqrespDeliver_answers, fun _ _ _ _ => fqrespDeliver_answers,
    fun _ va _ h => congrArg Host.Outcome.next (State.startInv_idle va _ h),
    fun _ va _ h => congrArg Host.Outcome.next (State.startInv_idle va _ h), fun _ => tlbinvCompletion_drained⟩

end Sys2Proof.Machine
end

section
/-! O26, O27, O28: the pawns' accesses of global memory and the message ops complete. Those that translate an address issue through `issueG`, which
reaches the effect where the TLBs serve the page (`completesAt_of`); the others issue with their effect (`Completes.byIssue`). -/

namespace Sys2Proof.Machine

/-- An instruction that `exec` issues through a translation completes with its effect. -/
theorem CompletesAt.byIssue {i : Instr} {va : State → Word64} {acc : Nat} {post : State → TlbEntry → Option TrapRec} {eff : State → State}
    (h : ∀ s, exec i s = issueG (specOf i) va acc post s eff := by exact fun _ => rfl) : CompletesAt i va acc post eff :=
  completesAt_of h

/-- Settles O26: each load and store issues through its translation with its effect. -/
theorem pawnLoadsStoresComplete : Obligations.PawnLoadsStoresComplete := by
  unfold Obligations.PawnLoadsStoresComplete
  exact ⟨fun _ _ _ _ => .byIssue, fun _ _ _ _ => .byIssue, fun _ _ _ _ => .byIssue, fun _ _ _ _ => .byIssue, fun _ _ _ _ => .byIssue,
    fun _ _ _ _ => .byIssue, fun _ _ _ _ => .byIssue, fun _ _ _ _ => .byIssue, fun _ _ _ _ => .byIssue, fun _ _ _ _ => .byIssue,
    fun _ _ _ _ => .byIssue⟩

/-- Settles O27: each op issues through its translation with its effect. -/
theorem pawnAtomicsComplete : Obligations.PawnAtomicsComplete := by
  unfold Obligations.PawnAtomicsComplete
  exact ⟨fun _ _ _ _ _ => .byIssue, fun _ _ _ _ _ => .byIssue, fun _ _ _ _ _ => .byIssue, fun _ _ _ _ _ => .byIssue,
    fun _ _ _ _ _ => .byIssue, fun _ _ _ _ _ => .byIssue, fun _ _ _ _ _ => .byIssue, fun _ _ _ _ _ => .byIssue,
    fun _ _ _ _ _ => .byIssue, fun _ _ _ _ _ => .byIssue, fun _ _ _ _ => .byIssue, fun _ _ _ _ _ => .byIssue, fun _ _ _ _ _ => .byIssue,
    fun _ _ _ _ => .byIssue, fun _ _ _ _ => .byIssue, fun _ _ _ _ => .byIssue, fun _ _ _ => .byIssue, fun _ _ _ => .byIssue⟩

/-- Settles O28: monarm issues through its translation, every other op as it stands, each with its effect. -/
theorem messagesComplete : Obligations.MessagesComplete := by
  unfold Obligations.MessagesComplete
  exact ⟨fun _ _ _ => .byIssue, fun _ _ _ => .byIssue, fun _ _ _ => .byIssue, fun _ _ => .byIssue, fun _ _ _ _ => .byIssue,
    fun _ _ => .byIssue, fun _ _ _ _ => .byIssue, fun _ _ _ _ => .byIssue, fun _ _ _ _ => .byIssue, fun _ => .byIssue, fun _ _ _ => .byIssue⟩

end Sys2Proof.Machine
end

section
/-! O45: the checks of a global access. As with local memory (O44) they are the only checks that a load or a store has after its encoding; they
come before the translation, so the first one that fails is all that the op does. -/

namespace Sys2Proof.Machine

/-- The checks that a global load or store makes: those of R186, and before them a store's stack limit (R108). -/
def State.globalCheck (s : State) (a : Field6) (o : BitVec 10) (size : Nat) (store : Bool) : Option TrapRec :=
  (if store = true then s.stackCheck a (s.ea a o size) else none) <|> s.gCheck (s.ea a o size) (s.readS a) size store

theorem State.globalCheck_unstacked {s : State} {a : Field6} {o : BitVec 10} {size : Nat} {store : Bool}
    (h : store = true → s.stackCheck a (s.ea a o size) = none) :
    s.globalCheck a o size store = s.gCheck (s.ea a o size) (s.readS a) size store := by
  rw [State.globalCheck, (ite_eq_right_iff.mpr h : (if store = true then _ else none) = none)]
  rfl

/-- The check of R186 for a pawn: address form, alignment, range lock, with their codes (R187, R394). -/
theorem State.gCheck_pawn {s : State} {t : Nat} (h : s.ctx.agent = .pawn t) (ea xa : Word64) (size : Nat) (write : Bool) :
    s.gCheck ea xa size write =
      if bits ea.toNat 56 8 ≠ 0 then some ⟨0x0CE, ea, 0, 15⟩
      else if ea.toNat % size ≠ 0 then some ⟨0x0C6, ea, 0, 15⟩
      else if s.globalLocked ea.toNat size write then some ⟨0x196, s.ctx.pc, xa, 15⟩
      else none := by
  have hp : s.isPawn = true := by simp only [State.isPawn, h]
  simp [State.gCheck, State.trapAt, State.unit, hp]

/-! ### The forms -/

section Forms
variable (k : Bool) (d a : Field6) (o : BitVec 10) (size : Nat)

theorem specGld_checksLm : (specGld k d a o size).ChecksLm fun s => s.globalCheck a o size false :=
  ⟨⟨_, rfl, fun _ _ h => h⟩, fun _ => rfl, rfl⟩

theorem specGst_checksLm : (specGst k d a o size).ChecksLm fun s => s.globalCheck a o size true :=
  ⟨⟨_, rfl, fun _ _ h => h⟩, fun _ => rfl, rfl⟩

theorem globalAccesses_checksLm : ∀ p ∈ [(Instr.gldb k d a o, 1, false), (.gldbu k d a o, 1, false), (.gldh k d a o, 2, false),
    (.gldhu k d a o, 2, false), (.gldw k d a o, 4, false), (.gldwu k d a o, 4, false), (.gld k d a o, 8, false), (.gstb k d a o, 1, true),
    (.gsth k d a o, 2, true), (.gstw k d a o, 4, true), (.gst k d a o, 8, true)],
    IssuesAt p.1 ∧ (specOf p.1).ChecksLm fun s => s.globalCheck a o p.2.1 p.2.2 := by
  simp only [List.forall_mem_cons]
  exact ⟨⟨shape_gldb k d a o, specGld_checksLm k d a o 1⟩, ⟨shape_gldbu k d a o, specGld_checksLm k d a o 1⟩,
    ⟨shape_gldh k d a o, specGld_checksLm k d a o 2⟩, ⟨shape_gldhu k d a o, specGld_checksLm k d a o 2⟩,
    ⟨shape_gldw k d a o, specGld_checksLm k d a o 4⟩, ⟨shape_gldwu k d a o, specGld_checksLm k d a o 4⟩,
    ⟨shape_gld k d a o, specGld_checksLm k d a o 8⟩, ⟨shape_gstb k d a o, specGst_checksLm k d a o 1⟩,
    ⟨shape_gsth k d a o, specGst_checksLm k d a o 2⟩, ⟨shape_gstw k d a o, specGst_checksLm k d a o 4⟩,
    ⟨shape_gst k d a o, specGst_checksLm k d a o 8⟩, List.forall_mem_nil _⟩

end Forms

/-- A failing check of an op that translates its address is what the op takes, and all that it does. -/
theorem exec_lmTrap_translating {i : Instr} {s : State} {c : State → Option TrapRec} {r : TrapRec} (hi : IssuesAt i)
    (h : (specOf i).ChecksLm c) (hc : s.ctx.checked = false) (he : s.encodingTrap (specOf i) = none) (hr : c s = some r) :
    exec i s = .next (s.trap r) := by
  obtain ⟨va, acc, post, eff, hexec⟩ := hi
  rw [hexec, issueG, he, h.late hr, hc]
  rfl

/-- Settles O45: the check of a global access is the only one of its op, and R186 gives the order of its conditions. -/
theorem globalAddressTraps : Obligations.GlobalAddressTraps := by
  unfold Obligations.GlobalAddressTraps
  intro s t k d a o hp hc p hm he hs
  obtain ⟨hi, h⟩ := globalAccesses_checksLm k d a o p hm
  have hcheck := (State.globalCheck_unstacked hs).trans (State.gCheck_pawn hp _ _ _ _)
  refine ⟨fun hform => ?_, fun hform halign => ?_, fun hform halign hlock => ?_⟩
  · exact exec_lmTrap_translating hi h hc he (hcheck.trans (if_pos hform))
  · exact exec_lmTrap_translating hi h hc he (hcheck.trans (by rw [if_neg (fun h => h hform), if_pos halign]))
  · exact exec_lmTrap_translating hi h hc he
      (hcheck.trans (by rw [if_neg (fun h => h hform), if_neg (fun h => h halign), if_pos hlock]))

end Sys2Proof.Machine
end

section
/-! O54: the frame of a global atomic. Beside the bytes of device memory the write at home reaches the watchers of its line and the marks of
struck words alone (`State.homeWrite_eq`); below the threshold of every page the count that follows reaches counts alone
(`countFill_counted`); then the request takes its reply. -/

namespace Sys2Proof.Machine

/-! ### The write at home -/

theorem State.wakeWaits_eq (s : State) (line : Nat) : ∃ jobs, s.wakeWaits line = { s with dev := { s.dev with jobs := jobs } } := by
  unfold State.wakeWaits
  dsimp only
  split
  · exact ⟨_, rfl⟩
  · exact ⟨s.dev.jobs, rfl⟩

theorem State.markStale_eq (s : State) (pa n : Nat) : ∃ pawns, s.markStale pa n = { s with pawns := pawns } := by
  unfold State.markStale
  split
  · exact ⟨_, rfl⟩
  · exact ⟨s.pawns, rfl⟩

/-- A notice reaches the event waits, and the monitors at once or on their way (R124, R199). -/
theorem State.notice_eq (s : State) (pa : Nat) : ∃ jobs pawns work, s.notice pa =
    { s with pawns := pawns, work := work, dev := { s.dev with jobs := jobs } } := by
  obtain ⟨jobs, hwake⟩ := s.wakeWaits_eq (pa / 64)
  unfold State.notice
  rw [hwake]
  dsimp only
  split
  · split
    · exact ⟨_, _, _, rfl⟩
    · exact ⟨_, _, _, rfl⟩
  · exact ⟨_, _, _, rfl⟩

/-- A write at home changes the bytes of device memory, what watches the line, and marks of struck words. -/
theorem State.homeWrite_eq (s : State) (pa n v : Nat) : ∃ jobs pawns work struck, s.homeWrite pa n v =
    { s with pm := memWrite s.pm pa n v, pawns := pawns, work := work, dev := { s.dev with jobs := jobs },
             core := { s.core with struck := struck } } := by
  obtain ⟨stale, hstale⟩ := (s.setPm (memWrite s.pm pa n v)).markStale_eq pa n
  unfold State.homeWrite
  rw [hstale]
  obtain ⟨jobs, pawns, work, hnotice⟩ :=
    (State.heal { s.setPm (memWrite s.pm pa n v) with pawns := stale } (ErrLoc.inL2 pa n (2 ^ n - 1))).notice_eq pa
  exact ⟨jobs, pawns, work, _, hnotice⟩

theorem State.Aside.homeWrite {s u : State} {pa n v : Nat} (h : Aside s u) : Aside s (u.homeWrite pa n v) := by
  have hstale : Aside s ((u.setPm (memWrite u.pm pa n v)).markStale pa n) := h.setPm.markStale
  exact .notice (hstale.same rfl rfl)

/-- The new value of the operand, none where nothing is written (R193). -/
def State.atomicNew (s : State) (r : GReq) (fn size : Nat) (v c : Word64) : Option Nat :=
  gaNew fn (8 * size) (memRead s.pm r.pa size) (v.toNat % 2 ^ (8 * size)) (c.toNat % 2 ^ (8 * size))

/-- What an atomic writes at its home: a new value, or nothing. -/
def State.atomicWrite (s : State) (pa n : Nat) : Option Nat → State
  | some x => s.homeWrite pa n x
  | none => s

theorem State.atomicWrite_eq (s : State) (pa n : Nat) (x : Option Nat) : ∃ jobs pawns work struck, s.atomicWrite pa n x =
    { s with pm := x.elim s.pm (memWrite s.pm pa n), pawns := pawns, work := work, dev := { s.dev with jobs := jobs },
             core := { s.core with struck := struck } } := by
  cases x with
  | none => exact ⟨s.dev.jobs, s.pawns, s.work, s.core.struck, rfl⟩
  | some v => exact s.homeWrite_eq pa n v

theorem State.atomicWrite_pm (s : State) (pa n : Nat) (x : Option Nat) :
    (s.atomicWrite pa n x).pm = x.elim s.pm (memWrite s.pm pa n) := by
  obtain ⟨jobs, pawns, work, struck, h⟩ := s.atomicWrite_eq pa n x
  rw [h]

theorem State.atomicWrite_aside (s : State) (pa n : Nat) (x : Option Nat) : s.Aside (s.atomicWrite pa n x) := by
  cases x with
  | none => exact .refl s
  | some v => exact (State.Aside.refl s).homeWrite

/-! ### The atomic as a whole -/

/-- A line that is not dirty is not written back (R188). -/
theorem State.writeBackLine_clean {s : State} {line : Nat} (h : ∀ l, s.cacheLine line = some l → l.dirty = 0) :
    s.writeBackLine line = s := by
  unfold State.writeBackLine
  split
  · rfl
  · next l hl => exact if_pos (h l hl)

/-- A pawn that has but noted a write holds its requests and its registers. -/
theorem Pawn.sameButWatch_keeps {p q : Pawn} (h : p.sameButWatch q) : p.reqs = q.reqs ∧
    p.x = q.x ∧ p.y = q.y ∧ p.b = q.b ∧ p.m = q.m ∧ p.th = q.th ∧ p.mbox = q.mbox := by
  have hq : ({ p with mon := q.mon, chunk := q.chunk } : Pawn) = q := h
  rw [← hq]
  exact ⟨rfl, rfl, rfl, rfl, rfl, rfl, rfl⟩

/-- The reply takes its place in the thread's requests, and nothing else of a pawn changes. -/
theorem State.markDone_pawn (s : State) (t id : Nat) (v : Wide) (ok miss : Bool) (n : Nat) :
    ∃ reqs, (s.markDone t id v ok miss).pawn n = { s.pawn n with reqs := reqs } := by
  unfold State.markDone
  rw [State.updPawn_pawn]
  split
  · next h => rw [← h.1]; exact ⟨_, rfl⟩
  · exact ⟨(s.pawn n).reqs, rfl⟩

section Atomic
variable {s : State} {t fn size : Nat} {r : GReq} {v c : Word64}

/-- An atomic on a readable operand of a clean line: the write, the count of the request, the reply (R188, R193, R368). -/
theorem State.performAtomic_clean (hb : s.pmBad r.pa size = false) (hd : ∀ l, s.cacheLine (r.pa / 64) = some l → l.dirty = 0) :
    s.performAtomic t r fn size v c =
      ((s.atomicWrite r.pa size (s.atomicNew r fn size v c)).countFill r.pa (some s.core.cfg.cx) false r.alloc).markDone t r.id
        (gaReply fn size (memRead s.pm r.pa size)) false (s.fillMiss r.pa false r.alloc) := by
  obtain ⟨jobs, pawns, work, struck, hw⟩ := s.atomicWrite_eq r.pa size (s.atomicNew r fn size v c)
  have hcx : (s.atomicWrite r.pa size (s.atomicNew r fn size v c)).core.cfg.cx = s.core.cfg.cx := by rw [hw]
  have hmiss : (s.atomicWrite r.pa size (s.atomicNew r fn size v c)).fillMiss r.pa false r.alloc = s.fillMiss r.pa false r.alloc := by
    rw [hw]; rfl
  unfold State.performAtomic
  rw [State.writeBackLine_clean hd]
  dsimp only
  rw [if_neg (ne_true_of_eq_false hb), ← hcx, ← hmiss]
  unfold State.atomicNew State.homeRead State.atomicWrite
  cases gaNew fn (8 * size) (memRead s.pm r.pa size) (v.toNat % 2 ^ (8 * size)) (c.toNat % 2 ^ (8 * size)) with
  | none => rfl
  | some x => rfl

/-- No count of a page comes to its threshold with one request more, so the request changes counts alone (R362). -/
theorem State.atomicWrite_counts (x : Option Nat) (pa cx : Nat) (alloc : Bool) (hmin : 2 ≤ bits (s.devReg 0x300) 0 16)
    (hcount : ∀ e ∈ s.dev.pact, e.count + 1 < bits (s.devReg 0x300) 0 16) :
    ∃ a p l f, (s.atomicWrite pa size x).countFill pa (some cx) false alloc = (s.atomicWrite pa size x).counted a p l f := by
  obtain ⟨jobs, pawns, work, struck, hw⟩ := s.atomicWrite_eq pa size x
  have hpact : (s.atomicWrite pa size x).dev.pact = s.dev.pact := by rw [hw]
  have hthr : (s.atomicWrite pa size x).devReg 0x300 = s.devReg 0x300 := by rw [hw]; rfl
  have hbelow : countsTo (bits (s.devReg 0x300) 0 16 - 2) s.dev.pact := fun e he => by
    have := hcount e he
    omega
  obtain ⟨a, p, l, f, hcounted, -⟩ := countFill_counted (s.atomicWrite pa size x) pa cx _ false alloc (hpact ▸ hbelow) (by rw [hthr]; omega)
  exact ⟨a, p, l, f, hcounted⟩

end Atomic

/-- Settles O54: the write is `State.atomicWrite`, the count that follows changes counts alone, and the reply the requests of its thread alone. -/
theorem atomicFrame : Obligations.AtomicFrame := by
  unfold Obligations.AtomicFrame
  intro s t fn size r v c ht hr hk hwf hb hd hmin hcount
  obtain ⟨a, p, l, f, hcounted⟩ := State.atomicWrite_counts (size := size) (s.atomicNew r fn size v c) r.pa s.core.cfg.cx r.alloc hmin hcount
  obtain ⟨hsteady, hpawn, hpawns⟩ := s.atomicWrite_aside r.pa size (s.atomicNew r fn size v c)
  have hpm := s.atomicWrite_pm r.pa size (s.atomicNew r fn size v c)
  refine ⟨_, homeAtomic_performed hr hk, ?_⟩
  rw [State.performAtomic_clean hb hd, hcounted]
  generalize s.atomicWrite r.pa size (s.atomicNew r fn size v c) = w at hsteady hpawn hpawns hpm ⊢
  have hdone := (w.counted a p l f).markDone_pawn t r.id (gaReply fn size (memRead s.pm r.pa size)) false (s.fillMiss r.pa false r.alloc)
  simp only [State.steady, Prod.mk.injEq] at hsteady
  obtain ⟨⟨hlm, hhm, -⟩, hprim, -⟩ := hsteady
  refine ⟨fun x hx => ?_, fun y hy => ?_, fun hn => hpm.trans (by rw [State.atomicNew, hn]; rfl), ?_, hlm, hhm, hprim,
    fun hdet n => ?_, fun n => ?_⟩
  · refine (congrArg (memGet · x) hpm).trans ?_
    cases s.atomicNew r fn size v c with
    | none => rfl
    | some y => exact memGet_memWrite_outside size s.pm r.pa y x hwf hx
  · refine (congrArg (memRead · r.pa size) hpm).trans ?_
    rw [State.atomicNew, hy]
    exact memRead_memWrite size s.pm r.pa y hwf
  · refine (congrArg Pawn.reqs (State.updPawn_pawn_same _ t _ ht)).trans ?_
    exact congrArg (List.map _) (Pawn.sameButWatch_keeps (hpawn t)).1
  · obtain ⟨reqs, hreqs⟩ := hdone n
    have hsame : w.pawn n = s.pawn n := congrArg (vget · n Pawn.initial) (hpawns hdet)
    rw [hreqs]
    exact hsame ▸ Pawn.sameRegs_refl (w.pawn n)
  · obtain ⟨reqs, hreqs⟩ := hdone n
    rw [hreqs]
    exact (Pawn.sameButWatch_keeps (hpawn n)).2

end Sys2Proof.Machine
end

section
/-! O47: the checks of a port field. They are the only checks that a move has after its encoding, and nothing of it waits, so the first port
field that fails decides what the op does (R227). -/

namespace Sys2Proof.Machine

/-- The record of a failing check of the scalar port that a field names (R39, R394). -/
def State.portRecord (s : State) (base : Nat) (f : Field6) : TrapRec :=
  ⟨BitVec.ofNat 9 (base + s.unit), s.ctx.pc, BitVec.ofNat 64 (f.toNat - 60), s.ctx.slot⟩

/-- A destination on the route needs the phase (R227 order 3). -/
def routeSendsFar (r : Word64) : Bool := decide (routePath r = 1) || decide (routePath r = 2)

theorem routePath_ne_of_sendsFar {r : Word64} (h : routeSendsFar r = true) : routePath r ≠ 3 := by
  intro h3
  simp [routeSendsFar, h3] at h

/-! ### One field -/

section Field
variable {s : State} {f : Field6}

theorem State.trapAt_port (hp : s.ctx.agent = .primary) (base : Nat) :
    s.trapAt (base + s.unit) s.ctx.pc (BitVec.ofNat 64 (f.toNat - 60 + 4 * b2n false)) = s.portRecord base f := by
  simp [State.trapAt, State.isPawn, hp, State.portRecord, b2n]

theorem State.portOf_scalar (hp : s.ctx.agent = .primary) (u : RegUse) (hu : u.file = .s) :
    s.portOf u = if 60 ≤ u.num.toNat then some (false, u.num.toNat - 60) else none := by
  simp only [State.portOf, hp, hu]

/-- A register that is no port has no check of R227. -/
theorem State.portTrap_register (hp : s.ctx.agent = .primary) (lat : Nat) (hf : f.toNat < 60) :
    s.portTrap [] (dstU .s f lat) = none := by
  rw [State.portTrap, State.portOf_scalar hp _ rfl, dstU, if_neg (Nat.not_le.mpr hf)]

/-- The checks of a destination in the order of R227. -/
theorem State.portTrap_destination (hp : s.ctx.agent = .primary) (lat : Nat) (hf : 60 ≤ f.toNat) :
    s.portTrap [] (dstU .s f lat) =
      if routePath (s.routeOf false (f.toNat - 60)) = 3 then some (s.portRecord 0x170 f)
      else if routeSendsFar (s.routeOf false (f.toNat - 60)) = true ∧
          routeSpan (s.routeOf false (f.toNat - 60)) ≠ 0 ∧
            routeSpan (s.routeOf false (f.toNat - 60)) < routeHops (s.routeOf false (f.toNat - 60)) then
        some (s.portRecord 0x160 f)
      else if routeSendsFar (s.routeOf false (f.toNat - 60)) = true ∧ s.prim.phv = false then
        some (s.portRecord (if s.prim.phvwhy = 3 then 0x178 else 0x148) f)
      else if s.sendPending false (f.toNat - 60) lat = true then some (s.portRecord 0x168 f)
      else none := by
  rw [State.portTrap, State.portOf_scalar hp _ rfl, dstU, if_pos hf]
  simp [State.trapAt_port hp, routeSendsFar, and_assoc]

/-- The checks of a source in the order of R227. -/
theorem State.portTrap_source (hp : s.ctx.agent = .primary) (hf : 60 ≤ f.toNat) :
    s.portTrap [] (srcU .s f) =
      if routeFar (s.routeOf false (f.toNat - 60)) = true ∧ s.prim.phv = false then
        some (s.portRecord (if s.prim.phvwhy = 3 then 0x178 else 0x148) f)
      else if s.fresh false (f.toNat - 60) = false then some (s.portRecord 0x150 f)
      else none := by
  rw [State.portTrap, State.portOf_scalar hp _ rfl, srcU, if_pos hf]
  simp [State.trapAt_port hp]

end Field

/-! ### The op -/

/-- The op has no check after its encoding but those of its port fields; no cause of R63 keeps it waiting, and it submits no command. -/
structure OpSpec.ChecksPorts (sp : OpSpec) : Prop where
  checks : sp.checks = []
  waits : ∀ s, sp.causes s = []
  engQ : sp.engQ = none

theorem specSS_checksPorts (k : Bool) (d a : Field6) (lat : Nat) : (specSS k d a lat).ChecksPorts := ⟨rfl, fun _ => rfl, rfl⟩

section Op
variable {s : State} {r : TrapRec}

theorem OpSpec.ChecksPorts.late {sp : OpSpec} (h : sp.ChecksPorts) (hr : s.portsTrap sp [] = some r) :
    (lateStages.findSome? fun st => s.lateTrap sp st []) = some r := by
  have hstage : ∀ st, s.stageTrap sp st = none := fun st => by rw [State.stageTrap, h.checks, List.findSome?_nil]
  simp [lateStages, State.lateTrap, hstage, hr]

/-- A failing check of a port field is what the op takes, and all that it does. -/
theorem exec_portTrap {i : Instr} (hi : Issues i) (h : (specOf i).ChecksPorts) (hc : s.ctx.checked = false)
    (he : s.encodingTrap (specOf i) = none) (hr : s.portsTrap (specOf i) [] = some r) : exec i s = .next (s.trap r) := by
  obtain ⟨eff, hexec⟩ := hi
  have hfreezes : s.freezes (specOf i) = [] := by rw [State.freezes, h.waits s, ite_self]
  have hdiscard : s.discardFor (specOf i) r = s := by simp only [State.discardFor, h.engQ]
  rw [hexec, issue]
  simp only [hc, he, hfreezes, h.late hr, hdiscard, Bool.false_eq_true, if_false, ne_eq, not_true]

variable {d a : Field6}

/-- The destination comes first (R227). -/
theorem specSS_portsTrap_destination {k : Bool} {lat : Nat} (h : s.portTrap [] (dstU .s d lat) = some r) :
    s.portsTrap (specSS k d a lat) [] = some r := by
  rw [State.portsTrap, specSS, List.findSome?_cons_of_isSome (by rw [h]; rfl), h]

/-- The source decides where the destination is no port. -/
theorem specSS_portsTrap_source {k : Bool} {lat : Nat} (hd : s.portTrap [] (dstU .s d lat) = none)
    (h : s.portTrap [] (srcU .s a) = some r) : s.portsTrap (specSS k d a lat) [] = some r := by
  rw [State.portsTrap, specSS, List.findSome?_cons_of_isNone (by rw [hd]; rfl), List.findSome?_cons_of_isSome (by rw [h]; rfl), h]

theorem exec_mov_portTrap (hc : s.ctx.checked = false) (he : s.encodingTrap (specOf (.mov false d a)) = none)
    (hr : s.portsTrap (specSS false d a 1) [] = some r) : exec (.mov false d a) s = .next (s.trap r) :=
  exec_portTrap (shape_mov false d a) (specSS_checksPorts false d a 1) hc he hr

end Op

/-- Settles O47: the destination's checks decide where it is a port, and the source's where it is none, each in the order of R227. -/
theorem portFieldTraps : Obligations.PortFieldTraps := by
  unfold Obligations.PortFieldTraps
  intro s d a hp hc he t r far
  refine ⟨fun hd => ?_, fun hd ha => ?_⟩
  · have hdst : ∀ {x}, s.portTrap [] (dstU .s d 1) = some x → exec (.mov false d a) s = .next (s.trap x) :=
      fun h => exec_mov_portTrap hc he (specSS_portsTrap_destination h)
    have horder := State.portTrap_destination hp 1 hd
    refine ⟨fun hpath => hdst ?_, fun hfar hspan hhops => hdst ?_, fun hfar hspan hphv => hdst ?_, fun hpath hfar hsend => hdst ?_⟩
    · rw [horder, if_pos hpath]; rfl
    · rw [horder, if_neg (routePath_ne_of_sendsFar hfar), if_pos ⟨hfar, hspan, hhops⟩]; rfl
    · rw [horder, if_neg (routePath_ne_of_sendsFar hfar), if_neg fun h => hspan h.2, if_pos ⟨hfar, hphv⟩]; rfl
    · have hphase : ¬(routeSendsFar r = true ∧ s.prim.phv = false) := fun h => Bool.eq_false_iff.mp h.2 (hfar h.1).2
      rw [horder, if_neg hpath, if_neg fun h => (hfar h.1).1 h.2, if_neg hphase, if_pos hsend]; rfl
  · have hsrc : ∀ {x}, s.portTrap [] (srcU .s a) = some x → exec (.mov false d a) s = .next (s.trap x) :=
      fun h => exec_mov_portTrap hc he (specSS_portsTrap_source (State.portTrap_register hp 1 hd) h)
    have horder := State.portTrap_source hp ha
    refine ⟨fun hfar hphv => hsrc ?_, fun hphase hfresh => hsrc ?_⟩
    · rw [horder, if_pos ⟨hfar, hphv⟩]; rfl
    · rw [horder, if_neg fun h => Bool.eq_false_iff.mp h.2 (hphase h.1), if_pos hfresh]; rfl

end Sys2Proof.Machine
end

section
/-! O17, O23: the scalar floating-point ops, packing, quantisation and the conversions complete: each of them issues with its effect. -/

namespace Sys2Proof.Machine

/-- Settles O17: each op issues with its effect. -/
theorem scalarFloatComplete : Obligations.ScalarFloatComplete := by
  unfold Obligations.ScalarFloatComplete
  exact ⟨fun _ _ _ _ _ => .byIssue, fun _ _ _ _ _ => .byIssue, fun _ _ _ _ _ => .byIssue, fun _ _ _ _ _ => .byIssue, fun _ _ _ _ => .byIssue,
    fun _ _ _ _ => .byIssue, fun _ _ _ _ => .byIssue, fun _ _ _ => .byIssue, fun _ _ _ => .byIssue, fun _ _ _ _ => .byIssue,
    fun _ _ _ _ => .byIssue, fun _ _ _ _ => .byIssue, fun _ _ _ _ => .byIssue, fun _ _ _ _ => .byIssue, fun _ _ _ _ => .byIssue,
    fun _ _ _ _ => .byIssue, fun _ _ _ _ => .byIssue, fun _ _ _ _ => .byIssue, fun _ _ _ _ => .byIssue, fun _ _ _ => .byIssue,
    fun _ _ _ => .byIssue⟩

/-- Settles O23: each op issues with its effect. -/
theorem vectorConversionsComplete : Obligations.VectorConversionsComplete := by
  unfold Obligations.VectorConversionsComplete
  exact ⟨fun _ _ _ _ => .byIssue, fun _ _ _ _ => .byIssue, fun _ _ _ _ _ => .byIssue, fun _ _ _ _ _ => .byIssue, fun _ _ _ _ => .byIssue,
    fun _ _ _ _ => .byIssue, fun _ _ _ _ => .byIssue, fun _ _ _ _ => .byIssue, fun _ _ _ _ => .byIssue, fun _ _ _ => .byIssue,
    fun _ _ _ => .byIssue, fun _ _ _ => .byIssue, fun _ _ _ => .byIssue, fun _ _ _ => .byIssue, fun _ _ _ => .byIssue⟩

end Sys2Proof.Machine
end

section
/-! O49: flags that land. They change the registers of their thread alone, and of those only VFLAGS and the pending flag trap; a csrw of VFLAGS in
the same cycle lands before them, since control registers come before flags. -/

namespace Sys2Proof.Machine

/-! ### The lowest enabled flag (R259) -/

theorem lowestFlag_zero : lowestFlag 0 = none := by decide

theorem lowestFlag_eq_some {g : FlagSet} {n : Nat} (hn : n < 5) (hset : g.getLsbD n = true) (hlow : ∀ m < n, g.getLsbD m = false) :
    lowestFlag g = some n := by
  simpa [lowestFlag, hn, hset] using hlow

/-! ### One thread (R257 to R259) -/

/-- The flag trap that an op's flags leave, `n` the lowest enabled one. -/
def PEntry.flagTrap (e : PEntry) (pawn : Bool) (f : FlagSet) (n : Nat) : TrapRec :=
  ⟨BitVec.ofNat 9 (0x40 + 8 * n + e.unit), e.pc, f.setWidth 64, if pawn then 15 else e.slot⟩

/-- The thread after the flags of an op: they join VFLAGS, and in user mode the lowest enabled one traps unless a flag trap is pending. -/
def Thread.raised (trapen : BitVec 16) (pawn : Bool) (e : PEntry) (f : FlagSet) (t : Thread) : Thread :=
  { t with
    vflags := t.vflags ||| f
    flagTrap := if e.sup then t.flagTrap else t.flagTrap <|> (lowestFlag (enabledFlags trapen f)).map (e.flagTrap pawn f) }

theorem State.landFlags_eq (s : State) (e : PEntry) (f : FlagSet) :
    s.landFlags e f = s.updTh (Thread.raised s.core.cfg.trapen s.isPawn e f) := by
  unfold State.landFlags
  congr 1
  funext t
  cases hlow : lowestFlag (enabledFlags s.core.cfg.trapen f) with
  | none => simp [Thread.raised, hlow]
  | some n => cases hsup : e.sup <;> cases htrap : t.flagTrap <;> simp [Thread.raised, PEntry.flagTrap, hlow, hsup, htrap]

section Raised
variable (trapen : BitVec 16) (pawn : Bool) {e : PEntry} {f : FlagSet} {t : Thread}

theorem Thread.raised_flagTrap_quiet (h : e.sup = true ∨ enabledFlags trapen f = 0) :
    (t.raised trapen pawn e f).flagTrap = t.flagTrap := by
  obtain hsup | hnone := h
  · simp [Thread.raised, hsup]
  · rw [Thread.raised, hnone, lowestFlag_zero]
    simp

theorem Thread.raised_flagTrap_pending {x : TrapRec} (h : t.flagTrap = some x) : (t.raised trapen pawn e f).flagTrap = some x := by
  simp [Thread.raised, h]

theorem Thread.raised_flagTrap_new {n : Nat} (hlow : lowestFlag (enabledFlags trapen f) = some n) (hsup : e.sup = false)
    (hnone : t.flagTrap = none) : (t.raised trapen pawn e f).flagTrap = some (e.flagTrap pawn f n) := by
  simp [Thread.raised, hlow, hsup, hnone]

end Raised

/-! ### The issuing thread in the state -/

/-- The context names the primary or one of the 16 pawns. -/
def State.inThread (s : State) : Prop := (∃ n, s.ctx.agent = .pawn n ∧ n < 16) ∨ s.ctx.agent = .primary

theorem State.th_updTh {s : State} (h : s.inThread) (f : Thread → Thread) : (s.updTh f).th = f s.th := by
  obtain ⟨n, ha, hn⟩ | ha := h
  · exact State.th_updTh_pawn ha hn f
  · exact State.th_updTh_primary ha f

/-- The step stays in its thread, and the core, the primary's data and everything outside are the same. -/
def State.sameButThread (t s : State) : Prop :=
  t.ctx = s.ctx ∧ t.core = s.core ∧ t.prim.s = s.prim.s ∧ t.prim.v = s.prim.v ∧ t.sameOutside s

theorem State.sameButThread_refl (s : State) : s.sameButThread s := ⟨rfl, rfl, rfl, rfl, s.sameOutside_refl⟩

theorem State.sameButThread_trans {a b c : State} (h : a.sameButThread b) (k : b.sameButThread c) : a.sameButThread c := by
  obtain ⟨hctx, hcore, hs, hv, hout⟩ := h
  obtain ⟨kctx, kcore, ks, kv, kout⟩ := k
  exact ⟨hctx.trans kctx, hcore.trans kcore, hs.trans ks, hv.trans kv, State.sameOutside_trans hout kout⟩

theorem State.updTh_sameButThread (s : State) (f : Thread → Thread) : (s.updTh f).sameButThread s := by
  unfold State.updTh
  split
  · exact ⟨rfl, rfl, rfl, rfl, s.sameOutside_refl⟩
  · exact ⟨rfl, rfl, rfl, rfl, s.sameOutside_refl⟩

theorem State.inThread_of_sameButThread {t s : State} (h : t.sameButThread s) (hs : s.inThread) : t.inThread := by
  obtain ⟨hctx, -⟩ := h
  unfold State.inThread
  rw [hctx]
  exact hs

theorem State.landFlags_sameButThread (s : State) (e : PEntry) (f : FlagSet) : (s.landFlags e f).sameButThread s :=
  s.landFlags_eq e f ▸ s.updTh_sameButThread _

theorem State.landFlags_th {s : State} (h : s.inThread) (e : PEntry) (f : FlagSet) :
    (s.landFlags e f).th = s.th.raised s.core.cfg.trapen s.isPawn e f := by
  rw [s.landFlags_eq, State.th_updTh h]

/-! ### A list of flags -/

/-- The flags that an entry lands. -/
def PEntry.flags (e : PEntry) : FlagSet :=
  match e.eff with
  | .flags f => f
  | _ => 0

theorem PEntry.flags_of {e : PEntry} {f : FlagSet} (h : e.eff = .flags f) : e.flags = f := by simp [PEntry.flags, h]

theorem PEntry.zDst_flags {e : PEntry} {f : FlagSet} (h : e.eff = .flags f) : e.zDst = none := by simp [PEntry.zDst, h]

theorem State.landFlag_flags (s : State) {e : PEntry} {f : FlagSet} (h : e.eff = .flags f) : s.landFlag e = s.landFlags e f := by
  simp [State.landFlag, h]

theorem foldl_same_of_mem {α β : Type} {f : α → β → α} {l : List β} (h : ∀ b ∈ l, ∀ x, f x b = x) (a : α) : l.foldl f a = a := by
  induction l with
  | nil => rfl
  | cons b l ih => rw [List.foldl_cons, h b List.mem_cons_self, ih fun c hc => h c (List.mem_cons_of_mem b hc)]

/-- Entries of flags land in the last stage alone. -/
theorem State.landAll_flags (s : State) {l : List PEntry} (h : ∀ e ∈ l, ∃ f, e.eff = .flags f) :
    s.landAll l = l.foldl State.landFlag s := by
  have hreg : ∀ e ∈ l, ∀ x : State, x.landReg e = x := fun e he x => by
    obtain ⟨f, hf⟩ := h e he
    simp [State.landReg, hf]
  have hbind : ∀ e ∈ l, ∀ x : State, x.landBind e = x := fun e he x => by
    obtain ⟨f, hf⟩ := h e he
    simp [State.landBind, hf]
  have hz : ∀ e ∈ l, e.zDst = none := fun e he => (h e he).elim fun _ => PEntry.zDst_flags
  unfold State.landAll
  dsimp only
  rw [foldl_same_of_mem hreg, foldl_same _ _ _ fun (x : State) z => x.landZs_of_none hz z, foldl_same_of_mem hbind]

theorem State.landAll_flag (s : State) {e : PEntry} {f : FlagSet} (h : e.eff = .flags f) : s.landAll [e] = s.landFlags e f := by
  rw [s.landAll_flags (by simp [h]), List.foldl_cons, List.foldl_nil, s.landFlag_flags h]

/-- Flags accumulate in VFLAGS of their thread, whose mode stays. -/
theorem State.foldl_landFlag {l : List PEntry} (h : ∀ e ∈ l, ∃ f, e.eff = .flags f) {s : State} (hs : s.inThread) :
    (∀ n, (l.foldl State.landFlag s).th.vflags.getLsbD n = (s.th.vflags.getLsbD n || l.any fun e => e.flags.getLsbD n)) ∧
      (l.foldl State.landFlag s).th.mode = s.th.mode ∧ (l.foldl State.landFlag s).sameButThread s := by
  induction l generalizing s with
  | nil => exact ⟨fun n => by simp, rfl, s.sameButThread_refl⟩
  | cons e l ih =>
    obtain ⟨f, hf⟩ := h e List.mem_cons_self
    have hframe := s.landFlags_sameButThread e f
    obtain ⟨hflags, hmode, hrest⟩ := ih (fun x hx => h x (List.mem_cons_of_mem e hx)) (State.inThread_of_sameButThread hframe hs)
    rw [List.foldl_cons, s.landFlag_flags hf]
    refine ⟨fun n => ?_, ?_, State.sameButThread_trans hrest hframe⟩
    · rw [hflags, State.landFlags_th hs, Thread.raised, BitVec.getLsbD_or, List.any_cons, PEntry.flags_of hf, Bool.or_assoc]
    · rw [hmode, State.landFlags_th hs, Thread.raised]

/-! ### A csrw of VFLAGS in the same cycle -/

theorem State.csrWrite_vflags (s : State) (v : Word64) : s.csrWrite 0x20 v = s.updTh fun t => { t with vflags := v.setWidth 6 } := by
  simp [State.csrWrite]

/-- The written value takes the place of VFLAGS first, and the flags join it. -/
theorem State.landAll_csr_flags (s : State) {e1 e2 : PEntry} {v : Word64} {f : FlagSet} (h1 : e1.eff = .csr 0x020 v) (h2 : e2.eff = .flags f) :
    ∀ l ∈ [[e1, e2], [e2, e1]], s.landAll l = (s.updTh fun t => { t with vflags := v.setWidth 6 }).landFlags e2 f := by
  have hz1 : e1.zDst = none := by simp [PEntry.zDst, h1]
  have hz2 : e2.zDst = none := PEntry.zDst_flags h2
  have hcsr : s.landReg e1 = s.updTh fun t => { t with vflags := v.setWidth 6 } := by
    simpa [State.landReg, h1] using s.csrWrite_vflags v
  have hreg : ∀ x : State, x.landReg e2 = x := fun x => by simp [State.landReg, h2]
  have hbind : ∀ x : State, (x.landBind e1 = x ∧ x.landFlag e1 = x) ∧ x.landBind e2 = x := fun x => by
    simp [State.landBind, State.landFlag, h1, h2]
  simp [State.landAll_pair, hz1, hz2, hcsr, hreg, hbind, State.landFlag_flags _ h2]

/-! ### The statement -/

/-- Settles O49: flags land in the thread after the control registers, join VFLAGS, and the lowest enabled one leaves its trap. -/
theorem flagsLand : Obligations.FlagsLand := by
  unfold Obligations.FlagsLand
  refine ⟨fun s e1 e2 v f hs h1 h2 l hl => ?_, fun s l hs hl => ?_, fun s e f hs hf => ?_⟩
  · have hset := s.updTh_sameButThread fun t => { t with vflags := v.setWidth 6 }
    rw [s.landAll_csr_flags h1 h2 l hl, State.landFlags_th (State.inThread_of_sameButThread hset hs), State.th_updTh hs, Thread.raised]
  · obtain ⟨hflags, hmode, -, hcore, hprimS, hprimV, hout⟩ := State.foldl_landFlag hl hs
    rw [s.landAll_flags hl]
    refine ⟨fun n => ?_, hmode, hcore, hprimS, hprimV, hout⟩
    rw [hflags n]
    congr 2
    funext e
    cases h : e.eff <;> simp [PEntry.flags, h]
  · rw [s.landAll_flag hf, State.landFlags_th hs]
    refine ⟨Thread.raised_flagTrap_quiet _ _, fun x => Thread.raised_flagTrap_pending _ _, fun n hn hsup hnone hset hlow => ?_⟩
    exact ⟨_, Thread.raised_flagTrap_new _ _ (lowestFlag_eq_some hn hset hlow) hsup hnone, rfl, rfl, rfl⟩

end Sys2Proof.Machine
end

section
/-! O20: loads, stores and arithmetic of scale registers, bindings and reads of GEN complete: each of them issues with its effect. -/

namespace Sys2Proof.Machine

/-- Settles O20: each op issues with its effect. -/
theorem scaleOpsComplete : Obligations.ScaleOpsComplete := by
  unfold Obligations.ScaleOpsComplete
  exact ⟨fun _ _ _ _ _ => .byIssue, fun _ _ _ _ => .byIssue, fun _ _ _ => .byIssue, fun _ => .byIssue, fun _ _ _ => .byIssue,
    fun _ _ => .byIssue, fun _ _ => .byIssue, fun _ _ => .byIssue, fun _ _ _ _ => .byIssue, fun _ _ _ _ => .byIssue,
    fun _ _ _ _ => .byIssue, fun _ _ _ _ => .byIssue, fun _ _ _ _ => .byIssue, fun _ _ _ => .byIssue, fun _ _ _ _ => .byIssue⟩

end Sys2Proof.Machine
end

section
/-! O40: a trap of the primary. Each part of the state after the entry is by `State.primTrap_enters` a part of `Primary.enterHandler`. -/

namespace Sys2Proof.Machine

/-! ### The fields of TCAUSE (R391, R393) -/

theorem b2n_le_one (b : Bool) : b2n b ≤ 1 := by cases b <;> decide

section Tcause
variable (c : Cause) (slot : Nat) (delay : Bool)

theorem tcauseOf_toNat : (tcauseOf c slot delay).toNat = c.toNat + 2 ^ 9 + b2n delay * 2 ^ 12 + slot % 16 * 2 ^ 13 := by
  have hc : c.toNat < 2 ^ 9 := c.isLt
  have hd := b2n_le_one delay
  rw [tcauseOf, BitVec.toNat_ofNat, Nat.mod_eq_of_lt (by omega)]

theorem tcauseOf_code : (tcauseOf c slot delay).extractLsb' 0 9 = c := by
  have hc : c.toNat < 2 ^ 9 := c.isLt
  apply BitVec.eq_of_toNat_eq
  rw [BitVec.extractLsb'_toNat, tcauseOf_toNat, Nat.shiftRight_zero]
  omega

theorem tcauseOf_valid : (tcauseOf c slot delay).getLsbD 9 = true := by
  have hc : c.toNat < 2 ^ 9 := c.isLt
  rw [BitVec.getLsbD, tcauseOf_toNat, Nat.testBit_eq_decide_div_mod_eq, decide_eq_true_eq]
  omega

theorem tcauseOf_pmode : (tcauseOf c slot delay).extractLsb' 10 2 = 0#2 := by
  have hc : c.toNat < 2 ^ 9 := c.isLt
  apply BitVec.eq_of_toNat_eq
  rw [BitVec.extractLsb'_toNat, tcauseOf_toNat, Nat.shiftRight_eq_div_pow, BitVec.toNat_zero]
  omega

theorem tcauseOf_delay : (tcauseOf c slot delay).getLsbD 12 = delay := by
  have hc : c.toNat < 2 ^ 9 := c.isLt
  have hbit : (tcauseOf c slot delay).toNat / 2 ^ 12 % 2 = b2n delay := by
    have hd := b2n_le_one delay
    rw [tcauseOf_toNat]
    omega
  rw [BitVec.getLsbD, Nat.testBit_eq_decide_div_mod_eq, hbit]
  cases delay <;> rfl

theorem tcauseOf_slot : (tcauseOf c slot delay).extractLsb' 13 4 = BitVec.ofNat 4 slot := by
  have hc : c.toNat < 2 ^ 9 := c.isLt
  have hd := b2n_le_one delay
  apply BitVec.eq_of_toNat_eq
  rw [BitVec.extractLsb'_toNat, tcauseOf_toNat, Nat.shiftRight_eq_div_pow, BitVec.toNat_ofNat]
  omega

end Tcause

/-! ### The record and the phase-valid flag -/

theorem Thread.enter_ttgt {t : Thread} {r : TrapRec} {pc a : Word64} {target : Option Word64} (h : target = some a) :
    (t.enter r pc target).ttgt = a.setWidth 21 := by
  subst h
  rfl

theorem Primary.dropPhv_eq (p : Primary) (why : Nat) : p.dropPhv why =
    { p with phv := false, phvwhy := if p.phv then BitVec.ofNat 3 why else p.phvwhy, exc := p.exc || (p.phv && decide (why = 3)) } := by
  cases h : p.phv with
  | true => simp [Primary.dropPhv, h]
  | false =>
    cases p
    simp_all [Primary.dropPhv]

/-- The entry as one update: the thread has its record, the user operations are held, and the handler is next. -/
theorem Primary.enterHandler_eq (p : Primary) (r : TrapRec) : p.enterHandler r =
    { p with
      phv := false, phvwhy := if p.phv then 4 else p.phvwhy
      flUser := some { p.fl with pend := p.fl.pend.filter fun e => e.count ≠ 0 }
      fl := { Flight.empty with pend := p.fl.pend.filter fun e => e.count = 0 }
      th := p.th.enter r p.pc p.target, pc := p.th.tvec.setWidth 64, target := none
      overrun := none, overrunHeld := p.overrun, winCount := 0, winBase := 1, tempoTgt := none, presented := false
      bankWait := 0, bankDone := false } := by
  rw [Primary.enterHandler, Primary.dropPhv_eq]
  simp [Primary.holdUser]

/-! ### A request where none waits (R398, R400) -/

theorem State.request_first {s : State} (code inner : Cause) (hs : s.core.saving = false) (hp : s.core.preempt = none) :
    s.request code inner = s.updCore fun c => { c with preempt := some (code, inner) } := by
  simp [State.request, State.updCore, hs, hp]

/-! ### The statement -/

theorem State.trap_primary {s : State} (r : TrapRec) (h : s.ctx.agent = .primary) : s.trap r = s.primTrap r := by simp only [State.trap, h]

/-- A trap in user mode with a handler. -/
theorem State.trap_enters {s : State} {r : TrapRec} (ha : s.ctx.agent = .primary) (h : r.isCheck = false) (hm : s.prim.th.mode = 0)
    (ht : s.prim.th.tvec ≠ 0) : s.trap r = s.updPrim fun p => (p.recordLate r).enterHandler r :=
  (State.trap_primary r ha).trans (State.primTrap_enters h hm ht)

/-- Settles O40: the entry field by field, the two ways to the runtime by their requests, TEMPOREC by `State.primTrap_tempoRec`. -/
theorem primaryTrapEntry : Obligations.PrimaryTrapEntry := by
  unfold Obligations.PrimaryTrapEntry
  refine ⟨fun s r ha hr hm ht => ?_, fun s r ha hr hs hp => ⟨fun hm => ?_, fun hm ht => ?_⟩, fun s r ha => ?_⟩
  · rw [State.trap_enters ha hr hm ht]
    simp only [Primary.recordLate_eq, Primary.enterHandler_eq]
    refine ⟨rfl, tcauseOf_code _ _ _, tcauseOf_valid _ _ _, tcauseOf_pmode _ _ _, tcauseOf_delay _ _ _, tcauseOf_slot _ _ _, rfl,
      fun a => Thread.enter_ttgt, rfl, rfl, rfl, rfl, rfl, fun hphv => if_pos hphv, rfl, rfl, rfl, rfl, rfl, rfl, rfl, rfl, rfl, rfl, rfl,
      rfl, rfl, rfl, rfl, rfl, rfl, rfl, rfl, s.sameOutside_refl⟩
  · rw [State.trap_primary r ha, State.primTrap_double hr hm, (s.updPrim _).request_first _ _ hs hp]
  · rw [State.trap_primary r ha, State.primTrap_noHandler hr hm ht, (s.updPrim _).request_first _ _ hs hp]
  · rw [State.trap_primary r ha, State.primTrap_tempoRec]

end Sys2Proof.Machine
end

section
/-! O42: the return of the primary from its handler: the effect of sret, the end of its bundle, and the step in which the user operations go on. -/

namespace Sys2Proof.Machine

/-! ### sret -/

/-- No field of sret reads a port, so that on the primary only its effect and its count remain. -/
theorem sret_primary {s : State} (ha : s.ctx.agent = .primary) (h : s.ctx.checked = true ∨ s.ready (specOf (.sret false)) = true) :
    exec (.sret false) s = .next (s.updPrim fun p => { p with
      th := { p.th with mode := p.th.pmode, tcause := p.th.tcause &&& ~~~(0x200#17), grdHeld := false }, resuming := true,
      overrun := p.overrunHeld <|> p.overrun, overrunHeld := none, opCount := p.opCount + 1 }) := by
  have hcomplete : Completes (.sret false) State.supReturn := .byIssue
  have hadvance : s.advance = s.updPrim fun p => { p with opCount := p.opCount + 1 } := by simp only [State.advance, ha]
  have hreturn : (s.updPrim fun p => { p with opCount := p.opCount + 1 }).supReturn =
      (s.updPrim fun p => { p with opCount := p.opCount + 1 }).primReturn := by
    simp only [State.supReturn, State.updPrim_ctx, ha]
  rw [hcomplete s h, State.perform, ha]
  dsimp only
  rw [hadvance, hreturn]
  rfl

/-- The return clears VALID. -/
theorem and_notValid_valid (c : BitVec 17) : (c &&& ~~~(0x200#17)).getLsbD 9 = false := by
  rw [BitVec.getLsbD_and, show (~~~(0x200#17)).getLsbD 9 = false from by decide, Bool.and_false]

/-- And keeps CODE. -/
theorem and_notValid_code (c : BitVec 17) : (c &&& ~~~(0x200#17)).extractLsb' 0 9 = c.extractLsb' 0 9 := by
  rw [BitVec.extractLsb'_and, show (~~~(0x200#17)).extractLsb' 0 9 = BitVec.allOnes 9 from by decide, BitVec.and_allOnes]

/-! ### The end of its bundle -/

theorem State.endBundle_sret {s : State} (pc : Word64) (hr : s.prim.resuming = true) (hp : s.core.pushing = none) (ht : s.tracing 7 = false) :
    s.endBundle false pc = s.cycleDone.updPrim fun q => q.afterSret pc := by
  have hsub : s.submitPush = s := by rw [State.submitPush, hp]
  have htrace : (s.cycleDone.updPrim fun q => q.afterSret pc).tracing 7 = false := ht
  have hres : (s.cycleDone.prim.resuming && !false) = true := by rw [Bool.not_false, Bool.and_true]; exact hr
  rw [State.endBundle, hsub]
  simp only [hres, if_true, State.traceReturn, htrace, Bool.false_eq_true, if_false]

/-! ### The step in which the user operations go on -/

/-- The pipelines one cycle on, with nothing left in the queue. -/
def State.drainQueue (s : State) : State :=
  s.updPrim fun p => { p with
    fl := {
      pend := []
      held := vmap (fun n => n - 1) p.fl.held
      uses := (p.fl.uses.map fun u => (u.1 - 1, u.2)).filter fun u => u.1 ≠ 0 } }

/-- The user operations go on as they were held, at the resume bundle. -/
def Primary.goOn (p : Primary) (f : Flight) : Primary := Primary.resumeAt { p with resuming := false, flUser := none, fl := f }

/-- Where nothing lands, at most the marks of bad words change. -/
theorem State.landStruck_nil (s : State) (a : Agent) :
    ∃ g, (if s.core.struck.isEmpty then s else s.landStruck a []) = s.updCore g := by
  split
  · exact ⟨id, rfl⟩
  · exact ⟨fun c => { c with struck := c.struck.filter fun _ => true }, rfl⟩

/-- Nothing is pending: the user operations go on. -/
theorem State.landPrimary_idle {s : State} {f : Flight} (hr : s.prim.resuming = true) (he : s.prim.empties = 0)
    (hu : s.prim.flUser = some f) (hp : s.prim.fl.pend = []) :
    ∃ g, s.landPrimary = (s.drainQueue.updCore g).updPrim fun p => p.goOn f := by
  have htick : s.tickPend = [] := by rw [State.tickPend, hp]; rfl
  have hland : ∀ t : State, t.landAll [] = t := fun t => t.landAll_flags (by simp)
  obtain ⟨g, hg⟩ := s.drainQueue.landStruck_nil .primary
  refine ⟨g, ?_⟩
  rw [State.drainQueue] at hg
  simp only [State.landPrimary, htick, State.sound, sortEntries, List.filter_nil, List.foldl_nil, hg, hland, bankStep, List.map_nil, ite_self]
  simp [State.updPrim, State.updCore, State.drainQueue, hr, he, hu, Primary.goOn]

theorem State.setReg_s_eq {s : State} {r : Nat} {v : Wide} (ha : s.ctx.agent = .primary) :
    s.setReg (.s r) v = s.updPrim fun p => { p with s := vset p.s r (v.setWidth 64) } := by simp only [State.setReg, ha]

/-- One last supervisor write of a scalar register lands: the user operations go on. -/
theorem State.landPrimary_last {s : State} {f : Flight} {e : PEntry} {r : Nat} {v : Wide} (ha : s.ctx.agent = .primary)
    (hr : s.prim.resuming = true) (he : s.prim.empties = 0) (hu : s.prim.flUser = some f) (hp : s.prim.fl.pend = [e]) (hc : e.count = 1)
    (hreg : e.eff = .reg (.s r) v) (hs : s.core.struck = []) (hb : s.badLm = []) :
    s.landPrimary = (s.drainQueue.setReg (.s r) v).updPrim fun p => p.goOn f := by
  have htick : s.tickPend = [{ e with count := 0 }] := by
    simp [State.tickPend, hp, hc, State.awaitsReply, hreg]
  have hland : ∀ t : State, t.landAll [{ e with count := 0 }] = t.setReg (.s r) v := fun t =>
    t.landAll_reg _ _ _ hreg (PEntry.zDst_reg hreg fun _ _ _ _ _ h => nomatch h)
  have hbank : ∀ m (t : State), bankStep m [] [t.spareWord { e with count := 0 }] = [] := fun m t => by
    simp [State.spareWord, bankStep, hreg]
  simp [State.landPrimary, htick, State.sound, sortEntries, insertEntry, hs, hland, hbank, hb, State.setReg_s_eq, ha, State.updPrim,
    State.drainQueue, hr, he, hu, Primary.goOn]

/-! ### The statement -/

/-- Settles O42: sret and the end of its bundle each as one update of the primary, and the step in which the user operations go on. -/
theorem supervisorReturn : Obligations.SupervisorReturn := by
  unfold Obligations.SupervisorReturn
  refine ⟨fun s ha h => ⟨_, sret_primary ha h, rfl, rfl, and_notValid_valid _, rfl, rfl, rfl, rfl, rfl, rfl, rfl, and_notValid_code _, rfl, rfl,
    rfl, rfl, rfl, rfl, s.sameOutside_refl⟩, fun s pc hr hp ht => ?_, fun s f e r v ha hr he hu hp hc hreg _ hs hb => ?_,
    fun s f ha hr he hu hp => ?_⟩
  · rw [State.endBundle_sret pc hr hp ht]
    exact ⟨rfl, rfl, rfl, hr, rfl, rfl, rfl, rfl, rfl, rfl⟩
  · refine ⟨_, resultLanding_primary ha, ?_⟩
    have hagent : s.drainQueue.ctx.agent = .primary := ha
    rw [State.landPrimary_last ha hr he hu hp hc hreg hs hb, State.setReg_s_eq hagent]
    exact ⟨rfl, rfl, rfl, rfl, rfl, rfl, rfl, rfl, rfl, s.sameOutside_refl⟩
  · refine ⟨_, resultLanding_primary ha, ?_⟩
    obtain ⟨g, hg⟩ := State.landPrimary_idle hr he hu hp
    rw [hg]
    exact ⟨rfl, rfl, rfl, rfl, rfl, rfl, rfl, s.sameOutside_refl⟩

end Sys2Proof.Machine
end

section
/-! O21, O22, O24, O25: the vector ops and the matrix ops complete: each of them issues with its effect. -/

namespace Sys2Proof.Machine

/-- Settles O21: each op issues with its effect. -/
theorem vectorFloatComplete : Obligations.VectorFloatComplete := by
  unfold Obligations.VectorFloatComplete
  exact ⟨fun _ _ _ _ _ => .byIssue, fun _ _ _ _ _ => .byIssue, fun _ _ _ _ _ => .byIssue, fun _ _ _ _ _ => .byIssue, fun _ _ _ _ => .byIssue,
    fun _ _ _ _ => .byIssue, fun _ _ _ => .byIssue, fun _ _ _ => .byIssue, fun _ _ _ _ => .byIssue, fun _ _ _ _ _ => .byIssue,
    fun _ _ _ _ _ => .byIssue, fun _ _ _ _ _ => .byIssue⟩

/-- Settles O22: each op issues with its effect. -/
theorem vectorIntegerComplete : Obligations.VectorIntegerComplete := by
  unfold Obligations.VectorIntegerComplete
  exact ⟨fun _ _ _ _ => .byIssue, fun _ _ _ _ => .byIssue, fun _ _ _ _ => .byIssue, fun _ _ _ _ => .byIssue, fun _ _ _ _ => .byIssue,
    fun _ _ _ _ => .byIssue, fun _ _ _ _ => .byIssue, fun _ _ _ _ => .byIssue, fun _ _ _ _ => .byIssue, fun _ _ _ _ => .byIssue,
    fun _ _ _ _ => .byIssue, fun _ _ _ _ => .byIssue, fun _ _ _ _ => .byIssue, fun _ _ _ _ => .byIssue, fun _ _ _ _ => .byIssue,
    fun _ _ _ _ => .byIssue, fun _ _ _ _ => .byIssue, fun _ _ _ _ => .byIssue, fun _ _ _ _ => .byIssue, fun _ _ _ _ => .byIssue,
    fun _ _ _ _ _ => .byIssue, fun _ _ _ _ => .byIssue, fun _ _ _ _ => .byIssue, fun _ _ _ _ => .byIssue, fun _ _ _ => .byIssue,
    fun _ _ _ => .byIssue, fun _ _ _ => .byIssue, fun _ _ _ => .byIssue⟩

/-- Settles O24: each op issues with its effect. -/
theorem vectorPermutesComplete : Obligations.VectorPermutesComplete := by
  unfold Obligations.VectorPermutesComplete
  exact ⟨fun _ _ _ _ => .byIssue, fun _ _ _ _ => .byIssue, fun _ _ _ => .byIssue, fun _ _ _ _ => .byIssue, fun _ _ _ _ => .byIssue,
    fun _ _ _ _ => .byIssue, fun _ _ _ _ => .byIssue, fun _ _ _ _ => .byIssue, fun _ _ _ _ => .byIssue, fun _ _ _ _ => .byIssue,
    fun _ _ _ _ => .byIssue, fun _ _ _ _ => .byIssue, fun _ _ _ _ => .byIssue, fun _ _ _ _ => .byIssue, fun _ _ _ _ => .byIssue,
    fun _ _ _ _ => .byIssue, fun _ _ _ _ => .byIssue, fun _ _ _ _ => .byIssue, fun _ _ _ _ => .byIssue, fun _ _ _ _ => .byIssue,
    fun _ _ _ _ => .byIssue, fun _ _ _ _ => .byIssue, fun _ _ _ => .byIssue, fun _ _ _ => .byIssue, fun _ _ _ => .byIssue,
    fun _ _ _ => .byIssue⟩

/-- Settles O25: each op issues with its effect. -/
theorem matrixOpsComplete : Obligations.MatrixOpsComplete := by
  unfold Obligations.MatrixOpsComplete
  exact ⟨fun _ _ _ _ => .byIssue, fun _ _ _ _ => .byIssue, fun _ _ _ _ _ => .byIssue, fun _ _ _ _ _ => .byIssue, fun _ _ _ _ _ => .byIssue,
    fun _ _ _ _ _ => .byIssue, fun _ _ _ _ => .byIssue, fun _ => .byIssue⟩

end Sys2Proof.Machine
end

section
/-! O2: the reset state. -/

namespace Sys2Proof.Machine

/-- Settles O2: each of the three memories of the reset state is the empty list. -/
theorem resetMemoryCanonical : Obligations.ResetMemoryCanonical := by
  unfold Obligations.ResetMemoryCanonical
  decide

end Sys2Proof.Machine
end

section
/-! O37: the responder. What QSIG reads after a quote has been signed is the one clause with content of its own: a run of registers reads the bytes
that were written to it. -/

namespace Sys2Proof.Machine

/-! ### Bytes of a number -/

/-- The bytes of the number that a list of bytes stands for. -/
theorem bytesLittle_ofBytes (l : List Byte) : bytesLittle l.length (ofBytes l) = l := by
  induction l with
  | nil => rfl
  | cons b l ih =>
    have hlow : BitVec.ofNat 8 (b.toNat + 256 * ofBytes l) = b := by
      apply BitVec.eq_of_toNat_eq
      rw [BitVec.toNat_ofNat]
      omega
    have hhigh : ∀ i, (b.toNat + 256 * ofBytes l) / 256 ^ (i + 1) = ofBytes l / 256 ^ i := fun i => by
      rw [Nat.pow_succ', ← Nat.div_div_eq_div_mul]
      congr 1
      omega
    rw [bytesLittle] at ih
    simp only [bytesLittle, ofBytes, List.length_cons, List.range_succ_eq_map, List.map_cons, List.map_map, Nat.pow_zero, Nat.div_one, hlow]
    simpa only [Function.comp_def, Nat.succ_eq_add_one, hhigh, List.cons.injEq, true_and] using ih

theorem length_bytesBig (n x : Nat) : (bytesBig n x).length = n := by simp [bytesBig]

/-- The first groups of k elements of a list, one after the other. -/
theorem flatMap_groups {α : Type} (l : List α) (k n : Nat) : ((List.range n).flatMap fun i => (l.drop (k * i)).take k) = l.take (k * n) := by
  induction n with
  | zero => simp
  | succ n ih => rw [List.range_succ, List.flatMap_append, ih, List.flatMap_singleton, Nat.mul_succ, List.take_add]

/-! ### A run of registers -/

/-- The register reads as it was written. -/
def plainRegister (p : Part) (a : Nat) : Prop := ownRegister p a = true ∧ p.fencedBits a = 0 ∧ a ≠ 0x330 ∧ a ≠ 0x338

theorem State.foldl_setDevReg_part (s : State) (o v : Nat → Nat) (l : List Nat) :
    (l.foldl (fun s i => s.setDevReg (o i) (v i)) s).part = s.part := by
  induction l generalizing s with
  | nil => rfl
  | cons i l ih => rw [List.foldl_cons, ih, State.setDevReg_part]

theorem State.devReg_foldl_setDevReg (s : State) (o v : Nat → Nat) {n i : Nat} (hi : i < n) (hinj : ∀ j k, o j = o k → j = k)
    (h : ∀ j < n, plainRegister s.part (o j)) : ((List.range n).foldl (fun s i => s.setDevReg (o i) (v i)) s).devReg (o i) = v i := by
  induction n with
  | zero => omega
  | succ n ih =>
    have hpart := s.foldl_setDevReg_part o v (List.range n)
    obtain ⟨hown, hfence, h1, h2⟩ := h i hi
    rw [← hpart] at hown hfence
    rw [List.range_succ, List.foldl_append, List.foldl_cons, List.foldl_nil]
    by_cases hn : i = n
    · subst hn
      exact State.devReg_set_same _ _ _ hown hfence h1 h2
    · rw [State.devReg_set_other _ _ _ _ hown fun he => hn (hinj _ _ he)]
      exact ih (by omega) fun j hj => h j (by omega)

theorem State.devReg_setRegBytes (s : State) {off n i : Nat} {l : List Byte} (hl : l.length = 8 * n) (hi : i < n)
    (h : ∀ j < n, plainRegister s.part (off + 8 * j)) : (s.setRegBytes off l).devReg (off + 8 * i) = ofBytes ((l.drop (8 * i)).take 8) := by
  rw [State.setRegBytes, hl, show (8 * n + 7) / 8 = n by omega]
  exact s.devReg_foldl_setDevReg (fun i => off + 8 * i) (fun i => ofBytes ((l.drop (8 * i)).take 8)) hi (fun j k _ => by omega) h

/-- A run of registers that reads the numbers of a list of bytes reads the list. -/
theorem State.regBytes_eq {s : State} {off n : Nat} {l : List Byte} (hl : l.length = 8 * n)
    (h : ∀ i < n, s.devReg (off + 8 * i) = ofBytes ((l.drop (8 * i)).take 8)) : s.regBytes off (8 * n) = l := by
  have hgroup : ∀ i ∈ List.range n, bytesLittle 8 (s.devReg (off + 8 * i)) = (l.drop (8 * i)).take 8 := fun i hi => by
    have hlt := List.mem_range.mp hi
    have hlen : ((l.drop (8 * i)).take 8).length = 8 := by rw [List.length_take, List.length_drop]; omega
    have hbytes := bytesLittle_ofBytes ((l.drop (8 * i)).take 8)
    rw [hlen] at hbytes
    rw [h i hlt, hbytes]
  rw [State.regBytes, show (8 * n + 7) / 8 = n by omega, List.flatMap_def, List.map_congr_left hgroup, ← List.flatMap_def, flatMap_groups, ← hl,
    List.take_length, List.take_length]

/-! ### The responder (R382, R383, R387) -/

/-- QCTL and the registers of QSIG read as they are written. -/
theorem quoteRegister_plain (p : Part) {a : Nat} (h : 0x6A0 ≤ a) (h' : a < 0x6F0) : plainRegister p a := by
  have hr : p.reg a = none := by
    unfold Part.reg
    iterate 6 rw [if_neg (by omega)]
  have hf : p.fencedBits a = 0 := by
    unfold Part.fencedBits
    iterate 3 rw [if_neg (by omega)]
  refine ⟨?_, hf, by omega, by omega⟩
  simp only [ownRegister, hr, Option.isNone_none, Bool.and_true, Bool.and_eq_true, decide_eq_true_eq, Bool.not_eq_true',
    Bool.and_eq_false_iff, decide_eq_false_iff_not]
  omega

section Steps
variable {s : State}

theorem quoteStart_idle {v : BitVec 64} (h : s.quoteBusy = false) : exec (.quoteStart v) s =
    .next ((s.setQctl (bits v.toNat 0 6) 1 0).clearSig.updDev fun d => { d with asks := d.asks ++ [.quote (bits v.toNat 0 6)] }) := by
  show execQuoteStart v s = _
  rw [execQuoteStart, h, if_neg Bool.false_ne_true]
  rfl

theorem State.takeAsk_quoteInvalid {n : Nat} (h : bit (s.devReg (0x170000 + 256 * n + 8)) 12 = false) :
    s.takeAsk (.quote n) = s.setQctl n 0 1 := by
  simp [State.takeAsk, h]

theorem State.takeAsk_quoteOther {n : Nat} (h : bit (s.devReg (0x170000 + 256 * n + 8)) 12 = true)
    (hne : decide (s.devReg (0x170000 + 256 * n) = s.devReg 0x6A8) = false) : s.takeAsk (.quote n) = s.setQctl n 0 2 := by
  simp [State.takeAsk, h, of_decide_eq_false hne]

theorem State.takeAsk_quote {n : Nat} (h : bit (s.devReg (0x170000 + 256 * n + 8)) 12 = true)
    (he : decide (s.devReg (0x170000 + 256 * n) = s.devReg 0x6A8) = true) :
    s.takeAsk (.quote n) = s.updDev fun d => { d with signQ := d.signQ ++ [.quote (s.quoteBytes n)] } := by
  simp [State.takeAsk, h, of_decide_eq_true he, State.sign]

theorem quoteSigned_challenge {n : BitVec 256} {d : List Byte} {rest : List SignReq} (h : s.dev.signQ = .challenge n d :: rest) :
    exec .quoteSigned s = .next ((s.bumpFree.updDev fun d => { d with signQ := rest }).answerWith
      (.challengeAuth n d (s.signature (Config.transcript s.free)))) := by
  show execQuoteSigned s = _
  simp only [execQuoteSigned, h]

theorem quoteSigned_measurements {l : List MeasBlock} {n : BitVec 256} {rest : List SignReq} (h : s.dev.signQ = .measurements l n :: rest) :
    exec .quoteSigned s = .next ((s.bumpFree.updDev fun d => { d with signQ := rest }).answerWith
      (.measurements l n (s.signature (Config.transcript s.free)))) := by
  show execQuoteSigned s = _
  simp only [execQuoteSigned, h]

theorem quoteSigned_quote {l : List Byte} {rest : List SignReq} (h : s.dev.signQ = .quote l :: rest) :
    exec .quoteSigned s = .next (((s.bumpFree.updDev fun d => { d with signQ := rest }).setRegBytes 0x6B0
      (bytesBig 64 (s.signature (BitVec.ofNat 256 (ofBytes (sha256 l).reverse))).toNat)).setDevReg 0x6A0
        (setBits (s.devReg 0x6A0) 7 1 0)) := by
  show execQuoteSigned s = _
  simp only [execQuoteSigned, h]

end Steps

/-- QCTL is no longer BUSY, and QSIG is beside it. -/
theorem State.quoteBusy_done (s : State) (x : Nat) : (s.setDevReg 0x6A0 (setBits x 7 1 0)).quoteBusy = false := by
  obtain ⟨hown, hfence, h1, h2⟩ := quoteRegister_plain s.part (a := 0x6A0) (by decide) (by decide)
  rw [State.quoteBusy, State.devReg_set_same _ _ _ hown hfence h1 h2, bit_eq_testBit, testBit_setBits, if_pos (by decide), Nat.zero_testBit]

theorem State.qsig_done (s : State) (v : Nat) {l : List Byte} (hl : l.length = 64) :
    ((s.setRegBytes 0x6B0 l).setDevReg 0x6A0 v).regBytes 0x6B0 64 = l := by
  have hplain : ∀ j < 8, plainRegister s.part (0x6B0 + 8 * j) := fun j hj => quoteRegister_plain _ (by omega) (by omega)
  refine State.regBytes_eq (n := 8) hl fun i hi => ?_
  have hpart : (s.setRegBytes 0x6B0 l).part = s.part := State.foldl_setDevReg_part _ _ _ _
  have hown : ownRegister (s.setRegBytes 0x6B0 l).part (0x6B0 + 8 * i) = true := hpart ▸ (hplain i hi).1
  rw [State.devReg_set_other _ _ _ _ hown (by omega)]
  exact s.devReg_setRegBytes hl hi hplain

/-- Settles O37: each clause is the lemma of its step or the step itself; QSIG by `State.qsig_done`. -/
theorem trustStepsComplete : Obligations.TrustStepsComplete := by
  unfold Obligations.TrustStepsComplete
  exact ⟨fun _ => rfl, fun _ => rfl, fun _ => rfl, fun _ => rfl, fun _ _ _ => rfl, fun _ _ => ⟨rfl, rfl⟩, fun _ _ _ => rfl,
    fun _ _ _ => ⟨rfl, rfl⟩, fun _ _ => rfl, fun _ _ => quoteStart_idle,
    fun _ _ => ⟨State.takeAsk_quoteInvalid, State.takeAsk_quoteOther, State.takeAsk_quote⟩,
    fun _ _ _ _ h => ⟨_, quoteSigned_challenge h, rfl, rfl, rfl⟩, fun _ _ _ _ h => ⟨_, quoteSigned_measurements h, rfl, rfl, rfl⟩,
    fun _ _ _ h => ⟨quoteSigned_quote h, State.quoteBusy_done _ _, State.qsig_done _ _ (length_bytesBig _ _)⟩⟩

end Sys2Proof.Machine
end

section
/-! O38: halts, resumes and dumps, each where its condition holds. -/

namespace Sys2Proof.Machine

section Steps
variable {s : State}

/-- The modelled cluster halts for its owner's launch (R423). -/
theorem State.haltCluster_own {g : Nat} (source : Nat) (hg : g = s.clusterNo) (hrun : s.core.cfg.running = true) (hown : s.dbgOwned = true)
    (hsave : s.core.saving = false) : s.haltCluster g source = s.debugHalt source 0 false 0 0 := by
  rw [State.haltCluster, if_pos ⟨hg, hrun⟩, hown, hsave]
  rfl

theorem dbgResume_own (hh : bit (s.devReg (dbgBase s.clusterNo)) 3 = true) (hp : s.prim.halted = true ∨ s.prim.haltNext = true) :
    exec (.dbgResume s.clusterNo) s = .next (s.clearHalted s.clusterNo).resumeOwn := by
  show execDbgResume s.clusterNo s = _
  have hgo : s.clusterNo = (s.clearHalted s.clusterNo).clusterNo ∧
      ((s.clearHalted s.clusterNo).prim.halted ∨ (s.clearHalted s.clusterNo).prim.haltNext) := ⟨rfl, hp⟩
  simp only [execDbgResume, if_pos hh, if_pos hgo]

/-- Where the driver has written nothing through the halt window, a resume finds every register as it was. -/
theorem State.applyWindow_nil (h : s.core.winWrites = []) : s.applyWindow = s.updCore fun c => { c with winWrites := [] } := by
  rw [State.applyWindow, h, List.foldl_nil]

theorem State.resumeOwn_resumes (h : s.core.winWrites = []) : s.resumeOwn.prim.halted = false ∧ s.resumeOwn.prim.haltNext = false ∧
    s.resumeOwn.prim.th.exempt = true ∧ s.resumeOwn.dev = s.dev := by
  rw [State.resumeOwn, State.applyWindow_nil h]
  exact ⟨rfl, rfl, rfl, rfl⟩

theorem dumpStart_idle {v : BitVec 64} (h : bit (s.devReg 0x70000) 13 = false) : exec (.dumpStart v) s =
    .next (((s.setDevReg 0x70000 (bits v.toNat 0 12 + 2 ^ 13)).updDev fun d =>
      { d with dump := some ⟨bits v.toNat 0 12, false, [], [], 0, false⟩ }).preemptCtx (bits v.toNat 0 12)) := by
  show execDumpStart v s = _
  rw [execDumpStart, h, if_neg Bool.false_ne_true]

theorem dumpPageSend_next {d : Dump} {p : DumpPage} {rest : List DumpPage} (hd : s.dev.dump = some d) (he : d.ended = false)
    (hm : d.marked = true) (hp : d.pages = p :: rest) : exec .dumpPageSend s = .next (s.sendPage d p rest) := by
  show execDumpPageSend s = _
  simp only [execDumpPageSend, hd, he, hm, hp, Bool.false_eq_true, if_false, Bool.not_true]

end Steps

/-- Settles O38: each clause is the lemma of its step. -/
theorem debugStepsComplete : Obligations.DebugStepsComplete := by
  unfold Obligations.DebugStepsComplete
  refine ⟨fun _ _ hg hrun hown hsave => congrArg _ (State.haltCluster_own 0 hg hrun hown hsave),
    fun _ _ hg hrun hown hsave => congrArg _ (State.haltCluster_own 4 hg hrun hown hsave), fun s hh hp hw => ?_, fun _ _ => dumpStart_idle,
    fun _ _ _ _ => dumpPageSend_next⟩
  have hnil : (s.clearHalted s.clusterNo).core.winWrites = [] := hw
  exact ⟨_, dbgResume_own hh hp, State.resumeOwn_resumes hnil⟩

end Sys2Proof.Machine
end

section
/-! O36: pre-emption, save and restore, context slots and accounting, each where its condition holds. At an accounting boundary the power
registers and the clearings that follow the publication leave what was published as it is. -/

namespace Sys2Proof.Machine

section Steps
variable {s : State} {slot n cx : Nat} {v : BitVec 64}

/-! ### Pre-emption, save and restore (R401, R408) -/

theorem preemptionRequest_halts {c cause inner : BitVec 9} (hrun : s.core.cfg.running = true) (hsave : s.core.saving = false)
    (hp : (s.request c 0).core.preempt = some (cause, inner)) : exec (.preemptionRequest c) s =
      .next (((((s.request c 0).clearHalted (s.request c 0).clusterNo).applyWindow.landHalt).markHalt.updPrim Primary.halt).updCore fun k =>
        { k with saving := true }) := by
  show execPreemptionRequest c s = _
  simp only [execPreemptionRequest, hrun, hsave, Bool.not_true, Bool.or_self, Bool.false_eq_true, if_false, hp]

/-- A save that meets no bad word. -/
theorem State.saveBad_none {j : Job} (hl : s.launchBad j = false) (hr : s.recordStruck = none) : s.saveBad j = none := by
  simp [State.saveBad, hl, hr]

theorem contextSave_own {j : Job} {cause inner : Cause} {r : Nat × Nat} (hsave : s.core.saving = true) (hd : s.drained = true)
    (hj : s.ownJob = some j) (hp : s.core.preempt = some (cause, inner)) (hl : s.launchBad j = false) (hr : s.recordStruck = none)
    (hregion : s.saveRegion j.cx (8 * j.clusters.length) = some r) (hf : s.rangeFenced r.1 r.2 = false) :
    exec .contextSave s = .next (s.saveOwn j cause inner r) := by
  show execContextSave s = _
  simp only [execContextSave, hsave, hd, hj, hp, State.saveBad_none hl hr, hregion, hf, Bool.not_true, Bool.or_self, Bool.false_eq_true, if_false]

theorem contextRestore_placed {x : SavedLaunch} {l : List Nat} (hx : (s.dev.saved.find? fun x => decide (x.job.id = n)) = some x)
    (hc : x.cause ≠ 0x1DF) (hw : s.restoreWaits x = false) (hp : s.restorePlace x = some l) (hb : s.pmBad x.base x.size = false)
    (hbeat : (s.beatFor x.job).1 = true) : exec (.contextRestore n) s = .next ((s.beatFor x.job).2.restoreAt x l) := by
  show execContextRestore n s = _
  simp only [execContextRestore, hx, hc, hw, hp, hb, hbeat, Bool.false_eq_true, if_false, if_true]

/-! ### Slots (R371, R372) -/

/-- A slot takes a context that no other slot holds; EVICT starts an eviction. -/
theorem ctxslotWrite_takes (hlt : slot < 64) (he : s.evicting slot = false) (hs : ∀ n, s.slotOf (bits v.toNat 0 12) = some n → n = slot) :
    exec (.ctxslotWrite slot v) s = .next (if bit v.toNat 13 then (s.setDevReg (slotReg slot) (bits v.toNat 0 13)).startEvict slot
      else s.setDevReg (slotReg slot) (bits v.toNat 0 13)) := by
  show execCtxslotWrite slot v s = _
  have hopen : (decide (64 ≤ slot) || s.evicting slot) = false := by rw [he, Bool.or_false]; exact decide_eq_false (Nat.not_le.mpr hlt)
  cases h : s.slotOf (bits v.toNat 0 12) with
  | none => simp only [execCtxslotWrite, hopen, h, Bool.false_eq_true, if_false]
  | some n => simp only [execCtxslotWrite, hopen, h, hs n h, ne_eq, not_true_eq_false, decide_false, Bool.false_eq_true, if_false]

theorem ctxslotWrite_held (h : s.slotOf (bits v.toNat 0 12) = some n) (hn : n ≠ slot) : exec (.ctxslotWrite slot v) s = .next s := by
  show execCtxslotWrite slot v s = _
  simp [execCtxslotWrite, h, hn]

theorem ctxslotEvict_starts (h : slot < 64) : exec (.ctxslotEvict slot) s = .next (s.startEvict slot) := by
  show execCtxslotEvict slot s = _
  rw [execCtxslotEvict, if_pos h]

theorem evictionCompletion_quiet (hs : s.slotCtx slot = some cx) (he : s.evicting slot = true) (hq : s.ctxQuiet cx = true) :
    exec (.evictionCompletion slot) s = .next ((s.flushCtx cx).clearSlot slot) := by
  show execEvictionCompletion slot s = _
  simp only [execEvictionCompletion, hs, he, hq, Bool.not_true, Bool.false_eq_true, if_false, if_true]

/-! ### Supervisor interrupts and the table (R379, R397) -/

theorem sintrWrite_own {w : BitVec 64} (hn : n = 8 * s.clusterNo + s.core.cfg.coreInClus) (hrun : s.core.cfg.running = true) :
    exec (.sintrWrite n w) s = .next (s.updPrim fun p => { p with sintr := p.sintr ||| w }) := by
  show execSintrWrite n w s = _
  rw [execSintrWrite, if_pos ⟨hn, hrun⟩]

theorem accountingReadout_entries {first count : Nat} (h1 : 1 ≤ count) (h32 : count ≤ 32) (hf : first < 4096) :
    exec (.accountingReadout first count) s = .next (s.updDev fun d =>
      { d with reply := .accounting (s.devReg 0x350) ((List.range (min count (4096 - first))).map fun i => s.snapOf (first + i)) }) := by
  show execAccountingReadout first count s = _
  rw [execAccountingReadout, if_pos ⟨h1, h32, hf⟩]

end Steps

/-! ### The boundary (R378) -/

/-- What has been published, and the energy of idle parts, are the same. -/
def State.samePublished (t s : State) : Prop := t.dev.acctSnap = s.dev.acctSnap ∧ t.dev.idleMicro = s.dev.idleMicro

/-- Clearings change entries of the running table alone. -/
theorem State.clearAccts_published (s : State) : s.clearAccts.samePublished s ∧ s.clearAccts.dev.acctClr = [] := by
  have hfold : ∀ (l : List Nat) (u : State),
      (l.foldl (fun s cx => s.updDev fun d => { d with acct := putAcct (s.acctOf cx).clear d.acct }) u).samePublished u := by
    intro l
    induction l with
    | nil => exact fun u => ⟨rfl, rfl⟩
    | cons cx l ih => exact fun u => ih _
  exact ⟨hfold _ _, rfl⟩

theorem State.clearAccts_acct {s : State} (h : s.dev.acctClr = []) : s.clearAccts.dev.acct = s.dev.acct := by
  rw [State.clearAccts, h]
  rfl

/-- The table is published. -/
def State.publishTable (u : State) : State :=
  (u.updDev fun d => { d with acctSnap := u.residents.map u.publish }).setDevReg 0x350 ((u.devReg 0x350 + 1) % 2 ^ 64)

/-- The state after a boundary whose charges have led to u: the table is published, then come the power registers and the clearings. -/
def State.published (u : State) (watts : Nat) : State := (u.publishTable.powerBoundary watts).clearAccts

/-- What the boundary publishes stands when it is over, and no clearing waits any more. -/
theorem State.published_reads (u : State) (watts : Nat) : (u.published watts).dev.acctSnap = u.residents.map u.publish ∧
    (u.published watts).dev.idleMicro = u.dev.idleMicro ∧ (u.published watts).dev.acctClr = [] ∧
    (u.dev.acctClr = [] → (u.published watts).dev.acct = u.dev.acct) := by
  obtain ⟨⟨hsnap, hidle⟩, hclr⟩ := (u.publishTable.powerBoundary watts).clearAccts_published
  exact ⟨hsnap, hidle, hclr, fun h => State.clearAccts_acct h⟩

/-- Settles O36: each clause is the lemma of its step. -/
theorem tenancyStepsComplete : Obligations.TenancyStepsComplete := by
  unfold Obligations.TenancyStepsComplete
  refine ⟨fun _ _ _ _ => preemptionRequest_halts, fun _ _ _ _ _ => contextSave_own, fun _ _ _ _ => contextRestore_placed,
    fun s slot v hlt he hs hbit => ?_, fun s slot v hlt he hs => ?_, fun _ _ _ _ => ctxslotWrite_held, fun _ _ => ctxslotEvict_starts,
    fun _ _ _ => evictionCompletion_quiet, fun _ _ _ => sintrWrite_own, fun s measured idle => ?_, fun _ _ => rfl,
    fun _ _ _ => accountingReadout_entries⟩
  · rw [ctxslotWrite_takes hlt he hs, hbit, if_neg Bool.false_ne_true]
  · exact ctxslotWrite_takes hlt he fun n hn => by rw [hs] at hn; cases hn
  · exact ⟨_, rfl, State.published_reads _ (min measured (1000 * s.dev.cap) / 1000)⟩

end Sys2Proof.Machine
end

section
/-! O5, O6, O7, O8, O9: the decoder. A field that the encoder joins has the parts as its slices (`slices_append`), so the row of the instruction
is the first whose condition holds; a field whose slices a row has read is joined from them again (`slice_append`). -/

namespace Sys2Proof

/-! ### Decoding what was encoded -/

/-- A slice of joined bits that lies in the upper part, one that lies in the lower part, and the value of them all. -/
theorem slices_append :
    (∀ {m n s l : Nat} (x : BitVec m) (y : BitVec n), n ≤ s → (BitVec.append x y).extractLsb' s l = x.extractLsb' (s - n) l) ∧
    (∀ {m n s l : Nat} (x : BitVec m) (y : BitVec n), s + l ≤ n → (BitVec.append x y).extractLsb' s l = y.extractLsb' s l) ∧
    ∀ {m n c : Nat} (x : BitVec m) (y : BitVec n), (BitVec.append x y).toNat = c ↔ x.toNat = c / 2 ^ n ∧ y.toNat = c % 2 ^ n := by
  refine ⟨fun _ _ => BitVec.extractLsb'_append_eq_of_le, fun _ _ => BitVec.extractLsb'_append_eq_of_add_le, @fun m n c x y => ?_⟩
  have hy := y.isLt
  rw [BitVec.append_eq, BitVec.toNat_append, ← Nat.shiftLeft_add_eq_or_of_lt hy, Nat.shiftLeft_eq, Nat.mul_comm]
  constructor
  · rintro rfl
    rw [Nat.mul_add_div (Nat.two_pow_pos n), Nat.mul_add_mod, Nat.div_eq_of_lt hy, Nat.mod_eq_of_lt hy]
    exact ⟨rfl, rfl⟩
  · rintro ⟨hx, hy⟩
    rw [hx, hy, Nat.div_add_mod]

theorem decodeWord_encodeWord {i : Instr} {w : BitVec 32} (hw : i.wellFormed = true) (h : encodeWord i = some w) : decodeWord w = .ok i := by
  cases i with
  | nop =>
    cases h
    exact decodeWord_mkWord_ok (by simp [decodeFields_00, decodeMajor00]) hw
  | br | brT | brF =>
    cases h
    exact decodeWord_mkWord_ok (by simp [decodeFields_01, decodeMajor01, HAppend.hAppend, slices_append, BitVec.toNat_eq, -BitVec.append_eq]) hw
  | loop =>
    cases h
    exact decodeWord_mkWord_ok (by simp [decodeFields_02, decodeMajor02, HAppend.hAppend, slices_append, -BitVec.append_eq]) hw
  | call | jr =>
    cases h
    exact decodeWord_mkWord_ok (by simp [decodeFields_03, decodeMajor03, HAppend.hAppend, slices_append, BitVec.toNat_eq, -BitVec.append_eq]) hw
  | calli k l a i =>
    cases h
    have ha : ¬ a.toNat = 0 := of_decide_eq_true hw
    exact decodeWord_mkWord_ok (by simp [decodeFields_03, decodeMajor03, HAppend.hAppend, slices_append, BitVec.toNat_eq, -BitVec.append_eq, ha]) hw
  | holdEq | holdNe | holdLt | holdGe | holdLtu | holdGeu | holdEqWp | holdNeWp | holdLtWp | holdGeWp | holdLtuWp | holdGeuWp | tempo |
    tempoAny =>
    cases h
    exact decodeWord_mkWord_ok (by simp [decodeFields_04, decodeMajor04, HAppend.hAppend, slices_append, BitVec.toNat_eq, -BitVec.append_eq]) hw
  | eqw | eqr | eqcnt =>
    cases h
    exact decodeWord_mkWord_ok (by simp [decodeFields_05, decodeMajor05, BitVec.toNat_eq]) hw
  | trap | brk | sret | ibar | exit | fenceCore | fenceClus | fenceDie | fencePkg | fenceSys | xfenceCore | xfenceClus | xfenceDie |
    xfencePkg | xfenceSys =>
    cases h
    exact decodeWord_mkWord_ok (by simp [decodeFields_06, decodeMajor06, BitVec.toNat_eq]) hw
  | csrr | csrw =>
    cases h
    exact decodeWord_mkWord_ok (by simp [decodeFields_07, decodeMajor07, HAppend.hAppend, slices_append, BitVec.toNat_eq, -BitVec.append_eq]) hw
  | add | sub | and | or | xor | andn | min | max | minu | maxu | addw | subw | mov =>
    cases h
    exact decodeWord_mkWord_ok (by simp [decodeFields_08, decodeMajor08, HAppend.hAppend, slices_append, BitVec.toNat_eq, -BitVec.append_eq]) hw
  | addi =>
    cases h
    exact decodeWord_mkWord_ok (by simp [decodeFields_09, decodeMajor09]) hw
  | andi =>
    cases h
    exact decodeWord_mkWord_ok (by simp [decodeFields_0A, decodeMajor0A]) hw
  | ori =>
    cases h
    exact decodeWord_mkWord_ok (by simp [decodeFields_0B, decodeMajor0B]) hw
  | lui =>
    cases h
    exact decodeWord_mkWord_ok (by simp [decodeFields_0C, decodeMajor0C]) hw
  | cmpEq | cmpNe | cmpLt | cmpGe | cmpLtu | cmpGeu | pand | por | pxor | pandn | pnot =>
    cases h
    exact decodeWord_mkWord_ok (by simp [decodeFields_0D, decodeMajor0D, HAppend.hAppend, slices_append, BitVec.toNat_eq, -BitVec.append_eq]) hw
  | cmpiEq | cmpiNe | cmpiLt | cmpiGe =>
    cases h
    exact decodeWord_mkWord_ok (by simp [decodeFields_0E, decodeMajor0E, HAppend.hAppend, slices_append, BitVec.toNat_eq, -BitVec.append_eq]) hw
  | shl | shr | sar | rotl | rotr | clz | ctz | popc | bswap | bfx | bfxu | bfi =>
    cases h
    exact decodeWord_mkWord_ok (by simp [decodeFields_0F, decodeMajor0F, HAppend.hAppend, slices_append, BitVec.toNat_eq, -BitVec.append_eq]) hw
  | shli | shri | sari | rotli =>
    cases h
    exact decodeWord_mkWord_ok (by simp [decodeFields_10, decodeMajor10, HAppend.hAppend, slices_append, BitVec.toNat_eq, -BitVec.append_eq]) hw
  | mul | mulh | mulhu | mulw | div | divu | rem | remu =>
    cases h
    exact decodeWord_mkWord_ok (by simp [decodeFields_11, decodeMajor11, HAppend.hAppend, slices_append, BitVec.toNat_eq, -BitVec.append_eq]) hw
  | fadd | fsub | fmul | fdiv | fsqrt | fmin | fmax | fabs | fneg | fcmpEq | fcmpLt | fcmpLe | fcmpUn =>
    cases h
    exact decodeWord_mkWord_ok (by simp [decodeFields_12, decodeMajor12, HAppend.hAppend, slices_append, BitVec.toNat_eq, -BitVec.append_eq]) hw
  | cvtFI | cvtFU | cvtIF | cvtUF | cvtBfF | cvtHF | cvtFBf | cvtFH =>
    cases h
    exact decodeWord_mkWord_ok (by simp [decodeFields_13, decodeMajor13, HAppend.hAppend, slices_append, BitVec.toNat_eq, -BitVec.append_eq]) hw
  | ibw | ibr | ppack | punpk | sel =>
    cases h
    exact decodeWord_mkWord_ok (by simp [decodeFields_14, decodeMajor14, HAppend.hAppend, slices_append, BitVec.toNat_eq, -BitVec.append_eq]) hw
  | cwld =>
    cases h
    exact decodeWord_mkWord_ok (by simp [decodeFields_15, decodeMajor15, HAppend.hAppend, slices_append, -BitVec.append_eq]) hw
  | ldb | ldbu | ldh | ldhu | ldw | ldwu | ld =>
    cases h
    exact decodeWord_mkWord_ok (by simp [decodeFields_16, decodeMajor16, HAppend.hAppend, slices_append, BitVec.toNat_eq, -BitVec.append_eq]) hw
  | stb | sth | stw | st =>
    cases h
    exact decodeWord_mkWord_ok (by simp [decodeFields_17, decodeMajor17, HAppend.hAppend, slices_append, BitVec.toNat_eq, -BitVec.append_eq]) hw
  | vld | vst | vldh | vsth | vldb =>
    cases h
    exact decodeWord_mkWord_ok (by simp [decodeFields_18, decodeMajor18, HAppend.hAppend, slices_append, BitVec.toNat_eq, -BitVec.append_eq]) hw
  | tld | tldBind | tst =>
    cases h
    exact decodeWord_mkWord_ok (by simp [decodeFields_19, decodeMajor19, HAppend.hAppend, slices_append, BitVec.toNat_eq, -BitVec.append_eq]) hw
  | vgathW | vgathH | vgathB | vscatW | vscatH | vscatB =>
    cases h
    exact decodeWord_mkWord_ok (by simp [decodeFields_1A, decodeMajor1A, HAppend.hAppend, slices_append, BitVec.toNat_eq, -BitVec.append_eq]) hw
  | lmadd | lmxchg | lmcas | lmmin | lmmax | lmand | lmor =>
    cases h
    exact decodeWord_mkWord_ok (by simp [decodeFields_1B, decodeMajor1B, HAppend.hAppend, slices_append, BitVec.toNat_eq, -BitVec.append_eq]) hw
  | flrel | flacq =>
    cases h
    exact decodeWord_mkWord_ok (by simp [decodeFields_1C, decodeMajor1C, BitVec.toNat_eq]) hw
  | rld | rst | rvld | rvst | rqput =>
    cases h
    exact decodeWord_mkWord_ok (by simp [decodeFields_1D, decodeMajor1D, BitVec.toNat_eq]) hw
  | zld | zst =>
    cases h
    exact decodeWord_mkWord_ok (by simp [decodeFields_1E, decodeMajor1E, HAppend.hAppend, slices_append, BitVec.toNat_eq, -BitVec.append_eq]) hw
  | zbindNone | zbindw | zgenZ | zgenT | zgenW =>
    cases h
    exact decodeWord_mkWord_ok (by simp [decodeFields_1F, decodeMajor1F, HAppend.hAppend, slices_append, BitVec.toNat_eq, -BitVec.append_eq]) hw
  | zbind t z g =>
    cases h
    have hz : ¬ z.toNat = 32 := fun e => of_decide_eq_true hw (BitVec.eq_of_toNat_eq e)
    exact decodeWord_mkWord_ok (by simp [decodeFields_1F, decodeMajor1F, HAppend.hAppend, slices_append, BitVec.toNat_eq, -BitVec.append_eq, hz]) hw
  | zmul | zadde | zmax | zcvt | zfill | zmov | zamax =>
    cases h
    exact decodeWord_mkWord_ok (by simp [decodeFields_20, decodeMajor20, HAppend.hAppend, slices_append, BitVec.toNat_eq, -BitVec.append_eq]) hw
  | vadd | vsub | vmul | vdiv | vmin | vmax | vabs | vneg =>
    cases h
    exact decodeWord_mkWord_ok (by simp [decodeFields_22, decodeMajor22, HAppend.hAppend, slices_append, BitVec.toNat_eq, -BitVec.append_eq]) hw
  | vsqrt k d a r =>
    cases h
    obtain ⟨-, -, hval⟩ := slices_append
    have hlow : (BitVec.append (BitVec.append 0#6 r) 8#4).toNat % 2 ^ 4 = 8 := ((hval _ _).mp rfl).2.symm
    have hmin : ¬ (BitVec.append (BitVec.append 0#6 r) 8#4).toNat % 128 = 4 := by omega
    have hmax : ¬ (BitVec.append (BitVec.append 0#6 r) 8#4).toNat % 128 = 5 := by omega
    refine decodeWord_mkWord_ok ?_ hw
    simp [decodeFields_22, decodeMajor22, hmin, hmax, HAppend.hAppend, slices_append, BitVec.toNat_eq, -BitVec.append_eq]
  | vfma | vfms | vfnma =>
    cases h
    exact decodeWord_mkWord_ok (by simp [decodeFields_23, decodeMajor23, HAppend.hAppend, slices_append, BitVec.toNat_eq, -BitVec.append_eq]) hw
  | viadd | visub | vimul | viand | vior | vixor | vishl | vishr | visar | vimin | vimax | viminu | vimaxu =>
    cases h
    exact decodeWord_mkWord_ok (by simp [decodeFields_24, decodeMajor24, HAppend.hAppend, slices_append, BitVec.toNat_eq, -BitVec.append_eq]) hw
  | vcmpEq | vcmpLt | vcmpLe | vcmpUn | vicmpEq | vicmpLt | vicmpLtu =>
    cases h
    exact decodeWord_mkWord_ok (by simp [decodeFields_25, decodeMajor25, HAppend.hAppend, slices_append, BitVec.toNat_eq, -BitVec.append_eq]) hw
  | vsel | mand | mor | mxor | mnot | mpop | mmovToMask | mmovFromMask =>
    cases h
    exact decodeWord_mkWord_ok (by simp [decodeFields_26, decodeMajor26, HAppend.hAppend, slices_append, BitVec.toNat_eq, -BitVec.append_eq]) hw
  | vpack | vunpack | vquant | vquantRs | vpackRs =>
    cases h
    exact decodeWord_mkWord_ok (by simp [decodeFields_27, decodeMajor27, HAppend.hAppend, slices_append, BitVec.toNat_eq, -BitVec.append_eq]) hw
  | vcvtFI | vcvtIF | vcvtBfF | vcvtHF | vcvtFBf | vcvtFH | vnarrowI8 | vnarrowI4 | vwidenI8 | vwidenI4 =>
    cases h
    exact decodeWord_mkWord_ok (by simp [decodeFields_28, decodeMajor28, HAppend.hAppend, slices_append, BitVec.toNat_eq, -BitVec.append_eq]) hw
  | vperm | vbcl | vbcs | vrot | vext | vins | vcompress | vexpand =>
    cases h
    exact decodeWord_mkWord_ok (by simp [decodeFields_29, decodeMajor29, HAppend.hAppend, slices_append, BitVec.toNat_eq, -BitVec.append_eq]) hw
  | vscanAdd | vscanMax | vscanIadd | vredAdd | vredMax | vredMin | vredIadd | vargmax =>
    cases h
    exact decodeWord_mkWord_ok (by simp [decodeFields_2A, decodeMajor2A, HAppend.hAppend, slices_append, BitVec.toNat_eq, -BitVec.append_eq]) hw
  | vcx | vcxD | vmrg | vmrgD =>
    cases h
    exact decodeWord_mkWord_ok (by simp [decodeFields_2B, decodeMajor2B, HAppend.hAppend, slices_append, BitVec.toNat_eq, -BitVec.append_eq]) hw
  | vdraw | vdrawF =>
    cases h
    exact decodeWord_mkWord_ok (by simp [decodeFields_2C, decodeMajor2C, HAppend.hAppend, slices_append, BitVec.toNat_eq, -BitVec.append_eq]) hw
  | vexp2 | vrcp | vrsqrt | vlog2 =>
    cases h
    exact decodeWord_mkWord_ok (by simp [decodeFields_2D, decodeMajor2D, BitVec.toNat_eq]) hw
  | mldw | mldwS =>
    cases h
    exact decodeWord_mkWord_ok (by simp [decodeFields_32, decodeMajor32, HAppend.hAppend, slices_append, BitVec.toNat_eq, -BitVec.append_eq]) hw
  | mma | mmaFwd | mmaSat | mmaFwdSat =>
    cases h
    exact decodeWord_mkWord_ok (by simp [decodeFields_33, decodeMajor33, HAppend.hAppend, slices_append, BitVec.toNat_eq, -BitVec.append_eq]) hw
  | mrd | mclr =>
    cases h
    exact decodeWord_mkWord_ok (by simp [decodeFields_34, decodeMajor34, HAppend.hAppend, slices_append, BitVec.toNat_eq, -BitVec.append_eq]) hw
  | gldb | gldbu | gldh | gldhu | gldw | gldwu | gld =>
    cases h
    exact decodeWord_mkWord_ok (by simp [decodeFields_36, decodeMajor36, HAppend.hAppend, slices_append, BitVec.toNat_eq, -BitVec.append_eq]) hw
  | gstb | gsth | gstw | gst =>
    cases h
    exact decodeWord_mkWord_ok (by simp [decodeFields_37, decodeMajor37, HAppend.hAppend, slices_append, BitVec.toNat_eq, -BitVec.append_eq]) hw
  | gaadd | gaswap | gacas | gamin | gamax | gaminu | gamaxu | gaand | gaor | gaxor | gafadd =>
    cases h
    exact decodeWord_mkWord_ok (by simp [decodeFields_38, decodeMajor38, HAppend.hAppend, slices_append, BitVec.toNat_eq, -BitVec.append_eq]) hw
  | ldacq | strel =>
    cases h
    exact decodeWord_mkWord_ok (by simp [decodeFields_39, decodeMajor39, HAppend.hAppend, slices_append, BitVec.toNat_eq, -BitVec.append_eq]) hw
  | scadd | scswap | sccas | scld | scst =>
    cases h
    exact decodeWord_mkWord_ok (by simp [decodeFields_3A, decodeMajor3A, HAppend.hAppend, slices_append, BitVec.toNat_eq, -BitVec.append_eq]) hw
  | monarm | monarmLm | monwait | monclr =>
    cases h
    exact decodeWord_mkWord_ok (by simp [decodeFields_3B, decodeMajor3B, HAppend.hAppend, slices_append, BitVec.toNat_eq, -BitVec.append_eq]) hw
  | mbput | mbget | ringput | ringget =>
    cases h
    exact decodeWord_mkWord_ok (by simp [decodeFields_3C, decodeMajor3C, HAppend.hAppend, slices_append, BitVec.toNat_eq, -BitVec.append_eq]) hw
  | callat | twait | rqclm =>
    cases h
    exact decodeWord_mkWord_ok (by simp [decodeFields_3D, decodeMajor3D, HAppend.hAppend, slices_append, BitVec.toNat_eq, -BitVec.append_eq]) hw
  | _ => cases h

/-! ### Encoding what was decoded -/

theorem eq_of_slice {w : Nat} {x z : BitVec w} (h : x = z.extractLsb' 0 w) : x = z := h.trans BitVec.extractLsb'_eq_self

theorem slice_append {w s m n : Nat} {z : BitVec w} {x : BitVec m} {y : BitVec n} (hx : x = z.extractLsb' (s + n) m)
    (hy : y = z.extractLsb' s n) : x ++ y = z.extractLsb' s (m + n) := by
  rw [hx, hy]
  exact BitVec.extractLsb'_append_extractLsb'_eq_extractLsb' rfl

theorem ofBool_wordK (w : BitVec 32) : BitVec.ofBool (wordK w) = w.extractLsb' 31 1 := by
  apply BitVec.eq_of_getLsbD_eq
  intro j hj
  obtain rfl : j = 0 := by omega
  simp [wordK]

theorem mkWord_fields (w : BitVec 32) : mkWord (wordK w) (wordMajor w) (wordD w) (wordA w) (wordLo w) = w :=
  eq_of_slice (slice_append (slice_append (slice_append (slice_append (ofBool_wordK w) rfl) rfl) rfl) rfl)

/-- Without its marker the word has bit 31 clear. -/
theorem mkWord_unmarked (w : BitVec 32) : mkWord false (wordMajor w) (wordD w) (wordA w) (wordLo w) = w &&& 0x7FFFFFFF#32 := by
  have hslice : ∀ {s n : Nat}, (0x7FFFFFFF#32).extractLsb' s n = BitVec.allOnes n →
      w.extractLsb' s n = (w &&& 0x7FFFFFFF#32).extractLsb' s n :=
    fun h => (BitVec.extractLsb'_and.trans (h ▸ BitVec.and_allOnes)).symm
  have hk : false = wordK (w &&& 0x7FFFFFFF#32) := by simp [wordK]
  refine Eq.trans ?_ (mkWord_fields (w &&& 0x7FFFFFFF#32))
  rw [← hk, wordMajor, wordD, wordA, wordLo, hslice rfl, hslice (s := 19) rfl, hslice (s := 13) rfl, hslice (s := 0) rfl]
  rfl

/-- The op word of the instruction has these fields, and their switch marker unless the primary alone may issue it (R29, R38). -/
def Instr.HasFields (i : Instr) (k : Bool) (mj d a : BitVec 6) (lo : BitVec 13) : Prop :=
  encodeWord i = some (mkWord (decide ((Machine.specOf i).who ≠ .prim) && k) mj d a lo)

theorem Instr.HasFields.of_eq {k : Bool} {mj d a mj' d' a' : BitVec 6} {lo lo' : BitVec 13} {i : Instr}
    (h : encodeWord i = some (mkWord (decide ((Machine.specOf i).who ≠ .prim) && k) mj' d' a' lo'))
    (hm : mj.toNat = mj'.toNat) (hd : d' = d) (ha : a' = a) (hl : lo' = lo) : i.HasFields k mj d a lo := by
  cases BitVec.eq_of_toNat_eq hm
  rwa [Instr.HasFields, ← hd, ← ha, ← hl]

/-- Whatever a part of the decoder reads from the fields is an instruction whose op word has these fields. -/
def ReadsFields (k : Bool) (mj d a : BitVec 6) (lo : BitVec 13) (o : Option Instr) : Prop := ∀ i, o = some i → i.HasFields k mj d a lo

theorem ReadsFields.none {k : Bool} {mj d a : BitVec 6} {lo : BitVec 13} : ReadsFields k mj d a lo .none := by
  rintro i ⟨⟩

theorem ReadsFields.row {k : Bool} {mj d a : BitVec 6} {lo : BitVec 13} {c : Prop} [Decidable c] {x : Instr} {r : Option Instr}
    (hx : c → x.HasFields k mj d a lo) (hr : ReadsFields k mj d a lo r) : ReadsFields k mj d a lo (if c then some x else r) := by
  split
  · next hc =>
    rintro i ⟨⟩
    exact hx hc
  · exact hr

/-- Every row of every major: the slices that the row reads, and the constants that its condition fixes, join to the fields. -/
theorem decodeFields_hasFields (k : Bool) (mj d a : BitVec 6) (lo : BitVec 13) : ReadsFields k mj d a lo (decodeFields k mj d a lo) := by
  unfold decodeFields
  split
  all_goals repeat' apply ReadsFields.row
  any_goals exact ReadsFields.none
  all_goals
    intro h
    refine .of_eq rfl ‹_› (eq_of_slice ?_) (eq_of_slice ?_) (eq_of_slice ?_)
    all_goals repeat' apply slice_append
    all_goals simp [h]

theorem decodeWord_eq_ok {w : BitVec 32} {i : Instr} (h : decodeWord w = .ok i) :
    decodeFields (wordK w) (wordMajor w) (wordD w) (wordA w) (wordLo w) = some i ∧ i.wellFormed = true := by
  unfold decodeWord at h
  split at h
  · cases h
  · next hf =>
    split at h
    · next hw =>
      cases h
      exact ⟨hf, hw⟩
    · cases h

theorem decodeWord_of_none {w : BitVec 32} (h : decodeFields (wordK w) (wordMajor w) (wordD w) (wordA w) (wordLo w) = none) :
    decodeWord w = .error (if majorAssigned (wordMajor w) then .unassignedWord else .unassignedMajor) := by
  rw [decodeWord, h]

theorem decodeOp_of_error {w : BitVec 32} {e : DecodeError} (h : decodeWord w = .error e) : decodeOp w = none := by
  rw [decodeOp, h]

theorem decodeFields_unassigned {k : Bool} {mj d a : BitVec 6} {lo : BitVec 13} (h : majorAssigned mj = false) :
    decodeFields k mj d a lo = none := by
  unfold decodeFields
  split
  any_goals rfl
  all_goals
    next hm =>
      rw [majorAssigned, hm] at h
      cases h

/-- A word of major 0 that is no no-operation has some other field set (R33). -/
theorem decodeWord_major00 {w : BitVec 32} (hm : wordMajor w = 0) (h0 : w ≠ 0) (hk : w ≠ 0x80000000#32) :
    decodeWord w = .error .unassignedWord := by
  have hfields := mkWord_fields w
  have hnone : decodeFields (wordK w) (wordMajor w) (wordD w) (wordA w) (wordLo w) = none := by
    rw [hm]
    refine if_neg ?_
    rintro ⟨hlo, hd, ha⟩
    rw [hm, hlo, hd, ha] at hfields
    cases hw : wordK w
    · rw [hw] at hfields
      exact h0 hfields.symm
    · rw [hw] at hfields
      exact hk hfields.symm
  rw [decodeWord_of_none hnone, hm]
  rfl

/-! ### Slots of a bundle -/

theorem decodeSlot_of_zero {b : BitVec 320} {n : Nat} (hs : headerSur (bundleWord b 0) n = false) (hw : bundleWord b (n + 1) = 0) :
    decodeSlot b n = .ok .empty := by
  simp only [decodeSlot, decodeSlotWith, hs, hw, Bool.false_eq_true, if_false, if_true]

theorem decodeSlot_of_refused {b : BitVec 320} {n : Nat} (hs : headerSur (bundleWord b 0) n = false) (hw : bundleWord b (n + 1) ≠ 0)
    (h : wordK (bundleWord b (n + 1)) = true ∨ decodeOp (bundleWord b (n + 1)) = none) : decodeSlot b n = .error (.slotWord n) := by
  simp only [decodeSlot, decodeSlotWith, hs, hw, Bool.false_eq_true, if_false]
  split
  · rfl
  · next hk => rw [h.resolve_left hk]

end Sys2Proof

namespace Sys2Proof.Machine

/-! ### The statements -/

/-- Settles O5: the row of each instruction holds of the fields that the encoder joins, and no row before it does. -/
theorem decodeEncode : Obligations.DecodeEncode := by
  unfold Obligations.DecodeEncode
  exact fun _ _ => decodeWord_encodeWord

/-- Settles O6: the op word of what is decoded has the fields of the word, up to the marker that an op of the primary does not have. -/
theorem encodeDecode : Obligations.EncodeDecode := by
  unfold Obligations.EncodeDecode
  intro w i h
  obtain ⟨hrow, hwf⟩ := decodeWord_eq_ok h
  have henc := decodeFields_hasFields _ _ _ _ _ _ hrow
  rw [Instr.HasFields] at henc
  refine ⟨hwf, ?_⟩
  by_cases hp : (specOf i).who = .prim
  · refine .inr ⟨hp, henc.trans ?_⟩
    rw [hp, ← mkWord_unmarked]
    rfl
  · refine .inl (henc.trans ?_)
    rw [decide_eq_true hp, Bool.true_and, mkWord_fields]

/-- Settles O7: no row of the decoder is of such a major. -/
theorem unassignedMajorsRefused : Obligations.UnassignedMajorsRefused := by
  unfold Obligations.UnassignedMajorsRefused
  intro w h
  have hmajor : ∀ mj : BitVec 6, mj.toNat ∈ [0x21, 0x2E, 0x2F, 0x30, 0x31, 0x35, 0x3E, 0x3F] → majorAssigned mj = false := by decide
  have herr := decodeWord_of_none (decodeFields_unassigned (hmajor _ h))
  rw [hmajor _ h] at herr
  exact ⟨herr, decodeOp_of_error herr⟩

/-- Settles O8: a word of major 0 by its other fields, a slot by its word. -/
theorem majorZeroWords : Obligations.MajorZeroWords := by
  unfold Obligations.MajorZeroWords
  refine ⟨by rfl, fun w => decodeWord_major00, by rfl, fun b n => decodeSlot_of_zero, fun b n hs hw hm => ?_, fun _ => .byIssue⟩
  refine decodeSlot_of_refused hs hw ?_
  by_cases hk : bundleWord b (n + 1) = 0x80000000#32
  · rw [hk]
    exact .inl rfl
  · exact .inr (decodeOp_of_error (decodeWord_major00 hm hw hk))

/-- Settles O9: each word is a fixed number, which the decoder reads. -/
theorem sampleWordsDecode : Obligations.SampleWordsDecode := by
  unfold Obligations.SampleWordsDecode
  exact ⟨by rfl, by rfl, by rfl, by rfl, by rfl, by rfl, by rfl, by rfl, by rfl, by rfl⟩

end Sys2Proof.Machine
end

section
/-! O4, O12: what exec answers, whatever the state: an outcome that is a next state (`Answers`) passes through every part of a step, and the issue of
an op whose encoding fails a check is its trap. -/

namespace Sys2Proof.Machine

/-! ### Next states -/

/-- The outcome is a next state. -/
def Answers (o : Out) : Prop := ∃ t, o = .next t

namespace Answers

theorem next (t : State) : Answers (.next t) := ⟨t, rfl⟩

theorem ite {c : Prop} [Decidable c] {o p : Out} (ho : Answers o) (hp : Answers p) : Answers (if c then o else p) := by
  split
  · exact ho
  · exact hp

theorem issue (sp : OpSpec) (s : State) (eff : State → State) : Answers (Machine.issue sp s eff) := by
  obtain ⟨t, ht, _⟩ := issue_cases sp s eff
  exact ⟨t, ht⟩

theorem issueG (sp : OpSpec) (va : State → Word64) (acc : Nat) (post : State → TlbEntry → Option TrapRec) (s : State)
    (eff : State → State) : Answers (Machine.issueG sp va acc post s eff) := by
  unfold Machine.issueG
  refine ite (next _) ?_
  split
  · exact next _
  · split
    · exact next _
    · refine ite (next _) ?_
      split
      · exact next _
      · exact next _

/-! ### Instructions -/

theorem execPawnCacheFill (t : Nat) (s : State) : Answers (Machine.execPawnCacheFill t s) := by
  unfold Machine.execPawnCacheFill
  split
  · exact next _
  · split
    · exact next _
    · exact next _

theorem execHomeAtomic (t : Nat) (s : State) : Answers (Machine.execHomeAtomic t s) := by
  unfold Machine.execHomeAtomic
  split
  · exact next _
  · split
    · exact next _
    · exact next _

theorem execAtomicReply (t : Nat) (s : State) : Answers (Machine.execAtomicReply t s) := by
  unfold Machine.execAtomicReply
  split
  · exact next _
  · exact next _

theorem execResultLanding (s : State) : Answers (Machine.execResultLanding s) := by
  unfold Machine.execResultLanding
  split
  · exact next _
  · exact next _

theorem execTileLoaderRow (s : State) : Answers (Machine.execTileLoaderRow s) := by
  unfold Machine.execTileLoaderRow
  split
  · exact next _
  · exact next _

theorem execWeightLoaderGranule (s : State) : Answers (Machine.execWeightLoaderGranule s) := by
  unfold Machine.execWeightLoaderGranule
  split
  · exact next _
  · exact next _

/-- A step of another agent than an issuing thread. -/
theorem exec_of_event {i : Instr} (h : specOf i = { cls := .any }) (s : State) : Answers (exec i s) := by
  have hc : (specOf i).cls = .any := congrArg OpSpec.cls h
  cases i with
  | nop => exact issue _ _ _
  | pawnCacheFill => exact execPawnCacheFill _ _
  | homeAtomic => exact execHomeAtomic _ _
  | atomicReply => exact execAtomicReply _ _
  | resultLanding => exact execResultLanding _
  | tileLoaderRow => exact execTileLoaderRow _
  | weightLoaderGranule => exact execWeightLoaderGranule _
  | pawnSwitchRejoin | pawnLmGrant | pawnFetch | pawnPushRetry | trapEntry | pawnTrapEntry | doorbell |
    launch | launchPlacement | launchCompletion | queueCopy | queueCollective | hostNotification | eventWait |
    eventWaitRecheck | conditional | runGraph | graphNodeStart | graphNodeCompletion | hostRingTimeExpiry | hrptrWrite |
    featlockWrite | copy | copy2d | split | gather | scatter | fill |
    wpset | engineCommandCompletion | completionRecordPush | collectiveIncompleteReply | monitorRegisterAck | monitorHit | monwaitTimeout |
    mailboxDeposit | ackLanding | ringOperation | taskEntryArrival | rowClaimReply | translationWalk | fqrespWalkAgain |
    fqrespDeliver | tlbinv | tlbinvFlush | tickExchange | tickStamp | portDeposit | heartbeat |
    heartbeatLoss | moveOrderVisit | preemptionRequest | contextRestore | ctxslotWrite | ctxslotEvict | evictionCompletion |
    sintrWrite | accountingBoundary | acctclr | accountingReadout | getCertificate | challenge | getMeasurements |
    unsupportedSpdmRequest | quoteStart | patrolScrub | selfTestVerdict | linkRetrainTimeout | dbgHaltreq | dbgResume |
    breakpointHit | watchpointHit | crossTriggerHalt | dumpStart | registerWrite | hostApertureAccess | fabricWrite |
    planeMaskChange | inputVoltageChange | remoteLoadReply | remoteStorePerformed | remoteStoreAck | watchdogExpiry | corePartComplete |
    loadLevelling | allReduce | reduceScatter | allGather | broadcast | scWindowClose | tlbinvCompletion |
    beatRaise | beatArrival | beatOverdue | contextSave | getVersion | getCapabilities | negotiateAlgorithms |
    getDigests | quoteSigned | dumpPageSend | coldReset | conventionalReset | functionLevelReset | inputUndervoltage =>
    exact next _
  | _ => exact absurd hc nofun

theorem exec (i : Instr) (s : State) : Answers (Machine.exec i s) := by
  obtain ⟨eff, he⟩ | ⟨va, acc, post, eff, he⟩ | h := exec_shape i
  · rw [he]
    exact issue _ _ _
  · rw [he]
    exact issueG _ _ _ _ _ _
  · exact exec_of_event h s

/-! ### The parts of a step -/

variable {α : Type} {tb : OpTable α} {s : State}

theorem landTurn : Answers (s.landTurn tb) := by
  unfold State.landTurn
  refine ite (next _) ?_
  dsimp only
  split
  · exact next _
  · exact ite (next _) (next _)

theorem runDue (c : Ctx) (i : Instr) (s : State) : Answers (Machine.runDue c i s) := by
  obtain ⟨t, ht⟩ := exec i (s.setCtx c)
  rw [Machine.runDue, ht]
  exact next _

section
variable (ht : ∀ i s, Answers (tb.run i s))
include ht

theorem runSlots (l : List (SlotIn α)) : Answers (Machine.runSlots tb l s) := by
  induction l generalizing s with
  | nil => exact next _
  | cons x l ih =>
    unfold Machine.runSlots
    extract_lets s1
    obtain ⟨u, hu⟩ := ht x.op s1
    rw [hu]
    exact ih

theorem issueBundle (l : List (SlotIn α)) : Answers (s.issueBundle tb l) := by
  unfold State.issueBundle
  obtain ⟨u, hu⟩ := runSlots (s := s.spendToken.setVacant (s.advertised s.bundle)) ht l
  rw [hu]
  refine ite (next _) ?_
  split
  · exact next _
  · exact next _

theorem presentBundle : Answers (s.presentBundle tb) := by
  unfold State.presentBundle
  split
  · exact next _
  · split
    · exact next _
    · split
      · exact next _
      · split
        · exact next _
        · exact issueBundle ht _

theorem presentTurn : Answers (s.presentTurn tb) := by
  unfold State.presentTurn
  refine ite (next _) (ite (next _) ?_)
  split
  · exact next _
  · split
    · exact next _
    · exact ite (next _) (presentBundle ht)

theorem runPawn (t slot : Nat) (i : α) (after : State → State) : Answers (s.runPawn tb t slot i after) := by
  unfold State.runPawn
  extract_lets p
  split
  · exact next _
  · obtain ⟨u, hu⟩ := ht i (s.setCtx (p.opCtx t slot))
    rw [hu]
    exact next _

theorem considerOp (t n count : Nat) (first : Option Nat) (w : Word32) : Answers (s.considerOp tb t n count first w) := by
  unfold State.considerOp
  extract_lets p at0
  split
  · exact ite (next _) (next _)
  · refine ite ?_ (ite (next _) (ite (next _) ?_))
    · split
      · exact next _
      · exact runPawn ht _ _ _ _
    · split
      · exact next _
      · split
        · exact next _
        · refine ite (next _) ?_
          dsimp only
          split
          · exact next _
          · exact ite (next _) (runPawn ht _ _ _ _)

theorem scanThread (t n count : Nat) (first : Option Nat) : Answers (s.scanThread tb t n count first) := by
  unfold State.scanThread
  refine ite (next _) ?_
  split
  · exact next _
  · split
    · exact ite (next _) (next _)
    · exact considerOp ht _ _ _ _ _

theorem scanTurn (n count : Nat) (first : Option Nat) : Answers (s.scanTurn tb n count first) := by
  unfold State.scanTurn
  exact ite (next _) (ite (scanThread ht _ _ _ _) (next _))

end

theorem runTurn (s : State) : Answers (Machine.runTurn s) := by
  have ht : ∀ i s, Answers (opTable.run i s) := exec
  unfold Machine.runTurn
  split
  · exact landTurn
  · exact presentTurn ht
  · exact scanTurn ht _ _ _
  · exact next _
  · exact next _
  · exact next _
  · exact next _

theorem step (s : State) : Answers (Machine.step s) := by
  unfold Machine.step
  split
  · dsimp only
    split
    · exact runDue _ _ _
    · exact next _
  · split
    · exact ite (runDue _ _ _) (next _)
    · exact ite (next _) (runTurn _)

end Answers

/-- Settles O4: an op issues, a step of another agent ends in a next state, and the parts of a step pass an answer on. -/
theorem stepNeverStops : Obligations.StepNeverStops := by
  unfold Obligations.StepNeverStops
  exact ⟨Answers.exec, Answers.step⟩

/-! ### Encoding checks -/

theorem issue_encodingTrap {sp : OpSpec} {s : State} {r : TrapRec} (eff : State → State) (hc : s.ctx.checked = false)
    (hr : s.encodingTrap sp = some r) : issue sp s eff = .next (s.trap r) := by
  simp only [issue, hc, Bool.false_eq_true, if_false, hr]

theorem issueG_encodingTrap {sp : OpSpec} {s : State} {r : TrapRec} (va : State → Word64) (acc : Nat)
    (post : State → TlbEntry → Option TrapRec) (eff : State → State) (hc : s.ctx.checked = false) (hr : s.encodingTrap sp = some r) :
    issueG sp va acc post s eff = .next (s.trap r) := by
  simp only [issueG, hc, Bool.false_eq_true, if_false, hr]
  rfl

/-- Every slot, and a pawn, takes an op that needs nothing. -/
theorem State.encodingTrap_any {s : State} (h : s.ctx.slot < 9 ∨ s.isPawn = true) : s.encodingTrap { cls := .any } = none := by
  have hp : s.placeOk { cls := .any } = true := by
    unfold State.placeOk
    split
    · rfl
    · next ha =>
      have hs : s.ctx.slot < 9 := by simpa [State.isPawn, ha] using h
      simp [OpClass.slots, hs]
  simp [State.encodingTrap, State.stageTrap, hp]

/-- Settles O12: the encoding checks are the first of an issue (`issue_encodingTrap`); a step that is no op has none that fails. -/
theorem encodingFaultsIssueNothing : Obligations.EncodingFaultsIssueNothing := by
  unfold Obligations.EncodingFaultsIssueNothing
  intro i s r hs hc hr
  obtain ⟨eff, he⟩ | ⟨va, acc, post, eff, he⟩ | h := exec_shape i
  · rw [he, issue_encodingTrap eff hc hr]
  · rw [he, issueG_encodingTrap va acc post eff hc hr]
  · rw [h, State.encodingTrap_any hs] at hr
    cases hr

end Sys2Proof.Machine
end

section
/-! O13, O43, O59: transfers complete, the privilege checks come before every other late check (`exec_privTrap`), and a pawn's predicates end at
b7 (`exec_cmpi_badPredicate`). -/

namespace Sys2Proof.Machine

/-- Settles O13: each op issues with its effect. -/
theorem controlTransfersComplete : Obligations.ControlTransfersComplete := by
  unfold Obligations.ControlTransfersComplete
  exact ⟨fun _ => .byIssue, fun _ _ => .byIssue, fun _ _ _ => .byIssue, fun _ _ _ => .byIssue, fun _ _ _ => .byIssue, fun _ _ _ => .byIssue,
    fun _ _ _ _ => .byIssue, fun _ _ _ => .byIssue, fun _ _ => .byIssue, fun _ _ => .byIssue, fun _ _ => .byIssue, fun _ _ => .byIssue,
    fun _ _ => .byIssue, fun _ _ => .byIssue, fun _ _ => .byIssue, fun _ _ => .byIssue, fun _ _ => .byIssue, fun _ _ => .byIssue,
    fun _ _ => .byIssue, fun _ _ => .byIssue, fun _ => .byIssue, .byIssue⟩

/-! ### Privilege -/

/-- Nothing of R63 keeps the op waiting, and it submits no command: a late check that fails is all that it does. -/
structure OpSpec.Plain (sp : OpSpec) : Prop where
  waits : ∀ s, sp.causes s = []
  engQ : sp.engQ = none

theorem State.lateTrap_priv {s : State} {sp : OpSpec} {r : TrapRec} (h : s.stageTrap sp .priv = some r) :
    (lateStages.findSome? fun st => s.lateTrap sp st []) = some r := by
  simp [lateStages, State.lateTrap, h]

/-- A failing privilege check is what the op takes, and all that it does. -/
theorem exec_privTrap {i : Instr} {s : State} {r : TrapRec} (hi : Issues i) (hp : (specOf i).Plain) (hc : s.ctx.checked = false)
    (he : s.encodingTrap (specOf i) = none) (hr : s.stageTrap (specOf i) .priv = some r) : exec i s = .next (s.trap r) := by
  obtain ⟨eff, hexec⟩ := hi
  have hfreeze : s.freezes (specOf i) = [] := by rw [State.freezes, hp.waits s, ite_self]
  have hdiscard : s.discardFor (specOf i) r = s := by simp only [State.discardFor, hp.engQ]
  rw [hexec, issue]
  simp only [hc, he, hfreeze, State.lateTrap_priv hr, hdiscard, Bool.false_eq_true, if_false, ne_eq, not_true]

section Csr
variable {s : State} (k : Bool) (r : Field6) (c : BitVec 12)

theorem specCsrr_priv (hu : s.userMode = true) (hc : csrPrivileged false c.toNat = true) :
    s.stageTrap (specOf (.csrr k r c)) .priv = some (s.encTrap 4) := by
  have hchecks : (specOf (.csrr k r c)).checks = csrChecks false c := rfl
  simp [State.stageTrap, hchecks, csrChecks, hu, hc]

theorem specCsrw_priv (hu : s.userMode = true) (hc : csrPrivileged true c.toNat = true) :
    s.stageTrap (specOf (.csrw k r c)) .priv = some (s.encTrap 4) := by
  have hchecks : (specOf (.csrw k r c)).checks = csrChecks true c := rfl
  simp [State.stageTrap, hchecks, csrChecks, hu, hc]

end Csr

theorem specSret_priv (k : Bool) (s : State) : s.stageTrap (specOf (.sret k)) .priv = sretCheck s := by
  have hchecks : (specOf (.sret k)).checks = [(.priv, sretCheck)] := rfl
  cases h : sretCheck s <;> simp [State.stageTrap, hchecks, h]

theorem State.encTrap_code (s : State) {sub : Nat} (h : sub ≤ 6) : (s.encTrap sub).code.toNat = 8 * sub + s.unit := by
  have hunit := s.unit_le
  exact Nat.mod_eq_of_lt (by omega)

/-- Settles O43: the check of the privilege is the first after the encoding, and no cause of R63 comes before it. -/
theorem privilegeTraps : Obligations.PrivilegeTraps := by
  unfold Obligations.PrivilegeTraps
  refine ⟨fun s k d c hc hu h1 h2 he => ?_, fun s k a c hc hu hi he => ?_, fun s k hc he => ?_,
    fun s sub hsub => ⟨fun hp => ?_, fun hp h0 => ?_⟩⟩
  · exact exec_privTrap (shape_csrr k d c) ⟨fun _ => rfl, rfl⟩ hc he (specCsrr_priv k d c hu (by simp [csrPrivileged, h1, h2]))
  · exact exec_privTrap (shape_csrw k a c) ⟨fun _ => rfl, rfl⟩ hc he (specCsrw_priv k a c hu (by simp [csrPrivileged, hi]))
  · have take : ∀ r, sretCheck s = some r → exec (.sret k) s = .next (s.trap r) := fun r hr =>
      exec_privTrap (shape_sret k) ⟨fun _ => rfl, rfl⟩ hc he ((specSret_priv k s).trans hr)
    exact ⟨fun hu => take _ (by simp [sretCheck, hu]), fun hu hv => take _ (by simp [sretCheck, hu, hv]),
      fun hu hv hm => take _ (by simpa [sretCheck, hu, hv] using hm)⟩
  · rw [s.encTrap_code hsub, State.unit, if_pos hp]
  · rw [s.encTrap_code hsub, State.unit, hp, h0]
    rfl

/-! ### Immediate compares -/

/-- Bit 0 of the value that a predicate lands with (R98). -/
theorem getLsbD_b2n (v : Bool) : (BitVec.ofNat 4096 (b2n v)).getLsbD 0 = v := by
  rw [BitVec.getLsbD_ofNat]
  cases v <;> rfl

theorem decide_ge_eq_not_slt (x y : Word64) : decide (x.toInt ≥ y.toInt) = !x.slt y := by
  rw [BitVec.slt, ← decide_not]
  exact decide_eq_decide.mpr Int.not_lt.symm

/-- The four immediate compares need the same: a predicate and a scalar register. -/
theorem specOf_cmpi (k : Bool) (n : BitVec 4) (a : Field6) (i : BitVec 13) :
    ∀ j ∈ [Instr.cmpiEq k n a i, .cmpiNe k n a i, .cmpiLt k n a i, .cmpiGe k n a i], specOf j = specCmpi k n a := by
  simp only [List.forall_mem_cons]
  exact ⟨rfl, rfl, rfl, rfl, List.forall_mem_nil _⟩

/-- A predicate from b8 on is none of a pawn's. -/
theorem encodingTrap_cmpi_badPredicate {s : State} {t : Nat} {n : BitVec 4} (k : Bool) (a : Field6) (ha : s.ctx.agent = .pawn t)
    (hn : n.getLsbD 3 = true) : s.encodingTrap (specCmpi k n a) = some (s.encTrap 3) := by
  have h8 : 2 ^ 3 ≤ n.toNat := Nat.ge_two_pow_of_testBit hn
  have hp : s.isPawn = true := by simp [State.isPawn, ha]
  have hr : s.regOk (dstU .b (narrow n) 1) = false := by
    have := n.isLt
    simp only [State.regOk, ha, dstU, narrow, BitVec.toNat_setWidth, decide_eq_false_iff_not]
    omega
  simp [State.encodingTrap, State.stageTrap, State.placeOk, specCmpi, hp, ha, hr]

/-- Settles O59: the words by the rows of the majors, the effects by O15, and the predicates of a pawn end at b7. -/
theorem immediateCompares : Obligations.ImmediateCompares := by
  unfold Obligations.ImmediateCompares
  obtain ⟨-, -, -, -, -, -, -, -, -, -, -, -, -, -, -, -, -, -, -, -, -, -, -, -, -, -, -, -, heq, hne, hlt, hge⟩ := integerOpsComplete
  refine ⟨fun k n a i => ⟨?_, ?_, ?_, ?_⟩, fun k d a i => ⟨fun ha hi => ?_, fun hi => ?_⟩, by decide,
    fun s i => ⟨fun hl => ?_, fun l hl => ?_⟩, fun k n a i => ⟨heq k n a i, hne k n a i, hlt k n a i, ?_⟩,
    fun s n v => ⟨fun ha => ?_, fun t ht hn ha => ?_⟩, fun s t k n a i ha hc hn j hj => ?_⟩
  · exact decodeWord_encodeWord (i := .cmpiEq k n a i) rfl rfl
  · exact decodeWord_encodeWord (i := .cmpiNe k n a i) rfl rfl
  · exact decodeWord_encodeWord (i := .cmpiLt k n a i) rfl rfl
  · exact decodeWord_encodeWord (i := .cmpiGe k n a i) rfl rfl
  · exact decodeWord_mkWord_ok ((decodeFields_15 k d a i).trans (if_pos ⟨hi, ha⟩)) rfl
  · exact decodeWord_mkWord_unassigned ((decodeFields_15 k d a i).trans (if_neg fun h => hi h.1)) (by decide)
  · rw [State.imm, hl]
  · rw [State.imm, hl]
  · simpa only [decide_ge_eq_not_slt] using hge k n a i
  · rw [State.setReg_b_primary _ ha n.isLt]
    exact getLsbD_b2n v
  · rw [State.setReg_b_pawn _ ht ha hn]
    exact getLsbD_b2n v
  · have hp : s.isPawn = true := by simp [State.isPawn, ha]
    have he : s.encodingTrap (specOf j) = some (s.encTrap 3) := by
      rw [specOf_cmpi k n a i j hj]
      exact encodingTrap_cmpi_badPredicate k a ha hn
    have hunit : s.unit = 6 := if_pos hp
    have hcode : (s.encTrap 3).code = BitVec.ofNat 9 (8 * 3 + s.unit) := rfl
    exact ⟨encodingFaultsIssueNothing j s _ (.inr hp) hc he, by rw [hcode, hunit]; rfl⟩

end Sys2Proof.Machine
end

section
/-! O55: a pawn's scalar result one barrel cycle on. An op that reads the thread's registers lands its one result (`pawnWrites_land`); a bfi of
length 0 lands nothing, so that both ways of it are followed from issue to landing (`pawnWrites_unless`). -/

namespace Sys2Proof.Machine

/-! ### What the advance to the next op word leaves -/

section Advance
variable (s : State)

theorem State.advance_ctx : s.advance.ctx = s.ctx := by
  unfold State.advance
  split
  · rfl
  · rfl

theorem State.imm_advance (i : BitVec 13) : s.advance.imm i = s.imm i := by rw [State.imm, State.imm, s.advance_ctx]

theorem State.immZ_advance (i : BitVec 13) : s.advance.immZ i = s.immZ i := by rw [State.immZ, State.immZ, s.advance_ctx]

theorem State.immHigh_advance (i : BitVec 13) : s.advance.immHigh i = s.immHigh i := by
  rw [State.immHigh, State.immHigh, s.advance_ctx]

theorem State.lat_advance (m n : Nat) : s.advance.lat m n = s.lat m n := by
  rw [State.lat, State.lat, State.isPawn, State.isPawn, s.advance_ctx]

end Advance

section Pawn
variable {s : State} {t : Nat}

theorem State.readB_advance (h : s.ctx.agent = .pawn t) (ht : t < 16) (n : Nat) : s.advance.readB n = s.readB n := by
  have hb : (s.advance.pawn t).b = (s.pawn t).b := by simp [State.advance, h, ht]
  simp only [State.readB, s.advance_ctx, h, hb]

/-- An op whose one result is computed from registers, literal and latency. -/
theorem PawnWrites.byResult {i : Instr} {d : Field6} {val : State → Word64} (h : Completes i fun s => s.landS 1 d (val s))
    (hv : ∀ (s : State) (t : Nat), s.ctx.agent = .pawn t → t < 16 → val s.advance = val s := by
      intro s t ha ht
      simp only [State.readS_advance ha ht, State.readB_advance ha ht, State.imm_advance, State.immZ_advance, State.immHigh_advance,
        State.lat_advance]) : PawnWrites i d val :=
  pawnWrites_land h hv

/-! ### From issue to landing -/

/-- A pawn whose op has issued, with what is still to land. -/
def Pawn.issued (p : Pawn) (pc : Word64) (k : Bool) (l : List PEntry) : Pawn :=
  { p with
    opCount := p.opCount + 1
    pc := pc
    buf := p.buf.tail
    th := { p.th with exempt := false }
    pend := p.pend ++ l
    status := if k && decide (p.status = .running) then .switching else p.status }

/-- It one barrel cycle on, its scalar registers x. -/
def Pawn.settled (p : Pawn) (pc : Word64) (k : Bool) (x : Vector Word64 64) : Pawn := { p.issued pc k [] with pend := [], x := x }

/-- The issue of an op that leaves l to land. -/
theorem State.perform_pawn {sp : OpSpec} {eff : State → State} {l : List PEntry} (ha : s.ctx.agent = .pawn t) (ht : t < 16)
    (hd : s.core.cfg.det = false) (hc : s.ctx.commit = false)
    (he : eff s.advance = s.advance.updPawn t fun p => { p with pend := p.pend ++ l }) :
    s.perform sp eff = s.updPawn t fun p => p.issued (s.ctx.pc + 4) sp.k l := by
  have hadv : s.advance = s.updPawn t fun p =>
      { p with opCount := p.opCount + 1, pc := s.ctx.pc + 4, buf := p.buf.tail, th := { p.th with exempt := false } } := by
    simp only [State.advance, ha]
  have hperf : s.perform sp eff = (eff s.advance).switchPoint sp.k := by
    simp only [State.perform, ha, hc, hd, Bool.false_eq_true, if_false]
  rw [hperf, he, hadv, State.updPawn_updPawn s _ _ ht, State.switchPoint, State.updPawn_ctx, ha]
  simp only [State.updPawn_pawn_same s t _ ht]
  split
  · next hk =>
    rw [State.updPawn_updPawn s _ _ ht]
    exact congrArg s.setPawns (congrArg (vset s.pawns t) (by simp only [Pawn.issued, hk, if_true]))
  · next hk =>
    exact congrArg s.setPawns (congrArg (vset s.pawns t) (by simp only [Pawn.issued, hk, if_false, Bool.false_eq_true]))

/-- With nothing of the thread in flight nothing lands. -/
theorem State.landPawn_nil {u : State} (hp : (u.pawn t).pend = []) (hk : u.core.struck = []) :
    exec .resultLanding (u.setCtx (agentCtx (.pawn t))) =
      .next ((u.setCtx (agentCtx (.pawn t))).updPawn t fun p => { p with pend := [] }) := by
  have hp' : ((u.setCtx (agentCtx (.pawn t))).pawn t).pend = [] := hp
  have hk' : (u.setCtx (agentCtx (.pawn t))).core.struck = [] := hk
  have hnil : ∀ x : State, x.landAll [] = x := fun x => by
    simp only [State.landAll, List.foldl_nil]
    exact foldl_same _ _ _ fun y z => y.landZs_of_none (fun _ h => absurd h List.not_mem_nil) z
  rw [resultLanding_pawn rfl, State.landPawn]
  simp only [hp', hk', tickDown, List.map_nil, List.filter_nil, sortEntries, List.foldl_nil, State.sound, List.isEmpty_nil, if_true, hnil]

/-- What a thread reads once it has settled: x[d] is w, unless d is x0, and the rest stands. -/
theorem State.settled_writes {pc : Word64} {k : Bool} {d : Field6} {w : Word64} {x : Vector Word64 64} (ht : t < 16)
    (hx : ∀ r : Field6, r ≠ 0 → vget x r.toNat 0 = if r = d then w else vget (s.pawn t).x r.toNat 0) {v : State}
    (hv : v = (s.updPawn t fun p => p.settled pc k x).setCtx (agentCtx (.pawn t))) :
    (v.pawn t).pc = pc ∧ (v.pawn t).pend = [] ∧ (∀ r : Field6, v.pawnX t r = if r = d ∧ d ≠ 0 then w else s.pawnX t r) ∧
      (v.pawn t).sameButX (s.pawn t) ∧ (∀ n, n ≠ t → v.pawn n = s.pawn n) ∧ v.prim = s.prim ∧ v.sameOutside s := by
  have hpawn : v.pawn t = (s.pawn t).settled pc k x := by
    rw [hv]
    exact State.updPawn_pawn_same s t (fun p => p.settled pc k x) ht
  refine ⟨by rw [hpawn]; rfl, by rw [hpawn]; rfl, fun r => ?_, ?_, fun n hn => ?_, by rw [hv]; rfl, ?_⟩
  · rw [State.pawnX_eq, State.pawnX_eq, hpawn]
    by_cases hr : r = 0
    · have hd : ¬ (r = d ∧ d ≠ 0) := fun h => h.2 (h.1.symm.trans hr)
      rw [if_pos hr, if_neg hd, if_pos hr]
    · have hd : (r = d ∧ d ≠ 0) ↔ r = d := and_iff_left_of_imp fun h => h ▸ hr
      rw [if_neg hr, if_neg hr]
      simp only [hd]
      exact hx r hr
  · rw [hpawn]
    exact ⟨rfl, rfl, rfl, rfl, rfl, rfl, rfl, rfl, rfl, rfl, rfl, rfl⟩
  · rw [hv]
    exact State.updPawn_pawn_other s t n (fun p => p.settled pc k x) hn.symm
  · rw [hv]
    exact ⟨rfl, rfl, rfl, rfl, rfl, rfl, rfl, rfl⟩

/-! ### A result that may be none -/

/-- Two steps of a thread on either side of a change of context. -/
theorem State.updPawn_setCtx_updPawn (c : Ctx) (f g : Pawn → Pawn) (ht : t < 16) :
    ((s.updPawn t f).setCtx c).updPawn t g = (s.updPawn t fun p => g (f p)).setCtx c :=
  congrArg (fun u : State => u.setCtx c) (State.updPawn_updPawn s f g ht)

theorem State.updPawn_same {f : Pawn → Pawn} (h : f (s.pawn t) = s.pawn t) : s.updPawn t f = s := by
  by_cases ht : t < 16
  · have hv : vset s.pawns t (vget s.pawns t Pawn.initial) = s.pawns := Vector.ext fun j hj => by
      simp only [vset, vget, Vector.getElem_setIfInBounds, ht, getElem?_pos, Option.getD_some]
      split
      · next e => simp only [e]
      · rfl
    rw [State.updPawn, h, State.pawn, hv]
    rfl
  · exact s.updPawn_beyond f ht

/-- A scalar result of a pawn is one entry, to its register or, for x0, to none. -/
theorem State.landS_pawn (ha : s.ctx.agent = .pawn t) (d : Field6) (w : Word64) :
    s.landS 1 d w = s.updPawn t fun p =>
      { p with pend := p.pend ++ [s.entry 1 (.reg (if d = 0 then .discard else .s d.toNat) (BitVec.ofNat 4096 w.toNat))] } := by
  simp only [State.landS, State.land, State.emit, State.dstS, ha]

theorem State.setReg_result (ha : s.ctx.agent = .pawn t) (d : Field6) (w : Word64) :
    s.setReg (if d = 0 then .discard else .s d.toNat) (BitVec.ofNat 4096 w.toNat) =
      if d = 0 then s else s.updPawn t fun p => { p with x := vset p.x d.toNat w } := by
  split
  · simp only [State.setReg, ha]
  · simp only [State.setReg, ha, BitVec.ofNat_toNat, BitVec.setWidth_setWidth_of_le _ (show 64 ≤ 4096 by decide), BitVec.setWidth_eq]

end Pawn

/-- An op that lands one scalar result, but nothing where c holds: x[d] then stands. -/
theorem pawnWrites_unless {i : Instr} {d : Field6} {c : State → Prop} [DecidablePred c] {val : State → Word64}
    (h : Completes i fun s => if c s then s else s.landS 1 d (val s))
    (hv : ∀ (s : State) (t : Nat), s.ctx.agent = .pawn t → t < 16 → (c s.advance ↔ c s) ∧ val s.advance = val s) :
    PawnWrites i d fun s => if c s then s.readS d else val s := by
  intro s t ht ha hdet hcm hp hk hr
  obtain ⟨hc, hval⟩ := hv s t ha ht
  have haa : s.advance.ctx.agent = .pawn t := by rw [s.advance_ctx, ha]
  have hpend : ∀ l, ((s.updPawn t fun p => p.issued (s.ctx.pc + 4) (specOf i).k l).pawn t).pend = l := fun l => by
    rw [State.updPawn_pawn_same s t _ ht, Pawn.issued, hp, List.nil_append]
  have hstand : ∀ r : Field6, r ≠ 0 → vget (s.pawn t).x r.toNat 0 = if r = d then s.readS d else vget (s.pawn t).x r.toNat 0 := fun r h0 => by
    split
    · next hrd => rw [← hrd, State.readS_pawn ha, if_neg h0]
    · rfl
  dsimp only
  by_cases hcs : c s
  · have hperf := State.perform_pawn (sp := specOf i) (l := []) ha ht hdet hcm (eff := fun s => if c s then s else s.landS 1 d (val s)) (by
      rw [if_pos (hc.mpr hcs), State.updPawn_same (by rw [List.append_nil])])
    refine ⟨_, _, (h s hr).trans (congrArg _ hperf), State.landPawn_nil (hpend []) hk, ?_⟩
    refine State.settled_writes (k := (specOf i).k) (x := (s.pawn t).x) ht (fun r h0 => ?_) (State.updPawn_setCtx_updPawn _ _ _ ht)
    rw [if_pos hcs]
    exact hstand r h0
  · have hperf := State.perform_pawn (sp := specOf i) ha ht hdet hcm (eff := fun s => if c s then s else s.landS 1 d (val s)) (by
      rw [if_neg fun h => hcs (hc.mp h), State.landS_pawn haa, hval])
    have hz : ∀ v, (s.advance.entry 1 (.reg (if d = 0 then .discard else .s d.toNat) v)).zDst = none := fun v => by
      split
      · rfl
      · rfl
    refine ⟨_, _, (h s hr).trans (congrArg _ hperf), State.land_one _ t _ _ _ (hpend _) rfl rfl (hz _) hk, ?_⟩
    rw [State.setReg_result rfl, if_neg hcs]
    split
    · next hd =>
      refine State.settled_writes (k := (specOf i).k) (x := (s.pawn t).x) ht (fun r h0 => ?_) (State.updPawn_setCtx_updPawn _ _ _ ht)
      rw [if_neg fun h => h0 (h.trans hd)]
    · refine State.settled_writes (k := (specOf i).k) (x := vset (s.pawn t).x d.toNat (val s)) ht (fun r h0 => ?_) ?_
      · have hrd : (d.toNat = r.toNat ∧ d.toNat < 64) ↔ r = d := by
          rw [and_iff_left d.isLt, BitVec.toNat_inj, eq_comm]
        simp only [vget_vset, hrd]
      · rw [State.updPawn_setCtx_updPawn _ _ _ ht]
        exact State.updPawn_setCtx_updPawn _ _ _ ht

/-- Settles O55: each op lands one result (O15, O16) that it reads from its thread's registers; a bfi may land none. -/
theorem pawnScalarResults : Obligations.PawnScalarResults := by
  unfold Obligations.PawnScalarResults
  obtain ⟨hadd, hsub, hand, hor, hxor, handn, hmin, hmax, hminu, hmaxu, haddw, hsubw, hmov, haddi, handi, hori, hlui, -⟩ := integerOpsComplete
  obtain ⟨hshl, hshr, hsar, hrotl, hrotr, hclz, hctz, hpopc, hbswap, hbfx, hbfxu, hbfi, hshli, hshri, hsari, hrotli, -, -, -, -, -, -, -, -, -, -,
    hppack, -, hsel⟩ := shiftsMultipliesDivisionsComplete
  exact ⟨fun k d a b => .byResult (hadd k d a b), fun k d a b => .byResult (hsub k d a b), fun k d a b => .byResult (hand k d a b),
    fun k d a b => .byResult (hor k d a b), fun k d a b => .byResult (hxor k d a b), fun k d a b => .byResult (handn k d a b),
    fun k d a b => .byResult (hmin k d a b), fun k d a b => .byResult (hmax k d a b), fun k d a b => .byResult (hminu k d a b),
    fun k d a b => .byResult (hmaxu k d a b), fun k d a b => .byResult (haddw k d a b), fun k d a b => .byResult (hsubw k d a b),
    fun k d a => .byResult (hmov k d a), fun k d a i => .byResult (haddi k d a i), fun k d a i => .byResult (handi k d a i),
    fun k d a i => .byResult (hori k d a i), fun k d i => .byResult (hlui k d i), fun k d a b => .byResult (hshl k d a b),
    fun k d a b => .byResult (hshr k d a b), fun k d a b => .byResult (hsar k d a b), fun k d a b => .byResult (hrotl k d a b),
    fun k d a b => .byResult (hrotr k d a b), fun k d a => .byResult (hclz k d a), fun k d a => .byResult (hctz k d a),
    fun k d a => .byResult (hpopc k d a), fun k d a => .byResult (hbswap k d a), fun k d a b => .byResult (hbfx k d a b),
    fun k d a b => .byResult (hbfxu k d a b),
    fun k d a b => pawnWrites_unless (hbfi k d a b) fun s t ha ht => by simp only [State.readS_advance ha ht, true_and],
    fun k d a n => .byResult (hshli k d a n), fun k d a n => .byResult (hshri k d a n), fun k d a n => .byResult (hsari k d a n),
    fun k d a n => .byResult (hrotli k d a n), fun k d => .byResult (hppack k d), fun k d a b p => .byResult (hsel k d a b p)⟩

end Sys2Proof.Machine
end

section
/-! O10, O11: a step runs what the words at the program counters decode to. One part of a step at a time: what is due, the primary's turn with its
bundle, and the turn of a pawn in the scan. -/

namespace Sys2Proof.Machine

/-! ### The parts of a step -/

theorem step_of_due {s : State} {c : Ctx} {i : Instr} {rest : List (Ctx × Instr)} (hc : s.core.commitOp = none)
    (ha : s.agenda = (c, i) :: rest) : step s = if s.heard i then runDue c i (s.setAgenda rest) else .next (s.setAgenda rest) := by
  rw [step, hc, ha]

theorem step_of_turn {s : State} (hc : s.core.commitOp = none) (ha : s.agenda = []) (hs : s.dev.noSupply = false) : step s = runTurn s := by
  rw [step, hc, ha, hs]
  rfl

/-! ### The bundle -/

section Bundle
variable {α : Type} {tb : OpTable α} {s : State}

/-- A list of slots that traps nowhere begins with one that holds an op, or with one that holds none. -/
theorem State.slotOps_cons {b : BitVec 320} {n : Nat} {ns : List Nat} {l : List (SlotIn α)} (h : s.slotOps tb b (n :: ns) = .ok l) :
    (∃ x l', x.n = n ∧ decodeSlotWith tb.decode b n = .ok (.op x.op x.word x.lit x.ix) ∧ s.slotOps tb b ns = .ok l' ∧ l = x :: l') ∨
    (∀ i w lit ix, decodeSlotWith tb.decode b n ≠ .ok (.op i w lit ix)) ∧ s.slotOps tb b ns = .ok l := by
  unfold State.slotOps at h
  split at h
  · cases h
  · next i w lit ix hn =>
    dsimp only at h
    split at h
    · cases h
    · split at h
      · next l' hl =>
        cases h
        exact .inl ⟨⟨n, i, w, lit, ix⟩, l', rfl, hn, hl, rfl⟩
      · cases h
  · next y hy hn =>
    exact .inr ⟨fun i w lit ix he => hy i w lit ix (Except.ok.inj (hn.symm.trans he)), h⟩

/-- The ops of a list of slots are those that they hold. -/
theorem State.mem_slotOps {b : BitVec 320} {ns : List Nat} {l : List (SlotIn α)} (h : s.slotOps tb b ns = .ok l) (x : SlotIn α) :
    x ∈ l ↔ x.n ∈ ns ∧ decodeSlotWith tb.decode b x.n = .ok (.op x.op x.word x.lit x.ix) := by
  induction ns generalizing l with
  | nil =>
    cases h
    simp
  | cons n ns ih =>
    obtain ⟨y, l', hy, hdec, hl, rfl⟩ | ⟨hnone, hl⟩ := s.slotOps_cons h
    · rw [List.mem_cons, List.mem_cons, ih hl]
      constructor
      · rintro (rfl | ⟨hx, hd⟩)
        · exact ⟨.inl hy, hy.symm ▸ hdec⟩
        · exact ⟨.inr hx, hd⟩
      · rintro ⟨hx | hx, hd⟩
        · rw [hx, hdec] at hd
          cases x
          cases y
          cases hd
          cases hy.trans hx.symm
          exact .inl rfl
        · exact .inr ⟨hx, hd⟩
    · rw [ih hl, List.mem_cons]
      constructor
      · rintro ⟨hx, hd⟩
        exact ⟨.inr hx, hd⟩
      · rintro ⟨rfl | hx, hd⟩
        · exact absurd hd (hnone _ _ _ _)
        · exact ⟨hx, hd⟩

/-- The ops of the bundle are what its nine slots hold. -/
theorem State.mem_bundleOps {l : List (SlotIn α)} (h : s.bundleOps tb = .ok l) (x : SlotIn α) :
    x ∈ l ↔ x.n < 9 ∧ decodeSlotWith tb.decode s.bundle x.n = .ok (.op x.op x.word x.lit x.ix) := by
  unfold State.bundleOps at h
  split at h
  · cases h
  · split at h
    · cases h
    · rw [State.mem_slotOps h x, List.mem_range]

/-- Where nothing stands before the bundle at the program counter, it issues. -/
theorem State.presentBundle_issues {l : List (SlotIn α)} (hops : s.bundleOps tb = .ok l) (htrap : s.bundleTrap tb l = none)
    (hwatch : s.bundleWatch tb l = none) (hstruck : s.bundleStruck tb l = none) : s.presentBundle tb = s.issueBundle tb l := by
  simp only [State.presentBundle, hops, htrap, hwatch, hstruck]

theorem State.presentStart_core : s.presentStart.core = s.core := by
  unfold State.presentStart
  dsimp only
  split
  · rfl
  · rfl

theorem State.presentStart_prim : s.presentStart.prim = s.prim := by
  unfold State.presentStart
  dsimp only
  split
  · rfl
  · rfl

/-- The primary's turn, where it is to issue and nothing stands before the bundle. -/
theorem State.presentTurn_issues {l : List (SlotIn α)} (hrun : s.core.cfg.running = true) (hexit : s.prim.exited = false)
    (hfrz : s.prim.frzClus = false) (hempty : s.prim.empties = 0) (hops : s.presentStart.bundleOps tb = .ok l)
    (hev : s.presentStart.primEvent (s.presentStart.atGuardPoint tb) = none) (hbp : s.presentStart.breakpoint = none)
    (hbad : s.presentStart.lmBad s.presentStart.bundleBanks = false) (htrap : s.presentStart.bundleTrap tb l = none)
    (hwatch : s.presentStart.bundleWatch tb l = none) (hstruck : s.presentStart.bundleStruck tb l = none) :
    s.presentTurn tb = s.presentStart.issueBundle tb l := by
  have hgo : (!s.presentStart.core.cfg.running || s.presentStart.prim.exited || s.presentStart.prim.frzClus) = false := by
    rw [State.presentStart_core, State.presentStart_prim, hrun, hexit, hfrz]
    rfl
  have hissue : s.presentStart.prim.empties = 0 := by rw [State.presentStart_prim, hempty]
  simp only [State.presentTurn, hgo, hissue, hev, hbp, hbad, Bool.false_eq_true, if_false, ne_eq, not_true,
    State.presentBundle_issues hops htrap hwatch hstruck]

/-- A slot's op runs, and then those of the slots after it. -/
theorem runSlots_cons {x : SlotIn α} {l : List (SlotIn α)} {t : State} (h : tb.run x.op (s.setCtx
    { agent := .primary, slot := x.n, lit := x.lit, ix := x.ix, pc := s.prim.pc, word := x.word, checked := true }) = .next t) :
    runSlots tb (x :: l) s = runSlots tb l (t.setCtx {}) := by
  simp only [runSlots, h]
  rfl

/-- A user bundle has issued, unless the command that it pushes is refused. -/
theorem State.issueBundle_user {l : List (SlotIn α)} {t : State} (hm : s.prim.th.mode = 0)
    (h : runSlots tb l (s.spendToken.setVacant (s.advertised s.bundle)) = .next t) :
    (t.pushTrap s.prim.pc = none → s.issueBundle tb l = .next (t.endBundle s.prim.resuming s.prim.pc)) ∧
    ∀ (e : Nat) (r : TrapRec), t.pushTrap s.prim.pc = some (e, r) → s.issueBundle tb l =
      .next ((s.updPrim fun p => { p with th := { p.th with asm := vset p.th.asm e [] } }).trapTick (s.advertised s.bundle) r) := by
  have hsup : ¬ (s.prim.th.mode ≠ 0 ∧ 64 < t.prim.queued) := fun hq => hq.1 hm
  constructor
  · intro hp
    simp only [State.issueBundle, h, if_neg hsup, hp]
  · intro e r hp
    simp only [State.issueBundle, h, if_neg hsup, hp]

end Bundle

/-- Settles O11: nothing stands before the bundle (`presentTurn_issues`), whose ops are what its slots hold (`mem_bundleOps`) and run one by one
(`runSlots_cons`). -/
theorem bundleRunsDecodedOps : Obligations.BundleRunsDecodedOps := by
  unfold Obligations.BundleRunsDecodedOps
  refine ⟨fun s l hc ha hs ht hrun hexit hfrz hempty => ?_, fun s l hl x => State.mem_bundleOps hl x, fun s t x l h => runSlots_cons h,
    fun s t l hm h => State.issueBundle_user hm h, fun s hf hage hpast => ?_⟩
  · intro s' hops hev hbp hbad htrap hwatch hstruck
    rw [step_of_turn hc ha hs, runTurn, ht]
    exact State.presentTurn_issues hrun hexit hfrz hempty hops hev hbp hbad htrap hwatch hstruck
  · rw [State.bundle, State.fetchView, hage, Nat.sub_self, ← List.head?_eq_getElem?, hpast, Option.getD_some]

/-! ### The scan -/

section Scan
variable {α : Type} {tb : OpTable α} {s u : State} {n count t slot : Nat} {first : Option Nat} {w : Word32} {i : α}

/-- What the scan's first step counts touches no pawn, and nothing of the core that the scan asks about. -/
theorem State.scanCounted_same (s : State) (n : Nat) : (s.scanCounted n).pawns = s.pawns ∧ (s.scanCounted n).core.last = s.core.last ∧
    (s.scanCounted n).core.cfg = s.core.cfg ∧ (s.scanCounted n).core.vacant = s.core.vacant ∧ (s.scanCounted n).core.iter = s.core.iter ∧
    (s.scanCounted n).core.engQ = s.core.engQ := by
  unfold State.scanCounted
  split
  · unfold State.scanStart State.bumpRdy State.bump State.shareTokens State.updCore
    exact ⟨rfl, rfl, rfl, rfl, rfl, rfl⟩
  · exact ⟨rfl, rfl, rfl, rfl, rfl, rfl⟩

theorem State.scanCounted_pawn (s : State) (n t : Nat) : (s.scanCounted n).pawn t = s.pawn t := by
  rw [State.pawn, (s.scanCounted_same n).1, State.pawn]

theorem State.scanCounted_inRotation (s : State) (n t : Nat) : (s.scanCounted n).inRotation t = s.inRotation t := by
  obtain ⟨-, -, -, -, -, hq⟩ := s.scanCounted_same n
  simp only [State.inRotation, State.engParked, s.scanCounted_pawn, hq]

/-- The thread whose turn it is has its next op word considered. -/
theorem State.scanTurn_atScan (h : s.atScan n t w) :
    s.scanTurn opTable n count first = (s.scanCounted n).considerOp opTable t n count first w := by
  obtain ⟨-, -, -, hhalt, hn, ht, hrot, hev, rest, hbuf⟩ := h
  obtain ⟨-, hlast, hcfg, -, -, -⟩ := s.scanCounted_same n
  have hturn : s.scanTurn opTable n count first = (s.scanCounted n).scanThread opTable t n count first := by
    unfold State.scanTurn State.scanCounted
    by_cases h1 : n = 1
    · have hhalt' : s.shareTokens.barrelHalted = false := hhalt
      simp only [if_pos h1, hhalt', Bool.false_eq_true, if_false, if_pos hn, ht]
      rfl
    · simp only [if_neg h1, hhalt, Bool.false_eq_true, if_false, if_pos hn, ht]
  rw [hturn]
  simp only [State.scanThread, s.scanCounted_inRotation, hrot, s.scanCounted_pawn, hev, hbuf, Bool.not_true, Bool.false_eq_true, if_false]

theorem State.acctAdd_pawns (s : State) (cx w n : Nat) : (s.acctAdd cx w n).pawns = s.pawns := by
  unfold State.acctAdd
  split
  · rfl
  · rfl

theorem State.slotTaken_pawn (s : State) (slot t : Nat) : (s.slotTaken slot).pawn t = s.pawn t := by
  rw [State.pawn, State.slotTaken, State.acctAdd_pawns]
  rfl

section Op
variable {p : Pawn} (hp : s.pawn t = p)
include hp

/-- The op of a pawn runs. -/
theorem State.runPawn_runs (hstruck : (s.setCtx (p.opCtx t slot)).struckOp (tb.spec i) = none)
    (hrun : tb.run i (s.setCtx (p.opCtx t slot)) = .next u) :
    (s.runPawn tb t slot i fun u => (u.countIssue t).scanOn n count first) = .next ((u.scanned p t).scanOn n count first) := by
  simp only [State.runPawn, hp, hstruck, hrun]
  rfl

/-- In the front end. -/
theorem State.considerOp_frontEnd (hdec : tb.decode w = some i) (hfe : frontEnd (tb.spec i) w = true)
    (henc : (s.setCtx (p.opCtx t 15)).encodingTrap (tb.spec i) = none) : s.considerOp tb t n count first w =
      s.runPawn tb t 15 i fun u => (u.countIssue t).scanOn n count first := by
  simp only [State.considerOp, hp, hdec, hfe, henc, if_true]

/-- In the first vacant slot of its class, with a token. -/
theorem State.considerOp_slot (hdec : tb.decode w = some i) (hfe : frontEnd (tb.spec i) w = false)
    (hiter : (tb.spec i).iter = true → s.core.iter = 0) (hcount : count < 2)
    (hslot : s.core.vacant.find? (fun k => decide (k ∈ (tb.spec i).cls.pawnSlots)) = some slot)
    (hguard : (tb.spec i).guardPoint = true → p.th.guardPending = false) (htok : s.core.tokens ≠ some 0)
    (henc : (s.setCtx (p.opCtx t 15)).encodingTrap (tb.spec i) = none)
    (hwatch : (s.setCtx (p.opCtx t slot)).firstTrap (tb.spec i) = none → (s.setCtx (p.opCtx t slot)).opWatch (tb.spec i) = none) :
    s.considerOp tb t n count first w =
      (s.slotTaken slot).runPawn tb t slot i fun u => (u.countIssue t).scanOn n (count + 1) (first <|> some t) := by
  have hit : ((tb.spec i).iter && decide (s.core.iter ≠ 0)) = false := by
    cases h : (tb.spec i).iter
    · rfl
    · simp [hiter h]
  have hgp : ((tb.spec i).guardPoint && p.th.guardPending) = false := by
    cases h : (tb.spec i).guardPoint
    · rfl
    · simp [hguard h]
  have hnowatch : (if ((s.setCtx (p.opCtx t slot)).firstTrap (tb.spec i)).isNone && !false then
      (s.setCtx (p.opCtx t slot)).opWatch (tb.spec i) else none) = none := by
    split
    · next h => exact hwatch (by simpa using h)
    · rfl
  simp only [State.considerOp, hp, hdec, hfe, hit, Nat.not_le.mpr hcount, henc, hslot, htok, hnowatch, hgp, Bool.false_eq_true, if_false]
  rfl

end Op

theorem step_of_scan (h : s.atScan n t w) (hturn : s.turn = .scan n count first) :
    step s = (s.scanCounted n).considerOp opTable t n count first w := by
  obtain ⟨hc, ha, hs, -⟩ := id h
  rw [step_of_turn hc ha hs, runTurn, hturn]
  exact State.scanTurn_atScan h

end Scan

/-- Settles O10: a due step runs (`step_of_due`); the thread whose turn it is has its op considered (`step_of_scan`), which runs in the front end or
in its slot (`considerOp_frontEnd`, `considerOp_slot`); a granted fetch fills the buffer. -/
theorem stepRunsDecodedInstruction : Obligations.StepRunsDecodedInstruction := by
  unfold Obligations.StepRunsDecodedInstruction
  refine ⟨fun s t c i rest hc ha hh h => ?_, fun s c i rest hc ha hh => ?_, fun s u n count t first w i hturn hat hdec hfe => ?_,
    fun s u n count t slot first w i hturn hat hdec hfe hiter hcount hslot hguard => ?_, fun s t ht hw hb hfree => ?_⟩
  · rw [step_of_due hc ha, if_pos hh, runDue, h]
  · rw [step_of_due hc ha, hh]
    rfl
  · intro s' henc hstruck hrun
    have hp : s'.pawn t = s.pawn t := s.scanCounted_pawn n t
    calc step s = s'.considerOp opTable t n count first w := step_of_scan hat hturn
      _ = s'.runPawn opTable t 15 i fun u => (u.countIssue t).scanOn n count first := State.considerOp_frontEnd (tb := opTable) hp hdec hfe henc
      _ = .next ((u.scanned (s.pawn t) t).scanOn n count first) := State.runPawn_runs (tb := opTable) hp hstruck hrun
  · intro s' htok henc at1 at2 hstruck hwatch hrun
    obtain ⟨-, -, -, hvac, hit, -⟩ := s.scanCounted_same n
    have hp : s'.pawn t = s.pawn t := s.scanCounted_pawn n t
    have hp' : (s'.slotTaken slot).pawn t = s.pawn t := (s'.slotTaken_pawn slot t).trans hp
    calc step s = s'.considerOp opTable t n count first w := step_of_scan hat hturn
      _ = (s'.slotTaken slot).runPawn opTable t slot i fun u => (u.countIssue t).scanOn n (count + 1) (first <|> some t) :=
        State.considerOp_slot (tb := opTable) hp hdec hfe (fun h => hit.trans (hiter h)) hcount (hvac ▸ hslot) hguard htok henc hwatch
      _ = .next ((u.scanned (s.pawn t) t).scanOn n (count + 1) (first <|> some t)) := State.runPawn_runs (tb := opTable) hp' hstruck hrun
  · have hfree' : (decide (s.core.barrelCycle = 0) || (bankWords (s.fetchKeys t) 4).all s.wordFree) = true := by
      rw [Bool.or_eq_true, decide_eq_true_eq]
      exact hfree
    refine ⟨_, rfl, ?_⟩
    simp only [hw, hb, hfree', Bool.not_true, Bool.or_self, Bool.false_eq_true, if_false, State.updPawn_pawn_same _ _ _ ht]
    exact List.map_map

end Sys2Proof.Machine
end
